-- ==== Sys2Proof/Word.lean ====
section
/-! DEFINITION. Bytes, little-endian fields (R8), sorted finite maps and the plain arithmetic the rest of the
model is written in. -/

namespace Sys2Proof

/-- One byte of a register, packet, header or record. -/
abbrev Byte := BitVec 8

/-- A run of bytes, lowest offset first. -/
abbrev Bytes := List Byte

/-- A submission entry: 64 bytes, byte `k` in bits [8k+7:8k] (R8, R90). -/
abbrev Entry := BitVec 512

/-- The number whose bits [7:0] are the first byte (R8). -/
def leNat : Bytes → Nat
  | [] => 0
  | b :: bs => b.toNat + 256 * leNat bs

/-- `n` bytes of the number `x`, least significant first (R8). -/
def leBytes : Nat → Nat → Bytes
  | 0, _ => []
  | n + 1, x => BitVec.ofNat 8 x :: leBytes n (x / 256)

/-- `n` zero bytes. -/
def zeros (n : Nat) : Bytes := List.replicate n 0

/-- Bits [lo+w-1:lo] of a number. -/
def bits (x lo w : Nat) : Nat := x / 2 ^ lo % 2 ^ w

/-- Bit `i` of a number. -/
def bitOf (x i : Nat) : Bool := x / 2 ^ i % 2 == 1

/-- A one-bit number. -/
def b2n (b : Bool) : Nat := if b then 1 else 0

/-- The field of `w` bits that starts at bit `lo` of byte `off` (R8). -/
def fld (b : Bytes) (off lo w : Nat) : Nat :=
  bits (leNat ((b.drop off).take ((lo + w + 7) / 8))) lo w

/-- The same of a submission entry. -/
def Entry.fld (e : Entry) (off lo w : Nat) : Nat := bits e.toNat (8 * off + lo) w

/-- The entry's 64 bytes. -/
def Entry.bytes (e : Entry) : Bytes := leBytes 64 e.toNat

/-- The entry whose bytes are the first 64 of `b`. -/
def Entry.ofBytes (b : Bytes) : Entry := BitVec.ofNat 512 (leNat (b.take 64))

/-- `b` with its bytes from `off` on replaced by `x` (positions past the end are dropped). -/
def patch (b : Bytes) (off : Nat) (x : Bytes) : Bytes :=
  b.take off ++ x.take (b.length - off) ++ b.drop (off + x.length)

/-- `⌈a / b⌉`. -/
def ceilDiv (a b : Nat) : Nat := (a + b - 1) / b

/-- `a` rounded up to a multiple of `b`. -/
def roundUp (a b : Nat) : Nat := ceilDiv a b * b

/-- The number with exactly the listed bits set (a bit listed twice counts once). -/
def maskOf (l : List Nat) : Nat := l.foldl (fun m i => m ||| 2 ^ i) 0

/-- How many of the lowest `n` bits are 1. -/
def popCount (n x : Nat) : Nat := (List.range n).foldl (fun a i => a + b2n (bitOf x i)) 0

/-- The indices below `n` whose bit is 1, ascending. -/
def setBits (n x : Nat) : List Nat := (List.range n).filter (bitOf x)

/-- The first `n` whole numbers' sum of `f`. -/
def sumTo (n : Nat) (f : Nat → Nat) : Nat := (List.range n).foldl (fun a i => a + f i) 0

/-- The numbers from `a` on, `n` of them. -/
def fromTo (a n : Nat) : List Nat := (List.range n).map (a + ·)

/-! ## Sorted sets of numbers -/

/-- A number put into an ascending list without repeats. -/
def insertNat (x : Nat) : List Nat → List Nat
  | [] => [x]
  | y :: ys => if x < y then x :: y :: ys else if x = y then y :: ys else y :: insertNat x ys

/-! ## Sorted maps -/

/-- A finite map: keys strictly rising, so equal maps are equal lists. -/
abbrev Map (α : Type) := List (Nat × α)

namespace Map

/-- What the map holds at a key. -/
def get? {α : Type} : Map α → Nat → Option α
  | [], _ => none
  | (k, v) :: m, i => if k = i then some v else get? m i

/-- What the map holds at a key, or a default. -/
def getD {α : Type} (m : Map α) (i : Nat) (d : α) : α := (get? m i).getD d

/-- Whether the map has the key. -/
def has {α : Type} (m : Map α) (i : Nat) : Bool := (get? m i).isSome

/-- The map with the key holding `v`. -/
def set {α : Type} (i : Nat) (v : α) : Map α → Map α
  | [] => [(i, v)]
  | (k, w) :: m =>
    if i < k then (i, v) :: (k, w) :: m else if i = k then (i, v) :: m else (k, w) :: set i v m

/-- The map without the key. -/
def del {α : Type} (i : Nat) (m : Map α) : Map α := m.filter (fun p => p.1 != i)

/-- The map with `f` applied to what the key holds (nothing where it holds nothing). -/
def upd {α : Type} (i : Nat) (f : α → α) (m : Map α) : Map α :=
  m.map (fun p => if p.1 = i then (p.1, f p.2) else p)

/-- The values, in rising order of their keys. -/
def vals {α : Type} (m : Map α) : List α := m.map (·.2)

/-- The keys, rising. -/
def keys {α : Type} (m : Map α) : List Nat := m.map (·.1)

/-- `f` applied to every value. -/
def mapVals {α β : Type} (f : Nat → α → β) (m : Map α) : Map β := m.map (fun p => (p.1, f p.1 p.2))

/-- The entries that pass a test. -/
def keep {α : Type} (f : Nat → α → Bool) (m : Map α) : Map α := m.filter (fun p => f p.1 p.2)

/-- The first key that passes a test. -/
def findKey? {α : Type} (f : Nat → α → Bool) (m : Map α) : Option Nat :=
  (m.find? (fun p => f p.1 p.2)).map (·.1)

/-- The lowest number from `a` on that is no key of the map (the map's keys rise). -/
def firstFree {α : Type} (m : Map α) (a : Nat) : Nat :=
  m.foldl (fun n p => if p.1 = n then n + 1 else n) a

/-- Keys rise strictly: the map's canonical form. -/
def wf {α : Type} : Map α → Bool
  | [] => true
  | [_] => true
  | (k, _) :: (l, w) :: m => decide (k < l) && wf ((l, w) :: m)

end Map

end Sys2Proof
end

