-- ==== Sys2Proof/Syntax.lean ====
section
/-! DEFINITION. The commands of the block: one constructor per row of spec/opcode_table.json. A row of
95_what_each_step_holds.md is one indivisible step; its operands are what arrives with it from outside. -/

namespace Sys2Proof

/-- A host write to a doorbell (R87): the SQ-tail half, the CQ-head half, or both in one 8-byte write. Each half is
the 32 bits written, reserved bits included. -/
inductive DbWrite where
  | tail (v : BitVec 32)
  | head (v : BitVec 32)
  | both (v : BitVec 64)
deriving DecidableEq, Repr

/-- The address spaces a host register write names (R453, R454, R457, Table 16-3). -/
inductive Bar where
  | bar0 | bar2 | config
deriving DecidableEq, Repr

/-- What a PCIe completion of a DMA read carries (R467, R468). -/
inductive DmaCpl where
  | data (b : Bytes)
  | poisoned
  | unsupported
  | abort
  | translationFailed
deriving DecidableEq, Repr

/-- Which DMA read timed out (R467): a read of a queue ring, or a command's read with a tag. -/
inductive TimedOut where
  | ring (qp : Nat)
  | tag (t : Nat)
deriving DecidableEq, Repr

/-- What a host's CXL.mem read asks for (R483): a copy to share, a copy to own, or ownership without data. -/
inductive CxlRead where
  | shared | owned | current
deriving DecidableEq, Repr

/-- A host's answer to a back-invalidate snoop (R483): it keeps nothing, or keeps a shared copy. -/
inductive SnoopResp where
  | invalid | shared
deriving DecidableEq, Repr

/-- What a PLDM message asks for, in the terms of R496 and R507: an update agent's `RequestUpdate` with the length of its
image, a `RequestFirmwareData` transfer, the verify and apply steps, a cancel; or any other message of types 0, 2 and
5. -/
inductive PldmAct where
  | requestUpdate (len : Nat)
  | firmwareData (off : Nat) (b : Bytes)
  | verifyApply
  | cancel
  | other
deriving DecidableEq, Repr

/-- What an SPDM request asks for, as far as the responder's state goes (R503): a key exchange opens a session, an end
of session closes one. -/
inductive SpdmAct where
  | keyExchange
  | endSession
  | other
deriving DecidableEq, Repr

/-- What the words that a slice needs give (R293, R397): they are good, an instruction fetch is uncorrectable, or a word of
its registers, scratch, window or saved state is. -/
inductive SliceWords where
  | good | fetch | data
deriving DecidableEq, Repr

/-- A slice of a run that starts, resumes or goes on, and what its words give. -/
structure SliceGo where
  slice : Nat
  words : SliceWords
deriving DecidableEq, Repr

/-- A parked stream whose context is read back; `ok`: its words could be read (R187, Table 14-4). -/
structure ContextRead where
  stream : Nat
  ok     : Bool
deriving DecidableEq, Repr

/-- The tile at an index of a reduction's range; not `ok`: the words of its accumulator slot are uncorrectable (R231). -/
structure SlotRead where
  tile : Nat
  ok   : Bool
deriving DecidableEq, Repr

/-- Levels and measurements at a start (R499, R501, R521). -/
structure StartInput where
  recoveryN : Bool
deriving DecidableEq, Repr

/-- A sweep of one lane (R364): by Vref step, ascending, the runs of passing delay settings, as first setting and number of
settings, ascending. -/
abbrev Sweep := List (List (Nat × Nat))

/-- What a training of a channel or stack ends with (R362 to R366, R383). -/
structure TrainResult where
  present  : Bool
  ok       : Bool              -- the steps that sweep no eye passed; a stack: every channel works
  rate     : Nat
  sizeGib  : Nat
  ranks    : Nat
  sweeps   : List Sweep        -- far: read eyes of byte lanes 0 to 9, then write eyes; near: of channels 0 to 31
  repaired : Nat
deriving DecidableEq, Repr

/-- A memory controller: a far channel or a near stack. -/
inductive MemUnit where
  | far (ch : Nat)
  | near (stack : Nat)
deriving DecidableEq, Repr

/-- A bank of a controller: of a far channel, 32 × rank + bank of Table 13-4; of a near stack, 16 × pseudo-channel + bank
(R384). -/
structure BankOf where
  unit : MemUnit
  bank : Nat
deriving DecidableEq, Repr

/-- What a far-tier read of a tile's sectors meets (R392, R393). -/
inductive FarResult where
  | ok
  | corrected (ch lane words : Nat)
  | uncorrectable (ch bits : Nat) (lineTag : Bool) (second : Bool)
deriving DecidableEq, Repr

/-- What an expansion finds: by its cross-parity check (R131) nothing, one located bit of a word of the canonical form, or
anything else; or that words of the near copy it reads, or of the expanded tile in the tile cache, are uncorrectable
(Table 14-4). -/
inductive Checked where
  | clean
  | mended (word bit : Nat)
  | failed
  | copyBad
  | cacheBad
deriving DecidableEq, Repr

/-- Where the words of a flit's messages are found uncorrectable in the port's ingress buffer (Table 14-4). -/
inductive Ingress where
  | clean | header | data
deriving DecidableEq, Repr

/-- A received flit: its 256 bytes, whether a byte of it lies in an uncorrectable codeword (R421, R426), how many
uncorrectable codewords begin in it, how many symbols were corrected in it, and what the ingress buffer makes of it. -/
structure RxFlit where
  data        : Bytes
  badCodeword : Bool
  lost        : Nat
  corrected   : Nat
  buffer      : Ingress
deriving DecidableEq, Repr

/-- The commands: one constructor per row of the table, with the rule that the row names. -/
inductive Instr where
  | nop (c : Nat) -- NOP, R106
  | identify (c : Nat) -- IDENTIFY, R459
  | getFeature (c : Nat) -- GET_FEATURE, R510
  | setFeature (c : Nat) -- SET_FEATURE, R510
  | qpCreate (c : Nat) -- QP_CREATE, R102
  | qpDelete (c : Nat) -- QP_DELETE, R104
  | tenantSet (c : Nat) -- TENANT_SET, R451
  | portBind (c : Nat) -- PORT_BIND, R438
  | unitGroup (c : Nat) -- UNIT_GROUP, R32
  | statsRead (c : Nat) -- STATS_READ, R114
  | objCreate (c : Nat) -- OBJ_CREATE, R70
  | objWrite (c : Nat) -- OBJ_WRITE, R75
  | objRead (c : Nat) -- OBJ_READ, R75
  | objSeal (c : Nat) -- OBJ_SEAL, R76
  | objRelease (c : Nat) -- OBJ_RELEASE, R77
  | objClone (c : Nat) -- OBJ_CLONE, R78
  | objQuery (c : Nat) -- OBJ_QUERY, R79
  | objGrant (c : Nat) -- OBJ_GRANT, R81
  | objMapHost (c : Nat) -- OBJ_MAP_HOST, R479
  | objUnmapHost (c : Nat) -- OBJ_UNMAP_HOST, R481
  | evacuate (c : Nat) -- EVACUATE, R414
  | reside (c : Nat) -- RESIDE, R161
  | unreside (c : Nat) -- UNRESIDE, R163
  | scheduleLoad (c : Nat) -- SCHEDULE_LOAD, R168
  | scheduleDrop (c : Nat) -- SCHEDULE_DROP, R175
  | routeHint (c : Nat) -- ROUTE_HINT, R174
  | placeCmd (c : Nat) -- PLACE, R147
  | quotaSet (c : Nat) -- QUOTA_SET, R158
  | streamOpen (c : Nat) -- STREAM_OPEN, R181
  | streamClose (c : Nat) -- STREAM_CLOSE, R206
  | streamQuery (c : Nat) -- STREAM_QUERY, R207
  | reduceOpen (c : Nat) -- REDUCE_OPEN, R216
  | reduceFinish (c : Nat) -- REDUCE_FINISH, R228
  | reduceAbort (c : Nat) -- REDUCE_ABORT, R230
  | kernelLoad (c : Nat) -- KERNEL_LOAD, R239
  | kernelRun (c : Nat) -- KERNEL_RUN, R242
  | kernelAbort (c : Nat) -- KERNEL_ABORT, R246
  | kernelUnload (c : Nat) -- KERNEL_UNLOAD, R240
  | expertBind (c : Nat) -- EXPERT_BIND, R260
  | flagAlloc (c : Nat) -- FLAG_ALLOC, R317
  | flagFree (c : Nat) -- FLAG_FREE, R322
  | flagSet (c : Nat) -- FLAG_SET, R320
  | flagClear (c : Nat) -- FLAG_CLEAR, R320
  | counterAlloc (c : Nat) -- COUNTER_ALLOC, R318
  | counterFree (c : Nat) -- COUNTER_FREE, R318
  | herdDefine (c : Nat) -- HERD_DEFINE, R319
  | herdFree (c : Nat) -- HERD_FREE, R319
  | waitCmd (c : Nat) -- WAIT, R321
  | qosReserve (c : Nat) -- QOS_RESERVE, R346
  | qosRelease (c : Nat) -- QOS_RELEASE, R359
  | qosQuery (c : Nat) -- QOS_QUERY, R360
  | scrubRange (c : Nat) -- SCRUB_RANGE, R405
  | retire (c : Nat) -- RETIRE, R406
  | errlogRead (c : Nat) -- ERRLOG_READ, R413
  | rebuild (c : Nat) -- REBUILD, R395
  | poisonClear (c : Nat) -- POISON_CLEAR, R407
  | extentAssign (c : Nat) -- EXTENT_ASSIGN, R476
  | extentRevoke (c : Nat) -- EXTENT_REVOKE, R488
  | shareGroupSet (c : Nat) -- SHARE_GROUP_SET, R475
  | hostLossAck (c : Nat) -- HOST_LOSS_ACK, R487
  | attest (c : Nat) -- ATTEST, R502
  | fwStage (c : Nat) -- FW_STAGE, R506
  | fwCommit (c : Nat) -- FW_COMMIT, R507
  | presetRead (c : Nat) -- PRESET_READ, R514
  | presetWrite (c : Nat) -- PRESET_WRITE, R513
  | ownerEnrol (c : Nat) -- OWNER_ENROL, R515
  | keySet (c : Nat) -- KEY_SET, R419
  | timeCorrelate (c : Nat) -- TIME_CORRELATE, R516
  | sensorRead (c : Nat) -- SENSOR_READ, R496
  | powerPolicy (c : Nat) -- POWER_POLICY, R529
  | pasrSet (c : Nat) -- PASR_SET, R531
  | idleEnter (c : Nat) -- IDLE_ENTER, R530
  | diagInject (c : Nat) -- DIAG_INJECT, R408
  | traceCtl (c : Nat) -- TRACE_CTL, R409
  | selfTest (c : Nat) -- SELF_TEST, R391
  | orderedCommandStart (c : Nat) -- ORDERED_COMMAND_START, R92
  | submissionEntryTake (qp : Nat) (entry : Entry) -- SUBMISSION_ENTRY_TAKE, R89
  | coalesceTimerExpiry (qp : Nat) -- COALESCE_TIMER_EXPIRY, R93
  | doorbellWrite (fn q : Nat) (w : DbWrite) -- DOORBELL_WRITE, R88
  | irqCauseWrite (fn : Nat) (v : BitVec 32) -- IRQ_CAUSE_WRITE, R455
  | irqMaskWrite (fn : Nat) (v : BitVec 32) -- IRQ_MASK_WRITE, R455
  | aqEnable (fn : Nat) (v : BitVec 32) -- AQ_ENABLE, R456
  | aqDisable (fn : Nat) (v : BitVec 32) -- AQ_DISABLE, R456
  | registerWrite (fn : Nat) (bar : Bar) (off size : Nat) (v : BitVec 64) -- REGISTER_WRITE, R10
  | hdmCommit (port : Nat) (ctrl : BitVec 32) -- HDM_COMMIT, R473
  | hdmDecommit (port : Nat) (ctrl : BitVec 32) -- HDM_DECOMMIT, R473
  | flr (fn : Nat) -- FLR, R464
  | flrComplete (fn : Nat) -- FLR_COMPLETE, R465
  | busMasterEnableClear (fn : Nat) -- BUS_MASTER_ENABLE_CLEAR, R466
  | busMasterEnableSet (fn : Nat) -- BUS_MASTER_ENABLE_SET, R466
  | d3hotEntry (fn : Nat) -- D3HOT_ENTRY, R460
  | d0Return (fn : Nat) -- D0_RETURN, R460
  | perstNAssert (port : Nat) -- PERST_N_ASSERT, R463
  | perstNDeassert (port : Nat) -- PERST_N_DEASSERT, R520
  | hotReset (port : Nat) -- HOT_RESET, R463
  | linkDown (port : Nat) -- LINK_DOWN, R463
  | hostLinkUp (port : Nat) -- HOST_LINK_UP, R5
  | dmaCompletion (fn tag : Nat) (cpl : DmaCpl) -- DMA_COMPLETION, R467
  | completionTimeout (fn : Nat) (rd : TimedOut) -- COMPLETION_TIMEOUT, R467
  | tagQuarantineEnd (fn tag : Nat) -- TAG_QUARANTINE_END, R467
  | atsInvalidation (fn : Nat) (addr len : Nat) -- ATS_INVALIDATION, R470
  | aspmL1Entry (port : Nat) -- ASPM_L1_ENTRY, R462
  | l0pNarrow (port : Nat) -- L0P_NARROW, R462
  | l0pRestore (port : Nat) -- L0P_RESTORE, R462
  | cxlMemRead (port hpa : Nat) (kind : CxlRead) -- CXL_MEM_READ, R483
  | cxlMemWrite (port hpa : Nat) (data : Bytes) (mask : BitVec 64) (poison : Bool) -- CXL_MEM_WRITE, R478
  | writeBack (port hpa : Nat) (data : Bytes) (poison keep : Bool) -- WRITE_BACK, R483
  | cleanEvict (port hpa : Nat) -- CLEAN_EVICT, R483
  | snoopResponse (port hpa : Nat) (resp : SnoopResp) -- SNOOP_RESPONSE, R483
  | recallTimeout (port hpa : Nat) -- RECALL_TIMEOUT, R486
  | managementCommand (binding : Nat) (entry : Entry) (data : Bytes) -- MANAGEMENT_COMMAND, R494
  | pldmRequest (binding : Nat) (msg : Bytes) (act : PldmAct) -- PLDM_REQUEST, R493
  | spdmRequest (binding : Nat) (msg : Bytes) (act : SpdmAct) -- SPDM_REQUEST, R503
  | cmd (port : Nat) (msg : Bytes) -- CMD, R101
  | tileRdReq (port : Nat) (msg : Bytes) -- TILE_RD_REQ, R190
  | streamContextRestored (read : ContextRead) -- STREAM_CONTEXT_RESTORED, R187
  | hardwareContextAvailable (stream : Nat) -- HARDWARE_CONTEXT_AVAILABLE, R184
  | tileReady (stream req : Nat) -- TILE_READY, R192
  | tileWr (port : Nat) (msg : Bytes) -- TILE_WR, R198
  | reduceContrib (port : Nat) (msg : Bytes) -- REDUCE_CONTRIB, R221
  | reduceTileSettle (red : Nat) (slot : SlotRead) -- REDUCE_TILE_SETTLE, R225
  | reduceFinishTimeout (red : Nat) -- REDUCE_FINISH_TIMEOUT, R228
  | execTokens (port : Nat) (msg : Bytes) -- EXEC_TOKENS, R263
  | batchComplete (batch : Nat) -- BATCH_COMPLETE, R265
  | signalMsg (port : Nat) (msg : Bytes) -- SIGNAL, R314
  | credit (port : Nat) (msg : Bytes) -- CREDIT, R433
  | cmdchTileData (port : Nat) (msg : Bytes) -- CMDCH_TILE_DATA, R437
  | commandChannelTimeout (port tag : Nat) -- COMMAND_CHANNEL_TIMEOUT, R437
  | payloadFlit (port : Nat) (rx : RxFlit) -- PAYLOAD_FLIT, R429
  | idleFlit (port : Nat) (rx : RxFlit) -- IDLE_FLIT, R430
  | nakFlit (port : Nat) (rx : RxFlit) -- NAK_FLIT, R430
  | replayTimeout (port : Nat) -- REPLAY_TIMEOUT, R430
  | nakOutstandingExpiry (port : Nat) -- NAK_OUTSTANDING_EXPIRY, R429
  | ackSendDue (port : Nat) -- ACK_SEND_DUE, R429
  | identExchange (port : Nat) (rx : RxFlit) -- IDENT_EXCHANGE, R424
  | quietFlit (port : Nat) (rx : RxFlit) -- QUIET_FLIT, R446
  | quietTimeExpiry (port : Nat) -- QUIET_TIME_EXPIRY, R446
  | linkWake (port : Nat) -- LINK_WAKE, R446
  | linkDetectLock (port : Nat) (lanes : BitVec 8) -- LINK_DETECT_LOCK, R423
  | equalisationComplete (port : Nat) (lanes : BitVec 8) (theirs : BitVec 4) -- EQUALISATION_COMPLETE, R423
  | codewordLock (port : Nat) -- CODEWORD_LOCK, R423
  | alignTimeout (port : Nat) (locked : BitVec 8) -- ALIGN_TIMEOUT, R423
  | lossOfSignal (port : Nat) -- LOSS_OF_SIGNAL, R423
  | powerGroupOn (group : Nat) -- POWER_GROUP_ON, R447
  | linkLoss (port : Nat) -- LINK_LOSS, R443
  | streamClosed (stream : Nat) -- STREAM_CLOSED, R206
  | tracePatternEnd -- TRACE_PATTERN_END, R410
  | traceFrame -- TRACE_FRAME, R410
  | aoPowerGood -- AO_POWER_GOOD, R518
  | aoPowerLoss -- AO_POWER_LOSS, R527
  | devRstN (level : Bool) -- DEV_RST_N, R525
  | deviceStart (inp : StartInput) -- DEVICE_START, R519
  | nearTierTrainingDone (stack : Nat) (res : TrainResult) -- NEAR_TIER_TRAINING_DONE, R383
  | farChannelTrainingDone (ch : Nat) (res : TrainResult) -- FAR_CHANNEL_TRAINING_DONE, R362
  | bridgeTrainingDone (ok : Bool) (fails : List (Nat × Nat)) -- BRIDGE_TRAINING_DONE, R26
  | serviceModeEntry -- SERVICE_MODE_ENTRY, R521
  | managementRestart -- MANAGEMENT_RESTART, R491
  | logFlush -- LOG_FLUSH, R413
  | pd1IdleOff -- PD1_IDLE_OFF, R535
  | fwStagingTimeout -- FW_STAGING_TIMEOUT, R506
  | flashProgramDone (ok : Bool) -- FLASH_PROGRAM_DONE, R507
  | thermalTrip (die : Nat) -- THERMAL_TRIP, R533
  | sensorSample (sensor : Nat) (value : Int) -- SENSOR_SAMPLE, R495
  | thermalStepReturn (half : Nat) -- THERMAL_STEP_RETURN, R532
  | aoClockLoss -- AO_CLOCK_LOSS, R544
  | refclkLoss (clk : Nat) -- REFCLK_LOSS, R544
  | railFault (rail : Nat) -- RAIL_FAULT, R546
  | vrTimeout (rail : Nat) -- VR_TIMEOUT, R547
  | domainPowerGood (pd : Nat) -- DOMAIN_POWER_GOOD, R523
  | domainPowerGoodTimeout (pd : Nat) -- DOMAIN_POWER_GOOD_TIMEOUT, R523
  | domainSwitchOff (pd : Nat) -- DOMAIN_SWITCH_OFF, R40
  | clusterIdleHoldExpiry (pd : Nat) -- CLUSTER_IDLE_HOLD_EXPIRY, R37
  | pllLock (pd : Nat) -- PLL_LOCK, R37
  | farSelfRefreshIdle (ch : Nat) -- FAR_SELF_REFRESH_IDLE, R528
  | nearSelfRefreshIdle (stack : Nat) -- NEAR_SELF_REFRESH_IDLE, R528
  | selfRefreshExit (unit : MemUnit) -- SELF_REFRESH_EXIT, R524
  | parityAlert (unit : MemUnit) -- PARITY_ALERT, R371
  | dqsTracking (ch : Nat) -- DQS_TRACKING, R365
  | retrainingDone (unit : MemUnit) (res : TrainResult) -- RETRAINING_DONE, R365
  | refreshDue (unit : BankOf) -- REFRESH_DUE, R373
  | rowIdleClose (unit : BankOf) -- ROW_IDLE_CLOSE, R369
  | farTierReadDone (job : Nat) (res : FarResult) -- FAR_TIER_READ_DONE, R392
  | expansionDone (job : Nat) (res : Checked) -- EXPANSION_DONE, R131
  | codingDone (job : Nat) (ok : Bool) -- CODING_DONE, R130
  | sealAsWrittenWaitExpiry (half : Nat) -- SEAL_AS_WRITTEN_WAIT_EXPIRY, R151
  | stripeWriteDone (group stripe : Nat) -- STRIPE_WRITE_DONE, R152
  | sealComplete (handle version : Nat) -- SEAL_COMPLETE, R70
  | lastReferenceEnd (handle version : Nat) -- LAST_REFERENCE_END, R70
  | promotionDone (handle version tile : Nat) -- PROMOTION_DONE, R165
  | releasingCopyFreed (handle version tile : Nat) -- RELEASING_COPY_FREED, R165
  | reclaimStripe (group stripe : Nat) -- RECLAIM_STRIPE, R154
  | rebuildTile (group : Nat) -- REBUILD_TILE, R394
  | rebuildResume (group : Nat) -- REBUILD_RESUME, R394
  | windowBoundary (reg : Nat) -- WINDOW_BOUNDARY, R349
  | queueLevelReport (ctrl : Nat) (level : Nat) -- QUEUE_LEVEL_REPORT, R352
  | panic (ctrl : Nat) -- PANIC, R354
  | drainHoldLimit (ctrl : Nat) -- DRAIN_HOLD_LIMIT, R354
  | sliceStart (run : Nat) (go : SliceGo) -- SLICE_START, R251
  | quantumExpiry (run slice : Nat) -- QUANTUM_EXPIRY, R252
  | kernelRunComplete (run : Nat) -- KERNEL_RUN_COMPLETE, R244
  | kernelTimeout (run : Nat) -- KERNEL_TIMEOUT, R245
  | watchdogExpiry (id : Nat) -- WATCHDOG_EXPIRY, R303
  | herdWatchdogExpiry (id : Nat) -- HERD_WATCHDOG_EXPIRY, R311
  | waitRecordFree (id : Nat) -- WAIT_RECORD_FREE, R321
  | boundaryScan (data : Bytes) -- BOUNDARY_SCAN, R550
  | instrNop (run slice : Nat) -- INSTR_NOP, R276
  | endSlice (run slice : Nat) -- END, R279
  | br (run slice : Nat) -- BR, R274
  | trap (run slice : Nat) -- TRAP, R293
  | smovi (run slice : Nat) -- SMOVI, R276
  | sadd (run slice : Nat) -- SADD, R276
  | ssub (run slice : Nat) -- SSUB, R276
  | smul (run slice : Nat) -- SMUL, R276
  | sand (run slice : Nat) -- SAND, R276
  | sor (run slice : Nat) -- SOR, R276
  | sxor (run slice : Nat) -- SXOR, R276
  | sshl (run slice : Nat) -- SSHL, R276
  | sshr (run slice : Nat) -- SSHR, R276
  | ssar (run slice : Nat) -- SSAR, R276
  | saddi (run slice : Nat) -- SADDI, R276
  | srd (run slice : Nat) -- SRD, R275
  | ldt (run slice : Nat) -- LDT, R277
  | stt (run slice : Nat) -- STT, R279
  | tcommit (run slice : Nat) -- TCOMMIT, R279
  | lds (run slice : Nat) -- LDS, R277
  | sts (run slice : Nat) -- STS, R277
  | ldw (run slice : Nat) -- LDW, R277
  | stw (run slice : Nat) -- STW, R277
  | ldr (run slice : Nat) -- LDR, R281
  | str (run slice : Nat) -- STR, R281
  | ldp (run slice : Nat) -- LDP, R277
  | pop (run slice : Nat) -- POP, R282
  | push (run slice : Nat) -- PUSH, R282
  | fadd (run slice : Nat) -- FADD, R283
  | fsub (run slice : Nat) -- FSUB, R283
  | fmul (run slice : Nat) -- FMUL, R283
  | ffma (run slice : Nat) -- FFMA, R283
  | fmin (run slice : Nat) -- FMIN, R283
  | fmax (run slice : Nat) -- FMAX, R283
  | fexp2 (run slice : Nat) -- FEXP2, R284
  | flog2 (run slice : Nat) -- FLOG2, R284
  | fsqrt (run slice : Nat) -- FSQRT, R284
  | frsq (run slice : Nat) -- FRSQ, R284
  | frcp (run slice : Nat) -- FRCP, R284
  | fdiv (run slice : Nat) -- FDIV, R284
  | cvt (run slice : Nat) -- CVT, R285
  | mxsc (run slice : Nat) -- MXSC, R288
  | mxq (run slice : Nat) -- MXQ, R288
  | mxunp (run slice : Nat) -- MXUNP, R288
  | itof (run slice : Nat) -- ITOF, R276
  | ftoi (run slice : Nat) -- FTOI, R276
  | iadd (run slice : Nat) -- IADD, R276
  | isub (run slice : Nat) -- ISUB, R276
  | imul (run slice : Nat) -- IMUL, R276
  | iand (run slice : Nat) -- IAND, R276
  | ior (run slice : Nat) -- IOR, R276
  | ixor (run slice : Nat) -- IXOR, R276
  | ishl (run slice : Nat) -- ISHL, R276
  | ishr (run slice : Nat) -- ISHR, R276
  | isar (run slice : Nat) -- ISAR, R276
  | imin (run slice : Nat) -- IMIN, R276
  | imax (run slice : Nat) -- IMAX, R276
  | vbcast (run slice : Nat) -- VBCAST, R276
  | vlane (run slice : Nat) -- VLANE, R276
  | vext (run slice : Nat) -- VEXT, R276
  | vmov (run slice : Nat) -- VMOV, R276
  | fcmp (run slice : Nat) -- FCMP, R276
  | icmp (run slice : Nat) -- ICMP, R276
  | scmp (run slice : Nat) -- SCMP, R276
  | plog (run slice : Nat) -- PLOG, R276
  | pset (run slice : Nat) -- PSET, R276
  | sel (run slice : Nat) -- SEL, R276
  | pany (run slice : Nat) -- PANY, R276
  | rfadd (run slice : Nat) -- RFADD, R256
  | rfmin (run slice : Nat) -- RFMIN, R256
  | rfmax (run slice : Nat) -- RFMAX, R256
  | riadd (run slice : Nat) -- RIADD, R256
  | mzero (run slice : Nat) -- MZERO, R276
  | mma (run slice : Nat) -- MMA, R289
  | mrd (run slice : Nat) -- MRD, R276
  | mwr (run slice : Nat) -- MWR, R276
  | fset (run slice : Nat) -- FSET, R299
  | fclr (run slice : Nat) -- FCLR, R299
  | fwait (run slice : Nat) -- FWAIT, R299
  | ftake (run slice : Nat) -- FTAKE, R300
  | cadd (run slice : Nat) -- CADD, R306
  | crd (run slice : Nat) -- CRD, R306
  | cwait (run slice : Nat) -- CWAIT, R307
  | harr (run slice : Nat) -- HARR, R309
  | fence (run slice : Nat) -- FENCE, R291
  | srb (run slice : Nat) -- SRB, R287
  | rdcyc (run slice : Nat) -- RDCYC, R292
  | rdent (run slice : Nat) -- RDENT, R292
  | aaddf (run slice : Nat) -- AADDF, R292
  | partnerEntersTraining (port : Nat) -- PARTNER_ENTERS_TRAINING, R423
  | ceSummaryWindow -- CE_SUMMARY_WINDOW, R400
  | bridgeRetrainingDone (link : Nat) (ok : Bool) -- BRIDGE_RETRAINING_DONE, R399
  | regulatorPowerGood (rail : Nat) -- REGULATOR_POWER_GOOD, R547
  | debugUnlock (data : Bytes) -- DEBUG_UNLOCK, R550
deriving DecidableEq, Repr

end Sys2Proof
end

