-- ==== Sys2Proof/Config.lean ====
section
/-! DEFINITION. What an implementation fixes and the values the spec leaves open. Each is a constant without a body:
no proof can see its value. -/

namespace Sys2Proof

/-- The `k`-th free value drawn: 64 bits nothing constrains (log entry 5). -/
opaque Config.free64 : Nat → BitVec 64

/-- Ed448 verification with an empty context (RFC 8032, outside the spec): key, message, signature (log entry 6). -/
opaque Config.ed448Verify : Bytes → Bytes → Bytes → Bool

/-- The Ed448 signature of a message under a private key, 114 bytes (log entry 6). -/
opaque Config.ed448Sign : Bytes → Bytes → BitVec 912

/-- The Ed448 public key of a private key, 57 bytes (log entry 6). -/
opaque Config.ed448Public : Bytes → BitVec 456

/-- The PUF secret of the part (R500), 64 bytes (log entry 6). -/
opaque Config.pufSecret : BitVec 512

/-- SHAKE256 of the mask ROM, measurement slot 1 (R501) (log entry 6). -/
opaque Config.romDigest : BitVec 512

/-- SHAKE256 of the security state, measurement slot 3 (R501), from the mode at start, the level of `RECOVERY_N`, whether
JTAG is unlocked and `min_svn`: how these are laid out the spec does not give (log entry 6). -/
opaque Config.securityDigest : Nat → Bool → Bool → Nat → BitVec 512

/-- The key of slot 1,024, which the device derives from `device_secret` (R418): how, the spec does not give (log
entry 6). -/
opaque Config.deviceKey : Bytes → BitVec 512

/-- The check value of a tenant's key (R419): the spec names no function (log entry 6). -/
opaque Config.keyCheck : Bytes → BitVec 128

/-- The two Terrum key digests held in the mask ROM (R504) (log entry 6). -/
opaque Config.romKeys : BitVec 512 × BitVec 512

/-- Header and code words of a library kernel of a firmware release (R258), by `lib_id` (log entry 7). -/
opaque Config.libKernel : Nat → Bytes

/-- The answer of the SPDM responder to a request (R503), from a status code and the measurement slots, the device
certificate and the alias key: DMTF SPDM, outside the spec (log entry 8). -/
opaque Config.spdmAnswer : Bytes → Nat → Bytes → Bytes

/-- The answer of the PLDM responder to a request (R493), from a status code and the records of every sensor: DMTF PLDM,
outside the spec (log entry 8). -/
opaque Config.pldmAnswer : Bytes → Nat → Bytes → Bytes

/-- The bytes of the expansion ROM window but for the resource directory: the UEFI driver (R458, log entry 9). -/
opaque Config.romWindow : Nat → Byte

/-- The bits of a configuration dword that the capabilities of Table 16-3 leave to PCIe and CXL, by function kind, true a PF,
and offset (log entry 24). -/
opaque Config.cfgRest : Bool → Nat → Nat

/-- The DPA at which the ring of a near-tier queue pair begins, by queue pair: the device places it (R85), no rule says
where (log entry 13). -/
opaque Config.ringBase : Nat → Nat

/-- Whether a grain of a near stack holds object data, by stack, bytes allocated on its half and grain: the device places
near-tier data (R155), no rule says at which addresses (log entry 13). -/
opaque Config.nearTaken : Nat → Nat → Nat → Bool

/-- Which of the three stacks of a half the device places something on that no rule places, as a number taken modulo 3:
by kind (1 parked stream contexts, 2 saved kernel state, 3 EXTENT lines, 4 the far-tier valid bitmap) and identity (log
entry 13). -/
opaque Config.stackOf : Nat → Nat → Nat

/-- Where in its stack a 256-byte entry of a thing lies that no rule places, by the thing and the entry: the thing as kind (0
a near copy, 1 a staged tile, 2 a line of an extent, 3 a ring) and identity (R384, log entry 13). -/
opaque Config.nearAt : List Nat → Nat → Nat

/-- The refresh-management threshold that the module of a far channel reports in its SPD (R374), 0 for none (log entry
16). -/
opaque Config.rfmThreshold : Nat → Nat

/-- How many refreshes of a bank the memory standard lets a controller postpone (R373) (log entry 16). -/
opaque Config.refreshLimit : Nat

/-- Whether a debug unlock is one that the owner's key signed: what it holds and signs the spec does not give (R550) (log
entry 6). -/
opaque Config.unlockOk : Bytes → Bytes → Bool

/-- The stepping and metal revision are given (0x10, Table 16-5). -/
def Config.stepping : Nat := 0x10

end Sys2Proof
end

