-- ==== Sys2Proof/Machine/Hash.lean ====
section
/-! DEFINITION. SHAKE256 of FIPS 202, which the spec names for digests (R331, R501), and the mixing function of the
stochastic-rounding generator (R287). -/

namespace Sys2Proof.Machine

/-- A Keccak state: 25 lanes, lane `x + 5y` at index `x + 5y`. -/
abbrev Lanes := List (BitVec 64)

/-- A lane of the state. -/
def Lanes.at (s : Lanes) (x y : Nat) : BitVec 64 := s.getD (x % 5 + 5 * (y % 5)) 0

/-- The state whose lane at (x, y) is `f x y`. -/
def Lanes.build (f : Nat → Nat → BitVec 64) : Lanes :=
  (List.range 25).map fun i => f (i % 5) (i / 5)

/-- Rho's walk over the lanes: from (1, 0), each step goes from (x, y) to (y, 2x + 3y) and turns the lane it leaves one
more triangular number of bits. What a walk of `n` steps from (x, y) at step `t` adds to the offsets `l`. -/
def rhoWalk : Nat → Nat → Nat → Nat → List Nat → List Nat
  | 0, _, _, _, l => l
  | n + 1, t, x, y, l => rhoWalk n (t + 1) y ((2 * x + 3 * y) % 5) (l.set (x + 5 * y) ((t + 1) * (t + 2) / 2 % 64))

/-- By how many bits rho turns each lane, by `x + 5y`. -/
def rhoBits : List Nat := rhoWalk 24 0 1 0 (List.replicate 25 0)

/-- The next value of the 8-bit feedback register that gives iota's bits: x^8 + x^6 + x^5 + x^4 + 1. -/
def iotaNext (r : Nat) : Nat := if r < 128 then 2 * r else 2 * r ^^^ 0x171

/-- Iota's constant of a round from the register's value: the register's low bit stands at bit 2^j − 1 for each of seven
values in turn. Also the register after them. -/
def iotaWord (r : Nat) : BitVec 64 × Nat :=
  (List.range 7).foldl (fun a j => (a.1 ||| BitVec.ofNat 64 (a.2 % 2 * 2 ^ (2 ^ j - 1)), iotaNext a.2)) (0, r)

/-- Iota's constants of `n` rounds. -/
def iotaWords : Nat → Nat → List (BitVec 64)
  | 0, _ => []
  | n + 1, r => (iotaWord r).1 :: iotaWords n (iotaWord r).2

/-- Theta: every lane takes in the parities of the column before its own and, turned one bit, of the column after. -/
def theta (s : Lanes) : Lanes :=
  let par (x : Nat) : BitVec 64 := s.at x 0 ^^^ s.at x 1 ^^^ s.at x 2 ^^^ s.at x 3 ^^^ s.at x 4
  let mix := (List.range 5).map fun x => par (x + 4) ^^^ (par (x + 1)).rotateLeft 1
  Lanes.build fun x y => s.at x y ^^^ mix.getD x 0

/-- Rho and pi: the lane at (x, y) is turned and goes to (y, 2x + 3y). -/
def rhoPi (s : Lanes) : Lanes :=
  let turned := List.zipWith BitVec.rotateLeft s rhoBits
  Lanes.build fun x y => Lanes.at turned (x + 3 * y) x

/-- Chi: along each row. -/
def chi (s : Lanes) : Lanes := Lanes.build fun x y => s.at x y ^^^ (s.at (x + 2) y &&& ~~~ s.at (x + 1) y)

/-- One round. -/
def keccakRound (s : Lanes) (k : BitVec 64) : Lanes := (chi (rhoPi (theta s))).modify 0 (k ^^^ ·)

/-- The permutation. -/
def keccakF (s : Lanes) : Lanes := (iotaWords 24 1).foldl keccakRound s

/-- The 17 lanes of a 136-byte block. -/
def blockLanes (b : Bytes) : List (BitVec 64) :=
  (List.range 17).map fun i => BitVec.ofNat 64 (leNat ((b.drop (8 * i)).take 8))

/-- A block absorbed. -/
def absorb (s : Lanes) (b : Bytes) : Lanes :=
  let l := blockLanes b
  keccakF ((List.range 25).map fun i => s.getD i 0 ^^^ l.getD i 0)

/-- The message padded for SHAKE256: the domain bits 1111, then pad10*1, to whole blocks of 136 bytes. -/
def shakePad (m : Bytes) : Bytes :=
  let k := 136 - m.length % 136
  if k = 1 then m ++ [0x9F] else m ++ [0x1F] ++ zeros (k - 2) ++ [0x80]

/-- Blocks of 136 bytes absorbed in order; `n` bounds their number. -/
def absorbAll : Nat → Lanes → Bytes → Lanes
  | 0, s, _ => s
  | n + 1, s, b => if b.isEmpty then s else absorbAll n (absorb s (b.take 136)) (b.drop 136)

/-- SHAKE256 with a 512-bit output. -/
def shake256 (m : Bytes) : Bytes :=
  let p := shakePad m
  let s := absorbAll (p.length / 136) (List.replicate 25 0) p
  ((s.take 8).flatMap fun l => leBytes 8 l.toNat)

/-- `mix64` of R287. -/
def mix64 (z : Nat) : Nat :=
  let z := (z ^^^ (z >>> 30)) * 0xBF58476D1CE4E5B9 % 2 ^ 64
  let z := (z ^^^ (z >>> 27)) * 0x94D049BB133111EB % 2 ^ 64
  z ^^^ (z >>> 31)

/-- `sr_bits` of R287. -/
def srBits (seed obj tile elem : Nat) : Nat :=
  let g := 0x9E3779B97F4A7C15
  let a := mix64 ((seed + obj * g) % 2 ^ 64)
  let b := mix64 ((a + tile % 2 ^ 32 * g) % 2 ^ 64)
  mix64 ((b + elem * g) % 2 ^ 64)

end Sys2Proof.Machine
end

