-- ==== Sys2Proof/Machine/Formats.lean ====
section
/-! DEFINITION. Element formats (Table 2-3, Table 4-5), exact values, rounding and conversion (R135 to R138, R286). -/

namespace Sys2Proof.Machine

/-! ## Exact values -/

/-- An exact value: `±m × 2^e`, an infinity or a NaN, each with its sign bit. -/
inductive Val where
  | nan (neg : Bool)
  | inf (neg : Bool)
  | fin (neg : Bool) (m : Nat) (e : Int)
deriving DecidableEq, Repr

/-- The sign bit. -/
def Val.neg : Val → Bool
  | .nan n => n
  | .inf n => n
  | .fin n _ _ => n

/-- The value with its sign bit inverted. -/
def Val.negate : Val → Val
  | .nan n => .nan (!n)
  | .inf n => .inf (!n)
  | .fin n m e => .fin (!n) m e

/-- The value with its sign bit clear. -/
def Val.abs : Val → Val
  | .nan _ => .nan false
  | .inf _ => .inf false
  | .fin _ m e => .fin false m e

/-- The value times a power of two. -/
def Val.scale (x : Int) : Val → Val
  | .fin n m e => .fin n m (e + x)
  | v => v

/-- `±m` as an integer. -/
def signed (neg : Bool) (m : Nat) : Int := if neg then -(m : Int) else m

/-- Two finite values as integers over their smaller exponent. -/
def align (n1 : Bool) (m1 : Nat) (e1 : Int) (n2 : Bool) (m2 : Nat) (e2 : Int) : Int × Int × Int :=
  let e := min e1 e2
  (signed n1 (m1 * 2 ^ (e1 - e).toNat), signed n2 (m2 * 2 ^ (e2 - e).toNat), e)

/-- The exact sum, with the sign rules of IEEE 754 for zeros under round-to-nearest-even. -/
def Val.add : Val → Val → Val
  | .nan n, _ => .nan n
  | _, .nan n => .nan n
  | .inf a, .inf b => if a = b then .inf a else .nan false
  | .inf a, _ => .inf a
  | _, .inf b => .inf b
  | .fin n1 m1 e1, .fin n2 m2 e2 =>
    let (a, b, e) := align n1 m1 e1 n2 m2 e2
    let s := a + b
    if s = 0 then .fin (n1 && n2) 0 0 else .fin (s < 0) s.natAbs e

/-- The exact product. -/
def Val.mul : Val → Val → Val
  | .nan n, _ => .nan n
  | _, .nan n => .nan n
  | .inf a, .inf b => .inf (a != b)
  | .inf a, .fin n m _ => if m = 0 then .nan false else .inf (a != n)
  | .fin n m _, .inf a => if m = 0 then .nan false else .inf (a != n)
  | .fin n1 m1 e1, .fin n2 m2 e2 => .fin (n1 != n2) (m1 * m2) (e1 + e2)

/-- The order of two values: none where one is NaN. −0 equals +0. -/
def Val.cmp : Val → Val → Option Ordering
  | .nan _, _ => none
  | _, .nan _ => none
  | .inf a, .inf b => some (if a = b then .eq else if a then .lt else .gt)
  | .inf a, _ => some (if a then .lt else .gt)
  | _, .inf b => some (if b then .gt else .lt)
  | .fin n1 m1 e1, .fin n2 m2 e2 =>
    let (a, b, _) := align n1 m1 e1 n2 m2 e2
    some (compare a b)

/-- Whether a value is a zero of either sign. -/
def Val.isZero : Val → Bool
  | .fin _ m _ => m == 0
  | _ => false

/-! ## Formats (Table 2-3, Table 4-5) -/

/-- A floating-point element format. -/
structure FpFmt where
  mb    : Nat              -- mantissa bits
  eb    : Nat              -- exponent bits
  bias  : Nat
  top   : Nat              -- code of the largest finite magnitude
  inf   : Option Nat       -- code of +∞
  nan   : Option Nat       -- canonical NaN
deriving DecidableEq, Repr

/-- FP32. -/
def fp32 : FpFmt := ⟨23, 8, 127, 0x7F7FFFFF, some 0x7F800000, some 0x7FC00000⟩
/-- BF16. -/
def bf16 : FpFmt := ⟨7, 8, 127, 0x7F7F, some 0x7F80, some 0x7FC0⟩
/-- FP16. -/
def fp16 : FpFmt := ⟨10, 5, 15, 0x7BFF, some 0x7C00, some 0x7E00⟩
/-- FP8 E4M3. -/
def e4m3 : FpFmt := ⟨3, 4, 7, 0x7E, none, some 0x7F⟩
/-- FP8 E5M2. -/
def e5m2 : FpFmt := ⟨2, 5, 15, 0x7B, some 0x7C, some 0x7E⟩
/-- FP6 E2M3. -/
def e2m3 : FpFmt := ⟨3, 2, 1, 0x1F, none, none⟩
/-- FP6 E3M2. -/
def e3m2 : FpFmt := ⟨2, 3, 3, 0x1F, none, none⟩
/-- FP4 E2M1. -/
def e2m1 : FpFmt := ⟨1, 2, 1, 0x7, none, none⟩

/-- The element of a format code (Table 2-3); none for MXINT8 and unlisted codes. -/
def fpOf : Nat → Option FpFmt
  | 0x01 => some fp32
  | 0x02 => some bf16
  | 0x03 => some fp16
  | 0x04 => some e4m3
  | 0x05 => some e5m2
  | 0x10 => some e4m3
  | 0x11 => some e5m2
  | 0x12 => some e2m3
  | 0x13 => some e3m2
  | 0x14 => some e2m1
  | _ => none

/-- The codes of Table 2-3. -/
def fmtCodes : List Nat := [0x01, 0x02, 0x03, 0x04, 0x05, 0x10, 0x11, 0x12, 0x13, 0x14, 0x15]

/-- Whether a code is an MX format. -/
def isMx (f : Nat) : Bool := decide (0x10 ≤ f ∧ f ≤ 0x15)

/-- Element bits (Table 2-3). -/
def fmtBits : Nat → Nat
  | 0x01 => 32
  | 0x02 => 16
  | 0x03 => 16
  | 0x12 => 6
  | 0x13 => 6
  | 0x14 => 4
  | _ => 8

/-- `e_max` of Table 4-6. -/
def mxEmax : Nat → Int
  | 0x10 => 8
  | 0x11 => 15
  | 0x12 => 2
  | 0x13 => 4
  | 0x14 => 2
  | _ => 0

/-- The scale ceiling of Table 4-6. -/
def mxCeil : Nat → Nat
  | 0x10 => 0xF6
  | 0x11 => 0xEF
  | 0x12 => 0xFC
  | 0x13 => 0xFA
  | 0x14 => 0xFC
  | _ => 0xFE

/-- The value a code of a floating-point format denotes (Table 4-5). -/
def FpFmt.decode (f : FpFmt) (code : Nat) : Val :=
  let neg := bitOf code (f.eb + f.mb)
  let mag := code % 2 ^ (f.eb + f.mb)
  let e := mag / 2 ^ f.mb
  let m := mag % 2 ^ f.mb
  if mag > f.top then
    if f.inf == some mag then .inf neg else .nan neg
  else if e = 0 then .fin neg m (1 - (f.bias : Int) - f.mb)
  else .fin neg (m + 2 ^ f.mb) ((e : Int) - f.bias - f.mb)

/-- The value of an element code of a storage format, its MX scale aside (R135). -/
def decodeElem (fmt code : Nat) : Val :=
  match fpOf fmt with
  | some f => f.decode code
  | none => if code < 128 then .fin false code (-6) else .fin true (256 - code) (-6)

/-- The value of an MX element with its block's scale code (R135). -/
def decodeMx (fmt scale code : Nat) : Val :=
  if scale = 0xFF then
    .nan (fmt != 0x15 && bitOf code (fmtBits fmt - 1))
  else (decodeElem fmt code).scale ((scale : Int) - 127)

/-! ## Rounding -/

/-- How a value between two neighbours is rounded. -/
inductive Round where
  | even                -- to nearest, ties to even (R137)
  | stoch (u : Nat)     -- R286, with 32 random bits

/-- `⌊log₂⌋` of a positive finite magnitude. -/
def flog2 (m : Nat) (e : Int) : Int := (Nat.log2 m : Int) + e

/-- `m × 2^e` in units of `2^q`, rounded; exact values stay as they are. -/
def toUnits (r : Round) (m : Nat) (e q : Int) : Nat :=
  if q ≤ e then m * 2 ^ (e - q).toNat
  else
    let sh := (q - e).toNat
    let lo := m / 2 ^ sh
    let rem := m % 2 ^ sh
    match r with
    | .even => if 2 * rem > 2 ^ sh ∨ (2 * rem = 2 ^ sh ∧ lo % 2 = 1) then lo + 1 else lo
    | .stoch u => if u * 2 ^ sh < rem * 2 ^ 32 then lo + 1 else lo

/-- The magnitude code of a positive finite magnitude, which may lie above the largest finite code. -/
def FpFmt.magCode (f : FpFmt) (r : Round) (m : Nat) (e : Int) : Nat :=
  let qmin := 1 - (f.bias : Int) - f.mb
  let q := max qmin (flog2 m e - f.mb)
  (q - qmin).toNat * 2 ^ f.mb + toUnits r m e q

/-- What a conversion of one element met (R137, R139). -/
inductive Mark where
  | none | sat | nan
deriving DecidableEq, Repr

/-- Whether a finite magnitude is above the largest finite value of the format. -/
def FpFmt.above (f : FpFmt) (m : Nat) (e : Int) : Bool :=
  match (f.decode f.top).cmp (.fin false m e) with
  | some .lt => true
  | _ => false

/-- Conversion into a floating-point target (R137, R286). Stochastic rounding applies only within the largest finite
magnitude. -/
def FpFmt.convert (f : FpFmt) (r : Round) (v : Val) : Nat × Mark :=
  let sg (n : Bool) (c : Nat) := c + b2n n * 2 ^ (f.eb + f.mb)
  match v with
  | .nan n =>
    match f.nan with
    | some c => (c, .none)
    | none => (sg n f.top, .nan)
  | .inf n =>
    match f.inf with
    | some c => (sg n c, .none)
    | none => (sg n f.top, .sat)
  | .fin n m e =>
    if m = 0 then (sg n 0, .none)
    else
      let c := f.magCode (if f.above m e then .even else r) m e
      if c > f.top then (sg n f.top, .sat) else (sg n c, .none)

/-- Conversion into an MXINT8 element (R137). -/
def convertInt8 (r : Round) (v : Val) : Nat × Mark :=
  match v with
  | .nan n => (if n then 0x80 else 0x7F, .nan)
  | .inf n => (if n then 0x80 else 0x7F, .sat)
  | .fin n m e =>
    let lim := if n then 128 else 127
    let above := match (Val.fin false lim (-6)).cmp (.fin false m e) with
      | some .lt => true
      | _ => false
    let u := toUnits (if above then .even else r) m e (-6)
    if u > lim then (if n then 0x80 else 0x7F, .sat)
    else if n && u != 0 then (256 - u, .none) else (u, .none)

/-- Conversion into an element of a format code. -/
def convertElem (fmt : Nat) (r : Round) (v : Val) : Nat × Mark :=
  match fpOf fmt with
  | some f => f.convert r v
  | none => convertInt8 r v

/-- The result of an FP32 operation: rounded to nearest even, overflow to infinity, the canonical NaN (R283). -/
def toFp32 (v : Val) : BitVec 32 :=
  match v with
  | .nan _ => 0x7FC00000
  | .inf n => if n then 0xFF800000 else 0x7F800000
  | .fin n m e =>
    if m = 0 then (if n then 0x80000000 else 0)
    else
      let c := fp32.magCode .even m e
      let c := if c > fp32.top then 0x7F800000 else c
      BitVec.ofNat 32 (c + b2n n * 2 ^ 31)

/-- The value of an FP32 register lane. -/
def ofFp32 (x : BitVec 32) : Val := fp32.decode x.toNat

/-! ## MX blocks (R138) -/

/-- The scale exponent `x` of a block. -/
def mxExp (fmt : Nat) (vs : List Val) : Int :=
  let best := vs.foldl (fun (a : Option Int) v =>
    match v with
    | .fin _ m e => if m = 0 then a else some (match a with
        | some b => max b (flog2 m e)
        | none => flog2 m e)
    | _ => a) none
  match best with
  | none => 0
  | some l => max (-127) (l - mxEmax fmt)

/-- A block's scale code. -/
def mxScale (fmt : Nat) (vs : List Val) : Nat := (mxExp fmt vs + 127).toNat

/-! ## Packing (R57, R58, R121) -/

/-- Bytes of a bit string taken off the low end while at least 8 bits are there. -/
def drainBits : Nat → Nat → Nat → Bytes → Nat × Nat × Bytes
  | 0, acc, n, out => (acc, n, out)
  | k + 1, acc, n, out =>
    if n < 8 then (acc, n, out) else drainBits k (acc / 256) (n - 8) (BitVec.ofNat 8 acc :: out)

/-- Values of width `w` as a little-endian bit string, padded with zeros to whole bytes. -/
def packBits (w : Nat) (vs : List Nat) : Bytes :=
  let (acc, n, out) := vs.foldl (fun (s : Nat × Nat × Bytes) v =>
    drainBits 4 (s.1 + v % 2 ^ w * 2 ^ s.2.1) (s.2.1 + w) s.2.2) (0, 0, [])
  (if n = 0 then out else BitVec.ofNat 8 acc :: out).reverse

/-- Values of width `w` taken off a bit string while enough bits are there. -/
def takeBits (w : Nat) : Nat → Nat → Nat → List Nat → Nat × Nat × List Nat
  | 0, acc, n, out => (acc, n, out)
  | k + 1, acc, n, out =>
    if n < w then (acc, n, out) else takeBits w k (acc / 2 ^ w) (n - w) (acc % 2 ^ w :: out)

/-- The values of width `w` of a little-endian bit string. -/
def unpackBits (w : Nat) (b : Bytes) : List Nat :=
  (b.foldl (fun (s : Nat × Nat × List Nat) x =>
    takeBits w 8 (s.1 + x.toNat * 2 ^ s.2.1) (s.2.1 + 8) s.2.2) (0, 0, [])).2.2.reverse

/-- Tile side of a code 0 to 4 (R53). -/
def side (code : Nat) : Nat := 16 * 2 ^ code

/-- Bytes of the element block of `n` elements. -/
def elemBytes (fmt n : Nat) : Nat := n * fmtBits fmt / 8

/-- Canonical size of a tile of `n` elements (R57). -/
def canonSize (fmt n : Nat) : Nat := elemBytes fmt n + (if isMx fmt then n / 32 else 0)

/-- Element codes of a canonical tile, row-major. -/
def elemCodes (fmt n : Nat) (b : Bytes) : List Nat := unpackBits (fmtBits fmt) (b.take (elemBytes fmt n))

/-- Scale codes of a canonical MX tile. -/
def scaleCodes (fmt n : Nat) (b : Bytes) : List Nat :=
  if isMx fmt then (b.drop (elemBytes fmt n)).map BitVec.toNat else []

/-- A list cut into pieces of `k`; `n` bounds the pieces. -/
def chunks {α : Type} (k : Nat) : Nat → List α → List (List α)
  | 0, _ => []
  | n + 1, l => if l.isEmpty then [] else l.take k :: chunks k n (l.drop k)

/-- The exact values of a canonical tile's elements, row-major (R135). -/
def tileVals (fmt n : Nat) (b : Bytes) : List Val :=
  if isMx fmt then
    ((chunks 32 (n / 32) (elemCodes fmt n b)).zip (scaleCodes fmt n b)).flatMap fun p =>
      p.1.map (decodeMx fmt p.2)
  else (elemCodes fmt n b).map (decodeElem fmt)

/-! ## Geometry (R56, R134) -/

/-- A canonical tile with everything outside the geometry zeroed, and the scales of blocks wholly outside set to 0x7F
(R56). `r` and `c` are how many rows and columns of the tile lie inside. -/
def maskTile (fmt tr tc r c : Nat) (b : Bytes) : Bytes :=
  let n := tr * tc
  if r ≥ tr ∧ c ≥ tc then b
  else
    let es := ((List.range n).zip (elemCodes fmt n b)).map fun p =>
      if p.1 / tc < r ∧ p.1 % tc < c then p.2 else 0
    let ss := ((List.range (n / 32)).zip (scaleCodes fmt n b)).map fun p =>
      if 32 * p.1 / tc < r ∧ 32 * p.1 % tc < c then p.2 else 0x7F
    packBits (fmtBits fmt) es ++ ss.map (BitVec.ofNat 8)

/-- Whether every scale of a masked tile keeps to the ceiling (R134). -/
def scalesOk (fmt n : Nat) (b : Bytes) : Bool :=
  (scaleCodes fmt n b).all fun s => s == 0xFF || s ≤ mxCeil fmt

/-! ## Delivery (R60 to R62, R118) -/

/-- Fields of a layout descriptor (Table 2-4). -/
def layFmt (l : Nat) : Nat := bits l 0 8
/-- `transpose`. -/
def layTr (l : Nat) : Bool := bitOf l 8
/-- `swizzle`. -/
def laySw (l : Nat) : Nat := bits l 9 3
/-- `scale_place`. -/
def laySp (l : Nat) : Nat := bits l 12 2

/-- Bytes of one delivered row. -/
def rowBytes (l tr tc : Nat) : Nat :=
  let w := if layTr l then tr else tc
  w * fmtBits (layFmt l) / 8 + (if isMx (layFmt l) ∧ laySp l = 1 then w / 32 else 0)

/-- Size of a delivered tile. -/
def delivSize (l tr tc : Nat) : Nat := canonSize (layFmt l) (tr * tc)

/-- Whether a layout descriptor is well formed for a tile shape (R60, R61). -/
def layoutOk (l tr tc : Nat) : Bool :=
  fmtCodes.contains (layFmt l) && bits l 14 18 == 0 && decide (laySw l ≤ 3) && decide (laySp l ≤ 1) &&
    !(layTr l && isMx (layFmt l)) && !(laySp l != 0 && !isMx (layFmt l)) &&
    !(isMx (layFmt l) && decide (tc < 32)) &&
    (laySw l == 0 || decide (16 * 2 ^ (laySw l + 1) ≤ rowBytes l tr tc))

/-- One row swizzled (R60, R61). -/
def swizzleRow (w r : Nat) (row : Bytes) : Bytes :=
  let g := 2 ^ (w + 1)
  let whole := row.length / 16 / g * g
  ((List.range whole).flatMap fun c =>
    (row.drop (16 * (c ^^^ (r % g)))).take 16) ++ row.drop (16 * whole)

/-- Elements of one format as bytes: codes and, for MX, scales, by rows of `w` elements. -/
structure Coded where
  codes  : List Nat
  scales : List Nat
  sat    : Nat
  nans   : Nat

/-- A tile's elements in a delivery format (R132, R136 to R138). -/
def convTile (src dst n : Nat) (b : Bytes) : Coded :=
  if src = dst then ⟨elemCodes src n b, scaleCodes src n b, 0, 0⟩
  else
    let vs := tileVals src n b
    let fin (l : List (Nat × Mark)) (ss : List Nat) : Coded :=
      ⟨l.map (·.1), ss, (l.filter (·.2 == .sat)).length, (l.filter (·.2 == .nan)).length⟩
    if isMx dst then
      let blocks := chunks 32 (n / 32) vs
      fin (blocks.flatMap fun blk =>
            let x := mxExp dst blk
            blk.map fun v => convertElem dst .even (v.scale (-x)))
        (blocks.map (mxScale dst))
    else fin (vs.map (convertElem dst .even)) []

/-- A row-major list transposed: `h` rows of `w`. -/
def transposeL (h w : Nat) (l : List Nat) : List Nat :=
  let rows := chunks w h l
  (List.range w).flatMap fun c => rows.map fun r => r.getD c 0

/-- A tile delivered under a layout descriptor, and how many elements saturated or met a NaN exception (R61, R139). -/
def deliver (src tr tc l : Nat) (b : Bytes) : Bytes × Nat × Nat :=
  let dst := layFmt l
  let n := tr * tc
  let c := convTile src dst n b
  let codes := if layTr l then transposeL tr tc c.codes else c.codes
  let w := if layTr l then tr else tc
  let h := if layTr l then tc else tr
  let rows := chunks (w * fmtBits dst / 8) h (packBits (fmtBits dst) codes)
  let srows := if isMx dst && laySp l == 1 then
      chunks (w / 32) h (c.scales.map (BitVec.ofNat 8)) else []
  let tail := if isMx dst && laySp l == 0 then c.scales.map (BitVec.ofNat 8) else []
  let full := ((List.range h).zip rows).flatMap fun p =>
    let row := p.2 ++ srows.getD p.1 []
    if laySw l = 0 then row else swizzleRow (laySw l) p.1 row
  (full ++ tail, c.sat, c.nans)

end Sys2Proof.Machine
end

