-- ==== Sys2Proof/Machine/Codec.lean ====
section
/-! DEFINITION. Chamois coding: planes, range coding, stored form and header, cross-parity (R119 to R129). -/

namespace Sys2Proof.Machine

/-! ## Planes (R120, R121) -/

/-- A plane: its width, its values, and whether it is a range-coded plane. -/
structure Plane where
  w    : Nat
  vals : List Nat
  rc   : Bool

/-- The planes of a canonical tile (Table 4-1). -/
def planes (fmt n : Nat) (b : Bytes) : List Plane :=
  let cs := elemCodes fmt n b
  let fields (f : FpFmt) : List Plane :=
    [⟨f.eb, cs.map fun c => bits c f.mb f.eb, true⟩, ⟨1, cs.map fun c => bits c (f.mb + f.eb) 1, false⟩,
     ⟨f.mb, cs.map fun c => bits c 0 f.mb, false⟩]
  let elems := match fpOf fmt with
    | some f => fields f
    | none => [⟨8, cs, true⟩]
  if isMx fmt then ⟨8, scaleCodes fmt n b, true⟩ :: elems else elems

/-- Integer square root, bit by bit from `2^k` down. -/
def isqrtBits : Nat → Nat → Nat → Nat
  | 0, _, r => r
  | k + 1, x, r => isqrtBits k x (if (r + 2 ^ k) * (r + 2 ^ k) ≤ x then r + 2 ^ k else r)

/-- `⌊√x⌋`. -/
def isqrt (x : Nat) : Nat := isqrtBits (Nat.log2 x / 2 + 1) x 0

/-! ## Range coding (R122 to R124) -/

/-- Count of each value of an alphabet of `a`. -/
def counts (a : Nat) (vs : List Nat) : List Nat :=
  vs.foldl (fun l v => l.modify v (· + 1)) (List.replicate a 0)

/-- The index of the largest frequency, the lowest on ties. -/
def argMax (f : List Nat) : Nat :=
  ((List.range f.length).zip f).foldl (fun (best : Nat × Nat) p => if p.2 > best.2 then p else best) (0, 0) |>.1

/-- Frequencies lowered one by one until their excess `d` over 4,096 is gone. -/
def lowerFreq : Nat → List Nat → List Nat
  | 0, f => f
  | d + 1, f => lowerFreq d (f.modify (argMax f) (· - 1))

/-- The frequency table of R122; an absent value has frequency 0. -/
def freqTable (a n : Nat) (vs : List Nat) : List Nat :=
  let f := (counts a vs).map fun c => if c = 0 then 0 else max 1 (c * 4096 / n)
  let s := f.sum
  if s ≤ 4096 then f.modify (argMax f) (· + (4096 - s)) else lowerFreq (s - 4096) f

/-- Sums of the frequencies before each value. -/
def cumul (f : List Nat) : List Nat :=
  (f.foldl (fun (s : Nat × List Nat) x => (s.1 + x, s.1 :: s.2)) (0, [])).2.reverse

/-- The stored table (R123). -/
def tableBytes (f : List Nat) : Bytes :=
  packBits 1 (f.map fun x => if x = 0 then 0 else 1) ++ packBits 12 ((f.filter (· != 0)).dropLast)

/-- Renormalisation of one coder (R124). -/
def renorm : Nat → Nat → Nat → Bytes → Nat × Bytes
  | 0, _, x, out => (x, out)
  | k + 1, lim, x, out =>
    if x ≥ lim then renorm k lim (x / 256) (BitVec.ofNat 8 x :: out) else (x, out)

/-- The stream of R124. -/
def rangeStream (f : List Nat) (vs : List Nat) : Bytes :=
  let cum := cumul f
  let st := ((List.range vs.length).zip vs).reverse.foldl (fun (s : List Nat × Bytes) p =>
    let k := p.1 % 4
    let fs := f.getD p.2 1
    let (x, out) := renorm 4 (fs * 2 ^ 19) (s.1.getD k 0) s.2
    (s.1.set k (x / fs * 4096 + x % fs + cum.getD p.2 0), out)) (List.replicate 4 (2 ^ 23), [])
  st.1.flatMap (leBytes 4) ++ st.2

/-- Bytes padded with zeros to a multiple of 8. -/
def padTo8 (b : Bytes) : Bytes := b ++ zeros ((8 - b.length % 8) % 8)

/-- A plane stored: its kind (R121), its section, its stream length if it is range-coded. -/
def storePlane (p : Plane) : Nat × Bytes × Nat :=
  match p.vals with
  | [] => (0, [], 0)
  | v :: vs =>
    if vs.all (· == v) then (if v = 0 then (0, [], 0) else (3, leBytes 8 v, 0))
    else if p.rc then
      let f := freqTable (2 ^ p.w) p.vals.length p.vals
      let s := rangeStream f p.vals
      (2, padTo8 (tableBytes f ++ s), s.length)
    else (1, padTo8 (packBits p.w p.vals), 0)

/-! ## Cross-parity (R129) -/

/-- The 64-bit words of a canonical tile. -/
def tileWords (b : Bytes) : List Nat := (chunks 8 (b.length / 8) b).map leNat

/-- `row_check`, `col_check` and `lane_parity`. -/
def crossParity (b : Bytes) : Nat × Nat × Nat :=
  let ws := tileWords b
  let n := ws.length
  let r := isqrt n
  let k := if r * r = n then r else r + 1
  ((List.range n).zip ws).foldl (fun (s : Nat × Nat × Nat) p =>
    let lane := s.2.2 ^^^ p.2
    if popCount 64 p.2 % 2 = 1 then (s.1 ^^^ (p.1 / k + 1), s.2.1 ^^^ (p.1 % k + 1), lane)
    else (s.1, s.2.1, lane)) (0, 0, 0)

/-! ## Stored form (R125 to R128) -/

/-- The 32-byte header of Table 4-3. -/
def codedHeader (fmt trc tcc coding planeMap canon len expLen scaleLen : Nat) (cp : Nat × Nat × Nat) : Bytes :=
  leBytes 1 fmt ++ leBytes 1 (trc + 16 * tcc) ++ leBytes 1 (coding + 16) ++ leBytes 1 planeMap ++
    leBytes 4 canon ++ leBytes 4 len ++ leBytes 4 expLen ++ leBytes 2 scaleLen ++ zeros 2 ++
    leBytes 1 cp.1 ++ leBytes 1 cp.2.1 ++ zeros 2 ++ leBytes 8 cp.2.2

/-- The coded form of a tile: header and body. `trc` and `tcc` are the shape codes. The body of an all-zero tile is
empty and it stores nothing (R127). -/
def codeTile (fmt trc tcc : Nat) (b : Bytes) : Bytes × Bytes :=
  let n := side trc * side tcc
  let canon := canonSize fmt n
  if b.all (· == 0) then (codedHeader fmt trc tcc 2 0 canon 0 0 0 (0, 0, 0), [])
  else
    let ps := (planes fmt n b).map storePlane
    let body := ps.flatMap (·.2.1)
    let len := 32 + body.length
    let cp := crossParity b
    if len > canon + 64 then (codedHeader fmt trc tcc 1 0 canon (canon + 32) 0 0 cp, b)
    else
      let pm := ((List.range 4).zip (ps.map (·.1))).foldl (fun a p => a + p.2 * 4 ^ p.1) 0
      let expIx := if isMx fmt then 1 else 0
      let scaleLen := if isMx fmt then ((ps.map (·.2.2)).getD 0 0) else 0
      (codedHeader fmt trc tcc 0 pm canon len ((ps.map (·.2.2)).getD expIx 0) scaleLen cp, body)

/-- Stored length L of a tile (R125 to R127). -/
def storedLen (fmt trc tcc : Nat) (b : Bytes) : Nat :=
  if b.all (· == 0) then 0 else 32 + (codeTile fmt trc tcc b).2.length

/-- Sectors of a stored length (R80). -/
def sectorsOf (len : Nat) : Nat := ceilDiv len 256

end Sys2Proof.Machine
end

