-- ==== Sys2Proof/Machine/Float.lean ====
section
/-! DEFINITION. FP32 arithmetic of the engines: correctly rounded operations and functions (R283, R284), the lane tree
(R256), integer conversion and the matrix step (R255, R289). -/

namespace Sys2Proof.Machine

/-- An FP32 lane. -/
abbrev F32 := BitVec 32

/-- The sum, rounded once. -/
def fAdd (a b : F32) : F32 := toFp32 ((ofFp32 a).add (ofFp32 b))

/-- The difference, rounded once. -/
def fSub (a b : F32) : F32 := toFp32 ((ofFp32 a).add (ofFp32 b).negate)

/-- The product, rounded once. -/
def fMul (a b : F32) : F32 := toFp32 ((ofFp32 a).mul (ofFp32 b))

/-- The fused multiply-add, rounded once. -/
def fFma (a b c : F32) : F32 := toFp32 (((ofFp32 a).mul (ofFp32 b)).add (ofFp32 c))

/-- The minimum: NaN if either is NaN, −0 below +0 (R283). -/
def fMin (a b : F32) : F32 :=
  match (ofFp32 a).cmp (ofFp32 b) with
  | none => 0x7FC00000
  | some .lt => a
  | some .gt => b
  | some .eq => if (ofFp32 a).neg then a else b

/-- The maximum. -/
def fMax (a b : F32) : F32 :=
  match (ofFp32 a).cmp (ofFp32 b) with
  | none => 0x7FC00000
  | some .gt => a
  | some .lt => b
  | some .eq => if (ofFp32 a).neg then b else a

/-- `n / d × 2^e` to 64 bits and more, with a last bit that says whether something was cut off: rounding it once is
rounding the exact quotient. -/
def quot (neg : Bool) (n d : Nat) (e : Int) : Val :=
  let s := 64 + Nat.log2 d
  let q := n * 2 ^ s / d
  .fin neg (2 * q + b2n (n * 2 ^ s % d != 0)) (e - s - 1)

/-- The quotient (R284, Table 9-15). -/
def fDiv (a b : F32) : F32 :=
  toFp32 <| match ofFp32 a, ofFp32 b with
    | .nan n, _ => .nan n
    | _, .nan n => .nan n
    | .inf _, .inf _ => .nan false
    | .inf n, v => .inf (n != v.neg)
    | v, .inf n => .fin (v.neg != n) 0 0
    | .fin n1 m1 e1, .fin n2 m2 e2 =>
      if m2 = 0 then (if m1 = 0 then .nan false else .inf (n1 != n2))
      else quot (n1 != n2) m1 m2 (e1 - e2)

/-- The reciprocal. -/
def fRcp (a : F32) : F32 := fDiv 0x3F800000 a

/-- `√(m × 2^e)` for `m > 0`, with a last bit for what was cut off. -/
def sqrtVal (m : Nat) (e : Int) : Val :=
  let s := 64 + b2n (e % 2 != 0)
  let x := m * 2 ^ s
  let r := isqrt x
  .fin false (2 * r + b2n (r * r != x)) ((e - s) / 2 - 1)

/-- The square root. -/
def fSqrt (a : F32) : F32 :=
  toFp32 <| match ofFp32 a with
    | .nan n => .nan n
    | .inf n => if n then .nan false else .inf false
    | .fin n m e => if m = 0 then .fin n 0 0 else if n then .nan false else sqrtVal m e

/-- The reciprocal square root: `√(2^(2t) / m')` with the exponent made even. -/
def fRsq (a : F32) : F32 :=
  toFp32 <| match ofFp32 a with
    | .nan n => .nan n
    | .inf n => if n then .nan false else .fin false 0 0
    | .fin n m e =>
      if m = 0 then .inf n
      else if n then .nan false
      else
        let m' := if e % 2 = 0 then m else 2 * m
        let e' := if e % 2 = 0 then e else e - 1
        let t : Nat := 128
        let r := isqrt (2 ^ (2 * t) / m')
        .fin false (2 * r + b2n (r * r * m' != 2 ^ (2 * t))) (-(e' / 2) - t - 1)

/-- Fraction bits kept by the two transcendental functions. -/
def prec : Nat := 256

/-- `2^(F / 2^k)` with `prec` fraction bits, from the lowest bit of `F` up: each step takes the root of twice or once
what lies below. -/
def exp2Frac : Nat → Nat → Nat → Nat
  | 0, _, r => r
  | k + 1, f, r => exp2Frac k (f / 2) (isqrt ((if f % 2 = 1 then 2 * r else r) * 2 ^ prec))

/-- `2^a` (R284). -/
def fExp2 (a : F32) : F32 :=
  toFp32 <| match ofFp32 a with
    | .nan n => .nan n
    | .inf n => if n then .fin false 0 0 else .inf false
    | .fin n m e =>
      let k := (-e).toNat
      let x := signed n (m * 2 ^ e.toNat)
      let i := x / 2 ^ k
      let f := (x % 2 ^ k).toNat
      if i ≥ 128 then .inf false
      else if i < -200 then .fin false 0 0
      else if f = 0 then .fin false 1 i
      else .fin false (2 * exp2Frac k f (2 ^ prec) + 1) (i - prec - 1)

/-- The first `k` bits after the point of `log₂ y`, `y` in [1, 2) with `prec` fraction bits. -/
def log2Frac : Nat → Nat → Nat → Nat
  | 0, _, acc => acc
  | k + 1, y, acc =>
    let z := y * y / 2 ^ prec
    if z ≥ 2 ^ (prec + 1) then log2Frac k (z / 2) (2 * acc + 1) else log2Frac k z (2 * acc)

/-- `log₂ a` (R284). -/
def fLog2 (a : F32) : F32 :=
  toFp32 <| match ofFp32 a with
    | .nan n => .nan n
    | .inf n => if n then .nan false else .inf false
    | .fin n m e =>
      if m = 0 then .inf true
      else if n then .nan false
      else
        let b := Nat.log2 m
        let i := (b : Int) + e
        if m = 2 ^ b then .fin (i < 0) i.natAbs 0
        else
          let k := 112
          let f := log2Frac k (m * 2 ^ (prec - b)) 0
          let x := i * 2 ^ k + f
          if x ≥ 0 then .fin false (2 * x.toNat + 1) (-(k : Int) - 1)
          else .fin true (2 * (x + 1).natAbs + 1) (-(k : Int) - 1)

/-- A signed 32-bit integer to FP32. -/
def iToF (a : F32) : F32 := toFp32 (.fin (a.toInt < 0) a.toInt.natAbs 0)

/-- FP32 to a signed 32-bit integer: nearest even, saturated, NaN gives 0. -/
def fToI (a : F32) : F32 :=
  match ofFp32 a with
  | .nan _ => 0
  | .inf n => if n then 0x80000000 else 0x7FFFFFFF
  | .fin n m e =>
    let u := toUnits .even m e 0
    if n then (if u > 2 ^ 31 then 0x80000000 else BitVec.ofInt 32 (-(u : Int)))
    else if u ≥ 2 ^ 31 then 0x7FFFFFFF else BitVec.ofNat 32 u

/-- A source modifier: absolute value, then negation (Table 9-8). -/
def srcMod (abs neg : Bool) (a : F32) : F32 :=
  let a := if abs then a &&& 0x7FFFFFFF else a
  if neg then a ^^^ 0x80000000 else a

/-- One level of the lane tree: lane `i` of the lower half with lane `i` of the upper half. -/
def treeStep (op : F32 → F32 → F32) (x : List F32) : List F32 :=
  let n := x.length / 2
  List.zipWith op (x.take n) (x.drop n)

/-- The fixed tree of R256 over 64 lanes. -/
def laneTree (op : F32 → F32 → F32) (x : List F32) : F32 :=
  (Nat.repeat (treeStep op) 6 x).headD 0

/-- The formats of an `MMA` modifier (Table 9-16). -/
def mmaFmts : Nat → Nat × Nat
  | 0 => (0x02, 0x02)
  | 1 => (0x04, 0x04)
  | 2 => (0x04, 0x05)
  | 3 => (0x05, 0x04)
  | 4 => (0x05, 0x05)
  | 5 => (0x14, 0x04)
  | 6 => (0x14, 0x05)
  | _ => (0x14, 0x14)

/-- Vector registers of a 32 × 32 operand of a format. -/
def mmaRegs (fmt : Nat) : Nat := fmtBits fmt / 2

/-- The scale of an E8M0 code as a value. -/
def scaleVal (c : Nat) : Val := if c = 0xFF then .nan false else .fin false 1 ((c : Int) - 127)

/-- The exact sum of values; the sum of none is +0. -/
def sumVals : List Val → Val
  | [] => .fin false 0 0
  | v :: vs => vs.foldl Val.add v

/-- One element of a 32-block step (R255). -/
def mmaElem (acc : F32) (row col : List Val) (sa sb : Val) : F32 :=
  fAdd acc (toFp32 (((sumVals (List.zipWith Val.mul row col)).mul sa).mul sb))

/-- One 32-block step on a tile register (R289): row-major operands, scales by row and column. -/
def mmaStep (t : List F32) (a b : List Val) (sa sb : List Val) : List F32 :=
  let rows := chunks 32 32 a
  let cols := (List.range 32).map fun j => (chunks 32 32 b).map fun r => r.getD j (.fin false 0 0)
  (List.range 1024).map fun k =>
    mmaElem (t.getD k 0) (rows.getD (k / 32) []) (cols.getD (k % 32) [])
      (sa.getD (k / 32) (.fin false 1 0)) (sb.getD (k % 32) (.fin false 1 0))

/-! ## The grid (R210 to R213) -/

/-- `c = ⌈log₂ N⌉`. -/
def ceilLog2 (n : Nat) : Nat := if n ≤ 1 then 0 else Nat.log2 (n - 1) + 1

/-- Marks of a contribution element (R212). -/
inductive GridMark where
  | none | nonfinite | overflow
deriving DecidableEq, Repr

/-- One contribution element in grid units (R212). -/
def toGrid (e : Int) (c : Nat) (v : Val) : Int × GridMark :=
  let lim := 2 ^ (127 - c) - 1
  match v with
  | .nan _ => (0, .nonfinite)
  | .inf n => (signed n lim, .nonfinite)
  | .fin n m x =>
    let q := toUnits .even m x (e - 100)
    if q > lim then (signed n lim, .overflow) else (signed n q, .none)

/-- A lane's accumulator in the target format (R213). -/
def gridOut (fmt : Nat) (e acc : Int) : Nat × Mark :=
  convertElem fmt .even (.fin (acc < 0) acc.natAbs (e - 100))

end Sys2Proof.Machine
end

