-- ==== Sys2Proof/Machine/Words.lean ====
section
/-! DEFINITION. Kernel headers and instruction words: their fields and the checks `KERNEL_LOAD` makes of them
(R237, R269 to R271, R275, R276, R285, R288, R289). -/

namespace Sys2Proof.Machine

/-! ## The kernel header (Tables 8-1, 8-2) -/

/-- `phases`. -/
def hPhases (h : Bytes) : Nat := fld h 1 0 3
/-- `arg_count`. -/
def hArgs (h : Bytes) : Nat := fld h 2 0 5
/-- `exec`. -/
def hExec (h : Bytes) : Bool := fld h 3 0 1 == 1
/-- `code_words`. -/
def hWords (h : Bytes) : Nat := fld h 4 0 32
/-- `vregs`. -/
def hVregs (h : Bytes) : Nat := fld h 8 0 6
/-- `sregs`. -/
def hSregs (h : Bytes) : Nat := fld h 9 0 5
/-- `tregs`. -/
def hTregs (h : Bytes) : Nat := fld h 0xA 0 4
/-- `engines`. -/
def hEngines (h : Bytes) : Nat := fld h 0xB 0 6
/-- `scratch_bytes`. -/
def hScratch (h : Bytes) : Nat := fld h 0xC 0 32
/-- `window_bytes`. -/
def hWindow (h : Bytes) : Nat := fld h 0x10 0 32
/-- `nd_set`. -/
def hNd (h : Bytes) : Nat := fld h 0x14 0 3
/-- `param_bytes`. -/
def hParams (h : Bytes) : Nat := fld h 0x18 0 16
/-- `kernel_digest`. -/
def hDigest (h : Bytes) : Bytes := (h.drop 0x20).take 64
/-- A field of argument descriptor `a`. -/
def hArg (h : Bytes) (a lo w : Nat) : Nat := fld h (0x60 + 8 * a) lo w
/-- A field of phase descriptor `p`. -/
def hPhase (h : Bytes) (p lo w : Nat) : Nat := fld h (0xE0 + 8 * p) lo w

/-- Offsets, within the binary, of what is wrong in an argument descriptor. -/
def badArg (h : Bytes) (a : Nat) : List Nat :=
  let o := 0x60 + 8 * a
  if a ≥ hArgs h then (if hArg h a 0 64 = 0 then [] else [o])
  else
    let role := hArg h a 0 2
    let fmt := hArg h a 16 8
    (if role = 0 ∨ role = 3 ∨ hArg h a 2 6 ≠ 0 then [o] else []) ++
      (if hArg h a 8 8 < 1 ∨ hArg h a 8 8 > 6 then [o + 1] else []) ++
      (if fmt ≠ 0 ∧ !fmtCodes.contains fmt then [o + 2] else []) ++
      (if (role = 2 ∧ hArg h a 24 2 ≠ 0) ∨ hArg h a 26 38 ≠ 0 then [o + 3] else [])

/-- The same of a phase descriptor. -/
def badPhase (h : Bytes) (p : Nat) : List Nat :=
  let o := 0xE0 + 8 * p
  if p ≥ hPhases h then (if hPhase h p 0 64 = 0 then [] else [o])
  else
    let rule := hPhase h p 0 2
    let arg := hPhase h p 2 4
    let gx := hPhase h p 24 20
    let gy := hPhase h p 44 20
    (if rule = 3 ∨ (rule = 1 ∧ arg ≥ hArgs h) ∨ (rule ≠ 1 ∧ arg ≠ 0) ∨ hPhase h p 6 2 ≠ 0 then [o]
      else []) ++
      (if hPhase h p 8 16 ≥ hWords h then [o + 1] else []) ++
      (if (rule = 0) ≠ (gx ≠ 0) then [o + 3] else []) ++ (if (rule = 0) ≠ (gy ≠ 0) then [o + 5] else [])

/-- The first offset within the header that is wrong (R239 step 1). -/
def badHeader (h : Bytes) : Option Nat :=
  let n := hWords h
  let l := (if fld h 0 0 8 = 1 then [] else [0]) ++
    (if hPhases h < 1 ∨ hPhases h > 4 ∨ fld h 1 3 5 ≠ 0 then [1] else []) ++
    (if hArgs h > 16 ∨ fld h 2 5 3 ≠ 0 then [2] else []) ++ (if fld h 3 1 7 ≠ 0 then [3] else []) ++
    (if n < 1 ∨ n > 65536 then [4] else []) ++
    (if hVregs h > 32 ∨ fld h 8 6 2 ≠ 0 then [8] else []) ++
    (if hSregs h > 16 ∨ fld h 9 5 3 ≠ 0 then [9] else []) ++
    (if hTregs h > 8 ∨ fld h 0xA 4 4 ≠ 0 then [0xA] else []) ++ (if fld h 0xB 6 2 ≠ 0 then [0xB] else []) ++
    (if hScratch h % 4096 ≠ 0 ∨ hScratch h > 4194304 then [0xC] else []) ++
    (if hWindow h % 256 ≠ 0 ∨ hWindow h > 65536 then [0x10] else []) ++
    (if fld h 0x14 3 29 ≠ 0 then [0x14] else []) ++
    (if hParams h % 4 ≠ 0 ∨ hParams h > 4096 then [0x18] else []) ++
    (if fld h 0x1A 0 48 ≠ 0 then [0x1A] else []) ++
    (List.range 16).flatMap (badArg h) ++ (List.range 4).flatMap (badPhase h)
  l.foldl (fun a o => match a with
    | none => some o
    | some b => some (min b o)) none

/-! ## Instruction words (Table 9-2) -/

/-- An instruction word. -/
abbrev Word := BitVec 64

/-- `opcode`. -/
def wOp (w : Word) : Nat := bits w.toNat 56 8
/-- `modifier`. -/
def wMod (w : Word) : Nat := bits w.toNat 52 4
/-- `dest`. -/
def wD (w : Word) : Nat := bits w.toNat 47 5
/-- `src_a`. -/
def wA (w : Word) : Nat := bits w.toNat 42 5
/-- `src_b`. -/
def wB (w : Word) : Nat := bits w.toNat 37 5
/-- `src_c`. -/
def wC (w : Word) : Nat := bits w.toNat 32 5
/-- `pred`. -/
def wPred (w : Word) : Nat := bits w.toNat 29 3
/-- `pneg`. -/
def wNeg (w : Word) : Bool := bitOf w.toNat 28
/-- `ext`. -/
def wExt (w : Word) : Nat := bits w.toNat 24 4
/-- `imm`. -/
def wImm (w : Word) : Nat := bits w.toNat 0 24

/-- `sext(imm)`. -/
def sext24 (x : Nat) : Int := if x ≥ 2 ^ 23 then (x : Int) - 2 ^ 24 else x

/-- What a register field names. -/
inductive RegUse where
  | no | v | s | p | t | pair
deriving DecidableEq, Repr

/-- Whether a register field is allowed (R269): an unused one is zero. -/
def regOk (h : Bytes) (u : RegUse) (x : Nat) : Bool :=
  match u with
  | .no => x == 0
  | .v => decide (x < hVregs h)
  | .s => decide (x < hSregs h)
  | .p => decide (x < 8)
  | .t => decide (x < hTregs h)
  | .pair => decide (x + 1 < hSregs h)

/-- What executes an instruction (R271). -/
inductive Pipe where
  | scalar | vector | matrix
deriving DecidableEq, Repr

/-- The form of an instruction: its registers, the width of its immediate, its modifiers, its pipe. -/
structure Form where
  d    : RegUse
  a    : RegUse
  b    : RegUse
  c    : RegUse
  imm  : Nat
  mods : Nat → Bool
  pipe : Pipe

/-- A form whose modifier is unused. -/
def form (d a b c : RegUse) (imm : Nat) (pipe : Pipe) : Form := ⟨d, a, b, c, imm, (· == 0), pipe⟩

/-- Modifiers 0 to `m`. -/
def upTo (m : Nat) (f : Form) : Form := { f with mods := fun x => decide (x ≤ m) }

/-- Modifiers whose bits lie within a mask. -/
def within (m : Nat) (f : Form) : Form := { f with mods := fun x => x &&& m == x }

/-- The form of a word by its opcode and modifier (Tables 9-4 to 9-13); `CVT`, the MX instructions, `MMA` and `SRB` have
further checks. -/
def formOf (op md imm : Nat) : Option Form :=
  if op ≤ 0x01 then some (form .no .no .no .no 0 .scalar)
  else if op ≤ 0x03 then some (form .no .no .no .no 24 .scalar)
  else if op = 0x10 then some (upTo 1 (form .s .no .no .no 24 .scalar))
  else if 0x11 ≤ op ∧ op ≤ 0x19 then some (form .s .s .s .no 0 .scalar)
  else if op = 0x1A then some (form .s .s .no .no 24 .scalar)
  else if op = 0x1B then some (form .s .no .no .no 24 .scalar)
  else if op = 0x20 ∨ op = 0x25 then some (form .v .s .s .no 24 .scalar)
  else if op = 0x21 then some (form .no .v .s .s 24 .scalar)
  else if op = 0x22 then some (form .no .s .no .no 4 .scalar)
  else if op = 0x23 then some (form .v .s .no .no 24 .scalar)
  else if op = 0x24 ∨ op = 0x26 then some (form .no .v .s .no 24 .scalar)
  else if op = 0x27 then some (form .v .s .no .no 0 .scalar)
  else if op = 0x28 then some (form .no .v .s .no 0 .scalar)
  else if op = 0x29 then some (form .s .no .no .no 24 .scalar)
  else if op = 0x30 then some (form .v .s .s .no 0 .scalar)
  else if op = 0x31 then some (form .no .v .s .s 0 .scalar)
  else if 0x40 ≤ op ∧ op ≤ 0x42 ∨ op = 0x44 ∨ op = 0x45 ∨ op = 0x4B then
    some (within 7 (form .v .v .v .no 0 .vector))
  else if op = 0x43 then some (within 15 (form .v .v .v .v 0 .vector))
  else if 0x46 ≤ op ∧ op ≤ 0x4A then some (within 5 (form .v .v .no .no 0 .vector))
  else if op = 0x50 then
    some (if bitOf imm 23 then form .v .v .no .pair 24 .vector else form .v .v .no .no 24 .vector)
  else if op = 0x51 then some (form .v .v .no .no 8 .vector)
  else if op = 0x52 then some (if bitOf imm 15 then form .v .v .v .pair 16 .vector else form .v .v .v .no 16 .vector)
  else if op = 0x53 then some (form .v .v .v .no 11 .vector)
  else if op = 0x54 ∨ op = 0x55 then some (form .v .v .no .no 0 .vector)
  else if 0x60 ≤ op ∧ op ≤ 0x6A then
    let allowed := if op = 0x69 ∨ op = 0x6A then 9 else 8
    some (within allowed (if bitOf md 3 then form .v .v .no .no 24 .vector else form .v .v .v .no 0 .vector))
  else if op = 0x6B then some (form .v .s .no .no 0 .vector)
  else if op = 0x6C then some (form .v .no .no .no 24 .vector)
  else if op = 0x6D then some (form .s .v .no .no 6 .vector)
  else if op = 0x6E then some (form .v .v .no .no 0 .vector)
  else if op = 0x70 then some (upTo 6 (form .p .v .v .no 0 .vector))
  else if op = 0x71 then some (upTo 7 (form .p .v .v .no 0 .vector))
  else if op = 0x72 then some (upTo 7 (form .p .s .s .no 0 .scalar))
  else if op = 0x73 then some (upTo 3 (form .p .p .p .no 0 .scalar))
  else if op = 0x74 then some (upTo 2 (form .p .no .no .no (if md = 2 then 7 else 0) .scalar))
  else if op = 0x75 then some (form .v .v .v .p 0 .vector)
  else if op = 0x76 then some (form .p .p .no .no 0 .scalar)
  else if 0x80 ≤ op ∧ op ≤ 0x83 then some (form .s .v .no .no 0 .vector)
  else if op = 0x90 then some (form .t .no .no .no 0 .matrix)
  else if op = 0x91 then some (upTo 7 (form .t .v .v .no 0 .matrix))
  else if op = 0x92 then some (form .v .t .no .no 4 .matrix)
  else if op = 0x93 then some (form .t .v .no .no 4 .matrix)
  else if op = 0xA0 ∨ op = 0xA1 then some (form .no .no .no .no 16 .scalar)
  else if op = 0xA2 ∨ op = 0xA3 then some (form .no .s .no .no 16 .scalar)
  else if op = 0xA4 then some (form .no .s .no .no 17 .scalar)
  else if op = 0xA5 then some (form .s .no .no .no 17 .scalar)
  else if op = 0xA6 then some (form .no .s .s .no 17 .scalar)
  else if op = 0xA7 then some (form .no .s .s .no 12 .scalar)
  else if op = 0xA8 then some (form .no .no .no .no 0 .scalar)
  else if op = 0xB0 then some (upTo 1 (form .v .no .no .pair 4 .vector))
  else if op = 0xF0 ∨ op = 0xF1 then some (form .s .no .no .no 0 .scalar)
  else if op = 0xF2 then some (form .no .v .s .s 4 .vector)
  else none

/-! ### Conversions, MX and matrix operands -/

/-- Bytes of an element of a non-MX format. -/
def cvtBytes (f : Nat) : Nat := fmtBits f / 8

/-- Non-MX format codes (R285). -/
def plainFmts : List Nat := [0x01, 0x02, 0x03, 0x04, 0x05]

/-- Byte offsets of the source and target parts of a `CVT` (R285). -/
def cvtOffsets (imm : Nat) : Nat × Nat :=
  let za := cvtBytes (bits imm 0 8)
  let zb := cvtBytes (bits imm 8 8)
  let part := bits imm 16 3
  let narrow (z : Nat) : Nat := part * 64 * z
  let wide : Nat := if max za zb = 2 then 128 * (part % 2) else 0
  (if za ≤ zb then narrow za else wide, if zb ≤ za then narrow zb else wide)

/-- Whether the immediate of a `CVT` is listed. -/
def cvtOk (h : Bytes) (imm : Nat) : Bool :=
  plainFmts.contains (bits imm 0 8) && plainFmts.contains (bits imm 8 8) &&
    decide (bits imm 16 3 < 4 / min (cvtBytes (bits imm 0 8)) (cvtBytes (bits imm 8 8))) &&
    (if bitOf imm 23 then decide (bits imm 19 4 < hArgs h) else bits imm 19 4 == 0)

/-- Bytes of a part, and how many parts a register holds, of an MX format (R288). -/
def mxPart (f : Nat) : Nat × Nat × Nat :=
  match fmtBits f with
  | 4 => (32, 32, 8)
  | 6 => (48, 64, 4)
  | _ => (64, 64, 4)

/-- The further checks of some instructions: immediates, key arguments, matrix operands, selectors (R275, R285, R288,
R289). -/
def moreOk (h : Bytes) (w : Word) : Bool :=
  let imm := wImm w
  match wOp w with
  | 0x1B => decide (imm < 12 ∨ (16 ≤ imm ∧ imm < 16 + hArgs h) ∨ (32 ≤ imm ∧ imm < 32 + hArgs h))
  | 0x50 => cvtOk h imm
  | 0x51 => isMx (bits imm 0 8)
  | 0x52 => isMx (bits imm 0 8) && decide (bits imm 8 3 < (mxPart (bits imm 0 8)).2.2) &&
      (if bitOf imm 15 then decide (bits imm 11 4 < hArgs h) else bits imm 11 4 == 0)
  | 0x53 => isMx (bits imm 0 8) && decide (bits imm 8 3 < (mxPart (bits imm 0 8)).2.2)
  | 0x91 =>
    decide (wA w + mmaRegs (mmaFmts (wMod w)).1 ≤ hVregs h ∧ wB w + mmaRegs (mmaFmts (wMod w)).2 ≤ hVregs h) &&
      (if wExt w = 1 then decide (wC w < hVregs h) else wC w == 0)
  | 0xB0 => decide (imm < hArgs h)
  | _ => true

/-- Bit of `nd_set` that an instruction needs; 0 for a repeatable one (R276). -/
def ndBit (op : Nat) : Nat := if op = 0xF0 then 1 else if op = 0xF1 then 2 else if op = 0xF2 then 4 else 0

/-- Whether `KERNEL_LOAD` takes a word (R239 step 2, R269, R271). -/
def wordOk (h : Bytes) (w : Word) : Bool :=
  match formOf (wOp w) (wMod w) (wImm w) with
  | none => false
  | some f =>
    regOk h f.d (wD w) && regOk h f.a (wA w) && regOk h f.b (wB w) && (wOp w == 0x91 || regOk h f.c (wC w)) &&
      decide (wImm w < 2 ^ f.imm) && f.mods (wMod w) && (wExt w == 0 || (wOp w == 0x91 && wExt w == 1)) &&
      (match f.pipe with
        | .scalar => true
        | .vector => hEngines h &&& 6 != 0
        | .matrix => hEngines h &&& 1 != 0) &&
      (ndBit (wOp w) == 0 || hNd h &&& ndBit (wOp w) != 0) && moreOk h w

end Sys2Proof.Machine
end

