-- ==== Sys2Proof/Machine/Library.lean ====
section
/-! DEFINITION. The kernel library: the headers Table 8-7 fixes, their digests, and what the kernels compute where the
spec defines it: Adam and AdamW (R259), transposition and requantization (R258). -/

namespace Sys2Proof.Machine

/-- The digest of a header and code bytes (R238). -/
def kernelDigest (h code : Bytes) : Bytes := shake256 (h.take 0x20 ++ zeros 64 ++ h.drop 0x60 ++ code)

/-! ## Binaries (R258, Table 8-7) -/

/-- Library kernels of Table 8-7. -/
def libIds : List Nat := [0x0001, 0x0002, 0x0003, 0x0004, 0x0005, 0x0010, 0x0011, 0x0020, 0x0021, 0x0022]

/-- Inputs and outputs of a library kernel. -/
def libArgs (id : Nat) : Nat × Nat :=
  match id with
  | 0x0001 | 0x0005 => (3, 3)
  | 0x0002 | 0x0003 => (4, 4)
  | 0x0004 => (5, 5)
  | 0x0010 => (3, 0)
  | 0x0011 => (2, 0)
  | _ => (1, 1)

/-- Whether a library kernel is an optimizer step, whose last output is the delivery version D. -/
def libSteps (id : Nat) : Bool := decide (id ≤ 5)

/-- Whether a library kernel is an expert kernel. -/
def libExec (id : Nat) : Bool := id == 0x0010 || id == 0x0011

/-- Phases of a library kernel. -/
def libPhases (id : Nat) : Nat := if id = 0x0004 ∨ libExec id then 2 else 1

/-- The argument whose tile grid is a phase's grid; none for the factors of 0x0004, of which the table names no one
argument. -/
def libGrid (id p : Nat) : Option Nat :=
  if id = 0x0004 then (if p = 0 then none else some 0)
  else if id = 0x0010 then some (2 * p)
  else if id = 0x0011 then some p
  else some 0

/-- Argument descriptor `i`: its role, and the type and format where the table gives them. The rest is the firmware's. -/
def libArg (id i : Nat) (b : Bytes) : Bytes :=
  let (ni, no) := libArgs id
  if i ≥ ni + no then zeros 8
  else
    let out := decide (ni ≤ i)
    let deliv := libSteps id && i + 1 == ni + no
    leBytes 1 (if out then 2 else 1) ++ leBytes 1 (if deliv then 1 else hArg b i 8 8) ++
      leBytes 1 (if id = 0x0022 ∧ out then 1 else hArg b i 16 8) ++ leBytes 1 (if out then 0 else hArg b i 24 2) ++ zeros 4

/-- Phase descriptor `p`. -/
def libPhase (id p : Nat) (b : Bytes) : Bytes :=
  if p ≥ libPhases id then zeros 8
  else
    match libGrid id p with
    | some a => leBytes 1 (1 + 4 * a) ++ leBytes 2 (hPhase b p 8 16) ++ zeros 5
    | none => (b.drop (0xE0 + 8 * p)).take 8

/-- The header of a library kernel with its digest field zero: what Tables 8-1, 8-2, 8-7 and 8-8 fix, and for AdamW the
registers and the scratch of its worked example; the rest as the firmware holds it. -/
def libHead (id : Nat) (b code : Bytes) : Bytes :=
  let regs := if id = 0x0003 then leBytes 1 24 ++ leBytes 1 12 ++ zeros 1 else (b.drop 8).take 3
  let scratch := if id = 0x0003 then leBytes 4 262144 else (b.drop 0xC).take 4
  let params := if id = 0x0002 ∨ id = 0x0003 then 48 else hParams b
  leBytes 1 1 ++ leBytes 1 (libPhases id) ++ leBytes 1 ((libArgs id).1 + (libArgs id).2) ++ leBytes 1 (b2n (libExec id)) ++
    leBytes 4 (code.length / 8) ++ regs ++ (b.drop 0xB).take 1 ++ scratch ++ (b.drop 0x10).take 4 ++ zeros 4 ++
    leBytes 2 params ++ zeros 70 ++ (List.range 16).flatMap (fun i => libArg id i b) ++
    (List.range 4).flatMap fun p => libPhase id p b

/-- The binary of a library kernel: the code the firmware holds under a header with what the tables fix and the digest of
both (R238; log entry 7). -/
def libBinary (id : Nat) : Bytes :=
  let b := Config.libKernel id ++ zeros 264
  let n := (Config.libKernel id).length - 256
  let code := (b.drop 256).take (max 1 (n / 8) * 8)
  let h := libHead id b code
  patch h 0x20 (kernelDigest h code) ++ code

/-! ## Values of tiles -/

/-- The elements of a tile in FP32, as a layout of format `dst` gives them (R135 to R138). -/
def tileF32 (src dst n : Nat) (b : Bytes) : List F32 :=
  let c := convTile src dst n b
  let scale (k : Nat) : Nat := c.scales.getD (k / 32) 0x7F
  ((List.range n).zip c.codes).map fun p =>
    BitVec.ofNat 32 (convertElem 1 .even (if isMx dst then decodeMx dst (scale p.1) p.2 else decodeElem dst p.2)).1

/-- FP32 values as a tile of a format, each rounded as `rnd` says for its row-major index (R137, R138, R286). -/
def tileOfF32 (fmt : Nat) (rnd : Nat → Round) (vs : List F32) : Bytes :=
  if isMx fmt then
    let blocks := chunks 32 (vs.length / 32) (vs.map ofFp32)
    let codes := ((List.range blocks.length).zip blocks).flatMap fun q =>
      let x := mxExp fmt q.2
      ((List.range 32).zip q.2).map fun p => (convertElem fmt (rnd (32 * q.1 + p.1)) (p.2.scale (-x))).1
    packBits (fmtBits fmt) codes ++ blocks.map fun q => BitVec.ofNat 8 (mxScale fmt q)
  else
    packBits (fmtBits fmt) (((List.range vs.length).zip vs).map fun p => (convertElem fmt (rnd p.1) (ofFp32 p.2)).1)

/-! ## Adam and AdamW (R259, Table 8-8) -/

/-- One FP32 field of a parameter block. -/
def parF32 (p : Bytes) (off : Nat) : F32 := BitVec.ofNat 32 (fld p off 0 32)

/-- One element updated: the new weight and the two moments. `decoupled` says AdamW; Adam adds the decay to the
gradient. -/
def adamElem (p : Bytes) (decoupled : Bool) (w0 m0 v0 grad : F32) : F32 × F32 × F32 :=
  let lr := parF32 p 0x00
  let beta1 := parF32 p 0x04
  let beta2 := parF32 p 0x08
  let eps := parF32 p 0x0C
  let wd := parF32 p 0x10
  let bc1 := parF32 p 0x14
  let bc2 := parF32 p 0x18
  let one : F32 := 0x3F800000
  let g := if decoupled then grad else fAdd grad (fMul wd w0)
  let m := fAdd (fMul beta1 m0) (fMul (fSub one beta1) g)
  let v := fAdd (fMul beta2 v0) (fMul (fMul (fSub one beta2) g) g)
  let w := if decoupled then fSub w0 (fMul (fMul lr wd) w0) else w0
  let u := fDiv (fMul m bc1) (fAdd (fSqrt (fMul v bc2)) eps)
  (fSub w (fMul lr u), m, v)

/-- A tile updated: new weights and moments, elements in row-major order. -/
def adamTile (p : Bytes) (decoupled : Bool) (w m v g : List F32) : List (F32 × F32 × F32) :=
  (((w.zip m).zip v).zip g).map fun q => adamElem p decoupled q.1.1.1 q.1.1.2 q.1.2 q.2

/-- How the elements of output `out` (0 for W′, 1 for M′, 2 for V′, 3 for D) of a tile round, under `state_round` or
`deliver_round`: the generator is keyed by the run's seed, the output's object, the tile and the element's row-major index
(R257, R287). -/
def adamRound (p : Bytes) (seed obj tile out : Nat) (k : Nat) : Round :=
  if fld p (if out = 3 then 0x22 else 0x20) 0 8 = 1 then .stoch (srBits seed (obj % 2 ^ 48) tile k / 2 ^ 32) else .even

/-- Output `out` of an updated tile in its storage format. -/
def adamOut (p : Bytes) (seed obj tile out fmt : Nat) (l : List (F32 × F32 × F32)) : Bytes :=
  tileOfF32 fmt (adamRound p seed obj tile out) (l.map fun q => match out with
    | 1 => q.2.1
    | 2 => q.2.2
    | _ => q.1)

end Sys2Proof.Machine
end

