-- ==== Sys2Proof/Machine/State.lean ====
section
/-! DEFINITION. The state of the SPX-9640 as plain data, the outcomes' reasons, and the state at reset. -/

namespace Sys2Proof.Machine

/-! ## Outcomes -/

/-- Why a step stops with a fault. The spec gives every command of this block an effect (a status, a record, a drop
that is counted), so no meaning raises a fault. -/
inductive Fault where
  /-- Raised by no meaning; kept so that the outcome type has its fault case. Safe: it is never answered. -/
  | stuck
deriving DecidableEq, Repr

/-- Why a command is refused. -/
inductive Refusal where
  /-- Raised by an arm of `exec` whose command has no meaning yet, with the command's mnemonic. Safe: the model stops
  where the hardware goes on. -/
  | notModelled (mnemonic : String)
deriving DecidableEq, Repr

/-! ## Statuses (Table 3-6) -/

/-- The statuses of Table 3-6 (R107). -/
inductive Status where
  | success | successDegraded | invalidOpcode | invalidField | notPermitted | noResource | quotaExceeded
  | capacityShort | conflict | admitFailed | timeout | poisoned | objectDamaged | pathLost | aborted
  | busMasterOff | gridOverflow | alreadySealed | notSealed | hostLost | revoked | versionLimit | busyMapped
  | notReady | dirtySync | integrityFail | halted | unitFault | deviceError
deriving DecidableEq, Repr

/-- The code of Table 3-6. -/
def Status.code : Status → Nat
  | .success => 0x00 | .successDegraded => 0x01 | .invalidOpcode => 0x02 | .invalidField => 0x03
  | .notPermitted => 0x04 | .noResource => 0x05 | .quotaExceeded => 0x06 | .capacityShort => 0x07
  | .conflict => 0x08 | .admitFailed => 0x09 | .timeout => 0x0A | .poisoned => 0x0B | .objectDamaged => 0x0C
  | .pathLost => 0x0D | .aborted => 0x0E | .busMasterOff => 0x0F | .gridOverflow => 0x10
  | .alreadySealed => 0x11 | .notSealed => 0x12 | .hostLost => 0x13 | .revoked => 0x14 | .versionLimit => 0x15
  | .busyMapped => 0x16 | .notReady => 0x17 | .dirtySync => 0x18 | .integrityFail => 0x19 | .halted => 0x1A
  | .unitFault => 0x1B | .deviceError => 0xFF

/-! ## What leaves the block -/

/-- The attributes of a request to a host (R469): Relaxed Ordering and No Snoop. -/
structure Attr where
  ro : Bool
  ns : Bool
deriving DecidableEq, Repr

/-- What the block puts on its interfaces, in the order it does so. -/
inductive Out where
  | hostWrite (fn addr : Nat) (attr : Attr) (data : Bytes) -- a posted write to host memory
  | msix (fn vec : Nat) (attr : Attr)                 -- an MSI-X message (R93, R455)
  | dmaRead (fn tag addr len : Nat) (attr : Attr)     -- a read request to host memory
  | flit (port : Nat) (data : Bytes)                  -- a flit on a bulk port (R425)
  | pattern (port lanes : Nat)                        -- the training pattern starts on lanes of a port (R423, R446)
  | txOff (port : Nat)                                -- a port's transmitters go off
  | frame (data : Bytes)                              -- a trace frame on yl55 (R410)
  | tracePattern                                      -- the training pattern before the first frame (R410)
  | mgmt (binding : Nat) (data : Bytes)               -- a management response message (R493, R494)
  | cxlData (port off : Nat) (data : Bytes) (poison : Bool) (owned : Bool)  -- data of a CXL.mem read (R483), by its
                                                      -- window-space offset
  | cxlDone (port off : Nat)                          -- completion of a CXL.mem write
  | snoop (port off : Nat) (inv : Bool)               -- BISnpInv (true) or BISnpData (false) (R483)
  | atsDone (fn : Nat)                                -- an ATS invalidation completes (R470)
  | l1Request (port : Nat)                            -- ASPM L1 is requested (R462)
  | hostWidth (port lanes : Nat)                      -- a host link's width changes by L0p (R462)
  | i3c (bus addr : Nat) (data : Bytes)               -- a message the device sends as I3C controller
deriving DecidableEq, Repr

/-! ## Queues and commands (03_commands.md, 16_host_endpoint.md) -/

/-- Where a queue pair lies (R85). -/
inductive QLoc where
  | host (fn db : Nat)
  | near (port : Nat)
deriving DecidableEq, Repr

/-- A queue pair (R84 to R89, R93, R102). -/
structure QP where
  loc       : QLoc
  admin     : Bool
  tenant    : Nat
  log2Depth : Nat
  weight    : Nat
  vector    : Nat
  coalCount : Nat
  coalTicks : Nat
  sqBase    : Nat
  cqBase    : Nat
  extBase   : Nat
  sqTail    : Nat          -- R87
  sqHead    : Nat          -- next submission slot the device takes
  cqHead    : Nat          -- R87
  cqPos     : Nat          -- next completion slot the device writes
  phase     : Bool         -- R97
  reserved  : Nat          -- completion slots reserved for taken commands (R89)
  cqUsed    : Nat          -- completions written and not returned through cq_head (R89)
  unsig     : Nat          -- completions written and not signalled (R93)
  unsigTick : Nat          -- AO tick of the oldest of them
  irqWait   : Bool         -- its vector was raised while masked and the message is not sent (R116)
  stopped   : Bool         -- R88
  discard   : Bool         -- completions of its taken commands are discarded (R441)
  deleter   : Option Nat   -- the QP_DELETE (command number) deleting it (R104)
  ring      : Map Entry    -- near tier: untaken entries by slot (R101)
deriving DecidableEq, Repr

/-- Where a command came from. -/
inductive Origin where
  | queue (qp slot : Nat)      -- a queue pair and the submission slot of the entry
  | mgmt (binding : Nat)       -- the management path (R494)
  | preset (ix : Nat)          -- a command entry of the preset image (R512)
deriving DecidableEq, Repr

/-- How far a taken command has got. -/
inductive Phase where
  | taken                          -- taken, its checks not made
  | reading (got : List Bytes)     -- waits for data it reads at `addr`; the pieces already here
  | waiting                        -- waits for an event of the device
  | held                           -- ended, its completion held (R460, R466)
deriving DecidableEq, Repr

/-- Data the device writes for a command: to memory at an address. -/
structure Wr where
  addr : Nat
  data : Bytes
deriving DecidableEq, Repr

/-- An outstanding DMA read (R467). -/
structure DmaRead where
  cmd  : Nat
  addr : Nat
  len  : Nat
deriving DecidableEq, Repr

/-- What an extended-status record reports (Table 3-7). -/
inductive Ext where
  | field (off bit dataOff : Nat)
  | capacity (half tc near far : Nat)
  | quota (tc near far : Nat)
  | admission (res inst short : Nat)
  | conflict (res : Nat) (own : Bool)
  | tiles (version : Nat) (ts : List Nat)
  | part (done : Nat)
deriving DecidableEq, Repr

/-- How a command ends: its completion's fields, the data it writes, its extended-status record. -/
structure Cpl where
  status  : Status
  results : BitVec 128
  errId   : Nat
  data    : List Wr
  ext     : Option Ext
deriving DecidableEq, Repr

/-- An entry of a version's tile map: the tile as written, before or after coding. -/
structure TileEnt where
  data : Bytes             -- canonical bytes, empty for a tile that is only marked damaged
  sid  : Nat               -- its stored form, 0 while uncoded or all-zero
  dmg  : Bool              -- damaged in this version's map (R231, R397)
  prod : Nat               -- its producer, an index of the version's list
deriving DecidableEq, Repr

/-- A command taken and not completed (R89, R92). -/
structure Cmd where
  origin  : Origin
  entry   : Entry
  tenant  : Nat
  half    : Nat                -- the half of the port that carried it (R19): 0 west, 1 east
  started : Bool               -- an ORDERED command's fence is passed (R92)
  dup     : Bool               -- its tag matched an outstanding command when it was taken (R91)
  phase   : Phase
  tick    : Nat                -- AO tick at which it was taken (R516)
  input   : Bytes              -- inline data of the management path or the preset image
  ends    : Option Cpl         -- how it ends once what it waits for is done
  jobs    : List (Nat × Nat)   -- reads it waits for: position in its range, job (R194)
  tiles   : List (Nat × TileEnt) -- `OBJ_WRITE`: tiles read for a staged version, taken when it completes (R68)
deriving DecidableEq, Repr

/-- What is held for a function that may not write (R460, R466): a completion in its reserved slot, or an MSI-X
message of the function events. -/
inductive Held where
  | cpl (cmd : Nat) (c : Cpl)
  | irq (vec : Nat) (qps : List Nat)      -- with the queue pairs it is sent for
deriving DecidableEq, Repr

/-- A PCIe function (R449 to R456, R460 to R470). -/
structure Fn where
  bound     : Option Nat       -- bound tenant (R450)
  d3hot     : Bool
  bme       : Bool             -- Bus Master Enable
  flr       : Bool             -- an FLR is in progress
  cfg       : Map Nat          -- configuration dwords written by the host (R452)
  msix      : Map Nat          -- MSI-X table dwords, by byte offset (Table 16-4)
  pba       : List Nat         -- pending vectors
  irqCause  : BitVec 32
  irqMask   : BitVec 32
  irqVec    : BitVec 32
  aqSq      : BitVec 64
  aqCq      : BitVec 64
  aqExt     : BitVec 64
  aqCtrl    : BitVec 32
  aqReady   : Bool
  aqFault   : Bool
  dbSq      : Map Nat          -- doorbell halves last taken, by index (R87)
  dbCq      : Map Nat
  reads     : Map DmaRead      -- outstanding reads by tag
  quar      : List Nat         -- quarantined tags (R467)
  held      : List Held        -- completions held, oldest first
  atc       : List (Nat × Nat) -- translated ranges (address, length) in the translation cache (R470)
  inval     : List (Nat × Nat) -- ATS invalidations that wait for reads, oldest first (R470)
  lateTick  : Option Nat       -- AO tick of the last LATE_CPL record (R467)
  lateCount : Nat              -- late completions since it
  aer       : BitVec 32        -- AER uncorrectable error status (R471)
deriving DecidableEq, Repr

/-- A host port (R4, R449, R462, R463). -/
structure HPort where
  linkUp  : Bool
  perst   : Bool               -- PERST_N level (true: high)
  narrow  : Bool               -- L0p at x4
  d3cold  : Bool               -- the port's functions are in D3cold (R6, R460)
  wakeN   : Bool               -- WAKE_N level (true: high, not asserted)
  refclk  : Bool               -- PCIE_REFCLK present
deriving DecidableEq, Repr

/-- Queue pairs, commands, functions, host ports. -/
structure Queues where
  qps    : Map QP
  cmds   : Map Cmd
  nextCmd : Nat
  fns    : Map Fn
  ports  : Map HPort
  tenants : List Nat      -- tenants TENANT_SET has defined, ascending; td0 always is (R451)
  rrQp   : Nat            -- the queue pair served last (R89)
  rrLeft : Nat            -- entries it may still give in this turn, of its weight
deriving DecidableEq, Repr

/-! ## Counters (R113, R552) -/

/-- The statistics counters: value by key, and the keys whose overflow bit is set. A key is
`(scope * 2^32 + instance) * 32 + index`. -/
structure Counters where
  vals : Map (BitVec 64)
  ovf  : List Nat
deriving DecidableEq, Repr

/-! ## Error records (R111) -/

/-- An error record, Table 3-8. -/
structure ErrRec where
  id       : Nat
  cls      : Nat
  kind     : Nat
  dpaValid : Bool
  objValid : Bool
  tenValid : Bool
  injected : Bool
  tick     : Nat
  block    : Nat
  inst     : Nat
  sub      : Nat
  unit     : Nat
  locator  : Nat
  version  : Nat
  tile     : Nat
  tenant   : Nat
  related  : Nat
  detail   : Bytes
  flushed  : Bool          -- written to the flash ring (R413)
deriving DecidableEq, Repr

/-- A record of the retirement list (R406). -/
structure RetireEntry where
  dpa   : Nat
  scope : Nat
  count : Nat
deriving DecidableEq, Repr

/-- An injection waiting for requests (R408). -/
structure Inject where
  target : Nat
  nbits  : Nat
  exempt : Bool
  inst   : Nat
  left   : Nat
  unit   : Nat
  dpa    : Nat
deriving DecidableEq, Repr

/-- The trace export (R409 to R411). -/
structure Trace where
  enabled  : Bool
  sending  : Bool          -- the training pattern is over (R410)
  preset   : Bool          -- enabled by the preset image
  clock    : Bool
  narrow   : Bool
  filter   : Bool
  tenant   : Nat
  sources  : Nat
  buf      : List Bytes    -- records waiting, oldest first
  seqNo    : BitVec 32
  sent     : Nat
  dropped  : Nat           -- since the last ENABLE
  dropNew  : Nat           -- since the last frame
deriving DecidableEq, Repr

/-- Where a far-tier parity group stands (R394, R395). -/
inductive GroupState where
  | inService | rebuilding | paused | out
deriving DecidableEq, Repr

/-- A tenant key slot (R418, R419). -/
structure KeySlot where
  key   : Option Bytes
  check : Bytes
deriving DecidableEq, Repr

/-- An event counted towards a threshold of Table 14-6 (R399). -/
structure Event where
  row  : Nat
  unit : Nat
  tick : Nat
deriving DecidableEq, Repr

/-- Integrity: log, thresholds, retirement, injection, trace, keys (14_integrity.md). -/
structure Integ where
  log      : List ErrRec           -- oldest first
  lastId   : Nat                   -- ID of the newest record ever raised, 0 if none
  events   : List Event            -- events inside their windows
  ce       : Map Nat               -- corrections counted per unit since its window began
  ceStart  : Map Nat               -- window start per unit
  injects  : List Inject
  trace    : Trace
  keys     : Map KeySlot
  serial   : List Nat              -- next storage serial of each half (R418)
  devKey   : Bytes                 -- the device key of slot 1,024 (R418)
  cursors  : List (Nat × Nat)      -- evacuation cursors given out (R414): object key and version
deriving DecidableEq, Repr

/-! ## The Yalhus Link (15_yalhus_link.md) -/

/-- Link states (Table 15-1). -/
inductive LinkState where
  | disabled | detect | equalise | align | ident | active | retrain | quiet
deriving DecidableEq, Repr

/-- What follows when a message has left its port. -/
inductive OnTx where
  | none
  /-- It answers a request of a stream, by the request's number (R196, R204, R208): data bytes of the tile at a position
  of it (past the last tile for the trailer), the tile's last or not; the request's last message or not. -/
  | data (stream req tile bytes : Nat) (tileEnd last : Bool)
  /-- It is the last result of a batch (R263). -/
  | batch (id : Nat)
deriving DecidableEq, Repr

/-- A message waiting to be sent on a port: its credit class (4: none) and its padded bytes. -/
structure TxMsg where
  cls  : Nat
  data : Bytes
  qos  : Nat                   -- QoS label (R342, R353)
  due  : Nat                   -- absolute deadline of a Scarlet message, else 0
  tenant : Nat                 -- the tenant it is sent for (R440)
  since : Nat                  -- AO tick it was queued
  after : OnTx                 -- what follows when it has left
deriving DecidableEq, Repr

/-- An outstanding command-channel read (R437). -/
structure CmdRead where
  cmd  : Nat
  addr : Nat
  len  : Nat
  got  : Bytes
  since : Nat
deriving DecidableEq, Repr

/-- A bulk port (R421 to R448). -/
structure Port where
  st         : LinkState
  bound      : Bool
  expectedId : Nat
  recvId     : Nat             -- `link_id` received at the last IDENT, 0 if none
  idFail     : Bool
  tenants    : List Nat        -- the port's tenant set, ascending
  maxWidth   : Nat             -- 0 x8, 1 x4, 2 x2
  width      : Nat             -- 0 x8, 1 x4, 2 x2, 3 down
  locked     : Nat             -- pairs usable in the last training, pair i at bit i
  lanes      : Nat             -- lanes of the width chosen in it, lane k at bit k
  retPairs   : Nat             -- retired pairs
  retired    : Bool            -- R445
  since      : Nat             -- AO tick at which it entered its state
  upSince    : Nat
  everActive : Bool
  downSince  : Option Nat      -- when the link-loss timer started (R443)
  keep       : Bool            -- sequence, replay and credit state from before a retraining is held (R432)
  expected   : Nat             -- next sequence number accepted (R429)
  nakOut     : Bool
  nextSeq    : Nat             -- next sequence number sent
  replay     : List (Nat × Bytes) -- flits sent and not acknowledged, oldest first (R430)
  resends    : Nat             -- resends of the oldest flit without progress (R431)
  rxPart     : Bytes           -- bytes of the message being received
  rxSkip     : Bool            -- bytes are discarded up to the next listed start (R427)
  credits    : List Nat        -- credits held for C0 to C3 (R433)
  adv        : List Nat        -- the partner's advertisement
  initRx     : Bool            -- the partner's init has been received
  owed       : List Nat        -- credits to return for C0 to C3
  ingress    : List (Nat × Bytes) -- messages that wait in the ingress queue and hold their credits (R187): AO tick, bytes
  txq        : List TxMsg
  uncorr     : List Nat        -- AO ticks of uncorrectable codewords in the window
  quietReq   : Bool            -- a quiet request is outstanding (R446)
  reads      : Map CmdRead     -- command-channel reads by tag (R437)
  lastMsg    : Nat             -- AO tick of the last message in either direction
  refclk     : Bool
deriving DecidableEq, Repr

/-! ## Management (18_management.md) -/

/-- Which source a staging session belongs to (R506). -/
inductive Stager where
  | queue (qp : Nat)
  | mgmt (binding : Nat)
  | pldm (binding : Nat)
deriving DecidableEq, Repr

/-- The firmware staging session (R506). -/
structure Staging where
  owner  : Stager
  len    : Nat
  blocks : Map Bytes           -- staged 4 KiB blocks, by block number
  last   : Nat                 -- AO tick of its last command
deriving DecidableEq, Repr

/-- The owner record (R515): key, and `owner_seq`. -/
structure Owner where
  key  : Option Bytes
  seq  : Nat
deriving DecidableEq, Repr

/-- A correlation record (R517). -/
structure Corr where
  tick   : Nat
  time   : Nat
  clock  : Nat
  unc    : Nat
  seq    : Nat
  tenant : Nat
  source : Nat
  flushed : Bool
deriving DecidableEq, Repr

/-- A training summary entry (R366), 64 bytes. -/
abbrev Summary := Map Bytes

/-- The QSPI flash (Table 18-4). Each record held in copies A and B keeps both. -/
structure Flash where
  image    : Bytes                     -- the firmware image slot; empty when erased
  presetA  : Option Bytes
  presetB  : Option Bytes
  ownerA   : Option Owner
  ownerB   : Option Owner
  svnA     : Option (Nat × Nat)        -- security record: seq, min_svn
  svnB     : Option (Nat × Nat)
  retire   : List RetireEntry
  summary  : Summary
  cert     : Bytes
  corr     : List Corr
deriving DecidableEq, Repr

/-- Who waits for a firmware image to be programmed: a command, or the update agent of a binding (R507). -/
inductive FlashBy where
  | cmd (num : Nat)
  | pldm (binding : Nat)
deriving DecidableEq, Repr

/-- What a flash operation in progress does when it finishes (R507, R513, R515). -/
inductive FlashOp where
  | image (who : FlashBy) (data : Bytes)
  | preset (cmd : Nat) (data : Bytes)
  | owner (cmd : Nat) (key : Option Bytes) (erase : Bool)
deriving DecidableEq, Repr

/-- A sensor's latest sample (R495): value and AO tick. -/
structure Sample where
  value : Int
  tick  : Nat
deriving DecidableEq, Repr

/-- Management: flash, image running, staging, measurements, sensors, features (18_management.md). -/
structure Mgmt where
  flash     : Flash
  running   : Bytes                    -- header of the running image; empty before measured start
  copies    : List Nat                 -- near stacks holding a firmware copy (R491)
  romRec    : Bool                     -- ROM recovery (R508)
  romErased : Bool                     -- BEGIN has erased the slot in ROM recovery
  staging   : Option Staging
  slots     : List Bytes               -- measurement slots 1 to 8 (R501)
  devSecret : Bytes                    -- register of pd0 that only the ROM reads (R526)
  idKey     : Bytes                    -- identity private key
  aliasKey  : Bytes                    -- alias private key
  features  : Map Bytes                -- runtime layer (R509), 24-byte values by feature ID
  preset    : Bytes                    -- preset image in use; empty for none
  presetFeat : Map Bytes               -- preset layer
  claims    : List (Nat × Bool)        -- claimed rows of Table 1-8 by preset entries (row, true)
  flashOp   : Option FlashOp           -- the flash write path's claim (R43)
  corrSeq   : Nat                      -- last correlation sequence number
  sensors   : Map Sample
  sensorBad : List Nat                 -- sensors that failed
  sessions  : Nat                      -- live SPDM sessions (R503)
  eids      : Map Nat                  -- MCTP endpoint ID by binding
  mgmtTick  : Nat                      -- AO tick of the last management message
  vdmDropped : Nat                     -- MCTP messages of other types dropped (R493)
  mpRunning : Bool                     -- the management processor answers
deriving DecidableEq, Repr

/-! ## Start-up, power, clocks, pins (19_startup_power.md, 21_electrical.md) -/

/-- Modes (Table 19-2). -/
inductive Mode where
  | bringUp | service | recovery
deriving DecidableEq, Repr

/-- A power domain (R40, R523). -/
inductive Domain where
  | off | switchingOn | on
deriving DecidableEq, Repr

/-- Power policy (Table 19-5). -/
structure Policy where
  idleHold  : Nat
  ylQuiet   : Nat
  farSr     : Nat
  nearSr    : Nat
  gate      : Bool
  groupOff  : Bool
deriving DecidableEq, Repr

/-- A cluster (R27, R28, R37). -/
structure Cluster where
  spareUsed : Bool
  retired   : Bool
  clock     : Bool             -- its clock runs
  pllWait   : Bool             -- its PLL is starting
  idleSince : Option Nat
  bad       : List Nat         -- logical cores whose fault was classed permanent and is not substituted
  lastRun   : Nat              -- the run it last gave a core to (R252)
deriving DecidableEq, Repr

/-- Start-up, modes, power. -/
structure Power where
  aoGood     : Bool
  aoClock    : Bool            -- AO_CLK_IN toggles (R544)
  tick       : BitVec 64       -- the AO tick counter (R36)
  devRstN    : Bool            -- level of DEV_RST_N
  rstLow     : Nat             -- consecutive low samples (R525)
  step       : Nat             -- start step reached (Table 19-1), 0 before a start
  mode       : Mode
  fatal      : Bool
  sable      : Bool
  multiHost  : Bool            -- R4
  trained    : List Nat        -- host ports trained since DEV_RST_N (R4)
  thermTrip  : Bool            -- THERM_TRIP_N latched low (R533)
  thermAlert : Bool            -- GP[4] driven low as THERM_ALERT (R497)
  mainPwrEn  : Bool            -- MAIN_PWR_EN (R546)
  recoveryN  : Bool            -- level of RECOVERY_N
  thermStep  : List Nat        -- thermal step of each half (R532)
  dieCool    : List (Option Nat) -- since when each half may return a step
  vddStep    : List Nat        -- step whose voltage each VDD_CD regulator holds (R547)
  vrPending  : List (Option Nat) -- step each VDD_CD regulator has been asked for and not answered
  vrTimer    : List Nat        -- AO tick of that request
  vrForced   : List Nat        -- dies whose regulator did not answer: their clusters run at step 2 (R547)
  domains    : Map Domain
  clusters   : Map Cluster
  policy     : Policy
  pasr       : Map Nat         -- claimed segments of each parity group (R531)
  pasrMask   : Map Nat         -- segments masked at the last self-refresh entry (R376)
  retention  : Bool            -- D3cold retention (R460)
  retPort    : Nat             -- the host port whose PERST_N began it
  auxLost    : Bool            -- an auxiliary rail fell during retention (R534)
  pd1Awake   : Bool            -- pd1 woken by management traffic in retention (R535)
  jtagOpen   : Bool            -- debug unlock in force (R550)
  bscan      : Bool            -- boundary scan in force (R550)
  rails      : List Nat        -- rails out of tolerance
  bridgeUp   : Bool            -- bridge trained
deriving DecidableEq, Repr

/-! ## Objects, versions, tiles (02_objects.md, 04_codec.md, 05_tiers.md, 11_determinism.md) -/

/-- Version states (Table 2-5); a version that no longer exists has no entry. -/
inductive VState where
  | opened | sealing | sealed | released
deriving DecidableEq, Repr

/-- A producer of a version (R329 to R331, Tables 11-4 to 11-7). -/
structure Producer where
  kind : Nat               -- 1 external, 2 base, 3 kernel, 4 reduction
  loc  : Nat               -- locator: kernel handle or reduction ID, else 0; also the run for a kernel, by `run`
  run  : Nat               -- number of the kernel run, 0 for other kinds
  body : Bytes             -- hashed body
  tail : Bytes             -- what follows it and is not hashed (`input_loc`)
  nd   : Bool              -- `nd_own`: non-zero `nd_set`, or FAST
  inNd : Bool              -- an input or the base carries the ND mark (R337)
  part : Bool              -- it ended so that it is partial if it supplies a tile (R331)
  supplied : Nat           -- tiles supplied, once sealed (R330)
deriving DecidableEq, Repr

/-- A version of an object (R63 to R74). -/
structure Version where
  st       : VState
  staged   : Bool              -- write mode (R66)
  base     : Nat               -- base version, 0 for none (R67)
  damaged  : Bool              -- open and damaged (Table 2-5)
  stack    : Nat               -- stack that holds an open version (R402)
  tiles    : Map TileEnt
  added    : Nat               -- tiles the version added (R76)
  stored   : Nat               -- their stored length
  prods    : List Producer
  content  : Bytes             -- content digest, empty until sealed
  prov     : Bytes             -- provenance digest, empty until sealed
  nd       : Bool              -- ND mark
  sealCmd  : Option Nat        -- the command that seals it
  sealRed  : Bool              -- the seal comes from REDUCE_FINISH or a run (R230, R244)
  mapped   : Nat               -- host mappings of it
  nearRes  : Nat               -- near-tier reservation
  farRes   : Nat               -- far-tier reservation
deriving DecidableEq, Repr

/-- A grant (R81): grantee, and a version or 0 for all sealed versions. -/
structure Grant where
  grantee : Nat
  version : Nat
deriving DecidableEq, Repr

/-- A tiled object (R48, R53, R54). -/
structure Obj where
  tenant   : Nat
  typ      : Nat               -- Table 2-2
  num      : Nat
  fmt      : Nat               -- Table 2-3
  tr       : Nat               -- tile_rows code 0-4
  tc       : Nat               -- tile_cols code 0-4
  rows     : Nat
  cols     : Nat
  half     : Nat               -- home half
  vers     : Map Version
  top      : Nat               -- highest version number ever created
  grants   : List Grant
deriving DecidableEq, Repr

/-- States of the near copy of a sealed tile (Table 5-7). -/
inductive Near where
  | absent | promoting | present | releasing
deriving DecidableEq, Repr

/-- The stored form of a tile: what the far tier holds of it (R142). -/
structure Stored where
  obj     : Nat                -- handle
  tile    : Nat
  data    : Bytes              -- canonical bytes
  fmt     : Nat                -- format and shape codes of its object (R125)
  tr      : Nat
  tc      : Nat
  len     : Nat                -- stored length L, header included (R126)
  sectors : Nat
  damaged : Bool               -- damaged mark of its tile-map entry (R398)
  serial  : Nat                -- storage serial (R418)
  group   : Nat
  places  : List (Nat × Nat × Nat) -- stripe, first data sector there, sectors
  near    : Near
  stack   : Nat                -- stack of the near copy
  fixed   : Bool               -- pinned with no_migrate (R147)
deriving DecidableEq, Repr

/-- Sectors of a stripe that are live no more; what they held stays until the stripe is freed (R153). -/
structure DeadPiece where
  off   : Nat                  -- first data sector
  count : Nat
  bytes : Bytes                -- the stored bytes known of it, from its start
deriving DecidableEq, Repr

/-- A stripe of a parity group (R150, R151). -/
structure Stripe where
  used    : Nat                -- data sectors written into it
  live    : Nat                -- live sectors (R154)
  closed  : Bool
  written : Bool               -- written with its parity (R152)
  unknown : Bool               -- its parity is unknown (R403)
  since   : Nat                -- AO tick of the oldest seal-as-written tile waiting in it
  waitSaw : Bool               -- such a tile waits in it (R151)
  dead    : List DeadPiece     -- what its dead sectors hold (R153)
deriving DecidableEq, Repr

/-- A parity group (R149, R394). -/
structure Group where
  st       : GroupState
  modGib   : Nat               -- module size in use, GiB
  stripes  : Map Stripe        -- stripes not free
  cur      : Option Nat        -- the open stripe
  retired  : List Nat          -- retired stripes (R406)
  label    : Option Nat        -- QoS label of the rebuild (R395)
  lost     : List Nat          -- retired channels of the group
  selfRef  : Bool              -- in self-refresh
  lastReq  : Nat               -- AO tick of the last request
deriving DecidableEq, Repr

/-- Who waits for stripes or for a coding (R152). -/
inductive Waiter where
  | wrAck (stream tag tile : Nat) (sig : Bytes)   -- a tile write's acknowledgement and its signal record
  | cmd (num : Nat)                               -- an OBJ_WRITE
  | seal (obj ver : Nat)
  | red (red tile : Nat)                          -- a reduction tile (R225)
  | run (run slice : Nat)                         -- a kernel output tile, by the slice that commits it
deriving DecidableEq, Repr

/-- A coded tile with the stripes it waits for (group and stripe), and who waits (R152). -/
structure PendAck where
  who     : Waiter
  obj     : Nat
  ver     : Nat
  tile    : Nat
  data    : Bytes
  sid     : Nat
  prod    : Nat
  stripes : List (Nat × Nat)
deriving DecidableEq, Repr

/-- A tile being coded (R117, R130). -/
structure Coding where
  obj   : Nat
  ver   : Nat
  tile  : Nat
  data  : Bytes
  prod  : Nat
  who   : Waiter
  unit  : Nat                  -- unit reference of the core that codes it
  tries : Nat
  held  : Option Nat           -- AO tick since which it waits, coded, for its regulator (R351, R352)
deriving DecidableEq, Repr

/-- Objects and what they are stored in. -/
structure Objs where
  objs    : Map Obj            -- by handle
  nextNum : Map Nat            -- next object number by tenant (R49)
  stored  : Map Stored         -- by storage id
  nextSid : Nat
  groups  : Map Group          -- parity groups 0-3
  acks    : List PendAck
  codings : Map Coding
  nextJob : Nat
  raw     : Map Byte           -- bytes placed by RAW_WRITE, by DPA (R147)
  rawGr   : List Nat           -- grains whose valid bit RAW_WRITE set (R148)
deriving DecidableEq, Repr

/-! ## Residency, quotas, schedules (05_tiers.md) -/

/-- A residency claim (R161 to R164). -/
structure Claim where
  tenant  : Nat
  obj     : Nat
  ver     : Nat
  first   : Nat
  count   : Nat
  charge  : Nat
  qos     : Nat                -- label of its RESIDE, which its promotions carry (R94, R165)
  waiter  : Option Nat         -- the RESIDE waiting for presence
deriving DecidableEq, Repr

/-- A pin (R147). -/
structure Pin where
  obj     : Nat
  ver     : Nat
  first   : Nat
  count   : Nat
  near    : Bool
  fixed   : Bool
  qos     : Nat                -- label of its PLACE
  set     : List Nat           -- the stacks or parity groups it names; none for any (R147, R151)
  charge  : Nat
deriving DecidableEq, Repr

/-- A schedule entry (Table 5-9) and what its current occurrence holds. -/
structure SchedEnt where
  obj     : Nat
  ver     : Nat                -- the fixed version, or 0 with `follow`
  first   : Nat
  count   : Nat
  expert  : Nat
  follow  : Bool
  stage   : Bool
  marker  : Nat
  layer   : Nat
  dead    : Bool               -- skipped from now on (R171)
  occ     : Option Nat         -- marker of the occurrence in the window or early range
  early   : Bool               -- that occurrence is in the early range only
  resv    : Nat                -- version the occurrence resolved to
  held    : List Nat           -- tiles of the occurrence that hold, ascending
  skips   : Map Nat            -- tiles of the occurrence the schedule has skipped: 1 for quota, 2 for capacity (R178)
  staged  : Nat                -- tiles staged in the tile cache
deriving DecidableEq, Repr

/-- A route hint of one occurrence of a layer (R174). -/
structure Hint where
  layer : Nat
  occ   : Nat                  -- marker of the occurrence
  pairs : List (Nat × Nat)     -- expert, tokens
deriving DecidableEq, Repr

/-- A schedule (R168). -/
structure Sched where
  tenant  : Nat
  half    : Nat
  counter : Nat
  ahead   : Nat
  stageA  : Nat
  early   : Bool
  layout  : Nat
  period  : Nat
  port    : Nat
  qos     : Nat
  ents    : List SchedEnt
  hints   : List Hint
  stopped : Bool               -- placing holds has stopped at a tile and resumes when a hold ends (R172)
deriving DecidableEq, Repr

/-- Tiers and residency. -/
structure Tiers where
  limits   : Map Nat           -- quota limits set, key tenant * 3 + tier (R157)
  claims   : Map Claim
  pins     : List Pin
  scheds   : Map Sched
  lostNear : List Nat          -- stacks out of service
  retNear  : List Nat          -- bytes of near tier retired per half (R406)
  retFar   : List Nat          -- charge bytes of far tier retired per half
  split    : List Nat          -- tile-cache split in force, per cent (R47)
  extraNear : Map Nat          -- near-tier bytes held otherwise (rings, saved state), by tenant
  extraHalf : List Nat         -- the same by half
deriving DecidableEq, Repr

/-! ## Streams (06_streams.md) -/

/-- Stream context states (Table 6-2). -/
inductive StrState where
  | opening | active | parked | halted | closing
deriving DecidableEq, Repr

/-- A tile of an accepted read request. -/
inductive TileSt where
  | waiting (job : Nat)        -- its read job
  | ready (data : Bytes)       -- expanded and converted, its delivery waits for its turn
  | sent                       -- its messages are queued on the port
  | gone                       -- its last message has left the port
  | failed (status : Nat)      -- to be answered status-only
deriving DecidableEq, Repr

/-- An accepted read request (R190), or a refusal taking its place (R190). -/
structure Req where
  tag     : Nat
  first   : Nat
  tiles   : List TileSt
  dest    : Nat
  stride  : Nat
  sig     : Bytes              -- signal record, empty for none
  trailer : Bool
  trSent  : Bool               -- its trailer, or the answer of a refused request, is queued on the port
  deadline : Option Nat        -- absolute AO tick (R196)
  refused : Option Nat         -- status of a refusal
  clean   : Bool               -- no part has failed (R202)
  num     : Nat                -- its number within the stream, from the first request on
  late    : Option Nat         -- it came after a halt or while closing: the status of every part (R204, R206)
deriving DecidableEq, Repr

/-- A partly received tile write (R198). -/
structure WrPart where
  tile : Nat
  tag  : Nat
  got  : Bytes
deriving DecidableEq, Repr

/-- A tile write received whole and not acknowledged (R198, R199): how it ends, none while it is being stored. -/
structure AckEnt where
  tag    : Nat
  tile   : Nat
  status : Option Nat
deriving DecidableEq, Repr

/-- A token batch being received (R263). -/
structure BatchPart where
  tag  : Nat
  hdr  : Bytes
  got  : Bytes
deriving DecidableEq, Repr

/-- What a parked context is to handle once it is restored (R184, R187). -/
inductive Touch where
  | msg (tick : Nat) (m : Bytes)   -- a message and the AO tick it was received
  | cmd (num : Nat)                -- a STREAM_QUERY or STREAM_CLOSE
deriving DecidableEq, Repr

/-- A stream context (R180 to R209). -/
structure Stream where
  kind     : Nat
  unord    : Bool
  port     : Nat
  tenant   : Nat
  half     : Nat               -- half of its port
  obj      : Nat               -- handle A
  ver      : Nat
  layout   : Nat
  maxOut   : Nat
  binding  : Nat
  source   : Nat
  qos      : Nat
  opener   : Option Nat        -- function whose queue opened it
  openCmd  : Option Nat        -- STREAM_OPEN waiting for a hardware context
  st       : StrState
  hw       : Bool              -- held in hardware (R186)
  hstat    : Nat               -- halt status, 0 if none
  herr     : Nat
  done     : Nat
  touch    : Nat
  reqs     : List Req
  parts    : List WrPart
  drops    : List Nat          -- writes whose later segments are discarded: tag + 65,536 * tile (R198), or a batch's tag (R263)
  acks     : List AckEnt       -- writes received whole and not acknowledged, by arrival of their last segments
  batchIn  : List BatchPart
  batches  : List Nat          -- batches in flight, in order
  closeCmd : Option Nat
  abortC   : Bool
  restoring : Bool
  stall    : Option (Nat × Nat) -- stall counter index it counts at present, and the AO tick the stall began
  held     : List Touch        -- what waits while the context is restored, oldest first (R187)
  nextReq  : Nat               -- number of the next read request
deriving DecidableEq, Repr

/-- How far a coalesced tile read has got (R192, R194). -/
inductive JobSt where
  | far                        -- sectors awaited from the far tier
  | coded                      -- coded bytes here, to be expanded
deriving DecidableEq, Repr

/-- A coalesced read of one tile (R194). -/
structure Job where
  obj    : Nat
  ver    : Nat
  tile   : Nat
  sid    : Nat                 -- 0 for a tile of an open version or an all-zero tile
  data   : Bytes               -- canonical bytes read
  st     : JobSt
  tries  : Nat
  promo  : Bool                -- the read is a promotion's (Table 5-7)
  qos    : Nat                 -- label it runs under (R342)
  since  : Nat                 -- AO tick it was asked for
  due    : Nat                 -- absolute deadline of a Scarlet request, else 0
  solo   : Bool                -- a read of an open version: nothing joins it (R194)
  half   : Nat                 -- half of the consumer that asked first (R20)
  core   : Nat                 -- logical core that expands it (R131)
  away   : Bool                -- a consumer is on the other half than the object (R20)
  cross  : Nat                 -- coded bytes that still wait for the bridge (R20)
deriving DecidableEq, Repr

/-- A received `SIGNAL` that waits for the writes of its tenant that arrived before it on its port (R315). -/
structure HeldSig where
  port   : Nat
  tenant : Nat
  data   : Bytes
  waits  : List (Nat × Nat × Nat) -- stream, tag, tile of each such write
deriving DecidableEq, Repr

/-- Streams. -/
structure Streams where
  strs   : Map Stream          -- by stream ID
  gens   : Map Nat             -- generation by slot (R182)
  jobs   : Map Job
  sigs   : List HeldSig        -- oldest first
deriving DecidableEq, Repr

/-! ## Reductions (07_reduction.md) -/

/-- A reduction tile that holds a slot (R218, R221). -/
structure RedTile where
  idx     : Nat                -- index i within the range
  seen    : List Nat           -- arrival map: source * 16 + segment
  acc     : List Int           -- accumulators, grid units (R213)
  facc    : List (BitVec 32)   -- FAST accumulators (R233)
  ovf     : Bool
  nonfin  : Bool
  sigs    : List (Nat × Bytes) -- signal records waiting for a source's last segment (R222)
deriving DecidableEq, Repr

/-- A tile that has left its slot: written or damaged. -/
structure RedDone where
  idx    : Nat
  ovf    : Bool
  nonfin : Bool
  dmg    : Bool
  settled : Bool
deriving DecidableEq, Repr

/-- A source of a reduction (Table 7-3). -/
structure RedSource where
  target : Nat
  batch  : Nat
  owed   : Nat                 -- credits summed while it has no open stream (R226)
  stream : Option Nat
deriving DecidableEq, Repr

/-- A reduction (R215 to R233). -/
structure Red where
  tenant  : Nat
  obj     : Nat
  ver     : Nat
  first   : Nat
  count   : Nat
  n       : Nat
  e       : Int
  cfmt    : Nat
  window  : Nat
  fast    : Bool
  counter : Nat
  qos     : Nat                -- label of its `REDUCE_OPEN` (R342)
  base    : Nat
  retired : Nat                -- tiles retired so far
  slots   : List Nat           -- clusters holding its slots, one entry a slot
  charge  : Nat
  sources : List RedSource
  tiles   : List RedTile
  done    : List RedDone
  finish  : Option Nat         -- REDUCE_FINISH waiting
  finTick : Nat                -- its deadline
  finSeal : Bool               -- its `seal` bit
  ended   : Option Nat         -- status of an end without FINISH or ABORT (R217)
  prod    : Nat                -- its producer in the target version
deriving DecidableEq, Repr

/-- Reductions. -/
structure Reds where
  reds : Map Red               -- by reduction ID
  gens : Map Nat
deriving DecidableEq, Repr

/-! ## Kernels, runs, slices, Eland (08_engines.md, 09_instructions.md) -/

/-- A KERNEL object (R235): header, code words, and which halves hold a copy. -/
structure Kernel where
  tenant  : Nat
  header  : Bytes
  code    : List (BitVec 64)
  charge  : Nat
  lib     : Nat                -- `lib_id`, 0 for a binary
  copies  : List (Option Nat)  -- stack holding the copy of each half, none once lost (R236)
deriving DecidableEq, Repr

/-- An argument of a run (Table 8-5), resolved. -/
structure RunArg where
  role   : Nat                 -- 1 input, 2 output
  obj    : Nat
  ver    : Nat
  layout : Nat
  map    : Nat                 -- tiles staged for a slice (Table 8-2)
  prod   : Nat                 -- output: its producer in the version
deriving DecidableEq, Repr

/-- An open output tile buffer of a slice (R279). -/
structure OutBuf where
  arg  : Nat
  tile : Nat
  data : Bytes
deriving DecidableEq, Repr

/-- An accumulation buffer of a run (R292). -/
structure AccBuf where
  arg  : Nat
  tile : Nat
  data : List (BitVec 32)
deriving DecidableEq, Repr

/-- Where a slice stands. -/
inductive SliceSt where
  | running (core : Nat)       -- on a logical core, by number: cluster * 8 + core
  | saved (cluster : Nat)      -- preempted and saved (R253), also while it waits (R273)
  | waiting (core : Nat)       -- waits on a flag, counter or herd
deriving DecidableEq, Repr

/-- A slice's registers and private storage (R248, R253, R268). -/
structure Slice where
  st      : SliceSt
  phase   : Nat
  x       : Nat
  y       : Nat
  pc      : Nat                -- index of the next instruction word
  v       : List (List (BitVec 32)) -- v0-v31 of 64 lanes
  s       : List (BitVec 64)   -- s0-s15
  p       : List (BitVec 64)   -- p0-p7, lane i at bit i
  t       : List (List (BitVec 32)) -- t0-t7 of 32x32, row major
  scratch : Map Byte
  bufs    : List OutBuf
  started : Nat                -- AO tick of its start
  core    : Nat                -- the core it last ran on
  since   : Nat                -- AO tick of the start of its quantum
  holdFrom : Option Nat        -- AO tick of issue of a wait that stalls: in its fence (R291), or for a wait record (R321)
deriving DecidableEq, Repr

/-- Who issued a run. -/
inductive RunBy where
  | cmd (num : Nat)            -- a KERNEL_RUN
  | batch (id : Nat)           -- an Eland batch
deriving DecidableEq, Repr

/-- A run (R241 to R254). -/
structure Run where
  by'      : RunBy
  qp       : Nat
  tag      : Nat
  tenant   : Nat
  fn       : Option Nat        -- function of its queue
  kernel   : Nat               -- handle
  unit     : Nat
  cores    : List Nat          -- logical cores of the unit, by number
  args     : List RunArg
  params   : Bytes
  seed     : Nat
  gx       : Nat
  gy       : Nat
  qos      : Nat
  half     : Nat
  deadline : Option Nat
  timeout  : Option Nat        -- absolute AO tick
  sealOut  : Bool
  grids    : List (Nat × Nat)  -- grid of each phase
  slices   : Map Slice         -- by run-wide index, those started and not finished
  phase    : Nat
  nextIdx  : Nat               -- next run-wide index to start
  doneN    : Nat
  preempts : Nat
  written  : List (Nat × Nat)  -- output tiles claimed: argument, tile (R250)
  windows  : Map Byte          -- run windows: run-wide index * 65,536 + offset
  accs     : List AccBuf
  staged   : List (Nat × Nat)  -- input tiles present in the tile cache: argument, tile (R251)
  jobs     : List (Nat × Nat × Nat) -- input tiles being read: argument, tile, job
  since    : Nat               -- AO tick at which its current phase began
  parts    : List (Nat × Nat × Nat) -- reservations: half, near-tier bytes, tile-cache bytes (R253)
  tcCh     : Nat               -- tile-cache charge: the parts' sum
  ending   : Bool              -- its outputs are being sealed (R244)
  sealIx   : Nat               -- next output to seal (R244)
  degraded : Bool
  coreTime : Nat               -- AO ticks its slices have held cores (R267)
deriving DecidableEq, Repr

/-- An expert binding (Table 8-10). -/
structure Binding where
  kernel  : Nat
  follow  : Bool
  small   : Nat
  large   : Nat
  thresh  : Nat
  din     : Nat
  dout    : Nat
  weights : List RunArg
  params  : Bytes
  times   : List Nat           -- cluster time in ns of a block of each of its last 16 batches, newest first (R267)
deriving DecidableEq, Repr

/-- An expert-binding set (R260). -/
structure BindSet where
  tenant : Nat
  binds  : Map Binding
deriving DecidableEq, Repr

/-- A batch accepted on an EXEC stream (R263 to R266). -/
structure Batch where
  stream : Nat
  tag    : Nat
  expert : Nat
  set    : Nat
  tokens : Nat
  din    : Nat
  dout   : Nat
  acts   : Bytes
  dest   : Nat
  sig    : Bytes
  run    : Nat
  blocks : Nat                 -- 4 KiB blocks of expert staging
  cluster : Nat                -- the cluster that holds them
  wver   : Nat                 -- first weight's resolved version
  pushed : List (Nat × Bytes)  -- units pushed by PUSH, by unit index (R282)
  result : Option (Nat × Bytes) -- status and results once its run has ended
  answered : Bool              -- its results, or its status, are queued on the port (R263)
  accTick : Nat
deriving DecidableEq, Repr

/-- Kernels and runs. -/
structure Comp where
  kernels : Map Kernel
  runs    : Map Run
  nextRun : Nat
  sets    : Map BindSet
  batches : Map Batch
  nextBatch : Nat
  groups  : Map (Nat × List Nat) -- unit groups: tenant and members (R32)
  unbinds : List (Nat × Nat × Nat) -- UNBIND commands waiting: command, set, expert (R261)
  aborts  : List (Nat × Nat)   -- KERNEL_ABORT commands waiting for a completion: command, KERNEL_RUN (R246)
  tests   : List (Nat × Nat)   -- SELF_TEST commands that hold a unit: command, core or 128 + cluster (R391)
deriving DecidableEq, Repr

/-! ## Flags, counters, herds (10_sync.md) -/

/-- Who waits. -/
inductive WaitBy where
  | cmd (num : Nat)
  | slice (run idx : Nat)
deriving DecidableEq, Repr

/-- What is waited for. -/
inductive WaitFor where
  | flag (phys : Nat) (take : Bool)
  | counter (n target : Nat)
  | herd (id gen : Nat)
deriving DecidableEq, Repr

/-- A registered wait (R299 to R305). -/
structure WaitRec where
  who     : WaitBy
  what    : WaitFor
  index   : Nat                -- waiter index (R300)
  order   : Nat                -- order of registration at the home
  deadline : Option Nat        -- AO tick of its watchdog
  vid     : Nat                -- virtual flag ID, counter or herd number, for records
  tenant  : Nat
deriving DecidableEq, Repr

/-- A physical flag (R296, R299, R322). -/
structure Flag where
  tenant : Nat
  vid    : Nat
  set    : Bool
  quar   : Bool
deriving DecidableEq, Repr

/-- A counter (R306). -/
structure Counter where
  tenant : Nat
  val    : BitVec 48
deriving DecidableEq, Repr

/-- A herd (R309 to R311, R319). -/
structure Herd where
  tenant  : Nat
  home    : Nat
  mask    : List Nat
  g       : Nat
  a       : List Nat
  n       : List Nat
  broken  : Bool
  relFlag : Nat                -- virtual flag ID, 0xFFFF for none
  notify  : List (Nat × Nat)   -- port, partner counter
  timeout : Nat
  dueAt   : Option Nat         -- AO tick of the herd watchdog
deriving DecidableEq, Repr

/-- Synchronisation state. -/
structure Sync where
  flags    : Map Flag          -- physical flags in use
  counters : Map Counter       -- allocated counters
  freed    : List Nat          -- counters freed, oldest first (R318)
  herds    : Map Herd
  waits    : Map WaitRec
  nextWait : Nat
deriving DecidableEq, Repr

/-! ## Regulation (12_regulation.md) -/

/-- A reservation entry of a regulator (Table 12-4) and its window state. -/
structure QEntry where
  resource  : Nat
  inst      : Nat
  guar      : Nat              -- guarantee, bytes per window
  eff       : Nat              -- effective guarantee computed (R355)
  inForce   : Nat              -- effective guarantee of the current window
  budget    : Int
  deficit   : Nat
  granted   : Nat
  lastGrant : Nat
deriving DecidableEq, Repr

/-- A regulator (R345 to R359). -/
structure Reg where
  tenant   : Nat
  cls      : Nat               -- Table 12-1 code
  window   : Nat
  win      : Nat               -- index of the window in progress
  ents     : List QEntry
  cuts     : Map Nat           -- windows left of a row-disturbance cut, by 2 * tier + half (R357)
  next     : Option (Nat × List QEntry) -- a modify waiting for the window boundary (R346)
  lastMiss : Nat
  lastRec  : Option Nat        -- AO tick of the last GMISS record (R358)
deriving DecidableEq, Repr

/-- Regulation. -/
structure Qos where
  regs     : Map Reg
  retiring : List Nat          -- released indices that live contexts still carry (R359)
  gates    : Map Nat           -- gate level (0, 1, 2) by controller number
  panic    : Map Bool          -- panic by controller
  drainHeld : Map Nat          -- AO tick a drain was suspended at, by controller
  forced   : Map Bool          -- controllers that run a drain batch at the hold limit (R354)
  served   : Map Nat           -- regulator last served, by resource, unit and level (R352, R353)
  oversub  : List (Nat × Nat)  -- oversubscribed resources (R355)
deriving DecidableEq, Repr

/-! ## Memory controllers (13_memory_controllers.md) -/

/-- A far channel (R362 to R376) or near stack (R383) controller. -/
structure Ctrl where
  present  : Bool
  inServ   : Bool
  retired  : Bool
  trained  : Bool              -- its training of this start is done
  rate     : Nat               -- 0 12,800, 1 10,400, 2 8,800 MT/s
  lowered  : Bool              -- a failure at a higher rate lowered its group's rate (R363)
  sizeGib  : Nat
  ranks    : Nat
  eyes     : Bytes             -- measured eyes as Table 13-2 holds them
  centres  : List (Nat × Nat)  -- Vref step and delay chosen for each sweep (R364)
  repaired : Nat
  retrain  : Bool              -- retraining in progress
  wantRe   : Bool              -- a trigger waits or is deferred (R365)
  failRow  : Nat               -- failed retrainings in a row
  retrains : Nat
  refX2    : Bool              -- doubled refresh (R373)
  alerts   : List Nat          -- AO ticks of parity alerts
  ceLanes  : Map (List Nat)    -- AO ticks of corrected errors by byte lane (R365)
  delays   : List Int          -- DQS delay of each byte lane relative to its training centre
  dqsAt    : Nat               -- AO tick of the last DQS tracking (R365)
  rq       : Nat               -- read-queue level
  drain    : Bool              -- drain mode (R368)
  retry    : List (Nat × Nat)  -- bank and row of the last 32 accesses issued, of each channel of a stack (R371)
  rows     : Map Nat           -- open row by bank, 32 × rank + bank; of a stack, 16 × pseudo-channel + bank
  accAt    : Map Nat           -- AO tick of the last access to a bank (R369)
  pred     : Map Nat           -- by bank: page predictor (R369) in [1:0], 2 at start; above it the row last used + 1
  acts     : Map Nat           -- activations of a bank in this refresh interval
  rfm      : Map Nat           -- rolling activation count of a bank
  track    : Map (List (Nat × Nat)) -- regulators tracked per bank (R374)
  postponed : Map Nat          -- refreshes postponed per bank
  selfRef  : Bool
  lastReq  : Nat
deriving DecidableEq, Repr

/-- A request that waits in a near stack's queues (R383). -/
structure NearAcc where
  stack : Nat
  addrs : List Nat             -- offsets of its entries in the stack
  reg   : Nat                  -- regulator
  write : Bool
deriving DecidableEq, Repr

/-- Memory controllers: far channels 0 to 31, near stacks at 32 to 37. -/
structure Mem where
  ctrls  : Map Ctrl
  order  : Nat                 -- address-map order in use (R377)
  parity : Bool                -- far-tier parity on (R150)
  bridgeFails : Nat
  bridgeUsed : List Nat        -- bytes the bridge has carried in this AO tick to the west and to the east (R16)
  nearQ  : List NearAcc        -- requests in the queues of the near stacks, oldest first (R383)
deriving DecidableEq, Repr

/-! ## Host windows and coherence (17_coherent_windows.md) -/

/-- A port's HDM decoder 0 (Table 17-1), as its registers. -/
structure Hdm where
  baseLow  : BitVec 32
  baseHigh : BitVec 32
  sizeLow  : BitVec 32
  sizeHigh : BitVec 32
  ctrl     : BitVec 32
deriving DecidableEq, Repr

/-- An EXTENT object (R476, R477). -/
structure Extent where
  writable : Bool
  target   : Nat               -- host port, or 0x10 + share group
  tenant   : Nat
  qos      : Nat
  half     : Nat
  offset   : Nat
  length   : Nat
  serial   : Nat
  lines    : Map Bytes         -- non-zero 64-byte lines, by line number
  poison   : List Nat          -- poisoned lines
  revoker  : Option Nat        -- the EXTENT_REVOKE in progress
  lostIn   : Nat               -- lines treated as poisoned during it
  hostLost : Bool              -- a host was lost during it
deriving DecidableEq, Repr

/-- A mapping of a sealed version into a window extent (R479). -/
structure Mapping where
  ext    : Nat                 -- window extent handle
  obj    : Nat
  ver    : Nat
  offset : Nat
  length : Nat
  tenant : Nat
  closer : Option Nat          -- OBJ_UNMAP_HOST that waits for the reads in flight (R481)
deriving DecidableEq, Repr

/-- A window read that waits for the expansion of its tiles (R480). -/
structure WinRead where
  port : Nat
  off  : Nat                   -- window-space offset
  map  : Nat                   -- map ID
  jobs : List Nat              -- read jobs
deriving DecidableEq, Repr

/-- A directory line state (Table 17-4); state I has no entry. -/
inductive Line where
  | shared (hosts : List Nat)
  | owned (host : Nat)
deriving DecidableEq, Repr

/-- What a request on lines of a writable extent asks for (R478, R483, R485, R488, R407). `off` is an offset of the
port's window space. -/
inductive CxlWork where
  | read (port off : Nat) (kind : CxlRead)
  | write (port off : Nat) (data : Bytes) (mask : BitVec 64) (poison keep : Bool)
  | wrBlock (stream tag tile : Nat) (data sig : Bytes)
  | rdBlock (stream tag tile : Nat)
  | clear (cmd : Nat)
  | revoke (cmd : Nat)
deriving DecidableEq, Repr

/-- A request that waits for snoops, or behind an earlier request of its lines: requests of one line are served in
arrival order (R483). -/
structure CxlReq where
  ext    : Nat                 -- extent handle
  first  : Nat                 -- first line
  count  : Nat
  work   : CxlWork
  recalls : Option Nat          -- the directory entry recalled to make room for it (R484)
deriving DecidableEq, Repr

/-- A directory entry. The key of the map is `extent handle * 2^32 + line`. -/
structure DirEnt where
  line   : Line
  stamp  : Nat                 -- order of allocation (R484)
  snoops : List Nat            -- hosts whose answers are outstanding
  inv    : Bool                -- the snoop invalidates
  since  : Nat                 -- AO tick the snoops were sent
deriving DecidableEq, Repr

/-- An open host-loss event (R486, R487). -/
structure LossEvent where
  port  : Nat
  whole : Bool                 -- the host itself is lost, not only its way to the other half
  lines : List Nat             -- poisoned lines, as directory keys, ascending
deriving DecidableEq, Repr

/-- Coherence. -/
structure Cxl where
  groups   : Map Nat           -- share groups: host mask (R475)
  exts     : Map Extent        -- by handle
  maps     : Map Mapping
  dir      : Map DirEnt
  reqs     : List CxlReq       -- requests waiting, oldest first
  stamp    : Nat
  events   : Map LossEvent     -- by event ID
  refTick  : Map Nat           -- AO tick of the last refusal record, key port * 256 + cause
  badLines : List (Nat × Nat)  -- window lines a host wrote: host, offset (R474)
  winReads : List WinRead      -- window reads waiting, oldest first
  stagedW  : List (Nat × Nat × Nat) -- expanded window tiles (handle, version, tile), least recently used first
deriving DecidableEq, Repr

/-! ## The whole -/

/-- Everything but the queue of waiting commands and the HDM decoders. -/
structure Dev where
  out     : List Out           -- what has left the block, in order
  freeN   : Nat                -- how many free values have been drawn (the model's own)
  cnt     : Counters
  q       : Queues
  integ   : Integ
  ports   : Map Port
  mgmt    : Mgmt
  pwr     : Power
  objs    : Objs
  tiers   : Tiers
  strs    : Streams
  reds    : Reds
  comp    : Comp
  sync    : Sync
  qos     : Qos
  mem     : Mem
  cxl     : Cxl
deriving DecidableEq, Repr

/-- The block: the commands that wait, first in first out; the HDM decoder of each host port; everything else. -/
structure State where
  pending : List Instr
  hdm     : List Hdm
  dev     : Dev
deriving DecidableEq, Repr

/-! ## Reset values -/

/-- A PF (bound to td0, R450) or a VF (unbound) after reset. -/
def Fn.reset (pf : Bool) : Fn :=
  { bound := if pf then some 0 else none, d3hot := false, bme := false, flr := false, cfg := [], msix := [],
    pba := [], irqCause := 0, irqMask := 0x7F, irqVec := 0, aqSq := 0, aqCq := 0, aqExt := 0, aqCtrl := 0,
    aqReady := false, aqFault := false, dbSq := [], dbCq := [], reads := [], quar := [], held := [], atc := [], inval := [],
    lateTick := none, lateCount := 0, aer := 0 }

/-- A host port after reset: link down, PERST_N low until the host raises it. -/
def HPort.reset : HPort :=
  { linkUp := false, perst := false, narrow := false, d3cold := false, wakeN := true, refclk := true }

/-- A bulk port after reset (R447, Table 15-1). -/
def Port.reset : Port :=
  { st := .disabled, bound := false, expectedId := 0, recvId := 0, idFail := false, tenants := [], maxWidth := 0,
    width := 3, locked := 0, lanes := 0, retPairs := 0, retired := false, since := 0, upSince := 0,
    everActive := false, downSince := none, keep := false, expected := 0, nakOut := false, nextSeq := 0,
    replay := [], resends := 0, rxPart := [], rxSkip := false, credits := [0, 0, 0, 0], adv := [0, 0, 0, 0],
    initRx := false, owed := [0, 0, 0, 0], ingress := [], txq := [], uncorr := [], quietReq := false, reads := [], lastMsg := 0,
    refclk := true }

/-- A controller after reset. -/
def Ctrl.reset : Ctrl :=
  { present := true, inServ := false, retired := false, trained := false, rate := 0, lowered := false, sizeGib := 0, ranks := 0,
    eyes := [], centres := [], repaired := 0, retrain := false, wantRe := false, failRow := 0, retrains := 0, refX2 := false,
    alerts := [], ceLanes := [], delays := [], dqsAt := 0, rq := 0, drain := false, retry := [], rows := [], accAt := [],
    pred := [], acts := [], rfm := [], track := [], postponed := [], selfRef := false, lastReq := 0 }

/-- A cluster after reset: clock stopped, spare unused. -/
def Cluster.reset : Cluster :=
  { spareUsed := false, retired := false, clock := false, pllWait := false, idleSince := none, bad := [],
    lastRun := 0 }

/-- A parity group after reset. -/
def Group.reset : Group :=
  { st := .inService, modGib := 0, stripes := [], cur := none, retired := [], label := none, lost := [],
    selfRef := false, lastReq := 0 }

/-- The power policy's defaults (Table 19-5). -/
def Policy.reset : Policy :=
  { idleHold := 2500, ylQuiet := 2500, farSr := 25000, nearSr := 0, gate := true, groupOff := true }

/-- An HDM decoder after reset (Table 17-1: every field 0). -/
def Hdm.reset : Hdm := { baseLow := 0, baseHigh := 0, sizeLow := 0, sizeHigh := 0, ctrl := 0 }

/-- The trace export after reset: disabled. -/
def Trace.reset : Trace :=
  { enabled := false, sending := false, preset := false, clock := false, narrow := false, filter := false,
    tenant := 0, sources := 0, buf := [], seqNo := 0, sent := 0, dropped := 0, dropNew := 0 }

/-- An erased flash. What the flash of a shipped part holds the spec does not give (DESIGN CHOICE, log entry 3). -/
def Flash.reset : Flash :=
  { image := [], presetA := none, presetB := none, ownerA := none, ownerB := none, svnA := none, svnB := none,
    retire := [], summary := [], cert := [], corr := [] }

/-- Queue state after reset. -/
def Queues.reset : Queues := { qps := [], cmds := [], nextCmd := 0, fns := [], ports := [], tenants := [], rrQp := 0, rrLeft := 0 }

/-- Integrity state after reset. -/
def Integ.reset : Integ :=
  { log := [], lastId := 0, events := [], ce := [], ceStart := [], injects := [],
    trace := Trace.reset, keys := [], serial := [0, 0], devKey := [], cursors := [] }

/-- Management state after reset. -/
def Mgmt.reset : Mgmt :=
  { flash := Flash.reset, running := [], copies := [], romRec := false, romErased := false, staging := none,
    slots := [], devSecret := [], idKey := [], aliasKey := [], features := [], preset := [], presetFeat := [],
    claims := [], flashOp := none, corrSeq := 0, sensors := [], sensorBad := [], sessions := 0, eids := [],
    mgmtTick := 0, vdmDropped := 0, mpRunning := false }

/-- Power state after reset: AO power good has just been reached, DEV_RST_N is high, no start has run. -/
def Power.reset : Power :=
  { aoGood := true, aoClock := true, tick := 0, devRstN := true, rstLow := 0, step := 0, mode := .bringUp,
    fatal := false, sable := false, multiHost := false, trained := [], thermTrip := false, thermAlert := false,
    mainPwrEn := true, recoveryN := true, thermStep := [0, 0], dieCool := [none, none], vddStep := [0, 0, 0, 0],
    vrPending := [none, none, none, none], vrTimer := [0, 0, 0, 0], vrForced := [], domains := [(0, .on)], clusters := [],
    policy := Policy.reset, pasr := [], pasrMask := [], retention := false, retPort := 0, auxLost := false,
    pd1Awake := false, jtagOpen := false, bscan := false, rails := [], bridgeUp := false }

/-- Objects after reset: none. -/
def Objs.reset : Objs :=
  { objs := [], nextNum := [], stored := [], nextSid := 1, groups := [], acks := [], codings := [], nextJob := 1,
    raw := [], rawGr := [] }

/-- Tiers after reset. The tile-cache split is the factory default (R47). -/
def Tiers.reset : Tiers :=
  { limits := [], claims := [], pins := [], scheds := [], lostNear := [], retNear := [0, 0], retFar := [0, 0],
    split := [40, 30, 20, 10], extraNear := [], extraHalf := [0, 0] }

/-- Computation after reset: nothing loaded, nothing running. -/
def Comp.reset : Comp :=
  { kernels := [], runs := [], nextRun := 1, sets := [], batches := [], nextBatch := 1, groups := [],
    unbinds := [], aborts := [], tests := [] }

/-- Synchronisation after reset: every object free (R323). -/
def Sync.reset : Sync := { flags := [], counters := [], freed := [], herds := [], waits := [], nextWait := 1 }

/-- Coherence after reset. -/
def Cxl.reset : Cxl :=
  { groups := [], exts := [], maps := [], dir := [], reqs := [], stamp := 0, events := [], refTick := [],
    badLines := [], winReads := [], stagedW := [] }

/-- The device after reset. -/
def Dev.reset : Dev :=
  { out := [], freeN := 0, cnt := { vals := [], ovf := [] }, q := Queues.reset, integ := Integ.reset, ports := [],
    mgmt := Mgmt.reset, pwr := Power.reset, objs := Objs.reset, tiers := Tiers.reset,
    strs := { strs := [], gens := [], jobs := [], sigs := [] }, reds := { reds := [], gens := [] }, comp := Comp.reset,
    sync := Sync.reset,
    qos :=
      { regs := [], retiring := [], gates := [], panic := [], drainHeld := [], forced := [], served := [], oversub := [] },
    mem := { ctrls := [], order := 0, parity := true, bridgeFails := 0, bridgeUsed := [0, 0], nearQ := [] }, cxl := Cxl.reset }

/-- The machine right after AO power good, before its start-up sequence: nothing pending, every field at the value the
spec states for reset, or the value a log entry names. -/
def State.reset : State :=
  { pending := [], hdm := [Hdm.reset, Hdm.reset, Hdm.reset, Hdm.reset], dev := Dev.reset }

end Sys2Proof.Machine
end

