-- ==== Sys2Proof/Machine/Flags.lean ====
section
/-! DEFINITION. Accessors of the state's parts, halves and domains (Table 1-1, Table 1-7), and the status bits the
device computes: `GST_STATUS` (Table 16-6) and what raises its causes. -/

namespace Sys2Proof.Machine

/-! ## Where things lie -/

/-- The AO tick (R36). -/
def Dev.now (d : Dev) : Nat := d.pwr.tick.toNat

/-- Half of a YL port (Table 1-1): 0 west, 1 east. -/
def portHalf (p : Nat) : Nat := if p < 28 then 0 else 1

/-- Half of a host port. -/
def hostHalf (n : Nat) : Nat := if n < 2 then 0 else 1

/-- Half of a far channel. -/
def chanHalf (ch : Nat) : Nat := if ch < 16 then 0 else 1

/-- Half of a near stack. -/
def stackHalf (s : Nat) : Nat := if s < 3 then 0 else 1

/-- Half of a parity group. -/
def groupHalf (g : Nat) : Nat := if g < 2 then 0 else 1

/-- Compute die of a cluster, named by its power domain pd2 to pd17. -/
def clusterDie (pd : Nat) : Nat := (pd - 2) / 4

/-- Half of a cluster. -/
def clusterHalf (pd : Nat) : Nat := if clusterDie pd < 2 then 0 else 1

/-- Half of a compute die. -/
def dieHalf (d : Nat) : Nat := if d < 2 then 0 else 1

/-- Power domain of a YL port's group. -/
def portPd (p : Nat) : Nat := 22 + p / 14

/-- The 16 clusters, by power domain. -/
def allClusters : List Nat := fromTo 2 16

/-- Home die of a physical flag. -/
def flagDie (phys : Nat) : Nat := phys / 262144
/-- Home die of a counter. -/
def counterDie (n : Nat) : Nat := n / 32768

/-! ## Accessors -/

/-- A function: what the state lists, else its reset value. -/
def Dev.fn (d : Dev) (n : Nat) : Fn := d.q.fns.getD n (Fn.reset (n % 256 == 0))

/-- `f` applied to a function. -/
def Dev.updFn (n : Nat) (f : Fn → Fn) (d : Dev) : Dev :=
  { d with q := { d.q with fns := Map.set n (f (d.fn n)) d.q.fns } }

/-- A host port. -/
def Dev.hport (d : Dev) (n : Nat) : HPort := d.q.ports.getD n HPort.reset

/-- `f` applied to a host port. -/
def Dev.updHport (n : Nat) (f : HPort → HPort) (d : Dev) : Dev :=
  { d with q := { d.q with ports := Map.set n (f (d.hport n)) d.q.ports } }

/-- A bulk port. -/
def Dev.port (d : Dev) (p : Nat) : Port := d.ports.getD p Port.reset

/-- `f` applied to a bulk port. -/
def Dev.updPort (p : Nat) (f : Port → Port) (d : Dev) : Dev :=
  { d with ports := Map.set p (f (d.port p)) d.ports }

/-- A memory controller: far channels 0 to 31, near stacks 32 to 37. -/
def Dev.ctrl (d : Dev) (n : Nat) : Ctrl := d.mem.ctrls.getD n Ctrl.reset

/-- `f` applied to a controller. -/
def Dev.updCtrl (n : Nat) (f : Ctrl → Ctrl) (d : Dev) : Dev :=
  { d with mem := { d.mem with ctrls := Map.set n (f (d.ctrl n)) d.mem.ctrls } }

/-- A cluster. -/
def Dev.cluster (d : Dev) (pd : Nat) : Cluster := d.pwr.clusters.getD pd Cluster.reset

/-- `f` applied to a cluster. -/
def Dev.updCluster (pd : Nat) (f : Cluster → Cluster) (d : Dev) : Dev :=
  { d with pwr := { d.pwr with clusters := Map.set pd (f (d.cluster pd)) d.pwr.clusters } }

/-- Number of a logical core: 8 × cluster + core, clusters counted from cd0.cl0. -/
def coreOf (u : Nat) : Nat := 8 * (4 * bits u 26 2 + bits u 24 2) + bits u 21 3

/-- Power domain of a core's cluster. -/
def coreCluster (c : Nat) : Nat := 2 + c / 8

/-- Half of a core. -/
def coreHalf (c : Nat) : Nat := clusterHalf (coreCluster c)

/-- Unit reference of a logical core. -/
def coreUnit (c : Nat) : Nat := 2 ^ 28 + c / 32 * 2 ^ 26 + c / 8 % 4 * 2 ^ 24 + c % 8 * 2 ^ 21

/-- Whether a core takes part in work: its cluster is not retired, and the core has not failed for good (R28, R29). -/
def Dev.coreLive (d : Dev) (c : Nat) : Bool :=
  let x := d.cluster (coreCluster c)
  !x.retired && !x.bad.contains c

/-- A parity group. -/
def Dev.group (d : Dev) (g : Nat) : Group := d.objs.groups.getD g Group.reset

/-- `f` applied to a parity group. -/
def Dev.updGroup (g : Nat) (f : Group → Group) (d : Dev) : Dev :=
  { d with objs := { d.objs with groups := Map.set g (f (d.group g)) d.objs.groups } }

/-- A power domain; a domain never listed is off. -/
def Dev.domain (d : Dev) (pd : Nat) : Domain := d.pwr.domains.getD pd .off

/-- A power domain set. -/
def Dev.setDomain (pd : Nat) (x : Domain) (d : Dev) : Dev :=
  { d with pwr := { d.pwr with domains := Map.set pd x d.pwr.domains } }

/-- The security engine, pd38, in use: work for it waits until it is on, which changes timing only (R41). -/
def Dev.useSecurity (d : Dev) : Dev := if d.domain 38 = .off then d.setDomain 38 .on else d

/-- A request reaches a near stack: it is on and out of self-refresh, for which the request waits (R524, R528). -/
def Dev.nearUse (s : Nat) (d : Dev) : Dev :=
  let d := d.updCtrl (32 + s) fun c => { c with lastReq := d.now, selfRef := false }
  if d.domain (32 + s) = .off then d.setDomain (32 + s) .on else d

/-- `f` applied to the power state. -/
def Dev.updPwr (f : Power → Power) (d : Dev) : Dev := { d with pwr := f d.pwr }

/-- `f` applied to the integrity state. -/
def Dev.updInteg (f : Integ → Integ) (d : Dev) : Dev := { d with integ := f d.integ }

/-- `f` applied to the management state. -/
def Dev.updMgmt (f : Mgmt → Mgmt) (d : Dev) : Dev := { d with mgmt := f d.mgmt }

/-- Whether a tenancy domain is defined (R451): td0 always, others by `TENANT_SET`. -/
def Dev.defined (d : Dev) (t : Nat) : Bool := t == 0 || d.q.tenants.contains t

/-! ## Features (R509, Table 18-11) -/

/-- Factory value of a feature, padded to 24 bytes; none for an ID that is not listed. -/
def featureDefault (id : Nat) : Option Bytes :=
  let v : Option Bytes :=
    if id = 0x01 then some [40, 30, 20, 10]
    else if id = 0x02 then some [0]
    else if id = 0x03 then some [0, 100]
    else if id = 0x04 then some (leBytes 4 1250)
    else if id = 0x05 then some (leBytes 4 65535 ++ leBytes 4 4096 ++ leBytes 2 64)
    else if id = 0x06 then some (leBytes 2 16 ++ [32, 24, 48, 40, 16, 12, 24, 20])
    else if id = 0x07 then some (leBytes 1 48 ++ [16, 24, 8] ++ leBytes 2 64)
    else if id = 0x08 then some (List.replicate 14 2)
    else if id = 0x09 then some [20]
    else if id = 0x0A then some (leBytes 4 25000)
    else if id = 0x10 ∨ id = 0x11 then some [0]
    else if id = 0x12 then some [1]
    else if id = 0x13 then some (leBytes 2 0x1F7A ++ leBytes 2 0)
    else none
  v.map fun b => (b ++ zeros 24).take 24

/-- A feature's value and the layer that sets it: 2 runtime, 1 preset, 0 factory (R509, R510). -/
def Dev.featureLayer (d : Dev) (id : Nat) : Bytes × Nat :=
  match d.mgmt.features.get? id with
  | some v => (v, 2)
  | none =>
    match d.mgmt.presetFeat.get? id with
    | some v => (v, 1)
    | none => ((featureDefault id).getD [], 0)

/-- A field of a feature's value in force. -/
def Dev.feat (d : Dev) (id off w : Nat) : Nat := fld (d.featureLayer id).1 off 0 w

/-! ## Output -/

/-- One thing put on an interface. -/
def emit (o : Out) (d : Dev) : Dev := { d with out := d.out ++ [o] }

/-- A free value of 64 bits: the next of the sequence nothing constrains. -/
def draw (d : Dev) : BitVec 64 × Dev := (Config.free64 d.freeN, { d with freeN := d.freeN + 1 })

/-! ## Counters (R113, R552) -/

/-- A counter's key. -/
def cntKey (scope inst idx : Nat) : Nat := (scope * 2 ^ 32 + inst) * 32 + idx

/-- A counter's value. -/
def Dev.count (d : Dev) (scope inst idx : Nat) : Nat := (d.cnt.vals.getD (cntKey scope inst idx) 0).toNat

/-- `n` added to a counter; a wrap sets its sticky overflow bit (R113). -/
def bump (scope inst idx n : Nat) (d : Dev) : Dev :=
  if n = 0 then d else
  let k := cntKey scope inst idx
  let new := (d.cnt.vals.getD k 0).toNat + n
  { d with cnt :=
      { vals := Map.set k (BitVec.ofNat 64 new) d.cnt.vals
        ovf := if new < 2 ^ 64 then d.cnt.ovf else insertNat k d.cnt.ovf } }

/-- `n` added to a tenant's counter and to the device's own sum of that index (R552). -/
def bumpTenant (t idx n : Nat) (d : Dev) : Dev := bump 0 0 idx n (bump 1 t idx n d)

/-! ## `GST_STATUS` (Table 16-6) -/

/-- The mode field. -/
def Mode.code : Mode → Nat
  | .bringUp => 0 | .service => 1 | .recovery => 2

/-- A cluster, channel, stack (pseudo-channel) or port is retired (R100). -/
def Dev.degraded (d : Dev) : Bool :=
  d.pwr.clusters.any (fun p => p.2.retired) || d.mem.ctrls.any (fun p => p.2.retired) ||
    d.ports.any (fun p => p.2.retired)

/-- The degraded flag of a completion entry (R25, R100): `GST_STATUS` shows sable mode or a retired unit. -/
def Dev.cplDegraded (d : Dev) : Bool := d.pwr.sable || d.degraded

/-- Step at which the clusters of a compute die run: its half's thermal step, or a higher one while its regulator has
not answered for a higher voltage (R532, R547). -/
def Dev.dieStep (d : Dev) (die : Nat) : Nat :=
  if d.pwr.vrForced.contains die then 2
  else max (d.pwr.thermStep.getD (dieHalf die) 0) (d.pwr.vddStep.getD die 0)

/-- `clk_step`: the highest thermal step in force on any cluster. -/
def Dev.clkStep (d : Dev) : Nat := ((List.range 4).map d.dieStep).foldl max 0

/-- `GST_STATUS`. -/
def Dev.gst (d : Dev) : BitVec 32 :=
  BitVec.ofNat 32 (d.pwr.mode.code + 4 * b2n d.pwr.sable + 8 * b2n d.degraded +
    16 * b2n (!d.qos.oversub.isEmpty) + 32 * b2n d.pwr.fatal + 64 * b2n d.pwr.multiHost + 128 * d.clkStep)

/-! ## MSI-X and the function events (R455, Table 16-4) -/

/-- The vector-control dword of an MSI-X table entry. Reset masks the vector, as PCIe has it (log entry 11). -/
def Fn.vecCtrl (f : Fn) (vec : Nat) : Nat := f.msix.getD (16 * vec + 12) 1

/-- Whether a function may write to its host: Bus Master Enable set, in D0, no FLR (R460, R466). -/
def Fn.mayWrite (f : Fn) : Bool := f.bme && !f.d3hot && !f.flr

/-- Attributes with neither bit set: those of completion entries, MSI-X messages and reads (R98, R469). -/
def Attr.plain : Attr := { ro := false, ns := false }

/-- Attributes of writes of data, trailers and extended-status records (R469): Relaxed Ordering where the function's
Device Control enables it (bit 4 of offset 0x68; reset value PRESUMED from PCIe, log entry 24), No Snoop never. -/
def Dev.dataAttr (d : Dev) (fn : Nat) : Attr := { ro := bitOf ((d.fn fn).cfg.getD 0x68 0x2810) 4, ns := false }

/-- `f` applied to a queue pair. -/
def Dev.updQp (qp : Nat) (f : QP → QP) (d : Dev) : Dev := { d with q := { d.q with qps := Map.upd qp f d.q.qps } }

/-- `f` applied to each of some queue pairs. -/
def Dev.updQps (qps : List Nat) (f : QP → QP) (d : Dev) : Dev := qps.foldl (fun d n => d.updQp n f) d

/-- An MSI-X message for queue pairs, or for no queue pair: pending while its vector is masked, held while the function
may not write, counted where it is sent (`IRQ_RAISED`, R116). -/
def sendMsix (fn vec : Nat) (qps : List Nat) (d : Dev) : Dev :=
  if (d.fn fn).vecCtrl vec % 2 = 1 then
    (d.updFn fn fun f => { f with pba := insertNat vec f.pba }).updQps qps fun q => { q with irqWait := true }
  else if (d.fn fn).mayWrite then qps.foldl (fun d n => bump 2 n 7 1 d) (emit (.msix fn vec .plain) d)
  else d.updFn fn (fun f => { f with held := f.held ++ [.irq vec qps] })

/-- `WAKE_N` of the port that entered retention is asserted, if its PF's `PME_En` is set (R460). -/
def wake (d : Dev) : Dev :=
  if d.pwr.retention && bitOf ((d.fn (256 * d.pwr.retPort)).cfg.getD 0x44 0) 8 then
    d.updHport d.pwr.retPort (fun h => { h with wakeN := false })
  else d

/-- A cause bit of one PF is raised; an unmasked rise sends the `IRQ_VEC` vector (R455). In retention a rise of ERROR
or THERMAL asserts `WAKE_N` (R460). -/
def setCause (fn bit : Nat) (d : Dev) : Dev :=
  if bitOf (d.fn fn).irqCause.toNat bit then d
  else
    let d := d.updFn fn (fun f => { f with irqCause := f.irqCause ||| BitVec.ofNat 32 (2 ^ bit) })
    let d := if bit = 1 || bit = 6 then wake d else d
    if bitOf (d.fn fn).irqMask.toNat bit then d
    else sendMsix fn ((d.fn fn).irqVec.toNat % 2048) [] d

/-- A cause bit raised on every PF that passes a test. -/
def setCauses (bit : Nat) (p : Fn → Bool) (d : Dev) : Dev :=
  [0, 256, 512, 768].foldl (fun d fn => if p (d.fn fn) then setCause fn bit d else d) d

end Sys2Proof.Machine
end

