-- ==== Sys2Proof/Machine/Ops.lean ====
section
/-! DEFINITION. The operations the commands share: error records, trace records, messages to partners, and the
completion of a command (R98). -/

namespace Sys2Proof.Machine

/-! ## Trace records (R409 to R411) -/

/-- A trace record put into the export's buffer, if its source is enabled and the filter passes it; dropped and counted
when the buffer of 4,096 is full (TRACE_RECORD_DROP). -/
def trace (source event : Nat) (tenant : Option Nat) (ident : Nat) (data : Bytes) (d : Dev) : Dev :=
  let t := d.integ.trace
  let pass := t.enabled && bitOf t.sources source &&
    (!t.filter || tenant == none || tenant == some t.tenant)
  if !pass then d
  else if t.buf.length < 4096 then
    let rec0 := leBytes 1 source ++ leBytes 1 event ++
      leBytes 2 (tenant.getD 0 + 2 ^ 15 * b2n tenant.isSome) ++ leBytes 4 ident ++ leBytes 8 d.now ++
      (data ++ zeros 16).take 16
    d.updInteg fun i => { i with trace := { t with buf := t.buf ++ [rec0] } }
  else d.updInteg fun i => { i with trace := { t with dropped := t.dropped + 1, dropNew := t.dropNew + 1 } }

/-! ## Error records (R111, R112, R413) -/

/-- A record of a class and kind with nothing else in it. -/
def ErrRec.mk0 (cls kind : Nat) : ErrRec :=
  { id := 0, cls := cls, kind := kind, dpaValid := false, objValid := false, tenValid := false, injected := false,
    tick := 0, block := 0, inst := 0, sub := 0, unit := 0, locator := 0, version := 0, tile := 0, tenant := 0,
    related := 0, detail := [], flushed := false }

/-- The next record ID: 1 to 0xFFFF_FFFF, then 1 again (Table 3-8). -/
def nextErrId (last : Nat) : Nat := if last ≥ 0xFFFFFFFF then 1 else last + 1

/-- The detail area: 16 bytes, what is not named reads 0 (R551). -/
def detail16 (b : Bytes) : Bytes := (b ++ zeros 16).take 16

/-- An error record raised: its ID, and the device with it in the log. The ring holds 65,536; a record of class
permanent or fatal is written to flash before the device acts on it further (R413), raises the `ERROR` cause on PFs
bound to td0 (Table 16-7), and a TILE_DAMAGED or STACK_LOST record that names a tenant raises `DAMAGE` on its PFs. -/
def raiseRec (r : ErrRec) (d : Dev) : Nat × Dev :=
  let id := nextErrId d.integ.lastId
  let r := { r with id := id, tick := d.now, flushed := r.cls ≥ 2, detail := detail16 r.detail }
  let log := d.integ.log ++ [r]
  let d := d.updInteg fun i => { i with lastId := id, log := log.drop (log.length - 65536) }
  let d := if r.cls ≥ 2 then setCauses 1 (fun f => f.bound == some 0) d else d
  let d := if (r.kind = 0x06 || r.kind = 0x09) && r.tenValid then
    setCauses 3 (fun f => f.bound == some r.tenant) d else d
  let d := trace 0 1 (if r.tenValid then some r.tenant else none) id
    (leBytes 1 r.cls ++ leBytes 1 r.kind ++ leBytes 1 r.block ++ leBytes 1 r.inst ++ leBytes 2 r.sub ++ zeros 2 ++
      leBytes 8 r.locator) d
  (id, d)

/-- A record raised, its ID not wanted. -/
def raise (r : ErrRec) (d : Dev) : Dev := (raiseRec r d).2

/-- The detail area as a tenant may see it: the `new_dpa` of a REBUILT record, its first 8 bytes, is a DPA too (R112,
Table 14-20). -/
def ErrRec.detailFor (r : ErrRec) (reader : Nat) : Bytes :=
  if r.kind = 0x05 ∧ reader ≠ 0 then zeros 8 ++ (detail16 r.detail).drop 8 else detail16 r.detail

/-- The 64 bytes of an error record (Table 3-8), as a tenant may see them: a DPA reads 0 to any but td0 (R112). -/
def ErrRec.bytes (r : ErrRec) (reader : Nat) : Bytes :=
  let hide := r.dpaValid && reader != 0
  leBytes 4 r.id ++ leBytes 1 r.cls ++ leBytes 1 r.kind ++
    leBytes 2 (b2n (r.dpaValid && !hide) + 2 * b2n r.objValid + 4 * b2n r.tenValid + 8 * b2n r.injected) ++
    leBytes 8 r.tick ++ leBytes 1 r.block ++ leBytes 1 r.inst ++ leBytes 2 r.sub ++ leBytes 4 r.unit ++
    leBytes 8 (if hide then 0 else r.locator) ++ leBytes 4 r.version ++ leBytes 4 r.tile ++ leBytes 2 r.tenant ++
    zeros 2 ++ leBytes 4 r.related ++ r.detailFor reader

/-! ## Messages to partners (R427, R433, R436, R440) -/

/-- A message padded with zeros to a multiple of 8 bytes (R427). -/
def pad8 (b : Bytes) : Bytes := b ++ zeros ((8 - b.length % 8) % 8)

/-- A message queued on a port for a tenant under a QoS label, with its absolute deadline where it is Scarlet. The
device sends only for tenants in the port's set (R440); a message of another tenant, or for an unbound or retired port,
goes nowhere, and one for a port whose partner is not the one bound is dropped and counted (R439). -/
def sendMsgA (after : OnTx) (qos due port cls tenant : Nat) (b : Bytes) (d : Dev) : Dev :=
  let p := d.port port
  if !p.bound || p.retired || !p.tenants.contains tenant then d
  else if p.idFail then bump 4 port 10 1 d
  else
    let m : TxMsg :=
      { cls := cls, data := pad8 b, qos := qos, due := due, tenant := tenant, since := d.now, after := after }
    d.updPort port fun p => { p with txq := p.txq ++ [m], lastMsg := d.now }

/-- The same of a message that nothing follows. -/
def sendMsgQ (qos due port cls tenant : Nat) (b : Bytes) (d : Dev) : Dev := sendMsgA .none qos due port cls tenant b d

/-- A message under the shared background label. -/
def sendMsg (port cls tenant : Nat) (b : Bytes) (d : Dev) : Dev := sendMsgQ 0 0 port cls tenant b d

/-- A standalone `SIGNAL` under a label that adds to a counter of the partner (Table 10-3, R316). -/
def sendSignalAdd (qos port tenant target amount : Nat) (d : Dev) : Dev :=
  sendMsgQ qos 0 port 3 tenant
    (leBytes 1 0x08 ++ leBytes 1 0x02 ++ leBytes 2 tenant ++ leBytes 4 target ++ leBytes 6 amount ++ zeros 18) d

/-- The header of a `TILE_DATA` message (Table 6-5). -/
def tileDataHdr (flags status stream tag len tile dest off : Nat) : Bytes :=
  leBytes 1 0x02 ++ leBytes 1 flags ++ leBytes 1 status ++ zeros 1 ++ leBytes 4 stream ++ leBytes 2 tag ++
    leBytes 2 len ++ leBytes 4 tile ++ leBytes 8 dest ++ leBytes 4 off ++ zeros 4

/-- Data cut at 16,384-byte offsets, each piece with its offset. -/
def segments (b : Bytes) : List (Nat × Bytes) :=
  (List.range (ceilDiv b.length 16384)).map fun k => (16384 * k, (b.drop (16384 * k)).take 16384)

/-- Data written to partner memory for a near-tier queue pair: `TILE_DATA` on the command channel (R436). The fields
that R436 does not name are 0 (log entry 12). -/
def cmdchWrite (port tenant qp tag : Nat) (w : Wr) (d : Dev) : Dev :=
  (segments w.data).foldl (fun d s =>
    sendMsg port 2 tenant (tileDataHdr 0 0 0xFFFFFFFF tag s.2.length qp (w.addr + s.1) 0 ++ s.2) d) d

/-! ## Completions (R97 to R100, R109, R110) -/

/-- Whether a status counts as success (Table 3-10). -/
def Status.good (s : Status) : Bool := s == .success || s == .successDegraded

/-- The command's tag. -/
def Cmd.tag (c : Cmd) : Nat := c.entry.fld 2 0 16

/-- A completion with a status and nothing else. -/
def Cpl.of (s : Status) : Cpl := { status := s, results := 0, errId := 0, data := [], ext := none }

/-- A successful completion whose results bytes from 0x08 on are `b`. -/
def Cpl.ok (b : Bytes) : Cpl :=
  { status := .success, results := BitVec.ofNat 128 (leNat b), errId := 0, data := [], ext := none }

/-- Kind code of an extended-status record (Table 3-7). -/
def Ext.kind : Ext → Nat
  | .field _ _ _ => 1 | .capacity _ _ _ _ => 2 | .quota _ _ _ => 3 | .admission _ _ _ => 4 | .conflict _ _ => 5
  | .tiles _ _ => 6 | .part _ => 7

/-- The 64 bytes of an extended-status record (Table 3-7). -/
def Ext.bytes (e : Ext) (status tag : Nat) : Bytes :=
  let head := leBytes 1 status ++ leBytes 1 e.kind ++ leBytes 2 tag
  let body := match e with
    | .field off bit dataOff => zeros 4 ++ leBytes 1 off ++ leBytes 1 bit ++ zeros 6 ++ leBytes 8 dataOff
    | .capacity half tc near far =>
      zeros 4 ++ leBytes 1 half ++ zeros 7 ++ leBytes 8 tc ++ leBytes 8 near ++ leBytes 8 far
    | .quota tc near far => zeros 4 ++ leBytes 1 2 ++ zeros 7 ++ leBytes 8 tc ++ leBytes 8 near ++ leBytes 8 far
    | .admission res inst short => zeros 4 ++ leBytes 1 res ++ leBytes 1 inst ++ zeros 6 ++ leBytes 8 short
    | .conflict res own => zeros 4 ++ leBytes 1 res ++ leBytes 1 (b2n own)
    | .tiles ver ts =>
      leBytes 4 ver ++ leBytes 4 ts.length ++
        (List.range 13).flatMap fun k => leBytes 4 (ts.getD k 0xFFFFFFFF)
    | .part done => zeros 4 ++ leBytes 8 done
  (head ++ body ++ zeros 64).take 64

/-- Bytes 0x04 to 0x1F of a completion entry (Table 3-3). -/
def cqeTail (sqHead : Nat) (c : Cpl) (tick : Nat) : Bytes :=
  leBytes 4 sqHead ++ leBytes 16 c.results.toNat ++ leBytes 4 c.errId ++ leBytes 4 tick

/-- Bytes 0x00 to 0x03 of a completion entry (Table 3-3). -/
def cqeHead (tag : Nat) (c : Cpl) (phase ext degraded : Bool) : Bytes :=
  leBytes 2 tag ++ leBytes 1 c.status.code ++ leBytes 1 (b2n phase + 2 * b2n ext + 4 * b2n degraded)

/-- A queue pair. -/
def Dev.qp? (d : Dev) (qp : Nat) : Option QP := d.q.qps.get? qp

/-- A taken command. -/
def Dev.cmd? (d : Dev) (c : Nat) : Option Cmd := d.q.cmds.get? c

/-- `f` applied to a taken command. -/
def Dev.updCmd (c : Nat) (f : Cmd → Cmd) (d : Dev) : Dev := { d with q := { d.q with cmds := Map.upd c f d.q.cmds } }

/-- A command that is no longer outstanding. -/
def Dev.dropCmd (c : Nat) (d : Dev) : Dev := { d with q := { d.q with cmds := Map.del c d.q.cmds } }

/-- Whether a command was taken from a queue pair. -/
def Cmd.ofQp (c : Cmd) (qp : Nat) : Bool :=
  match c.origin with
  | .queue q _ => q == qp
  | _ => false

/-- The queue pair's vector is raised: one message signals every completion before it (MSIX_RAISE, R93). -/
def raiseVector (qp : Nat) (d : Dev) : Dev :=
  match d.qp? qp with
  | some q =>
    match q.loc with
    | .host fn _ => sendMsix fn q.vector [qp] (d.updQp qp fun q => { q with unsig := 0 })
    | .near _ => d
  | none => d

/-- What a completion entry's queue pair shows after one more entry is written: next slot, phase, counts. -/
def QP.afterCpl (q : QP) (now : Nat) : QP :=
  let wrap := q.cqPos + 1 = 2 ^ q.log2Depth
  { q with
    cqPos := if wrap then 0 else q.cqPos + 1
    phase := if wrap then !q.phase else q.phase
    reserved := q.reserved - 1
    cqUsed := q.cqUsed + 1
    unsig := q.unsig + 1
    unsigTick := if q.unsig = 0 then now else q.unsigTick }

/-- The coalescing threshold in count: an admin queue signals as if it were 1 (R456). -/
def QP.count (q : QP) : Nat := if q.admin then 1 else q.coalCount

/-- The writes of a completion, in the order of R98, and the vector where it is due. -/
def writeCpl (qp slot : Nat) (q : QP) (cmd : Cmd) (c : Cpl) (d : Dev) : Dev :=
  let hasExt := c.ext.isSome && q.extBase != 0
  let ext : List Wr := match c.ext with
    | some e => if hasExt then [⟨q.extBase + 64 * slot, e.bytes c.status.code cmd.tag⟩] else []
    | none => []
  let tail := cqeTail q.sqHead c (d.now % 2 ^ 32)
  let head := cqeHead cmd.tag c q.phase hasExt d.cplDegraded
  let irq := bitOf (cmd.entry.fld 1 0 8) 1
  let d := match q.loc with
    | .host fn _ =>
      let at' := q.cqBase + 32 * q.cqPos
      let d := (c.data ++ ext).foldl (fun d w => emit (.hostWrite fn w.addr (d.dataAttr fn) w.data) d) d
      let d := bump 5 (fn / 256) 1 (((c.data ++ ext).map fun w => w.data.length).sum + 32) d
      emit (.hostWrite fn at' .plain head) (emit (.hostWrite fn (at' + 4) .plain tail) d)
    | .near port =>
      let d := (c.data ++ ext).foldl (fun d w => cmdchWrite port q.tenant qp cmd.tag w d) d
      sendMsg port 2 q.tenant
        (leBytes 1 0x0A ++ leBytes 1 (b2n irq) ++ leBytes 2 qp ++ zeros 4 ++ head ++ tail) d
  let d := bump 2 qp 1 1 (bump 2 qp 2 (b2n !c.status.good) (bump 2 qp 3 (b2n hasExt) d))
  let d := d.updQp qp (QP.afterCpl · d.now)
  let q' := q.afterCpl d.now
  if irq || (q.count != 0 && q'.unsig ≥ q.count) then raiseVector qp d else d

/-- The response message of a management command (R494): completion entry, response data, record. -/
def mgmtResponse (cmd : Cmd) (c : Cpl) (d : Dev) : Bytes :=
  cqeHead cmd.tag c true c.ext.isSome d.cplDegraded ++ cqeTail 0 c (d.now % 2 ^ 32) ++
    c.data.flatMap Wr.data ++
    (match c.ext with
      | some e => e.bytes c.status.code cmd.tag
      | none => [])

/-- A command ends with a completion (COMPLETION_WRITE, R98), or has it held while its function may not write
(R460, R466); with data still to be written while Bus Master Enable is clear, it ends with `BUS_MASTER_OFF` (R466). -/
def finish1 (n : Nat) (c : Cpl) (d : Dev) : Dev :=
  match d.cmd? n with
  | none => d
  | some cmd =>
    match cmd.origin with
    | .mgmt b => emit (.mgmt b (mgmtResponse cmd c d)) (d.dropCmd n)
    | .preset ix =>
      let d := d.dropCmd n
      if c.status.good then d
      else raise { ErrRec.mk0 1 0x14 with
        block := 7, detail := leBytes 1 3 ++ zeros 3 ++ leBytes 2 ix ++ leBytes 1 c.status.code } d
    | .queue qp slot =>
      match d.qp? qp with
      | none => d.dropCmd n
      | some q =>
        let blocked := match q.loc with
          | .host fn _ => !(d.fn fn).mayWrite
          | .near _ => false
        let fn := match q.loc with
          | .host fn _ => fn
          | .near _ => 0
        if q.discard then
          let d := match q.loc with
            | .near p => bump 4 p 10 1 d
            | .host _ _ => d
          (d.updQp qp fun q => { q with reserved := q.reserved - 1 }).dropCmd n
        else if blocked then
          let c := if !(d.fn fn).bme && !c.data.isEmpty then Cpl.of .busMasterOff else c
          (d.updFn fn fun f => { f with held := f.held ++ [.cpl n c] }) |>.updCmd n fun x => { x with phase := .held }
        else
          let d := trace 1 2 (some cmd.tenant) (qp + 2 ^ 16 * cmd.tag)
            (leBytes 1 (cmd.entry.fld 0 0 8) ++ leBytes 1 c.status.code ++ leBytes 2 (cmd.entry.fld 4 0 12) ++
              zeros 4 ++ leBytes 8 (cmd.entry.fld 8 0 64)) d
          (writeCpl qp slot q cmd c d).dropCmd n

/-- Whether a queue pair has a taken command whose completion is not written. -/
def Dev.busyQp (d : Dev) (qp : Nat) : Bool := d.q.cmds.any fun p => p.2.ofQp qp

/-- A queue pair removed: its ID and doorbell index are free. -/
def Dev.removeQp (qp : Nat) (d : Dev) : Dev := { d with q := { d.q with qps := Map.del qp d.q.qps } }

/-- Untaken entries of a queue pair. -/
def QP.untaken (q : QP) : Nat :=
  match q.loc with
  | .host _ _ => (q.sqTail + 2 ^ q.log2Depth - q.sqHead) % 2 ^ q.log2Depth
  | .near _ => q.ring.length

/-- Bytes of the near tier that a queue pair's rings take (R85): 96 bytes a slot, rounded up to 256. -/
def ringBytes (log2Depth : Nat) : Nat := roundUp (96 * 2 ^ log2Depth) 256

/-- Near-tier bytes held outside objects, added to a tenant's charge (Table 5-4). -/
def addNearT (t n : Nat) (d : Dev) : Dev :=
  { d with tiers := { d.tiers with extraNear := Map.set t (d.tiers.extraNear.getD t 0 + n) d.tiers.extraNear } }

/-- The same taken away. -/
def subNearT (t n : Nat) (d : Dev) : Dev :=
  { d with tiers := { d.tiers with extraNear := Map.set t (d.tiers.extraNear.getD t 0 - n) d.tiers.extraNear } }

/-- Near-tier bytes held outside objects, added to what a half holds. -/
def addNearH (half n : Nat) (d : Dev) : Dev :=
  { d with tiers := { d.tiers with extraHalf := d.tiers.extraHalf.modify half (· + n) } }

/-- The same taken away. -/
def subNearH (half n : Nat) (d : Dev) : Dev :=
  { d with tiers := { d.tiers with extraHalf := d.tiers.extraHalf.modify half (· - n) } }

/-- Near-tier bytes of a tenant on a half. -/
def addNear (t half n : Nat) (d : Dev) : Dev := addNearH half n (addNearT t n d)

/-- The same taken away. -/
def subNear (t half n : Nat) (d : Dev) : Dev := subNearH half n (subNearT t n d)

/-- Every `KERNEL_ABORT` whose run's completion has been written completes (R246). -/
def reapAborts (d : Dev) : Dev :=
  d.comp.aborts.foldl (fun d p =>
    if (d.cmd? p.2).isSome then d
    else finish1 p.1 (Cpl.ok []) { d with comp := { d.comp with aborts := d.comp.aborts.erase p } }) d

/-- Every queue pair whose deletion waits for its last command and has none left is deleted, and its `QP_DELETE`
completes with the number of entries discarded (R104). An admin queue disabled through `AQ_CTRL` ends so too (R456): its
deleter is no command. -/
def reapQps (d : Dev) : Dev :=
  d.q.qps.foldl (fun d p =>
    match p.2.deleter with
    | none => d
    | some c =>
      if d.busyQp p.1 then d
      else
        let d := d.removeQp p.1
        let d := match p.2.loc with
          | .host fn 0 => if p.2.admin then d.updFn fn fun f => { f with aqReady := false, aqFault := false } else d
          | .host _ _ => d
          | .near port => subNear p.2.tenant (portHalf port) (ringBytes p.2.log2Depth) d
        if p.2.admin then d else finish1 c (Cpl.ok (leBytes 4 p.2.untaken)) d) d

/-- A command ends with a completion; aborts and deletions that waited for it follow (an admin queue's last). -/
def finishCmd (n : Nat) (c : Cpl) (d : Dev) : Dev := reapQps (reapQps (reapAborts (finish1 n c d)))

/-- A command waits for an event of the device, unless it has ended and its completion is held. -/
def parkCmd (n : Nat) (d : Dev) : Dev :=
  d.updCmd n fun c => { c with phase := if c.phase = .held then .held else .waiting }

/-! ## After every command -/

/-- Code of a link state (Table 15-9). -/
def LinkState.code : LinkState → Nat
  | .disabled => 0 | .detect => 1 | .equalise => 2 | .align => 3 | .ident => 4 | .active => 5 | .retrain => 6
  | .quiet => 7

/-- Trace records of sources 6 and 7 (Table 14-19): domains on and off, thermal steps, link states, narrower widths. -/
def traceDiff (d0 d : Dev) : Dev :=
  if !d.integ.trace.enabled then d
  else
    let d := (List.range 40).foldl (fun a pd =>
      if d0.domain pd = d.domain pd then a
      else if d.domain pd = .on then trace 6 1 none pd [] a
      else if d.domain pd = .off then trace 6 2 none pd [] a else a) d
    let d := [0, 1].foldl (fun a h =>
      let n := d.pwr.thermStep.getD h 0
      if d0.pwr.thermStep.getD h 0 = n then a else trace 6 3 none h (leBytes 1 n) a) d
    let d := (List.range 56).foldl (fun a p =>
      let old := d0.port p
      let new := d.port p
      let data := leBytes 1 new.st.code ++ leBytes 1 new.width
      let a := if old.st = new.st then a else trace 7 1 none p data a
      if old.width < new.width ∧ new.width < 3 then trace 7 3 none p data a else a) d
    [0, 1, 2, 3].foldl (fun a n =>
      let new := d.hport n
      let data := leBytes 1 (b2n new.linkUp) ++ leBytes 1 (if new.narrow then 4 else 16)
      if (d0.hport n).linkUp = new.linkUp then a else trace 7 1 none (0x100 + n) data a) d

/-- After a command: `MODE` where `GST_STATUS` [6:0] changed, `THERMAL` where `clk_step` changed (Table 16-7). -/
def settle (d0 d : Dev) : Dev :=
  let d := traceDiff d0 d
  let d1 := if d0.gst.toNat % 128 = d.gst.toNat % 128 then d else setCauses 0 (fun _ => true) d
  if d0.clkStep = d.clkStep then d1 else setCauses 6 (fun _ => true) d1

/-- A meaning of the management die or of the always-on logic lifted to the state: it leaves the queue and the HDM
decoders alone. -/
def onMgmt (f : Dev → Dev) (s : State) : Host.Outcome State Fault Refusal :=
  .next { s with dev := settle s.dev (f s.dev) }

/-- A meaning of the ports lifted to the state. While boundary scan runs the data path is stopped (R550): nothing
happens. -/
def onPort (f : Dev → Dev) (s : State) : Host.Outcome State Fault Refusal :=
  if s.dev.pwr.bscan then .next s else onMgmt f s

/-- A meaning of the data path lifted to the state: in D3cold retention it is off as well (R460), and what falls due in
that time takes effect at exit. -/
def onDev (f : Dev → Dev) (s : State) : Host.Outcome State Fault Refusal :=
  if s.dev.pwr.retention then .next s else onPort f s

/-- A meaning of what a host sends to one of its functions lifted to the state: with the port's link down nothing comes
from the host (R7). -/
def onHost (fn : Nat) (f : Dev → Dev) (s : State) : Host.Outcome State Fault Refusal :=
  if (s.dev.hport (fn / 256)).linkUp then onDev f s else .next s

end Sys2Proof.Machine
end

