-- ==== Sys2Proof/Machine/Regul.lean ====
section
/-! DEFINITION. Regulators at work: runtime peaks and derated capacity, effective guarantees, grants, missed guarantees
(R343, R344, R349 to R351, R355 to R358). -/

namespace Sys2Proof.Machine

/-! ## Capacity (R343, R344) -/

/-- A non-negative rational: numerator and denominator. -/
abbrev Frac := Nat × Nat

/-- Sum. -/
def Frac.add (a b : Frac) : Frac :=
  let n := a.1 * b.2 + b.1 * a.2
  let m := a.2 * b.2
  let g := max 1 (Nat.gcd n m)
  (n / g, m / g)

/-- `a ≤ b`. -/
def Frac.le (a b : Frac) : Bool := decide (a.1 * b.2 ≤ b.1 * a.2)

/-- Instances that share one capacity: both directions of a half's tier, one direction of a port (R347). -/
def capInst (res inst : Nat) : Nat := if res ≤ 1 then inst / 2 else inst

/-- Whether a resource code and an instance are listed (Table 12-2). -/
def resOk (res inst : Nat) : Bool :=
  if res ≤ 1 then decide (inst < 4) else res == 2 && decide (inst % 64 ≤ 55) && !bitOf inst 6 && decide (inst < 256)

/-- Peak of a far channel by its rate code, bytes per AO tick. -/
def farPeak (rate : Nat) : Nat := if rate = 0 then 4096 else if rate = 1 then 3328 else 2816

/-- Whether a port is trained: its link is up, or retrains on its way back to where it was (Table 15-1). -/
def Port.trained (p : Port) : Bool :=
  match p.st with
  | .active | .quiet | .retrain => true
  | .align | .ident => p.keep
  | _ => false

/-- `P_rt` of a resource in 32nds of a byte per AO tick. -/
def Dev.peak32 (d : Dev) (res inst : Nat) : Nat :=
  let part (c : Ctrl) (p : Nat) : Nat := if c.inServ && !c.retired then p * (if c.refX2 then 31 else 32) else 0
  if res = 0 then sumTo 16 fun k => part (d.ctrl (16 * (inst / 2) + k)) (farPeak (d.ctrl (16 * (inst / 2) + k)).rate)
  else if res = 1 then sumTo 3 fun k => part (d.ctrl (32 + 3 * (inst / 2) + k)) (64 * 1280)
  else
    let p := d.port (inst % 64)
    if p.retired || !p.trained || p.width ≥ 3 then 0 else 32 * (7500 / 2 ^ p.width)

/-- Derating in per cent. -/
def derate (res : Nat) : Nat := if res = 0 then 75 else if res = 1 then 85 else 90

/-- `D_rt`, bytes per AO tick. -/
def Dev.derated (d : Dev) (res inst : Nat) : Frac := (d.peak32 res inst * derate res, 3200)

/-! ## Guarantees (R347, R355) -/

/-- `f` applied to the regulation state. -/
def Dev.updQos (f : Qos → Qos) (d : Dev) : Dev := { d with qos := f d.qos }

/-- `f` applied to a regulator. -/
def Dev.updReg (r : Nat) (f : Reg → Reg) (d : Dev) : Dev := d.updQos fun q => { q with regs := Map.upd r f q.regs }

/-- Whether an entry counts against the capacity of a resource. -/
def QEntry.on (e : QEntry) (res inst : Nat) : Bool := e.resource == res && capInst res e.inst == capInst res inst

/-- Rates held on a resource by regulators that pass a test. -/
def Dev.heldRate (d : Dev) (res inst : Nat) (f : Nat → Reg → Bool) : Frac :=
  d.qos.regs.foldl (fun a p =>
    if f p.1 p.2 then
      p.2.ents.foldl (fun a e => if e.on res inst then Frac.add a (e.guar, p.2.window) else a) a
    else a) (0, 1)

/-- Windows left of a cut on the tier of a half, 0 for none or for a port (R357). -/
def Reg.cutOn (g : Reg) (res inst : Nat) : Nat := if res ≤ 1 then g.cuts.getD (2 * res + inst / 2) 0 else 0

/-- Effective guarantee of an entry under the scale of R355 and a cut (R357). -/
def Dev.effective (d : Dev) (r : Reg) (e : QEntry) : Nat :=
  let cls := r.cls
  let cap := d.derated e.resource e.inst
  let s := d.heldRate e.resource e.inst fun _ r => r.cls == 3
  let g := d.heldRate e.resource e.inst fun _ r => r.cls != 3
  let eff :=
    if Frac.le (Frac.add s g) cap then e.guar
    else if Frac.le cap s then (if cls = 3 then e.guar * (cap.1 * s.2) / max 1 (cap.2 * s.1) else 0)
    else if cls = 3 then e.guar
    else
      let left := cap.1 * s.2 - s.1 * cap.2
      e.guar * (left * g.2) / max 1 (cap.2 * s.2 * g.1)
  if r.cutOn e.resource e.inst = 0 then eff else min eff (e.guar / 2)

/-- Resources on which a reservation lies, each once, as code and capacity instance. -/
def Dev.reserved (d : Dev) : List (Nat × Nat) :=
  (d.qos.regs.flatMap fun p => p.2.ents.map fun e => (e.resource, capInst e.resource e.inst)).foldl
    (fun l k => if l.contains k then l else l ++ [k]) []

/-- Whether a resource is oversubscribed (R355). -/
def Dev.isOver (d : Dev) (res inst : Nat) : Bool :=
  !Frac.le (d.heldRate res inst fun _ _ => true) (d.derated res inst)

/-- An instance that stands for a capacity instance. -/
def anyInst (res ci : Nat) : Nat := if res ≤ 1 then 2 * ci else ci

/-- Every effective guarantee recomputed (R355), with the trace records of what became or ceased to be
oversubscribed. -/
def requalify (d : Dev) : Dev :=
  let exceeded := d.reserved.filter fun k => d.isOver k.1 (anyInst k.1 k.2)
  let old := d.qos.oversub
  let d := d.updQos fun q => { q with
    oversub := exceeded
    regs := q.regs.mapVals fun _ r => { r with ents := r.ents.map fun e => { e with eff := d.effective r e } } }
  let ev (code : Nat) (l : List (Nat × Nat)) (d : Dev) : Dev :=
    l.foldl (fun d k => trace 5 code none (k.1 + 256 * anyInst k.1 k.2) [] d) d
  ev 4 (exceeded.filter fun k => !old.contains k) (ev 5 (old.filter fun k => !exceeded.contains k) d)

/-! ## Grants (R349 to R351) -/

/-- A grant at one entry: within a positive budget it is charged to it; a Scarlet request beyond it is demoted. -/
def QEntry.grant (n : Nat) (e : QEntry) : QEntry :=
  { e with granted := e.granted + n, budget := if e.budget > 0 then e.budget - n else e.budget }

/-- Bytes granted at a resource to the regulator of a label. -/
def grantBytes (label res inst n : Nat) (d : Dev) : Dev :=
  let r := label % 1024
  match d.qos.regs.get? r with
  | none => d
  | some g =>
    if label / 1024 ≠ g.cls ∨ n = 0 then d
    else
      let demoted := g.cls == 3 && g.ents.any fun e => e.resource == res && e.inst == inst && decide (e.budget ≤ 0)
      let d := bump 6 r 1 n (bump 6 r 4 (if demoted then n else 0) d)
      d.updReg r fun g => { g with
        ents := g.ents.map fun e => if e.resource = res ∧ e.inst = inst then e.grant n else e }

/-- Whether `m` comes before `n` in the round after `last`: ascending from `last` on, and around. -/
def roundBefore (last m n : Nat) : Bool := if last < m then decide (n ≤ last ∨ m < n) else decide (n ≤ last ∧ m < n)

/-- The label work is served under: a label whose regulator has been released is the shared background label (R359). -/
def Dev.label (d : Dev) (q : Nat) : Nat :=
  match d.qos.regs.get? (q % 1024) with
  | some r => if r.cls = q / 1024 then q else 0
  | none => 0

/-- The class work is served under (Table 12-1). -/
def Dev.clsOf (d : Dev) (q : Nat) : Nat := d.label q / 1024

/-- The absolute deadline of work that names none: 65,535 AO ticks from now in the Scarlet class, none in the others
(R342). -/
def Dev.deadlineOf (d : Dev) (q : Nat) : Nat := if d.clsOf q = 3 then d.now + 65535 else 0

/-! ## Missed guarantees (R358) -/

/-- The allowance of a resource in AO ticks. -/
def allowance (res : Nat) : Nat := if res = 0 then 50 else 25

/-- A guarantee missed: the count, the cause, and a record at most once in 65,536 AO ticks. -/
def missed (r : Nat) (g : Reg) (e : QEntry) (d : Dev) : Dev :=
  let d := bump 6 r 3 1 d
  let d := setCauses 2 (fun f => f.bound == some 0 || f.bound == some g.tenant) d
  let d := trace 5 3 (some g.tenant) r (leBytes 8 e.granted ++ leBytes 8 e.guar) d
  let d := d.updReg r fun g => { g with lastMiss := d.now }
  let due : Bool := match ((d.qos.regs.get? r).bind fun g => g.lastRec) with
    | some t => decide (t + 65536 ≤ d.now)
    | none => true
  if due then
    raise { ErrRec.mk0 1 0x0E with
      tenValid := true, tenant := g.tenant, block := if e.resource = 2 then 1 else 3 + e.resource
      inst := if e.resource = 2 then e.inst % 64 else 0
      detail := leBytes 2 r ++ leBytes 1 e.resource ++ leBytes 1 e.inst ++ leBytes 5 e.granted ++ leBytes 5 e.guar }
      (d.updReg r fun g => { g with lastRec := some d.now })
  else d

end Sys2Proof.Machine
end

