-- ==== Sys2Proof/Machine/Rows.lean ====
section
/-! DEFINITION. Accesses of the memory controllers: banks and rows, the page predictor, refresh management and row
disturbance, the accesses that wait at the near stacks (R369, R371, R374, R382 to R385). -/

namespace Sys2Proof.Machine

/-! ## Where an access lies (R382, R384) -/

/-- Bank and row of a far channel's offset (Table 13-4), the rank in the row's top bits. A line takes both subchannels
alike, so one bank number, 32 × rank + bank, stands for both (log entry 16). -/
def Dev.bankRow (d : Dev) (ch o : Nat) : Nat × Nat :=
  let per := (d.group (ch / 8)).modGib * 2 ^ 30 / max 1 (d.ctrl ch).ranks
  (32 * (if per = 0 then 0 else o / per) + o / 2 ^ 14 % 32, o / 2 ^ 19)

/-- Bank, 16 × pseudo-channel + bank, and row of an offset in a near stack (R384). -/
def nearBankRow (n : Nat) : Nat × Nat :=
  let o := n / 2 ^ 14 * 256 + n % 256
  (16 * (n / 256 % 64) + o / 2 ^ 10 % 16, o / 2 ^ 14)

/-- The stack a thing without a placement rule lies on. -/
def stackFor (kind ident half : Nat) : Nat := 3 * half + Config.stackOf kind ident % 3

/-- Offsets in its stack of the entries of a thing in the near tier that no rule places, 256 bytes each (log entry 13). -/
def nearAddrs (ident : List Nat) (bytes : Nat) : List Nat :=
  (List.range (ceilDiv bytes 256)).map fun k => Config.nearAt ident k % 2 ^ 28 * 256

/-- A request reaches a near stack's queues: its entries issue at the next AO tick (R383). -/
def nearAccess (s : Nat) (ident : List Nat) (bytes label : Nat) (write : Bool) (d : Dev) : Dev :=
  { d with mem := { d.mem with nearQ := d.mem.nearQ ++
      [{ stack := s, addrs := nearAddrs ident bytes, reg := d.label label % 1024, write := write }] } }

/-! ## Counts (R374, R385) -/

/-- Controller's scope and instance in `STATS_READ`. -/
def ctlScope (n : Nat) : Nat × Nat := if n < 32 then (7, n) else (8, n - 32)

/-- A counter of a controller. -/
def bumpCtl (n idx k : Nat) (d : Dev) : Dev := bump (ctlScope n).1 (ctlScope n).2 idx k d

/-- Trace identifier of a controller (Table 14-19). -/
def ctlIdent (n : Nat) : Nat := if n < 32 then n else 256 + (n - 32)

/-- A trace record of source 4 about a controller. -/
def traceCtl (ev n reg : Nat) (d : Dev) : Dev :=
  trace 4 ev none (ctlIdent n) (leBytes 2 reg ++ leBytes 2 (d.ctrl n).rq) d

/-- The activation counted for a regulator among the four tracked for a bank (R374). -/
def trackReg (r : Nat) (l : List (Nat × Nat)) : List (Nat × Nat) :=
  if l.any (·.1 == r) then l.map fun p => if p.1 = r then (r, p.2 + 1) else p
  else if l.length < 4 then l ++ [(r, 1)]
  else
    let low := l.foldl (fun (a : Nat × Nat) p =>
      if p.2 < a.2 || (p.2 == a.2 && a.1 < p.1) then p else a) (l.headD (0, 0))
    l.map fun p => if p == low then (r, low.2 + 1) else p

/-- The tracked regulator with the highest count, the lower index on a tie. -/
def offender (l : List (Nat × Nat)) : Nat :=
  (l.foldl (fun (a : Nat × Nat) p => if a.2 < p.2 || (a.2 == p.2 && p.1 < a.1) then p else a) (l.headD (0, 0))).1

/-- The cut of R357 on a regulator's guarantees on the tier of a half: for the rest of this window and the 16 that follow,
which a further cut starts again. -/
def cutReg (r tier half : Nat) (d : Dev) : Dev :=
  requalify (d.updReg r fun g => { g with cuts := Map.set (2 * tier + half) 17 g.cuts })

/-- Half of a controller. -/
def ctlHalf (n : Nat) : Nat := if n < 32 then chanHalf n else stackHalf (n - 32)

/-- A bank has taken more activations within one refresh interval than the disturbance threshold (R374). -/
def disturbed (n bank : Nat) (d : Dev) : Dev :=
  let r := offender ((d.ctrl n).track.getD bank [])
  let d := bumpCtl n 9 1 (bumpCtl n 8 1 d)
  if r = 0 then d else traceCtl 7 n r (cutReg r (b2n (decide (32 ≤ n))) (ctlHalf n) d)

/-! ## One access (R369, R371, R374) -/

/-- Channel of a controller whose retry buffer holds a bank's commands: a near stack has one for each of 32 channels
(Table 13-6). -/
def retryChan (n bank : Nat) : Nat := if n < 32 then 0 else bank / 32

/-- An access in the retry buffer of its channel: the last 32 are kept (R371). -/
def buffered (n bank row : Nat) (l : List (Nat × Nat)) : List (Nat × Nat) :=
  let mine (p : Nat × Nat) : Bool := retryChan n p.1 == retryChan n bank
  (if 32 ≤ (l.filter mine).length then l.eraseP mine else l) ++ [(bank, row)]

/-- An access: controller, bank, row, regulator, and whether it writes. -/
structure Access where
  ctl   : Nat
  bank  : Nat
  row   : Nat
  reg   : Nat
  write : Bool
deriving DecidableEq, Repr

/-- One entry issued: the row it opens, the predictor, the counts. `next` is the row that the next queued request of the bank
names: it keeps the row open or closes it, whatever the predictor says (R369). -/
def issueLine (a : Access) (next : Option Nat) (d : Dev) : Dev :=
  let n := a.ctl
  let b := a.bank
  let c := d.ctrl n
  let hit := c.rows.get? b == some a.row
  let p0 := c.pred.getD b 2
  let last := p0 / 4
  let p := if last = 0 then p0 % 4 else if last = a.row + 1 then min 3 (p0 % 4 + 1) else p0 % 4 - 1
  let keep : Bool := match next with
    | some r => r == a.row
    | none => decide (p ≥ 2)
  let acts := c.acts.getD b 0 + b2n !hit
  let raa := c.rfm.getD b 0 + b2n !hit
  let rfm := !hit && Config.rfmThreshold n != 0 && decide (raa ≥ Config.rfmThreshold n)
  let d := d.updCtrl n fun c => { c with
    rows := if keep then Map.set b a.row c.rows else Map.del b c.rows
    pred := Map.set b (4 * (a.row + 1) + p) c.pred
    accAt := Map.set b d.now c.accAt
    acts := Map.set b acts c.acts
    rfm := Map.set b (if rfm then raa - Config.rfmThreshold n else raa) c.rfm
    track := if hit then c.track else Map.set b (trackReg a.reg (c.track.getD b [])) c.track
    retry := buffered n b a.row c.retry
    lastReq := d.now }
  let d := bumpCtl n 8 (b2n rfm) (bumpCtl n 3 (b2n (!hit && c.rows.has b)) (bumpCtl n 2 (b2n hit) d))
  let d := bumpCtl n (b2n a.write) 1 d
  if !hit && acts == d.feat 0x07 4 16 + 1 then disturbed n b d else d

/-- Accesses issued in order at the controllers that serve; those after each, and `more`, wait in the queues meanwhile. -/
def issueAll (more : List Access) : List Access → Dev → Dev
  | [], d => d
  | a :: l, d =>
    let same (x : Access) : Bool := x.ctl == a.ctl && x.bank == a.bank
    let next := ((l.find? same).or (more.find? same)).map (·.row)
    issueAll more l (if (d.ctrl a.ctl).inServ && !(d.ctrl a.ctl).retired then issueLine a next d else d)

/-- The entries of a request at a near stack. -/
def NearAcc.accesses (r : NearAcc) : List Access :=
  r.addrs.map fun n =>
    { ctl := 32 + r.stack, bank := (nearBankRow n).1, row := (nearBankRow n).2, reg := r.reg, write := r.write }

/-- The entries that wait at the near stacks issue, oldest first. -/
def nearTick (d : Dev) : Dev :=
  issueAll [] (d.mem.nearQ.flatMap NearAcc.accesses) { d with mem := { d.mem with nearQ := [] } }

end Sys2Proof.Machine
end

