-- ==== Sys2Proof/Machine/Operands.lean ====
section
/-! DEFINITION. Operand forms: the fields of every opcode's submission entry, which queues and tenants may issue it, and
the checks of R95 steps 2 to 5 (Table 3-2, Table 3-5, the opcode tables of each chapter). -/

namespace Sys2Proof

/-! ## Names of the common fields (Table 3-2) -/

/-- The opcode. -/
def Entry.op (e : Entry) : Nat := e.fld 0 0 8
/-- `ORDERED`. -/
def Entry.ordered (e : Entry) : Bool := e.fld 1 0 1 == 1
/-- `TRAILER`. -/
def Entry.trailer (e : Entry) : Bool := e.fld 1 2 1 == 1
/-- The QoS label. -/
def Entry.qos (e : Entry) : Nat := e.fld 4 0 12
/-- Handle A. -/
def Entry.ha (e : Entry) : Nat := e.fld 8 0 64
/-- Handle B. -/
def Entry.hb (e : Entry) : Nat := e.fld 0x10 0 64
/-- The address. -/
def Entry.addr (e : Entry) : Nat := e.fld 0x18 0 64
/-- The byte at 0x20, an action or selector in most opcodes. -/
def Entry.b20 (e : Entry) : Nat := e.fld 0x20 0 8
/-- 32 bits at an offset. -/
def Entry.w32 (e : Entry) (off : Nat) : Nat := e.fld off 0 32
/-- 16 bits at an offset. -/
def Entry.w16 (e : Entry) (off : Nat) : Nat := e.fld off 0 16
/-- 64 bits at an offset. -/
def Entry.w64 (e : Entry) (off : Nat) : Nat := e.fld off 0 64

end Sys2Proof

namespace Sys2Proof.Machine

/-! ## Fields -/

/-- A listed field: byte offset, lowest bit, width, and the values it lists. -/
structure Fld where
  off : Nat
  lo  : Nat
  w   : Nat
  ok  : Nat → Bool

/-- A field every value of which is listed. -/
def any (off lo w : Nat) : Fld := ⟨off, lo, w, fun _ => true⟩

/-- A field of listed codes. -/
def cod (off lo w : Nat) (l : List Nat) : Fld := ⟨off, lo, w, fun v => l.contains v⟩

/-- A field whose values run from `a` to `b`. -/
def rng (off lo w a b : Nat) : Fld := ⟨off, lo, w, fun v => decide (a ≤ v ∧ v ≤ b)⟩

/-- Fields of the opcode-specific bytes that only some forms of an opcode use; in its other forms they are reserved, at
their own places. A handle or the address that some form uses is used by the opcode, and is free in the other forms
unless the spec says that it is 0 there (R90). DEDUCED (log entry 28). -/
def used (c : Bool) (l : List Fld) : List Fld := if c then l else l.map fun f => { f with ok := fun v => v == 0 }

/-- A field the spec says is 0. -/
def zer (off lo w : Nat) : Fld := ⟨off, lo, w, fun v => v == 0⟩

/-- Bits of a group of fields at one offset: whether bit `i` is listed. -/
def covered (g : List Fld) (i : Nat) : Bool := g.any fun f => decide (f.lo ≤ i ∧ i < f.lo + f.w)

/-- Lowest bit of the first run of unlisted bits below `n` that holds a 1. -/
def badGap (g : List Fld) (v : Nat) : Nat → Nat → Option Nat → Option Nat
  | 0, _, _ => none
  | k + 1, i, run =>
    if covered g i then badGap g v k (i + 1) none
    else
      let start := run.getD i
      if bitOf v i then some start else badGap g v k (i + 1) (some start)

/-- Whole bytes a group of fields at one offset takes. -/
def groupBytes (g : List Fld) : Nat := g.foldl (fun n f => max n ((f.lo + f.w + 7) / 8)) 0

/-- The offending fields of an entry: reserved bits that are not zero, and unlisted values; each as offset and lowest
bit (R13, R110). A byte no field touches is a field of its own. -/
def offending (fs : List Fld) (e : Entry) : List (Nat × Nat) :=
  let offs := fs.foldl (fun l f => insertNat f.off l) []
  let groups := offs.map fun o => (o, fs.filter (·.off == o))
  let bad := fs.filterMap fun f => if f.ok (e.fld f.off f.lo f.w) then none else some (f.off, f.lo)
  let gaps := groups.filterMap fun p =>
    let n := 8 * groupBytes p.2
    (badGap p.2 (e.fld p.1 0 n) n 0 none).map fun b => (p.1, b)
  let touched (k : Nat) : Bool := groups.any fun p => decide (p.1 ≤ k ∧ k < p.1 + groupBytes p.2)
  let bytes := (List.range 64).filterMap fun k =>
    if !touched k && e.fld k 0 8 != 0 then some (k, 0) else none
  bad ++ gaps ++ bytes

/-- The first offending field by offset and bit. -/
def firstBad (fs : List Fld) (e : Entry) : Option (Nat × Nat) :=
  (offending fs e).foldl (fun a p =>
    match a with
    | none => some p
    | some q => if p.1 * 512 + p.2 < q.1 * 512 + q.2 then some p else some q) none

/-- The fields every opcode has; `TRAILER` only where the opcode defines a trailer (R94). -/
def commonFlds (trailer : Bool) : List Fld :=
  [any 0 0 8, any 1 0 1, any 1 1 1, cod 1 2 1 (if trailer then [0, 1] else [0]), any 2 0 16, any 4 0 12]

/-- Handle A used. -/
def fHa : Fld := any 8 0 64
/-- Handle B used. -/
def fHb : Fld := any 0x10 0 64
/-- The address used. -/
def fAddr : Fld := any 0x18 0 64

/-! ## Opcodes (Table 3-5) -/

/-- Where an opcode may be issued. -/
inductive Where where
  | any | host | admin
deriving DecidableEq, Repr

/-- An opcode's row of Table 3-5. -/
structure OpRow where
  q      : Where
  td0    : Bool
  before : Bool

/-- Table 3-5. -/
def opRow (op : Nat) : Option OpRow :=
  let anyNo : OpRow := ⟨.any, false, false⟩
  let anyYes : OpRow := ⟨.any, false, true⟩
  let admYes : OpRow := ⟨.admin, true, true⟩
  let admNo : OpRow := ⟨.admin, true, false⟩
  if op = 0x00 ∨ op = 0x01 ∨ op = 0x02 ∨ op = 0x09 ∨ op = 0x82 ∨ op = 0xA0 ∨ op = 0xA7 ∨ op = 0xA8 then some anyYes
  else if op = 0x03 ∨ op = 0x06 ∨ op = 0x07 then some admYes
  else if op = 0x04 ∨ op = 0x05 then some ⟨.admin, false, true⟩
  else if op = 0x08 ∨ (0x10 ≤ op ∧ op ≤ 0x16) ∨ op = 0x1A then some anyNo
  else if op = 0x17 ∨ op = 0x18 then some ⟨.host, false, false⟩
  else if op = 0x19 then some ⟨.any, true, false⟩
  else if 0x20 ≤ op ∧ op ≤ 0x24 then some anyNo
  else if op = 0x25 then some admYes
  else if op = 0x26 then some admNo
  else if (0x30 ≤ op ∧ op ≤ 0x32) ∨ (0x40 ≤ op ∧ op ≤ 0x42) ∨ (0x50 ≤ op ∧ op ≤ 0x54) ∨
      (0x60 ≤ op ∧ op ≤ 0x68) ∨ (0x70 ≤ op ∧ op ≤ 0x72) ∨ op = 0x84 then some anyNo
  else if op = 0x80 ∨ op = 0x81 ∨ (0xA1 ≤ op ∧ op ≤ 0xA5) ∨ (0xB0 ≤ op ∧ op ≤ 0xB2) ∨
      (0xF0 ≤ op ∧ op ≤ 0xF2) then some admYes
  else if op = 0x83 ∨ (0x90 ≤ op ∧ op ≤ 0x93) then some admNo
  else if op = 0xA6 then some ⟨.host, false, true⟩
  else none

/-- The opcodes kept in the fatal state (R401). -/
def fatalKept (e : Entry) : Bool :=
  [0x00, 0x01, 0x02, 0x09, 0x82, 0xA8, 0xA7, 0xA0, 0xA1, 0xA2, 0xA3, 0xA4, 0xA5, 0x05].contains e.op ||
    (e.op == 0x04 && e.b20 != 1)

/-- Whether an opcode defines a trailer: `OBJ_SEAL` (R76), and `KERNEL_RUN`, `STREAM_OPEN` and the others name none. -/
def hasTrailer (op : Nat) : Bool := op == 0x13

/-! ## Fields of each opcode -/

/-- Fields of opcodes 0x00 to 0x09 (queues, tenants, ports, groups, statistics). -/
def fldsBase (e : Entry) : List Fld :=
  let a := e.b20
  if e.op = 0x01 then
    [fAddr, cod 0x20 0 8 [0, 1, 2, 3]] ++ used (a == 3) [any 0x24 0 32, any 0x28 0 16]
  else if e.op = 0x02 then [fAddr, any 0x20 0 8]
  else if e.op = 0x03 then [any 0x20 0 8, any 0x28 0 64, any 0x30 0 64, any 0x38 0 64]
  else if e.op = 0x04 then
    let host := a != 1
    let pf := e.w16 0x22 % 256 == 0
    [cod 0x20 0 8 [0, 1], any 0x38 0 64, rng 0x28 0 5 4 16, rng 0x29 0 8 1 255, any 0x2C 0 16, any 0x2E 0 16] ++
      used host [fAddr, rng 0x24 0 16 (b2n pf) 8191, any 0x2A 0 11, any 0x30 0 64] ++
      used (!host) [any 0x26 0 10] ++ [rng 0x22 0 16 0 (if host then 1023 else 55)]
  else if e.op = 0x05 then [any 0x20 0 16, any 0x22 0 1]
  else if e.op = 0x06 then
    [cod 0x20 0 8 [0, 1, 2, 3]] ++ used (a != 3) [any 0x22 0 10] ++ used (a ≥ 2) [any 0x24 0 16]
  else if e.op = 0x07 then
    [cod 0x20 0 8 [0, 1, 2, 3], rng 0x21 0 8 0 55, fAddr] ++ used (a == 0) [cod 0x22 0 2 [0, 1, 2], any 0x28 0 64]
  else if e.op = 0x08 then
    let n := e.fld 0x21 0 8
    [cod 0x20 0 8 [0, 1]] ++ used (a == 0) [rng 0x21 0 8 1 7] ++ used (a == 1) [any 0x22 0 16] ++
      (List.range 7).flatMap fun k => used (decide (k < n)) [any (0x24 + 4 * k) 0 32]
  else if e.op = 0x09 then
    [fAddr, rng 0x20 0 8 0 9, any 0x21 0 1, any 0x24 0 32, any 0x28 0 16, rng 0x2A 0 16 1 256]
  else []

/-- Fields of the object commands. -/
def fldsObj (e : Entry) : List Fld :=
  let a := e.b20
  if e.op = 0x10 then
    [cod 0x20 0 8 [0, 1], cod 0x2C 0 8 [0, 1]] ++
      used (a == 0)
        [cod 0x21 0 8 [1, 2, 3, 4], cod 0x22 0 8 [1, 2, 3, 4, 5, 0x10, 0x11, 0x12, 0x13, 0x14, 0x15],
         rng 0x23 0 3 0 4, rng 0x23 4 3 0 4, any 0x24 0 32, any 0x28 0 32, rng 0x2D 0 8 0 4] ++
      used (a == 1) [fHa, any 0x30 0 32]
  else if e.op = 0x11 ∨ e.op = 0x12 then
    [fHa, fAddr, any 0x20 0 32, any 0x24 0 32, rng 0x28 0 16 1 4096, any 0x2C 0 32]
  else if e.op = 0x13 then [fHa, fAddr, any 0x20 0 32]
  else if e.op = 0x14 then [fHa, any 0x20 0 32, any 0x24 0 1]
  else if e.op = 0x15 then [fHa, any 0x20 0 32, rng 0x25 0 8 0 4]
  else if e.op = 0x16 then
    [fHa, fAddr, cod 0x20 0 8 [1, 2, 3, 4]] ++ used (a == 2 || a == 4) [any 0x24 0 32] ++
      used (a ≥ 2) [any 0x28 0 32]
  else if e.op = 0x17 then [fHa, fHb, any 0x20 0 32, any 0x28 0 64]
  else if e.op = 0x18 then [any 0x20 0 32]
  else if e.op = 0x19 then
    [fAddr, cod 0x20 0 8 [0, 1, 2], any 0x28 0 64, any 0x30 0 64] ++ used (a == 1) [any 0x22 0 10] ++
      [fHa]
  else if e.op = 0x1A then [fHa, cod 0x20 0 8 [0, 1], any 0x22 0 10, any 0x24 0 32]
  else []

/-- Fields of the tier commands. -/
def fldsTier (e : Entry) : List Fld :=
  let a := e.b20
  if e.op = 0x20 then [fHa, any 0x20 0 32, any 0x24 0 32, rng 0x28 0 32 1 0xFFFFFFFF, any 0x2C 0 1]
  else if e.op = 0x21 ∨ e.op = 0x23 then [any 0x20 0 32]
  else if e.op = 0x22 then
    [fAddr, rng 0x20 0 32 1 1048576, any 0x24 0 17, rng 0x28 0 8 1 64, rng 0x29 0 8 0 (e.fld 0x28 0 8),
     any 0x2A 0 1, any 0x2C 0 32, any 0x30 0 48, ⟨0x38, 0, 8, fun v => decide (v ≤ 55) || v == 0xFF⟩]
  else if e.op = 0x24 then
    let inl := e.addr == 0
    let n := e.w16 0x26
    [fAddr, any 0x20 0 32, any 0x24 0 16, rng 0x26 0 16 1 (if inl then 6 else 1024)] ++
      (List.range 6).flatMap fun k => used (inl && decide (k < n)) [any (0x28 + 4 * k) 0 32]
  else if e.op = 0x25 then
    [cod 0x20 0 8 [0, 1, 2, 3]] ++
      used (a ≤ 1) [any 0x24 0 32, any 0x28 0 32, rng 0x2C 0 32 1 0xFFFFFFFF] ++
      used (a == 0) [any 0x21 0 1, any 0x21 1 1] ++ used (a ≥ 2) [any 0x38 0 32] ++
      [fHa, fAddr, if a = 0 then any 0x30 0 6 else if a = 1 then zer 0x30 0 6 else any 0x30 0 64]
  else if e.op = 0x26 then
    [cod 0x20 0 8 [0, 1], cod 0x21 0 8 [0, 1, 2], any 0x22 0 10] ++ used (a == 0) [any 0x28 0 64]
  else []

/-- Fields of the stream and reduction commands. -/
def fldsStr (e : Entry) : List Fld :=
  let a := e.b20
  if e.op = 0x30 then
    [cod 0x20 0 8 [0, 1, 2, 3], any 0x21 0 1, rng 0x22 0 8 0 55, rng 0x2C 0 16 1 4096] ++
      used (a ≤ 1) [fHa, any 0x24 0 32, any 0x28 0 32] ++
      used (a ≥ 2) [any 0x30 0 32] ++ used (a == 2) [any 0x34 0 16]
  else if e.op = 0x31 then [any 0x20 0 32, any 0x24 0 1]
  else if e.op = 0x32 then [fAddr, any 0x20 0 32]
  else if e.op = 0x40 then
    [fHa, fAddr, any 0x20 0 32, any 0x24 0 32, any 0x28 0 32, any 0x2C 0 16, any 0x2E 0 8,
     cod 0x2F 0 8 [1, 2, 4, 5], any 0x30 0 16, any 0x32 0 1, any 0x34 0 17]
  else if e.op = 0x41 then
    [fAddr, any 0x20 0 32, rng 0x24 0 32 1 0xFFFFFFFF, any 0x28 0 1] ++ used (e.addr != 0) [any 0x2C 0 32]
  else if e.op = 0x42 then [any 0x20 0 32]
  else []

/-- Fields of the kernel commands. -/
def fldsKer (e : Entry) : List Fld :=
  let a := e.b20
  if e.op = 0x50 then
    let lib := e.fld 0x24 0 8 == 1
    [cod 0x24 0 8 [0, 1]] ++ used (!lib) [fAddr, any 0x20 0 32] ++ used lib [any 0x26 0 16]
  else if e.op = 0x51 then
    [fHa, fAddr, any 0x20 0 32, any 0x24 0 1, any 0x28 0 64, any 0x30 0 20, any 0x34 0 20, any 0x38 0 32,
     any 0x3C 0 16, any 0x26 0 16]
  else if e.op = 0x52 then [any 0x20 0 16, any 0x22 0 16]
  else if e.op = 0x53 then [fHa]
  else if e.op = 0x54 then
    [cod 0x20 0 8 [0, 1, 2, 3]] ++ used (a != 0) [any 0x24 0 32] ++
      used (a == 1 || a == 2) [rng 0x22 0 16 0 0xFFFE] ++
      [fHa, fAddr] ++ used (a == 1) [any 0x21 0 1, any 0x28 0 32, any 0x2C 0 32, rng 0x30 0 16 1 256,
        ⟨0x34, 0, 16, fun v => v % 32 == 0 && decide (v ≤ 16384)⟩,
        ⟨0x36, 0, 16, fun v => v % 32 == 0 && decide (v ≤ 16384)⟩]
  else []

/-- Fields of the synchronisation commands. -/
def fldsSync (e : Entry) : List Fld :=
  let a := e.b20
  let home : Fld := cod 0x24 0 8 [0, 1, 2, 3, 0xFF]
  if e.op = 0x60 then [rng 0x20 0 16 1 4096, any 0x22 0 16, home]
  else if e.op = 0x61 then [rng 0x20 0 16 1 4096, any 0x22 0 16, zer 0x24 0 8]
  else if e.op = 0x62 then
    [cod 0x22 0 8 [0, 1]] ++ used (e.fld 0x22 0 8 != 1) [any 0x20 0 16] ++
      used (e.fld 0x22 0 8 == 1) [any 0x24 0 17, rng 0x28 0 48 1 (2 ^ 20)]
  else if e.op = 0x63 then [any 0x20 0 16]
  else if e.op = 0x64 then
    [rng 0x20 0 16 1 256, zer 0x24 0 17, cod 0x28 0 8 [0, 1, 2, 3, 0xFF], any 0x30 0 48]
  else if e.op = 0x65 then [rng 0x20 0 16 1 256, any 0x24 0 17, zer 0x28 0 8, zer 0x30 0 48]
  else if e.op = 0x66 then
    [fAddr, cod 0x20 0 8 [0, 1]] ++ used (a == 1) [any 0x22 0 12] ++
      used (a == 0) [any 0x24 0 16, rng 0x26 0 8 0 16, cod 0x27 0 8 [0, 1, 2, 3, 0xFF],
        rng 0x28 0 32 1 0xFFFFFFFF]
  else if e.op = 0x67 then [any 0x20 0 16]
  else if e.op = 0x68 then
    let f := e.fld 0x21 0 8
    [cod 0x20 0 8 [0, 1, 2], cod 0x21 0 8 (if a = 0 then [0, 1, 2] else [0, 2]),
     rng 0x22 0 16 0 (if a = 0 then 0xFFFF else if a = 1 then 0 else 0xFFF),
     rng 0x28 0 48 0 (if a = 0 then 0 else if a = 1 then 2 ^ 48 - 1 else 0x3FF)] ++
      used (a == 1) [any 0x24 0 17] ++ used (a == 0 && f == 1) [any 0x30 0 32] ++
      used (f != 2) [rng 0x34 0 32 1 0xFFFFFFFF]
  else []

/-- Fields of the regulation commands. -/
def fldsQos (e : Entry) : List Fld :=
  if e.op = 0x70 then
    let slate := e.fld 0x20 0 2 == 0
    [any 0x20 0 2, any 0x21 0 1, any 0x22 0 10, rng 0x24 0 16 1 65535, any 0x28 0 10] ++
      used (!slate) [rng 0x26 0 8 1 120, fAddr]
  else if e.op = 0x71 then [any 0x20 0 16]
  else if e.op = 0x72 then
    let res := e.b20 == 1
    [fAddr, cod 0x20 0 8 [0, 1]] ++ (if res then [any 0x22 0 8, any 0x23 0 8] else [any 0x22 0 16])
  else []

/-- Fields of the integrity commands. -/
def fldsInt (e : Entry) : List Fld :=
  let a := e.b20
  if e.op = 0x80 then [fAddr, any 0x20 0 64, any 0x28 0 64]
  else if e.op = 0x81 then
    [fAddr, cod 0x20 0 8 [0, 1, 2]] ++ used (a == 0) [cod 0x21 0 8 [0, 1, 2], any 0x28 0 64] ++
      used (a == 0 && e.fld 0x21 0 8 != 2) [rng 0x30 0 32 1 0xFFFFFFFF]
  else if e.op = 0x82 then
    [fAddr, cod 0x20 0 8 [0, 1, 2], any 0x24 0 32, rng 0x28 0 16 1 1024]
  else if e.op = 0x83 then
    [fHa, cod 0x20 0 8 [0, 1, 2]] ++ used (a ≤ 1) [any 0x21 0 2] ++ used (a == 2) [any 0x24 0 32, any 0x28 0 32]
  else if e.op = 0x84 then
    let t := e.ha / 2 ^ 48 % 64
    if t = 6 then [fHa, any 0x28 0 64, any 0x30 0 64]
    else [⟨8, 0, 64, fun h => decide (1 ≤ h / 2 ^ 48 % 64 ∧ h / 2 ^ 48 % 64 ≤ 4)⟩, any 0x20 0 32, any 0x24 0 32,
      any 0x28 0 32]
  else if e.op = 0xF0 then
    [rng 0x20 0 8 0 5, any 0x21 2 1, rng 0x24 0 32 1 65535] ++ used (a == 0) [rng 0x21 0 2 1 3] ++
      used (a == 2) [rng 0x22 0 8 0 31] ++ used (a == 3) [rng 0x22 0 8 0 55] ++
      used (a == 4) [any 0x2C 0 32] ++ used (a ≤ 1) [any 0x30 0 64]
  else if e.op = 0xF1 then
    [cod 0x20 0 8 [0, 1, 2]] ++
      used (a == 0) [any 0x21 0 1, any 0x21 1 1, any 0x21 2 1, any 0x24 0 8] ++
      used (a == 0 && e.fld 0x21 2 1 == 1) [any 0x22 0 10]
  else if e.op = 0xF2 then
    [any 0x20 0 8, any 0x21 0 8] ++ used (a == 0) [any 0x24 0 32]
  else []

/-- Fields of the window commands. -/
def fldsCxl (e : Entry) : List Fld :=
  let a := e.b20
  if e.op = 0x90 then
    [cod 0x20 0 8 [0, 1],
     ⟨0x21, 0, 8, fun v => decide (v ≤ 3) || (a == 0 && decide (0x10 ≤ v ∧ v ≤ 0x1F))⟩, any 0x22 0 10,
     any 0x24 0 12, any 0x28 0 64, any 0x30 0 64] ++ used (a == 0) [rng 0x26 0 8 0 4]
  else if e.op = 0x91 then [fHa]
  else if e.op = 0x92 then
    [fAddr, cod 0x20 0 8 [0, 1], any 0x24 0 32] ++ used (a == 0) [any 0x28 0 32, any 0x2C 0 32]
  else if e.op = 0x93 then
    [cod 0x20 0 8 [0, 1], rng 0x21 0 8 0 15] ++ used (a == 0) [rng 0x22 0 16 1 15]
  else []

/-- Fields of the management and power commands. -/
def fldsMgmt (e : Entry) : List Fld :=
  let a := e.b20
  if e.op = 0xA0 then [fAddr, any 0x20 0 64, any 0x28 0 64, any 0x30 0 64, any 0x38 0 64]
  else if e.op = 0xA1 then
    [fAddr, cod 0x20 0 8 [0, 1, 2]] ++ used (a ≤ 1) [any 0x28 0 64] ++ used (a == 1) [any 0x30 0 32]
  else if e.op = 0xA2 then []
  else if e.op = 0xA3 then [fAddr, cod 0x20 0 8 [0, 1]]
  else if e.op = 0xA4 then [fAddr, any 0x28 0 32]
  else if e.op = 0xA5 then [fAddr, cod 0x20 0 8 [0, 1, 2]]
  else if e.op = 0xA6 then [fAddr, cod 0x20 0 8 [0, 1, 2]]
  else if e.op = 0xA7 then
    [fAddr, cod 0x20 0 8 [0, 1], if a = 1 then rng 0x28 0 16 1 128 else any 0x28 0 64] ++
      used (a == 1) [any 0x24 0 32] ++ used (a != 1) [any 0x30 0 32, any 0x34 0 32]
  else if e.op = 0xA8 then [fAddr, any 0x20 0 16, rng 0x22 0 16 1 256]
  else if e.op = 0xB0 then
    let z (off hi lo : Nat) : Fld := ⟨off, 0, 32, fun v => v == 0 || decide (lo ≤ v ∧ v ≤ hi)⟩
    [fAddr, cod 0x20 0 8 [0, 1]] ++
      used (a == 0) [any 0x34 0 1, any 0x34 1 1, rng 0x24 0 32 250 250000, z 0x28 2500000 250,
        z 0x2C 25000000 250, z 0x30 25000000 2500]
  else if e.op = 0xB1 then
    [cod 0x20 0 8 [0, 1, 2], any 0x21 0 2] ++ used (a ≤ 1) [any 0x22 0 8]
  else if e.op = 0xB2 then [any 0x20 0 4]
  else []

/-- The common fields no listed field stands at: the opcode does not use them (R90). -/
def unusedFlds (l : List Fld) : List Fld :=
  [zer 6 0 16, zer 8 0 64, zer 0x10 0 64, zer 0x18 0 64].filter fun z => !l.any fun f => f.off == z.off

/-- Fields with handles and the address at any value where the selector of the opcode is unlisted: no form then says
which of them are used. -/
def freeHandles (e : Entry) (l : List Fld) : List Fld :=
  let sel := l.any fun f => f.off == 0x20 && !f.ok (e.fld f.off f.lo f.w)
  l.map fun f => if sel && decide (8 ≤ f.off ∧ f.off < 0x20) then { f with ok := fun _ => true } else f

/-- All fields of an entry. -/
def opFields (e : Entry) : List Fld :=
  let l := freeHandles e <| commonFlds (hasTrailer e.op) ++ fldsBase e ++ fldsObj e ++ fldsTier e ++ fldsStr e ++
    fldsKer e ++ fldsSync e ++ fldsQos e ++ fldsInt e ++ fldsCxl e ++ fldsMgmt e
  l ++ unusedFlds l

/-! ## How a command fails -/

/-- A status without detail. -/
def errS (s : Status) : Cpl := Cpl.of s

/-- `INVALID_FIELD` with a record that locates a field of the entry (R110). -/
def errF (off : Nat) (bit : Nat := 0) : Cpl := { Cpl.of .invalidField with ext := some (.field off bit 0) }

/-- `INVALID_FIELD` with a record that locates a byte of the data at `addr`. -/
def errD (dataOff : Nat) : Cpl := { Cpl.of .invalidField with ext := some (.field 0x18 0 dataOff) }

/-- `CONFLICT` with its record (R110): Table 1-8 row, 0xFE, or 0xFF. -/
def errC (res : Nat) (own : Bool) : Cpl := { Cpl.of .conflict with ext := some (.conflict res own) }

/-- A status that carries the ID of an error record. -/
def errE (s : Status) (id : Nat) : Cpl := { Cpl.of s with errId := id }

/-! ## Contexts -/

/-- What a body sees of its command. -/
structure Ctx where
  num : Nat
  cmd : Cmd

/-- The entry. -/
def Ctx.e (x : Ctx) : Entry := x.cmd.entry
/-- The issuing tenant. -/
def Ctx.t (x : Ctx) : Nat := x.cmd.tenant
/-- The half of the issuing port. -/
def Ctx.half (x : Ctx) : Nat := x.cmd.half

/-- The queue pair of a command, if it came from one. -/
def Ctx.qp? (x : Ctx) : Option Nat :=
  match x.cmd.origin with
  | .queue q _ => some q
  | _ => none

/-- The function whose queue pair issued a command. -/
def Ctx.fn? (x : Ctx) (d : Dev) : Option Nat :=
  match x.qp?.bind d.qp? with
  | some q =>
    match q.loc with
    | .host fn _ => some fn
    | .near _ => none
  | none => none

/-- Whether a command comes from an admin queue of a PF; the management path and the preset image act as one
(R494, R512). -/
def Ctx.admin (x : Ctx) (d : Dev) : Bool :=
  match x.qp?.bind d.qp? with
  | some q => q.admin
  | none => true

/-- Whether a command comes from a host-memory queue pair. -/
def Ctx.host (x : Ctx) (d : Dev) : Bool := (x.fn? d).isSome

/-- Whether a claim of the preset image keeps a command from a resource of Table 1-8: it comes before every runtime claim, of
its own kind as well (R45). -/
def presetHolds (x : Ctx) (row : Nat) (d : Dev) : Bool :=
  match x.cmd.origin with
  | .preset _ => false
  | _ => d.mgmt.claims.any (·.1 == row)

/-! ## Steps 2 to 5 of R95 -/

/-- The opcodes accepted in ROM recovery (R508): `NOP`, `IDENTIFY`, `ERRLOG_READ`, `ATTEST`, `FW_STAGE`, `FW_COMMIT`. -/
def romOps : List Nat := [0x00, 0x01, 0x82, 0xA0, 0xA1, 0xA2]

/-- Step 2: the current mode, ROM recovery, and the fatal state. `PLACE` is refused in service mode (R146). -/
def checkMode (x : Ctx) (row : OpRow) (d : Dev) : Except Cpl Unit :=
  let near := (x.qp?.isSome) && !x.host d
  if d.mgmt.romRec && !romOps.contains x.e.op then .error (errS .notReady)
  else if d.pwr.fatal && (near || !fatalKept x.e) then .error (errS .deviceError)
  else if d.pwr.mode != .service && !row.before then .error (errS .notReady)
  else if d.pwr.mode == .service && x.e.op == 0x25 then .error (errS .notReady)
  else .ok ()

/-- Step 3: the queue and the tenant. -/
def checkQueue (x : Ctx) (row : OpRow) (d : Dev) : Except Cpl Unit :=
  let ok := match row.q with
    | .any => true
    | .host => x.host d
    | .admin => x.admin d
  if ok && (!row.td0 || x.t == 0) then .ok () else .error (errS .notPermitted)

/-- Step 4: reserved fields and unlisted encodings. -/
def checkFields (x : Ctx) : Except Cpl Unit :=
  match firstBad (opFields x.e) x.e with
  | some (off, bit) => .error (errF off bit)
  | none => .ok ()

/-- Step 5: a duplicate tag (R91). -/
def checkDup (x : Ctx) : Except Cpl Unit :=
  if x.cmd.dup then
    let slot := match x.cmd.origin with
      | .queue _ s => s
      | _ => 0
    .error { Cpl.of .conflict with
      results := BitVec.ofNat 128 slot, ext := some (.field 0x02 0 0) }
  else .ok ()

/-- Steps 2 to 5. -/
def precheck (x : Ctx) (d : Dev) : Except Cpl Unit :=
  match opRow x.e.op with
  | none => .error (errS .invalidOpcode)
  | some row => do
    checkMode x row d
    checkQueue x row d
    checkFields x
    checkDup x

/-! ## Step 6: handles and the label (R50, R341) -/

/-- Tenant of a handle (Table 2-1). -/
def hTenant (h : Nat) : Nat := h / 2 ^ 54 % 1024
/-- Type of a handle. -/
def hType (h : Nat) : Nat := h / 2 ^ 48 % 64
/-- A handle. -/
def mkHandle (t ty n : Nat) : Nat := t * 2 ^ 54 + ty * 2 ^ 48 + n

/-- Whether a grant of the object covers a version number for a tenant; 0 is covered by any grant (R50). -/
def Obj.covers (o : Obj) (t v : Nat) : Bool :=
  o.grants.any fun g => g.grantee == t && (v == 0 || g.version == 0 || g.version == v)

/-- Whether a tenant may read a version: its own, or one a grant covers (R83). -/
def Obj.readableBy (o : Obj) (t v : Nat) : Bool := o.tenant == t || o.covers t v

/-- The object of a handle. -/
def Dev.obj? (d : Dev) (h : Nat) : Option Obj := d.objs.objs.get? h

/-- Whether an object still exists: some version of it is not released (R74). -/
def Obj.lives (o : Obj) : Bool := o.vers.any fun p => p.2.st != .released

/-- Whether a grant covers what another tenant's handle and a version number name (R50, step 1): the handle's type does
not matter here. -/
def Dev.granted (d : Dev) (t h ver : Nat) : Bool :=
  d.objs.objs.any fun p => hTenant p.1 == hTenant h && p.1 % 2 ^ 48 == h % 2 ^ 48 && p.2.lives && p.2.covers t ver

/-- R50 on a handle that names a tiled object, at the field `off`, with the version number the command names: first the
tenant or a grant, then the object and its type. -/
def checkHandle (x : Ctx) (off h ver : Nat) (d : Dev) : Except Cpl Obj :=
  if hTenant h ≠ x.t ∧ !d.granted x.t h ver then .error (errS .notPermitted)
  else
    match d.obj? h with
    | some o => if o.lives then .ok o else .error (errF off)
    | none => .error (errF off)

/-- The label check (R341). -/
def checkQos (x : Ctx) (d : Dev) : Except Cpl Unit :=
  let l := x.e.qos
  if l = 0 then .ok ()
  else match d.qos.regs.get? (l % 1024) with
    | some r => if r.tenant == x.t && r.cls == l / 1024 && l % 1024 != 0 then .ok () else .error (errS .notPermitted)
    | none => .error (errS .notPermitted)

/-- The sable-mode test of R23: work that would cross the bridge. -/
def checkPath (a b : Nat) (d : Dev) : Except Cpl Unit :=
  if d.pwr.sable && a != b then .error (errS .pathLost) else .ok ()

/-- `b` or an error. -/
def need (b : Bool) (c : Cpl) : Except Cpl Unit := if b then .ok () else .error c

/-! ## What a body answers -/

/-- What a command's own part answers: it reads a piece of the data at `addr`, it ends, or it waits. -/
inductive Res where
  | read (off len : Nat) (d : Dev)
  | done (c : Cpl) (d : Dev)
  | wait (d : Dev)

/-- A command's own part: it gets the pieces of data read so far and how a read failed, if one did. An error leaves the
state unchanged (R108). -/
abbrev Body := Ctx → List Bytes → Option Status → Dev → Except Cpl Res

/-- A body that reads nothing. -/
def plain (k : Ctx → Dev → Except Cpl Res) : Body := fun x _ _ d => k x d

/-- A body that reads one piece of data at `addr`: `len` makes the checks that come before the read and says how many
bytes it needs, `k` does the rest. With nothing to read, it runs at once. -/
def withData (len : Ctx → Dev → Except Cpl Nat) (k : Ctx → Bytes → Dev → Except Cpl Res) : Body :=
  fun x got fail d =>
    match fail with
    | some s => .error (errS s)
    | none =>
      match got with
      | b :: _ => do
        let _ ← len x d
        k x b d
      | [] => do
        let n ← len x d
        if n = 0 then k x [] d else .ok (.read 0 n d)

/-- A body's success with results. -/
def okRes (b : Bytes) (d : Dev) : Except Cpl Res := .ok (.done (Cpl.ok b) d)

/-- A body's success that writes data at `addr`. -/
def okData (x : Ctx) (b : Bytes) (data : Bytes) (d : Dev) : Except Cpl Res :=
  .ok (.done { Cpl.ok b with data := if data.isEmpty then [] else [⟨x.e.addr, data⟩] } d)

end Sys2Proof.Machine
end

