-- ==== Sys2Proof/Machine/Commands.lean ====
section
/-! DEFINITION. How a command runs: its checks, its reads of data at `addr` through DMA or the command channel, its own
part, its completion (R92, R95, R98, R437, R466, R467). -/

namespace Sys2Proof.Machine

/-! ## Reads -/

/-- The lowest number not in a list. -/
def lowestFree (l : List Nat) : Nat :=
  ((List.range (l.length + 1)).find? fun n => !l.contains n).getD 0

/-- A `TILE_RD_REQ` on the command channel (R437). -/
def sendCmdRead (port tenant tag addr len : Nat) (d : Dev) : Dev :=
  sendMsg port 0 tenant
    (leBytes 1 0x01 ++ zeros 3 ++ leBytes 4 0xFFFFFFFF ++ leBytes 2 tag ++ leBytes 2 1 ++ zeros 4 ++
      leBytes 8 addr ++ leBytes 4 len ++ zeros 20) d

/-- Bytes of one command-channel read: as many as fit the device's C2 buffer of 1,024 credits as messages of up to 16,384
data bytes (R433, R434, R437; DEDUCED, log entry 23). -/
def cmdReadMax : Nat := 65312

/-- Credits of the whole response to a read of `len` bytes. -/
def readCredits (len : Nat) : Nat := len / 16384 * 257 + if len % 16384 = 0 then 0 else ceilDiv (32 + roundUp (len % 16384) 8) 64

/-- Bytes asked for by the request of a read that is out. -/
def CmdRead.piece (r : CmdRead) : Nat := min (r.len - r.got.length / cmdReadMax * cmdReadMax) cmdReadMax

/-- C2 credits reserved for the responses outstanding. -/
def Port.readReserve (p : Port) : Nat := ((p.reads.filter fun r => decide (r.1 < 256)).map fun r => readCredits r.2.piece).sum

/-- The tag a read may go out under now: one of 256 that is free, with room for the response (R434, R437). -/
def Port.readTag (p : Port) (r : CmdRead) : Option Nat :=
  let t := lowestFree (p.reads.keys.filter (· < 256))
  if t < 256 ∧ p.readReserve + readCredits r.piece ≤ 1024 then some t else none

/-- Reads kept behind go out, oldest first, while they may (a key of 256 or more is such a read). -/
def pumpReads (port : Nat) : Nat → Dev → Dev
  | 0, d => d
  | k + 1, d =>
    match (d.port port).reads.find? (fun p => p.1 ≥ 256) with
    | none => d
    | some (key, r) =>
      let gone := d.updPort port fun p => { p with reads := Map.del key p.reads }
      match d.cmd? r.cmd with
      | none => pumpReads port k gone
      | some c =>
        match (d.port port).readTag r with
        | none => d
        | some t =>
          pumpReads port k (sendCmdRead port c.tenant t r.addr r.piece
            (gone.updPort port fun p => { p with reads := Map.set t { r with since := d.now } p.reads }))

/-- After a tag or room has become free, reads kept behind go out. -/
def pumpCmdReads (port : Nat) (d : Dev) : Dev := pumpReads port (d.port port).reads.length d

/-- A read put on the command channel of a port, behind those that wait. -/
def addCmdRead (port cmd addr len : Nat) (d : Dev) : Dev :=
  let r : CmdRead := { cmd := cmd, addr := addr, len := len, got := [], since := d.now }
  pumpCmdReads port (d.updPort port fun p =>
    { p with reads := Map.set ((p.reads.keys.foldl max 255) + 1) r p.reads })

/-- Whether a command may not read now: its function has Bus Master Enable clear (R466). -/
def Dev.readBarred (d : Dev) (n : Nat) : Bool :=
  match d.cmd? n with
  | some c =>
    match c.origin with
    | .queue qp _ =>
      match (d.qp? qp).map QP.loc with
      | some (.host fn _) => !(d.fn fn).bme
      | _ => false
    | _ => false
  | none => false

/-- Whether a function's ATS is enabled: bit 31 of the dword that holds ATS Control (Table 16-3). -/
def Fn.ats (f : Fn) : Bool := bitOf (f.cfg.getD 0x19C 0) 31

/-- A range put into the translation cache, of 32,768 entries (R470). -/
def Fn.translate (a len : Nat) (f : Fn) : Fn :=
  if !f.ats then f
  else
    let l := f.atc.filter (· != (a, len)) ++ [(a, len)]
    { f with atc := l.drop (l.length - 32768) }

/-- A command's read of `len` bytes at `addr + off` starts. -/
def startRead (n off len : Nat) (d : Dev) : Dev :=
  match d.cmd? n with
  | none => d
  | some c =>
    let a := c.entry.addr + off
    match c.origin with
    | .queue qp _ =>
      match d.qp? qp with
      | none => d
      | some q =>
        match q.loc with
        | .host fn _ =>
          let f := d.fn fn
          let tag := lowestFree (f.reads.keys ++ f.quar)
          emit (.dmaRead fn tag a len .plain)
            (d.updFn fn fun f => { f.translate a len with
              reads := Map.set tag { cmd := n, addr := a, len := len } f.reads })
        | .near port => addCmdRead port n a len d
    | _ => d

/-! ## Running a body -/

/-- A command whose data is inline: its body runs until it ends or waits; `k` bounds the pieces it may read. One that
would read past its request data, or write more than 4,032 bytes, completes with `INVALID_FIELD` (R494). -/
def runInline : Nat → Body → Nat → List Bytes → Dev → Dev
  | 0, _, n, _, d => finishCmd n (errS .deviceError) d
  | k + 1, body, n, got, d =>
    match d.cmd? n with
    | none => d
    | some c =>
      match body ⟨n, c⟩ got none d with
      | .error e => finishCmd n e d
      | .ok (.done cpl d') =>
        if (cpl.data.map fun w => w.data.length).sum > 4032 then finishCmd n (errF 0x18) d else finishCmd n cpl d'
      | .ok (.wait d') => parkCmd n d'
      | .ok (.read off len d') =>
        if off + len > c.input.length then finishCmd n (errF 0x18) d
        else runInline k body n (got ++ [(c.input.drop off).take len]) d'

/-- A completion with the ID of the record that explains it, where it has none of its own. -/
def Cpl.because (id : Nat) (c : Cpl) : Cpl := if c.errId = 0 then { c with errId := id } else c

/-- A command whose read has failed with a status: its body says what it reports (R108), `f` what its completion says
besides. -/
def failBody (body : Body) (n : Nat) (got : List Bytes) (st : Status) (f : Cpl → Cpl) (d : Dev) : Dev :=
  match d.cmd? n with
  | none => d
  | some c =>
    match body ⟨n, c⟩ got (some st) d with
    | .error e => finishCmd n (f e) d
    | .ok (.done cpl d') => finishCmd n (f cpl) d'
    | .ok (.wait d') => parkCmd n (d'.updCmd n fun c => { c with ends := c.ends.map f })
    | .ok (.read _ _ d') => finishCmd n (f (errS st)) d'

/-- A command's body runs on the data read so far. A function without Bus Master Enable may not read (R466). -/
def runBody (body : Body) (n : Nat) (got : List Bytes) (d : Dev) : Dev :=
  match d.cmd? n with
  | none => d
  | some c =>
    match c.origin with
    | .queue _ _ =>
      match body ⟨n, c⟩ got none d with
      | .error e => finishCmd n e d
      | .ok (.done cpl d') => finishCmd n cpl d'
      | .ok (.wait d') => parkCmd n d'
      | .ok (.read off len d') =>
        if d'.readBarred n then failBody body n got .busMasterOff id d'
        else startRead n off len (d'.updCmd n fun c => { c with phase := .reading got })
    | _ => runInline 4097 body n got d

/-- A taken command starts: it must have passed its fence (R92); its checks come first (R95). -/
def startCmd (op : Nat) (body : Body) (n : Nat) (d : Dev) : Dev :=
  match d.cmd? n with
  | none => d
  | some c =>
    if c.entry.op = op ∧ c.phase = .taken ∧ c.started then
      match precheck ⟨n, c⟩ d with
      | .error e => finishCmd n e d
      | .ok _ => runBody body n [] d
    else d

/-- Every earlier command of the same queue pair has completed (R92). -/
def fencePassed (n : Nat) (c : Cmd) (d : Dev) : Bool :=
  match c.origin with
  | .queue qp _ => !(d.q.cmds.any fun p => decide (p.1 < n) && p.2.ofQp qp)
  | _ => true

end Sys2Proof.Machine
end

