-- ==== Sys2Proof/Machine/Objects.lean ====
section
/-! DEFINITION. Objects, versions and tiles as the commands use them: geometry, charges, capacity, tile contents, the
segment writer, references, digests (02_objects.md, 05_tiers.md, 11_determinism.md). -/

namespace Sys2Proof.Machine

/-! ## Geometry (R53 to R57) -/

/-- Rows of a tile. -/
def Obj.th (o : Obj) : Nat := side o.tr
/-- Columns of a tile. -/
def Obj.tw (o : Obj) : Nat := side o.tc
/-- Elements of a tile. -/
def Obj.n (o : Obj) : Nat := o.th * o.tw
/-- Tiles in one tile row. -/
def Obj.perRow (o : Obj) : Nat := ceilDiv o.cols o.tw
/-- Tile rows. -/
def Obj.tileRows (o : Obj) : Nat := ceilDiv o.rows o.th
/-- Tile count (R54). -/
def Obj.count (o : Obj) : Nat := o.perRow * o.tileRows
/-- Canonical size of a tile (R57). -/
def Obj.canon (o : Obj) : Nat := canonSize o.fmt o.n
/-- The all-zero tile. -/
def Obj.zeroTile (o : Obj) : Bytes := zeros o.canon
/-- The canonical layout descriptor (R62). -/
def Obj.canonLayout (o : Obj) : Nat := o.fmt
/-- A tile as stored after the masking of R56. -/
def Obj.mask (o : Obj) (tile : Nat) (b : Bytes) : Bytes :=
  maskTile o.fmt o.th o.tw (o.rows - tile / o.perRow * o.th) (o.cols - tile % o.perRow * o.tw) b
/-- Whether a masked tile keeps the scale ceiling (R134). -/
def Obj.scalesOk (o : Obj) (b : Bytes) : Bool := Machine.scalesOk o.fmt o.n b

/-- `f` applied to an object. -/
def Dev.updObj (h : Nat) (f : Obj → Obj) (d : Dev) : Dev :=
  { d with objs := { d.objs with objs := Map.upd h f d.objs.objs } }

/-- A version of an object. -/
def Dev.ver? (d : Dev) (h v : Nat) : Option Version := (d.obj? h).bind fun o => o.vers.get? v

/-- `f` applied to a version. -/
def Dev.updVer (h v : Nat) (f : Version → Version) (d : Dev) : Dev :=
  d.updObj h fun o => { o with vers := Map.upd v f o.vers }

/-- Live objects of the device, kernels and extents among them (R52, Table 2-2). -/
def Dev.objectCount (d : Dev) : Nat :=
  (d.objs.objs.filter fun p => p.2.lives).length + d.comp.kernels.length + d.cxl.exts.length

/-- Room for one more object (R52). -/
def needObject (d : Dev) : Except Cpl Unit := need (decide (d.objectCount < 16777216)) (errS .noResource)

/-- `f` applied to the object store. -/
def Dev.updObjs (f : Objs → Objs) (d : Dev) : Dev := { d with objs := f d.objs }

/-- `f` applied to the tiers. -/
def Dev.updTiers (f : Tiers → Tiers) (d : Dev) : Dev := { d with tiers := f d.tiers }

/-- `f` applied to a stored tile. -/
def Dev.updStored (sid : Nat) (f : Stored → Stored) (d : Dev) : Dev :=
  d.updObjs fun s => { s with stored := Map.upd sid f s.stored }

/-- Whether two ranges of tiles overlap. -/
def overlaps (a n b m : Nat) : Bool := decide (a < b + m ∧ b < a + n)

/-! ## Versions (R63) -/

/-- The latest sealed version a tenant sees (R63): the owner sees every one, a grantee those its grants cover. -/
def Obj.latest (o : Obj) (t : Nat) : Option Nat :=
  o.vers.foldl (fun a p =>
    if p.2.st == .sealed && (o.tenant == t || o.grants.any fun g =>
        g.grantee == t && (g.version == 0 || g.version == p.1)) then some p.1 else a) none

/-- The open or sealing version, if there is one (R65). -/
def Obj.openVer (o : Obj) : Option Nat := Map.findKey? (fun _ v => v.st == .opened || v.st == .sealing) o.vers

/-- A version field resolved for reading: 0 is the latest sealed version; a grantee reads sealed versions only; a
released version takes no new reference (R50, R63, R71, R73). `off` locates the field. -/
def resolveRead (o : Obj) (t v off : Nat) : Except Cpl Nat :=
  if v = 0 then
    match o.latest t with
    | some n => .ok n
    | none => .error (errS .notSealed)
  else
    match o.vers.get? v with
    | none => .error (errF off)
    | some x =>
      if x.st == .released then .error (errF off)
      else if o.tenant != t && x.st != .sealed then .error (errS .notSealed)
      else .ok v

/-- A version field resolved where only a sealed version will do. One that is open and damaged gives `OBJECT_DAMAGED`
(Table 2-5). -/
def resolveSealed (o : Obj) (t v off : Nat) : Except Cpl Nat := do
  let n ← resolveRead o t v off
  match o.vers.get? n with
  | some x => if x.st == .sealed then .ok n else .error (errS (if x.damaged then .objectDamaged else .notSealed))
  | none => .error (errF off)

/-- Whether a tenant is encrypted and its key is not loaded (R420). -/
def Dev.keyless (d : Dev) (t : Nat) : Bool :=
  match d.integ.keys.get? t with
  | some k => k.key.isNone
  | none => false

/-- A command may read or write an object's data: its tenant's key is loaded, if it has one (R420). -/
def checkKey (o : Obj) (d : Dev) : Except Cpl Unit := need (!d.keyless o.tenant) (errS .notReady)

/-! ## Charges and capacity (R80, R155 to R160) -/

/-- Data channels per stripe (R80, R150). -/
def Dev.dpar (d : Dev) : Nat := if d.mem.parity then 7 else 8

/-- The far-tier charge of a number of sectors (R80). -/
def Dev.farCost (d : Dev) (sectors : Nat) : Nat := ceilDiv (sectors * 256 * (d.dpar + 1)) d.dpar

/-- Worst-case sectors of a whole version (R80, R126). -/
def Obj.worst (o : Obj) : Nat := o.count * ceilDiv (o.canon + 64) 256

/-- Near-tier reservation of an open staged version (R80). -/
def Obj.nearWorst (o : Obj) : Nat := o.count * roundUp o.canon 256

/-- Storage IDs that the sealed and released versions of an object hold. -/
def Obj.sids (o : Obj) : List Nat :=
  o.vers.foldl (fun l p =>
    if p.2.st == .sealed || p.2.st == .released then
      p.2.tiles.foldl (fun l q => if q.2.sid = 0 then l else insertNat q.2.sid l) l
    else l) []

/-- Sectors of a stored tile; 0 for none. -/
def Dev.sectors (d : Dev) (sid : Nat) : Nat :=
  match d.objs.stored.get? sid with
  | some s => s.sectors
  | none => 0

/-- Far charge of an object's sealed tiles (R80). -/
def Dev.farCharge (d : Dev) (o : Obj) : Nat := d.farCost ((o.sids.map d.sectors).sum)

/-- What the versions of an object reserve, near and far. -/
def Obj.reserved (o : Obj) : Nat × Nat :=
  o.vers.foldl (fun a p => (a.1 + p.2.nearRes, a.2 + p.2.farRes)) (0, 0)

/-- Copy size in the near tier of a stored tile (Table 5-4). -/
def Dev.copySize (d : Dev) (sid : Nat) : Nat := d.sectors sid * 256

/-- The storage ID of a tile of a version, 0 where it has none. -/
def Dev.sidOf (d : Dev) (h v tile : Nat) : Nat :=
  match d.ver? h v with
  | some x => match x.tiles.get? tile with
    | some t => t.sid
    | none => 0
  | none => 0

/-- Tiles (as triples) that a schedule's occurrences hold, and the sum of their copy sizes. -/
def Dev.entCharge (d : Dev) (e : SchedEnt) : Nat :=
  (e.held.map fun i => d.copySize (d.sidOf e.obj e.resv i)).sum

/-- Charge of a tenant in the near tier (R80, R162, R172, Table 5-4). -/
def Dev.nearCharge (d : Dev) (t : Nat) : Nat :=
  ((d.objs.objs.vals.filter (·.tenant == t)).map fun o => o.reserved.1).sum +
    ((d.tiers.claims.vals.filter (·.tenant == t)).map (·.charge)).sum +
    ((d.tiers.pins.filter fun p => hTenant p.obj == t).map (·.charge)).sum +
    ((d.tiers.scheds.vals.filter (·.tenant == t)).map fun s => (s.ents.map d.entCharge).sum).sum +
    d.tiers.extraNear.getD t 0

/-- Charge of a tenant in the far tier. -/
def Dev.farChargeT (d : Dev) (t : Nat) : Nat :=
  ((d.objs.objs.vals.filter (·.tenant == t)).map fun o => d.farCharge o + o.reserved.2).sum

/-- Tile-cache bytes of one staged tile of a schedule entry: its delivered size in whole 4 KiB blocks (R157, R172). -/
def Dev.stageSize (d : Dev) (s : Sched) (e : SchedEnt) : Nat :=
  match d.obj? e.obj with
  | some o => roundUp (delivSize (if s.layout = 0 then o.fmt else s.layout) o.th o.tw) 4096
  | none => 0

/-- Tile-cache bytes a schedule has staged. -/
def Dev.stagedBytes (d : Dev) (s : Sched) : Nat := (s.ents.map fun e => e.staged * d.stageSize s e).sum

/-- Tile-cache charge of a tenant: reduction windows, kernel scratch, expert staging and prefetch staging (R157). -/
def Dev.tcCharge (d : Dev) (t : Nat) : Nat :=
  ((d.reds.reds.vals.filter (·.tenant == t)).map (·.charge)).sum +
    ((d.comp.runs.vals.filter (·.tenant == t)).map (·.tcCh)).sum +
    ((d.comp.batches.vals.filter fun b => match d.strs.strs.get? b.stream with
      | some s => s.tenant == t
      | none => false).map fun b => b.blocks * 4096).sum +
    ((d.tiers.scheds.vals.filter (·.tenant == t)).map d.stagedBytes).sum

/-- Charge of a tenant in a tier: 0 tile cache, 1 near, 2 far (R158). -/
def Dev.charge (d : Dev) (t tier : Nat) : Nat :=
  if tier = 0 then d.tcCharge t else if tier = 1 then d.nearCharge t else d.farChargeT t

/-- No limit (Table 5-5). -/
def noLimit : Nat := 0xFFFFFFFFFFFFFFFF

/-- A tenant's limit in a tier (R157). -/
def Dev.limit (d : Dev) (t tier : Nat) : Nat := d.tiers.limits.getD (t * 3 + tier) (if t = 0 then noLimit else 0)

/-- By how much a charge added to a tenant would pass its limit in a tier. -/
def Dev.excess (d : Dev) (t tier add : Nat) : Nat :=
  if add = 0 ∨ d.limit t tier = noLimit then 0 else d.charge t tier + add - d.limit t tier

/-- Gibibytes. -/
def gib : Nat := 2 ^ 30

/-- Allocatable near-tier bytes of a half (R155, R403, R406). -/
def Dev.nearCap (d : Dev) (half : Nat) : Nat :=
  60 * gib * (3 - (d.tiers.lostNear.filter fun s => stackHalf s == half).length) - d.tiers.retNear.getD half 0

/-- Near-tier bytes in use on a half (Table 5-4). -/
def Dev.nearUsed (d : Dev) (half : Nat) : Nat :=
  ((d.objs.objs.vals.filter (·.half == half)).map fun o => o.reserved.1).sum +
    ((d.objs.stored.vals.filter fun s => s.near != .absent && groupHalf s.group == half).map fun s =>
      s.sectors * 256).sum +
    d.tiers.extraHalf.getD half 0

/-- Far capacity of a group in charge bytes (R156); a group out of service or being rebuilt has left it (R394). -/
def Dev.groupCap (d : Dev) (g : Nat) : Nat :=
  let x := d.group g
  if x.st == .inService then 8 * x.modGib * gib * 255 / 256 else 0

/-- Far capacity of a half in charge bytes. -/
def Dev.farCap (d : Dev) (half : Nat) : Nat :=
  d.groupCap (2 * half) + d.groupCap (2 * half + 1) - d.tiers.retFar.getD half 0

/-- Charges and reservations of objects homed on a half. -/
def Dev.farUsed (d : Dev) (half : Nat) : Nat :=
  ((d.objs.objs.vals.filter (·.half == half)).map fun o => d.farCharge o + o.reserved.2).sum

/-- Units of 256 KiB a region of one cluster slice has: reduction windows, prefetch staging, kernel scratch, expert
staging; the units left over go to kernel scratch (R47). -/
def tcUnits (split : List Nat) (region : Nat) : Nat :=
  let u (k : Nat) : Nat := 192 * split.getD k 0 / 100
  if region = 2 then 192 - (u 0 + u 1 + u 3) else u region

/-- Tile-cache bytes of one region over the live clusters of a half, or of the device (R28, R47). -/
def Dev.tcRegion (d : Dev) (region : Nat) (half : Option Nat) : Nat :=
  let live := allClusters.filter fun c => !(d.cluster c).retired &&
    (match half with
      | some h => clusterHalf c == h
      | none => true)
  live.length * (tcUnits d.tiers.split region * 262144)

/-- The quota test of R159. -/
def checkQuota (t tc near far : Nat) (d : Dev) : Except Cpl Unit :=
  let a := d.excess t 0 tc
  let b := d.excess t 1 near
  let c := d.excess t 2 far
  if a = 0 ∧ b = 0 ∧ c = 0 then .ok ()
  else .error { Cpl.of .quotaExceeded with ext := some (.quota a b c) }

/-- What is missing on a half for near and far bytes. -/
def Dev.short (d : Dev) (half near far : Nat) : Nat × Nat :=
  (if near = 0 then 0 else d.nearUsed half + near - d.nearCap half,
   if far = 0 then 0 else d.farUsed half + far - d.farCap half)

/-- The capacity test of R159 over the halves allowed, in order: the first that fits, or `CAPACITY_SHORT` naming the
last tried. -/
def chooseHalf (near far : Nat) (d : Dev) : List Nat → Except Cpl Nat
  | [] => .error (errS .capacityShort)
  | [h] =>
    let s := d.short h near far
    if s = (0, 0) then .ok h
    else .error { Cpl.of .capacityShort with ext := some (.capacity h 0 s.1 s.2) }
  | h :: hs => if d.short h near far = (0, 0) then .ok h else chooseHalf near far d hs

/-- Halves an affinity allows, in the order tried (R19, R23). -/
def halvesFor (issuing aff : Nat) (d : Dev) : Except Cpl (List Nat) :=
  if aff ≥ 3 then
    if d.pwr.sable && aff - 3 != issuing then .error (errS .pathLost) else .ok [aff - 3]
  else if d.pwr.sable then .ok [issuing]
  else if aff = 0 then .ok [issuing, 1 - issuing]
  else .ok [aff - 1, 2 - aff]

/-! ## Tile contents (R67, R73) -/

/-- What reading a tile of a version gives: its canonical bytes, whether it is damaged, its storage ID. An unwritten
tile is the base's, else zeros. -/
def Dev.tileAt (d : Dev) (h v tile : Nat) : Bytes × Bool × Nat :=
  match d.obj? h with
  | none => ([], true, 0)
  | some o =>
    let look (w : Nat) : Option TileEnt := (o.vers.get? w).bind fun x => x.tiles.get? tile
    let base := match o.vers.get? v with
      | some x => x.base
      | none => 0
    let e := match look v with
      | some e => some e
      | none => if base = 0 then none else look base
    match e with
    | none => (o.zeroTile, false, 0)
    | some e =>
      let bad := match d.objs.stored.get? e.sid with
        | some s => s.damaged
        | none => false
      (e.data, e.dmg || bad, e.sid)

/-- Whether a version is damaged as a whole (Table 2-5). -/
def Dev.verDamaged (d : Dev) (h v : Nat) : Bool :=
  match d.ver? h v with
  | some x => x.damaged
  | none => false

/-! ## Producers (R329 to R332) -/

/-- The external producer. -/
def extProducer : Producer :=
  { kind := 1, loc := 0, run := 0, body := [], tail := [], nd := false, inNd := false, part := false, supplied := 0 }

/-- Whether a version has no room for one more producer: 64 are attached, its base among them (R332). -/
def Version.full (v : Version) : Bool := decide (64 ≤ v.prods.length + b2n (v.base != 0))

/-- The index of the external producer, adding it if there is room (R332). -/
def Version.external (v : Version) : Option (Nat × Version) :=
  match v.prods.findIdx? (·.kind == 1) with
  | some i => some (i, v)
  | none => if v.full then none else some (v.prods.length, { v with prods := v.prods ++ [extProducer] })

/-! ## The segment writer (R151, R154) -/

/-- Stripes of a group. -/
def Group.total (g : Group) : Nat := g.modGib * 262144

/-- Free stripes of a group. -/
def Group.free (g : Group) : Nat := g.total - g.stripes.length - g.retired.length

/-- Data sectors of a stripe. -/
def Dev.stripeSectors (d : Dev) : Nat := 16 * d.dpar

/-- The grain of a stripe that holds its `i`-th data grain (R150). -/
def Dev.grainAt (d : Dev) (stripe i : Nat) : Nat := if d.mem.parity && i ≥ stripe % 8 then i + 1 else i

/-- The stored bytes of a tile: header and body (R125, R126). -/
def Stored.bytes (s : Stored) : Bytes := let p := codeTile s.fmt s.tr s.tc s.data; p.1 ++ p.2

/-- The stored bytes of a tile where they are known: those of a tenant with a key are encrypted (R418; log entry 5). -/
def Dev.plainBytes (d : Dev) (s : Stored) : Bytes := if d.integ.keys.has (hTenant s.obj) then [] else s.bytes

/-- The lowest free stripe. -/
def Group.lowestFree (g : Group) : Nat :=
  let taken := g.retired.foldl (fun l x => insertNat x l) (g.stripes.keys)
  taken.foldl (fun n k => if k = n then n + 1 else n) 0

/-- A stripe just opened. -/
def Stripe.fresh : Stripe :=
  { used := 0, live := 0, closed := false, written := false, unknown := false, since := 0, waitSaw := false, dead := [] }

/-- `n` sectors put into a group's open stripe and, when it is full, the next ones. `k` bounds the stripes used. Answers
the pieces placed. A full stripe is closed (STRIPE_CLOSE). -/
def putSectors (cap now : Nat) (wait : Bool) : Nat → Nat → Group → List (Nat × Nat × Nat) →
    Group × List (Nat × Nat × Nat)
  | 0, _, g, acc => (g, acc)
  | k + 1, n, g, acc =>
    if n = 0 then (g, acc)
    else
      let s := g.cur.getD g.lowestFree
      let st0 := g.stripes.getD s Stripe.fresh
      let m := min n (cap - st0.used)
      let full := st0.used + m ≥ cap
      let st := { st0 with
        used := st0.used + m, live := st0.live + m, closed := full
        since := if wait && !st0.waitSaw then now else st0.since, waitSaw := st0.waitSaw || wait }
      let g := { g with stripes := Map.set s st g.stripes, cur := if full then none else some s, lastReq := now }
      putSectors cap now wait k (n - m) g (acc ++ [(s, st0.used, m)])

/-- The group the writer of a half chooses (R151, R394): the one in service with more free stripes, the lower on a tie. -/
def Dev.pickGroup (d : Dev) (half : Nat) (set : List Nat) : Option Nat :=
  let ok := ([2 * half, 2 * half + 1]).filter fun g =>
    (d.group g).st == .inService && (d.group g).total != 0 && (set.isEmpty || set.contains g)
  ok.foldl (fun a g =>
    match a with
    | none => some g
    | some b => if (d.group g).free > (d.group b).free then some g else some b) none

/-- Whether a group has room for `n` sectors: in its open stripe and its free ones. -/
def Dev.hasRoom (d : Dev) (g n : Nat) : Bool :=
  let x := d.group g
  let cap := d.stripeSectors
  decide (n ≤ (match x.cur with
    | some s => cap - (x.stripes.getD s Stripe.fresh).used
    | none => 0) + x.free * cap)

/-- Sectors placed in a group, if it has the stripes. -/
def Dev.place (d : Dev) (g n : Nat) (wait : Bool) : Option (List (Nat × Nat × Nat) × Dev) :=
  if d.hasRoom g n then
    let (x', ps) := putSectors d.stripeSectors d.now wait (n + 1) n (d.group g) []
    some (ps, d.updGroup g fun _ => x')
  else none

/-- Live sectors taken from stripes, `b` what they held; a written stripe with none left is freed at once (R154), any
other keeps its contents (R153). -/
def dropPieces (g : Nat) : Bytes → List (Nat × Nat × Nat) → Dev → Dev
  | _, [], d => d
  | b, p :: l, d =>
    dropPieces g (b.drop (256 * p.2.2)) l (d.updGroup g fun x =>
      match x.stripes.get? p.1 with
      | none => x
      | some s =>
        let gone : DeadPiece := { off := p.2.1, count := p.2.2, bytes := b.take (256 * p.2.2) }
        let s := { s with live := s.live - p.2.2, dead := s.dead ++ [gone] }
        if s.live = 0 ∧ s.written then { x with stripes := Map.del p.1 x.stripes }
        else { x with stripes := Map.set p.1 s x.stripes })

/-- A stored tile leaves its sectors. -/
def dropPlaces (s : Stored) (d : Dev) : Dev := dropPieces s.group (d.plainBytes s) s.places d

/-- Whether a stored tile has sectors in a stripe. -/
def Stored.inStripe (s : Stored) (g st : Nat) : Bool := s.group == g && s.places.any fun p => p.1 == st

/-- Whether reclaim may take a stripe: closed and written, its live sectors 28 or fewer or its parity unknown (R403), no
tile in it pinned where it lies (R147, R154). -/
def Dev.reclaimable (d : Dev) (g st : Nat) : Bool :=
  match (d.group g).stripes.get? st with
  | none => false
  | some s => s.closed && s.written && (s.unknown || decide (s.live ≤ 28)) &&
    !(d.objs.stored.any fun p => p.2.inStripe g st && p.2.fixed)

/-- Whether a far-tier read of the old location is in flight. -/
def Dev.readingStripe (d : Dev) (g st : Nat) : Bool :=
  d.strs.jobs.any fun j => j.2.st == .far && (match d.objs.stored.get? j.2.sid with
    | some s => s.inStripe g st
    | none => false)

/-- The stripe reclaim takes first: one of unknown parity before any other (R403), then fewest live sectors, on a tie the
higher address (R154). -/
def Dev.candidate (d : Dev) (g : Nat) : Option Nat :=
  ((d.group g).stripes.foldl (fun (a : Option (Nat × Nat)) p =>
    let rank := p.2.live + (if p.2.unknown then 0 else 256)
    if !d.reclaimable g p.1 || d.readingStripe g p.1 then a
    else match a with
      | none => some (p.1, rank)
      | some q => if rank ≤ q.2 then some (p.1, rank) else some q) none).map (·.1)

/-- The open stripes that hold sectors of a list of stripes are closed (STRIPE_CLOSE). -/
def closeStripes (l : List (Nat × Nat)) (d : Dev) : Dev :=
  l.foldl (fun d p =>
    if (d.group p.1).cur = some p.2 then
      d.updGroup p.1 fun g => { g with
        cur := none, stripes := Map.upd p.2 (fun s => { s with closed := true }) g.stripes }
    else d) d

/-- The stripes, with their group, that hold the tiles of a version: those of the tiles that wait to be taken and of those
in its map. -/
def Dev.stripesOf (d : Dev) (h v : Nat) : List (Nat × Nat) :=
  (d.objs.acks.filter fun a => a.obj == h && a.ver == v).flatMap (·.stripes) ++
    (((d.ver? h v).map (·.tiles)).getD []).flatMap fun t =>
      match d.objs.stored.get? t.2.sid with
      | some s => s.places.map fun p => (s.group, p.1)
      | none => []

/-- Once the last tile of a sealing version is coded, its open stripes are closed (R151). -/
def sealClose (h v : Nat) (d : Dev) : Dev :=
  if d.objs.codings.any fun p => p.2.obj == h && p.2.ver == v then d else closeStripes (d.stripesOf h v) d

/-- A stored tile written again through the segment writer of a group, whole and in one piece of its log (R151): its
tile-map entry names the new sectors, and what waits for its stripes waits for the new ones (R152). None where the writer
has no room. -/
def moveTo (g sid : Nat) (d : Dev) : Option Dev :=
  match d.objs.stored.get? sid with
  | none => some d
  | some s =>
    match d.place g s.sectors (d.objs.acks.any fun a => a.sid == sid) with
    | none => none
    | some (ps, d) =>
      let d := (dropPlaces s d).updStored sid fun s => { s with group := g, places := ps }
      let d := d.updObjs fun x => { x with acks := x.acks.map fun a =>
        if a.sid = sid then { a with stripes := ps.map fun p => (g, p.1) } else a }
      let sealing := (((d.obj? s.obj).map (·.vers)).getD []).filter fun v => v.2.st == .sealing
      some (sealing.foldl (fun d v => sealClose s.obj v.1 d) d)

/-- A stripe reclaimed: the tiles that have live sectors in it go through the segment writer, and it is freed (R154).
Nothing happens where the writer has no room for them. -/
def reclaimStripe (g st : Nat) (d : Dev) : Dev :=
  let here := (d.objs.stored.filter fun p => p.2.inStripe g st).map (·.1)
  match here.foldl (fun (a : Option Dev) sid => a.bind (moveTo g sid)) (some d) with
  | none => d
  | some d' => d'.updGroup g fun x => { x with stripes := Map.del st x.stripes }

/-- Where a group has no room for `n` sectors, reclaim of it runs in the writer's turn until it has (R154); `k` bounds the
stripes it takes. -/
def makeRoom : Nat → Nat → Nat → Dev → Option Dev
  | 0, g, n, d => if d.hasRoom g n then some d else none
  | k + 1, g, n, d =>
    if d.hasRoom g n then some d else (d.candidate g).bind fun st => makeRoom k g n (reclaimStripe g st d)

/-- The same with every stripe the group has in use. -/
def Dev.roomFor (d : Dev) (g n : Nat) : Option Dev := makeRoom (d.group g).stripes.length g n d

/-- Sectors placed in a group, with reclaim for room. -/
def Dev.placeRoom (d : Dev) (g n : Nat) (wait : Bool) : Option (List (Nat × Nat × Nat) × Dev) :=
  (d.roomFor g n).bind fun d => d.place g n wait

/-- A stored tile moved into a group, with reclaim for room. -/
def relocate (g sid : Nat) (d : Dev) : Option Dev := (d.roomFor g (d.sectors sid)).bind (moveTo g sid)

/-- A tile stored: coded, placed in stripes, given a storage ID. None while the writer waits for a free stripe. An
all-zero tile stores nothing and has ID 0 (R127). -/
def Dev.store (d : Dev) (h tile : Nat) (o : Obj) (b : Bytes) (wait : Bool) : Option (Nat × List (Nat × Nat) × Dev) :=
  let len := storedLen o.fmt o.tr o.tc b
  if len = 0 then some (0, [], d)
  else
    match d.pickGroup o.half [] with
    | none => none
    | some g =>
      match d.placeRoom g (sectorsOf len) wait with
      | none => none
      | some (ps, d) =>
        let sid := d.objs.nextSid
        let st : Stored :=
        { obj := h, tile := tile, data := b, fmt := o.fmt, tr := o.tr, tc := o.tc, len := len, sectors := sectorsOf len, damaged := false,
          serial := d.integ.serial.getD o.half 0, group := g, places := ps, near := .absent, stack := 0,
          fixed := false }
        let d := d.updObjs fun s => { s with stored := Map.set sid st s.stored, nextSid := sid + 1 }
        let d := d.updInteg fun i => { i with serial := i.serial.modify o.half (· + 1) }
        some (sid, ps.map fun p => (g, p.1), d)

/-- A stored tile freed: its sectors are no longer live and its near copy goes. -/
def freeStored (sid : Nat) (d : Dev) : Dev :=
  match d.objs.stored.get? sid with
  | none => d
  | some s =>
    (dropPlaces s d).updObjs fun x => { x with stored := Map.del sid x.stored }

/-- Storage IDs any version of an object still uses. -/
def Obj.allSids (o : Obj) : List Nat :=
  o.vers.foldl (fun l p => p.2.tiles.foldl (fun l q => if q.2.sid = 0 then l else insertNat q.2.sid l) l) []

/-- Stored tiles of an object that no version uses any more are freed. -/
def sweep (h : Nat) (d : Dev) : Dev :=
  let used := match d.obj? h with
    | some o => o.allSids
    | none => []
  let acks := d.objs.acks.map (·.sid)
  (d.objs.stored.filter fun p => p.2.obj == h && !used.contains p.1 && !acks.contains p.1).foldl
    (fun d p => freeStored p.1 d) d

/-! ## References to a version (R71, R154) -/

/-- Whether something still reads a version: a stream, a live run, an open version based on it, a read or a promotion in
flight, which completes (R166). -/
def Dev.referenced (d : Dev) (h v : Nat) : Bool :=
  (d.strs.strs.any fun p => p.2.obj == h && p.2.ver == v) ||
    (d.comp.runs.any fun p => p.2.args.any fun a => a.obj == h && a.ver == v) ||
    (d.strs.jobs.any fun p => p.2.obj == h && p.2.ver == v) ||
    (match d.obj? h with
      | some o => o.vers.any fun p => p.2.base == v && v != 0 && (p.2.st == .opened || p.2.st == .sealing)
      | none => false)

/-- A version that ceases to exist: its tiles not shared with a live version are freed, and an object without versions
ceases to exist (R70, R74). -/
def dropVersion (h v : Nat) (d : Dev) : Dev :=
  let d := d.updObj h fun o => { o with vers := Map.del v o.vers }
  let d := match d.obj? h with
    | some o => if o.vers.isEmpty then d.updObjs fun s => { s with objs := Map.del h s.objs } else d
    | none => d
  sweep h d

/-! ## Near copies (Table 5-7) -/

/-- The holds on a tile stored under a storage ID (R165): claims, near pins and schedule holds, each with the label its
promotion carries (R172, R342) and the stacks it allows, none for any. -/
def Dev.holdsOn (d : Dev) (sid : Nat) : List (Nat × List Nat) :=
  let hit (h v first n : Nat) : Bool :=
    match d.ver? h v with
    | some x => x.tiles.any fun p => decide (first ≤ p.1 ∧ p.1 < first + n) && p.2.sid == sid
    | none => false
  (d.tiers.pins.filter fun p => p.near && hit p.obj p.ver p.first p.count).map (fun p => (p.qos, p.set)) ++
    (d.tiers.claims.vals.filter fun c => hit c.obj c.ver c.first c.count).map (fun c => (c.qos, [])) ++
    d.tiers.scheds.flatMap fun s => (s.2.ents.filter fun e => e.held.any fun i => d.sidOf e.obj e.resv i == sid).map
      fun e => (if e.early then 0 else s.2.qos, [])

/-- Whether a claim, a schedule hold or a near pin holds a stored tile. -/
def Dev.heldBy (d : Dev) (sid : Nat) : Bool := !(d.holdsOn sid).isEmpty

/-- A read job of a stored tile, if one is in flight. -/
def Dev.jobOf (d : Dev) (sid : Nat) : Option Nat := Map.findKey? (fun _ j => j.sid == sid && sid != 0) d.strs.jobs

/-- The read of a stored tile that another request for it joins, if one is in flight (R194). -/
def Dev.joinable (d : Dev) (sid : Nat) : Option Nat :=
  Map.findKey? (fun _ j => j.sid == sid && sid != 0 && !j.solo) d.strs.jobs

/-- `f` applied to the streams. -/
def Dev.updStrs (f : Streams → Streams) (d : Dev) : Dev := { d with strs := f d.strs }

/-- A read job added. -/
def addJob (j : Job) (d : Dev) : Nat × Dev :=
  let n := d.objs.nextJob
  (n, { d with strs := { d.strs with jobs := Map.set n j d.strs.jobs }, objs := { d.objs with nextJob := n + 1 } })

/-- The lowest stack in service on a half, within a set if one is given. -/
def Dev.stackOn (d : Dev) (half : Nat) (set : List Nat) : Option Nat :=
  (fromTo (3 * half) 3).find? fun s => !d.tiers.lostNear.contains s && (set.isEmpty || set.contains s)

/-- The stack that takes a near copy on a half: the lowest in service, within a set if one is given; with none in
service there is no near capacity, and nothing is put on the stack named. -/
def Dev.pickStack (d : Dev) (half : Nat) (set : List Nat) : Nat := (d.stackOn half set).getD (3 * half)

/-- The core that expands tiles for consumers on a half: the first live one of the lowest cluster whose clock runs, else of
the lowest live cluster (DESIGN CHOICE, log entry 75; R20, R539). -/
def Dev.expandCore (d : Dev) (half : Nat) : Nat :=
  let live := (fromTo (64 * half) 64).filter d.coreLive
  match live.find? fun c => (d.cluster (coreCluster c)).clock with
  | some c => c
  | none => live.headD (64 * half)

/-- A job raised to a more urgent class and an earlier deadline by a request that joins it (R194). -/
def Job.hasten (q cq cj due : Nat) (j : Job) : Job :=
  { j with
    qos := if cj < cq then q else j.qos
    due := if due = 0 then j.due else if j.due = 0 then due else min j.due due }

/-- A hold has been added to a stored tile under a label: an absent copy starts a promotion in the hold's class, joining
a read in flight, and a releasing one is present again (Table 5-7). -/
def holdAdded (q h v tile sid stack : Nat) (d : Dev) : Dev :=
  match d.objs.stored.get? sid with
  | none => d
  | some s =>
    match s.near with
    | .absent =>
      let d := d.updStored sid fun s => { s with near := .promoting, stack := stack }
      match d.joinable sid with
      | some n => d.updStrs fun x => { x with
          jobs := Map.upd n (fun j => { j.hasten q (d.clsOf q) (d.clsOf j.qos) 0 with promo := true }) x.jobs }
      | none =>
        let half := groupHalf s.group
        (addJob
          { obj := h, ver := v, tile := tile, sid := sid, data := s.data, st := .far, tries := 0, promo := true,
            qos := q, since := d.now, due := 0, solo := false, half := half, core := d.expandCore half, away := false,
            cross := 0 } d).2
    | .releasing => d.updStored sid fun s => { s with near := .present }
    | _ => d

/-- A held tile whose near copy is absent is promoted again, in the class of its first hold, where its half has the space
(Table 5-7). A damaged tile has no copy to promote. -/
def promoteAgain (sid : Nat) (s : Stored) (d : Dev) : Dev :=
  match d.holdsOn sid with
  | [] => d
  | (q, set) :: _ =>
    let half := groupHalf s.group
    if s.near != .absent || s.damaged || decide (d.nearUsed half + s.sectors * 256 > d.nearCap half) then d
    else
      match d.obj? s.obj, d.stackOn half set with
      | some o, some stack =>
        match o.vers.findKey? fun _ v => v.tiles.any fun t => t.2.sid == sid with
        | some v => holdAdded q s.obj v s.tile sid stack d
        | none => d
      | _, _ => d

/-- Every such tile, in the order they were stored. -/
def promoteHeld (d : Dev) : Dev := d.objs.stored.foldl (fun d p => promoteAgain p.1 p.2 d) d

/-- After holds have ended: a present copy that nothing holds is releasing; a releasing one that no read uses is absent
(its space is free) unless a read of it is in flight. -/
def releaseCopies (d : Dev) : Dev :=
  d.objs.stored.foldl (fun d p =>
    if p.2.near == .present && !d.heldBy p.1 then
      d.updStored p.1 fun s => { s with near := if (d.jobOf p.1).isSome then .releasing else .absent }
    else d) d

/-! ## Digests (R333 to R336) -/

/-- An ASCII tag. -/
def ascii (s : String) : Bytes := s.toList.map fun c => BitVec.ofNat 8 c.toNat

/-- One level of the tree joined: pairs hashed, an odd node carried up. -/
def joinLevel : List Bytes → List Bytes
  | a :: b :: l => shake256 (ascii "SPX1/node" ++ a ++ b) :: joinLevel l
  | l => l

/-- The tree's root; `k` bounds the levels. -/
def treeRoot : Nat → List Bytes → Bytes
  | 0, l => l.headD []
  | k + 1, l => match l with
    | [] => zeros 64
    | [x] => x
    | _ => treeRoot k (joinLevel l)

/-- The content digest of the tiles of a version (R333). -/
def contentDigest (o : Obj) (tiles : List Bytes) : Bytes :=
  let root := treeRoot 33 (tiles.map fun b => shake256 (ascii "SPX1/leaf" ++ b))
  shake256 (ascii "SPX1/root" ++ leBytes 1 o.fmt ++ leBytes 1 o.tr ++ leBytes 1 o.tc ++ leBytes 4 o.rows ++
    leBytes 4 o.cols ++ leBytes 4 tiles.length ++ root)

/-- Flag byte of a producer entry (Table 11-4): `partial` and `nd_own`. -/
def Producer.flags (p : Producer) : Nat := b2n (p.part && p.supplied != 0) + 2 * b2n p.nd

/-- A producer digest (R335). -/
def Producer.digest (p : Producer) : Bytes :=
  let tag := if p.kind = 1 then "SPX1/extw" else if p.kind = 2 then "SPX1/base"
    else if p.kind = 3 then "SPX1/kern" else "SPX1/redu"
  shake256 (ascii tag ++ leBytes 1 p.flags ++ p.body)

/-- The order of byte strings, first byte first. -/
def bytesLe : Bytes → Bytes → Bool
  | [], _ => true
  | _ :: _, [] => false
  | a :: x, b :: y => if a.toNat < b.toNat then true else if b.toNat < a.toNat then false else bytesLe x y

/-- A producer put into a list ascending by digest. -/
def insertProd (p : Producer) : List Producer → List Producer
  | [] => [p]
  | q :: l => if bytesLe p.digest q.digest then p :: q :: l else q :: insertProd p l

/-- Whether the producers mark a version (R337). -/
def ndOf (ps : List Producer) : Bool := ps.any fun p => p.nd || p.inNd || (p.part && p.supplied != 0)

/-- The provenance digest (R336). -/
def provDigest (nd : Bool) (ps : List Producer) (content : Bytes) : Bytes :=
  shake256 (ascii "SPX1/prov" ++ leBytes 1 (b2n nd) ++ leBytes 1 ps.length ++
    (ps.map Producer.digest).flatten ++ content)

/-- A producer entry of the provenance record as a tenant reads it (Table 11-4): locators of another tenant's objects
read as 0 (R339). -/
def Producer.entry (p : Producer) (reader : Nat) : Bytes :=
  let hide (h : Nat) : Nat := if hTenant h = reader then h else 0
  let loc := if p.kind = 3 then hide p.loc else p.loc
  let tail := (List.range (p.tail.length / 16)).flatMap fun k =>
    let h := fld p.tail (16 * k) 0 64
    if hTenant h = reader then (p.tail.drop (16 * k)).take 16 else zeros 16
  let len := 80 + p.body.length + p.tail.length
  leBytes 1 p.kind ++ leBytes 1 p.flags ++ leBytes 2 len ++ leBytes 4 p.supplied ++ leBytes 8 loc ++ p.digest ++
    p.body ++ tail

/-! ## Sealing (R70, R76, R117) -/

/-- A coding job added for a tile: core 0 of the home half's lowest cluster that is not retired codes it (DESIGN CHOICE, log
entry 75: R117 says only that a core of the home half does). -/
def addCoding (h v tile prod : Nat) (b : Bytes) (who : Waiter) (d : Dev) : Dev :=
  let unit := (allClusters.find? fun c => !(d.cluster c).retired &&
    clusterHalf c == (match d.obj? h with
      | some o => o.half
      | none => 0)).getD 2
  let u := 2 ^ 28 + (clusterDie unit) * 2 ^ 26 + ((unit - 2) % 4) * 2 ^ 24
  let c : Coding :=
    { obj := h, ver := v, tile := tile, data := b, prod := prod, who := who, unit := u, tries := 0, held := none }
  d.updObjs fun s => { s with codings := Map.set s.nextJob c s.codings, nextJob := s.nextJob + 1 }

/-- Whether a stripe is written with its parity; one that is free holds nothing. -/
def Dev.stripeWritten (d : Dev) (p : Nat × Nat) : Bool := (((d.group p.1).stripes.get? p.2).map (·.written)).getD true

/-- Whether a version still has tiles being coded or waiting for stripes (R152). -/
def Dev.sealBusy (d : Dev) (h v : Nat) : Bool :=
  (d.objs.codings.any fun p => p.2.obj == h && p.2.ver == v) || (d.objs.acks.any fun a => a.obj == h && a.ver == v) ||
    (d.stripesOf h v).any fun p => !d.stripeWritten p

/-- A seal taken: the version stops taking writes, its staged tiles go to be coded (R70, R117). -/
def startSeal (h v : Nat) (cmd : Option Nat) (fromWork : Bool) (d : Dev) : Dev :=
  match d.ver? h v with
  | none => d
  | some x =>
    let d := d.updVer h v fun x => { x with st := .sealing, sealCmd := cmd, sealRed := fromWork }
    if x.staged then
      sealClose h v (x.tiles.foldl (fun d p => addCoding h v p.1 p.2.prod p.2.data (.seal h v) d) d)
    else d

/-- The producers that supply tiles of a version that is being sealed, with their counts (R330, R331). Answers the kept
list and the new index of each old one. -/
def keptProducers (count : Nat) (x : Version) (baseProd : Option Producer) : List Producer :=
  let own := ((List.range x.prods.length).zip x.prods).map fun p =>
    { p.2 with supplied := (x.tiles.filter fun t => t.2.prod == p.1).length }
  let base := match baseProd with
    | some b => if x.tiles.length < count then [{ b with supplied := count - x.tiles.length }] else []
    | none => []
  own ++ base

/-- A version sealed: its map completed from the base, its digests formed, its reservations dropped (R67, R70, R80,
R333 to R337). -/
def sealVersion (h v : Nat) (d : Dev) : Dev :=
  match d.obj? h with
  | none => d
  | some o =>
    match o.vers.get? v with
    | none => d
    | some x =>
      let base := o.vers.get? x.base
      let baseProd : Option Producer := base.map fun b =>
        { kind := 2, loc := 0, run := 0, body := b.prov, tail := [], nd := false, inNd := b.nd, part := false,
          supplied := 0 }
      let ps := keptProducers o.count x baseProd
      let inh : Map TileEnt := match base with
        | some b => (b.tiles.filter fun p => !x.tiles.has p.1).map fun p => (p.1, { p.2 with prod := x.prods.length })
        | none => []
      let tiles := inh.foldl (fun m p => Map.set p.1 p.2 m) x.tiles
      let kept := (ps.filter (·.supplied != 0)).foldl (fun l p => insertProd p l) []
      let all := (List.range o.count).map fun i => (d.tileAt h v i).1
      let content := contentDigest o all
      let nd := ndOf kept
      let added := x.tiles.length
      let stored := (x.tiles.map fun p => match d.objs.stored.get? p.2.sid with
        | some s => s.len
        | none => 0).sum
      d.updVer h v fun x => { x with
        st := .sealed, tiles := tiles, prods := kept, content := content, nd := nd,
        prov := provDigest nd kept content, added := added, stored := stored, nearRes := 0, farRes := 0,
        sealCmd := none }

/-- An empty version just opened. -/
def Version.fresh (staged : Bool) (base stack nearRes farRes : Nat) : Version :=
  { st := .opened, staged := staged, base := base, damaged := false, stack := stack, tiles := [], added := 0,
    stored := 0, prods := [], content := [], prov := [], nd := false, sealCmd := none, sealRed := false, mapped := 0,
    nearRes := nearRes, farRes := farRes }

/-! ## Taking a tile write (R66, R68) -/

/-- Whether a tile is in a map only for its damage: nothing has been written (R231, R407). -/
def TileEnt.unwritten (e : TileEnt) : Bool := e.dmg && e.sid == 0 && e.data.isEmpty

/-- What refuses a tile write into a version, at the moment it would be taken. -/
def refuseWrite (h v tile : Nat) (d : Dev) : Option Status :=
  match d.ver? h v with
  | none => some .invalidField
  | some x =>
    if x.st == .released then some .invalidField
    else if x.st != .opened then some .alreadySealed
    else if x.damaged then some .objectDamaged
    else if !x.staged && (((x.tiles.get? tile).map fun e => !e.unwritten).getD false ||
        (d.objs.codings.any fun p => p.2.obj == h && p.2.ver == v && p.2.tile == tile) ||
        d.objs.acks.any fun a => a.obj == h && a.ver == v && a.tile == tile) then some .alreadySealed
    else none

/-- A tile put into a version's map. -/
def putTile (h v tile : Nat) (e : TileEnt) (d : Dev) : Dev :=
  d.updVer h v fun x => { x with tiles := Map.set tile e x.tiles }

/-- Label of who waits for a stripe or a coding. -/
def Dev.waiterLabel (d : Dev) (w : Waiter) : Nat :=
  match w with
  | .wrAck s _ _ _ => ((d.strs.strs.get? s).map (·.qos)).getD 0
  | .cmd n => ((d.cmd? n).map fun k => k.entry.qos).getD 0
  | .run n _ => ((d.comp.runs.get? n).map (·.qos)).getD 0
  | .seal h v => (((d.ver? h v).bind (·.sealCmd)).bind fun n => (d.cmd? n).map fun k => k.entry.qos).getD 0
  | .red i _ => ((d.reds.reds.get? i).map (·.qos)).getD 0

/-- A tile write of masked canonical bytes by a producer: taken at once into a staged version; coded first for a
seal-as-written one, in which case the waiter is answered when it is durable. Answers whether it was taken at once. -/
def writeTile (h v tile prod : Nat) (b : Bytes) (who : Waiter) (d : Dev) : Bool × Dev :=
  match d.ver? h v with
  | none => (true, d)
  | some x =>
    if x.staged then
      let d := grantBytes (d.label (d.waiterLabel who)) 1 (2 * stackHalf x.stack + 1) b.length
        (nearAccess x.stack [1, h, v, tile] b.length (d.waiterLabel who) true (d.nearUse x.stack))
      (true, putTile h v tile { data := b, sid := 0, dmg := false, prod := prod } d)
    else (false, addCoding h v tile prod b who d)

/-- Tile writes that are being stored for the waiters of a test are dropped: nothing of them is in a version. -/
def dropWrites (mine : Waiter → Bool) (d : Dev) : Dev :=
  let sids := (d.objs.acks.filter fun a => mine a.who).map (·.sid)
  let d := d.updObjs fun s => { s with
    acks := s.acks.filter (fun a => !mine a.who), codings := Map.keep (fun _ c => !mine c.who) s.codings }
  sids.foldl (fun d s => freeStored s d) d

/-! ## Steps common to the object commands -/

/-- Step 6 for a command whose handle A names a tiled object, then the sable-mode test (R23, R50, R341). -/
def objOf (x : Ctx) (ver : Nat) (d : Dev) : Except Cpl Obj := do
  let o ← checkHandle x 8 x.e.ha ver d
  checkQos x d
  checkPath x.half o.half d
  .ok o

/-- Only the owner may go on (R82). -/
def ownOf (x : Ctx) (o : Obj) : Except Cpl Unit := need (o.tenant == x.t) (errS .notPermitted)

/-- The same, of a command that only the owner may issue. -/
def ownObj (x : Ctx) (ver : Nat) (d : Dev) : Except Cpl Obj := do
  let o ← objOf x ver d
  ownOf x o
  .ok o

/-- A tile range within an object, its first tile at a field. -/
def checkRange (o : Obj) (first n off : Nat) : Except Cpl Unit := need (decide (first + n ≤ o.count)) (errF off)

end Sys2Proof.Machine
end

