-- ==== Sys2Proof/Machine/Tiers.lean ====
section
/-! DEFINITION. Residency claims, schedules, quota limits: how holds are placed and end, and the meanings of `RESIDE`,
`UNRESIDE`, `SCHEDULE_LOAD`, `SCHEDULE_DROP`, `ROUTE_HINT` and `QUOTA_SET` (05_tiers.md). -/

namespace Sys2Proof.Machine

/-! ## Claims (R161 to R166) -/

/-- Tiles of a claim that cannot be promoted: their stored copies are lost (R164). -/
def Dev.claimFailed (d : Dev) (c : Claim) : List Nat :=
  (fromTo c.first c.count).filter fun i => (d.tileAt c.obj c.ver i).2.1

/-- Whether every tile of a claim is present, needs no copy, or has failed. -/
def Dev.claimReady (d : Dev) (c : Claim) : Bool :=
  (fromTo c.first c.count).all fun i =>
    let (_, bad, sid) := d.tileAt c.obj c.ver i
    bad || (match d.objs.stored.get? sid with
      | some s => s.near == .present
      | none => true)

/-- Results of `RESIDE`: claim ID, resolved version, bytes charged. -/
def Claim.results (c : Claim) (id : Nat) : Bytes := leBytes 4 id ++ leBytes 4 c.ver ++ leBytes 8 c.charge

/-- The completion of a `RESIDE` that waited (R161, R164). -/
def Dev.claimCpl (d : Dev) (id : Nat) (c : Claim) : Cpl :=
  let bad := d.claimFailed c
  if bad.isEmpty then Cpl.ok (c.results id)
  else { Cpl.ok (c.results id) with status := .objectDamaged, ext := some (.tiles c.ver bad) }

/-- Every claim whose wait is over completes its `RESIDE`. -/
def settleClaims (d : Dev) : Dev :=
  d.tiers.claims.foldl (fun d p =>
    match p.2.waiter with
    | none => d
    | some n =>
      if d.claimReady p.2 then
        finishCmd n (d.claimCpl p.1 p.2)
          (d.updTiers fun t => { t with claims := Map.upd p.1 (fun c => { c with waiter := none }) t.claims })
      else d) d

/-- A claim ended: its hold and charge go, and a `RESIDE` that waits for it completes with what the cause gives
(R163). -/
def endClaim (id : Nat) (c : Cpl) (d : Dev) : Dev :=
  match d.tiers.claims.get? id with
  | none => d
  | some k =>
    let d := releaseCopies (d.updTiers fun t => { t with claims := Map.del id t.claims })
    match k.waiter with
    | some n => finishCmd n c d
    | none => d

/-- Every claim that passes a test ended. -/
def endClaims (f : Claim → Bool) (c : Cpl) (d : Dev) : Dev :=
  d.tiers.claims.foldl (fun d p => if f p.2 then endClaim p.1 c d else d) d

/-! ## Schedules (R168 to R176) -/

/-- `a - b` as a signed value modulo 2^48 (R170). -/
def serialDiff (a b : Nat) : Int :=
  let x : Nat := (a + 2 ^ 48 - b % 2 ^ 48) % 2 ^ 48
  if x ≥ 2 ^ 47 then (x : Int) - 2 ^ 48 else x

/-- Marker of an entry's next use (R170). -/
def nextOcc (period marker c : Nat) : Nat :=
  if period = 0 then marker
  else
    let lag := serialDiff c marker
    let k := if lag ≤ 0 then 0 else (lag.toNat + period - 1) / period
    (marker + k * period) % 2 ^ 48

/-- Occurrences of an entry that an advance from `old` to `new` skips over: their markers lie between the two. -/
def skippedOcc (period marker old new : Nat) : Nat :=
  let adv := serialDiff new old
  let d0 := serialDiff (nextOcc period marker old) old
  if adv ≤ 0 ∨ d0 < 0 then 0
  else
    let a := adv.toNat
    if period = 0 then b2n (decide (0 < d0 ∧ d0.toNat < a))
    else
      let first := if d0 = 0 then period else d0.toNat
      if first ≥ a then 0 else (a - 1 - first) / period + 1

/-- Whether a tile of an occurrence is present, or needs no copy. -/
def Dev.tilePresent (d : Dev) (obj ver tile : Nat) : Bool :=
  match d.objs.stored.get? (d.sidOf obj ver tile) with
  | some s => s.near == .present
  | none => true

/-- Whether every tile of an occurrence of an entry that resolved to a version is present; of one that resolved to none it
is not. -/
def Dev.occPresent (d : Dev) (e : SchedEnt) (ver : Nat) : Bool :=
  ver != 0 && (fromTo e.first e.count).all fun i => d.tilePresent e.obj ver i

/-- An entry without an occurrence in the window or the early range. -/
def SchedEnt.clear (e : SchedEnt) : SchedEnt :=
  { e with occ := none, early := false, resv := 0, held := [], skips := [], staged := 0 }

/-- Whether a version of an object is sealed and the schedule's tenant may read it. -/
def Obj.readable (o : Obj) (t v : Nat) : Bool :=
  match o.vers.get? v with
  | some x => x.st == .sealed && (o.tenant == t || o.covers t v)
  | none => false

/-- Whether an entry names something that the schedule's tenant may still read (R171): its fixed version, or with `follow`
the object under any grant. -/
def Dev.entLive (d : Dev) (s : Sched) (e : SchedEnt) : Bool :=
  match d.obj? e.obj with
  | none => false
  | some o => if e.follow then o.lives && (o.tenant == s.tenant || o.covers s.tenant 0) else o.readable s.tenant e.ver

/-- Whether sable mode keeps an entry from being promoted (R176). -/
def Dev.entCut (d : Dev) (s : Sched) (e : SchedEnt) : Bool :=
  d.pwr.sable && (match d.obj? e.obj with
    | some o => o.half != s.half
    | none => false)

/-- The version an occurrence resolves to when it enters; 0 if none is visible (R171). -/
def Dev.entResolve (d : Dev) (s : Sched) (e : SchedEnt) : Nat :=
  if e.follow then (match d.obj? e.obj with
    | some o => (o.latest s.tenant).getD 0
    | none => 0)
  else e.ver

/-- One entry moved with the counter: it leaves an occurrence that has passed, and enters the next one in range. An
occurrence whose version the tenant may no longer read holds nothing. Answers the entry and what it adds to
`PREFETCH_LATE`: the occurrences skipped over whose tiles were not present (R170), and an entry skipped from now on
(R171, R176). -/
def moveEnt (d : Dev) (s : Sched) (old c : Nat) (e : SchedEnt) : SchedEnt × Nat :=
  if e.dead then (e.clear, 0)
  else if !d.entLive s e || d.entCut s e then ({ e.clear with dead := true }, 1)
  else
    let skipped := skippedOcc s.period e.marker old c
    let here := e.occ.any fun m => decide (serialDiff m old > 0 ∧ serialDiff m c < 0)
    let late := b2n (here && !d.occPresent e e.resv) +
      (if d.occPresent e (d.entResolve s e) then 0 else skipped - b2n here)
    let n := nextOcc s.period e.marker c
    let dist := serialDiff n c
    let inWin := decide (0 ≤ dist ∧ dist ≤ (s.ahead : Int))
    let inEarly := s.early && decide ((s.ahead : Int) < dist ∧ dist ≤ 2 * s.ahead)
    if inWin || inEarly then
      let seen := e.resv == 0 || ((d.obj? e.obj).map fun o => o.readable s.tenant e.resv).getD false
      if e.occ = some n then (if seen then { e with early := !inWin }
        else { e.clear with occ := some n, early := !inWin }, late)
      else ({ e.clear with occ := some n, early := !inWin, resv := d.entResolve s e }, late)
    else (e.clear, late)

/-- The hint in force for an occurrence of a layer. -/
def Sched.hint? (s : Sched) (layer occ : Nat) : Option Hint := s.hints.find? fun h => h.layer == layer && h.occ == occ

/-- Tokens an entry's hint names for its expert: none without a hint, 0 where the hint omits it. -/
def Sched.tokens (s : Sched) (e : SchedEnt) : Option Nat :=
  (e.occ.bind fun m => s.hint? e.layer m).map fun h => ((h.pairs.find? (·.1 == e.expert)).map (·.2)).getD 0

/-- Whether an entry's occurrence takes holds under the hints (R173). -/
def Sched.ranked (s : Sched) (e : SchedEnt) : Bool :=
  e.occ.isSome && e.resv != 0 && !e.dead && (e.expert == 0xFFFF || s.tokens e != some 0)

/-- The rank of an entry at an index as a list compared in order: early after in-window, distance, class, order inside
the class (R173). -/
def Sched.rank (s : Sched) (c ix : Nat) (e : SchedEnt) : List Nat :=
  let dist := (serialDiff (e.occ.getD 0) c).toNat
  let tail := if e.expert = 0xFFFF then [0, ix, 0]
    else match s.tokens e with
      | some n => [1, 2 ^ 16 - n, e.expert * 2 ^ 24 + ix]
      | none => [2, ix, 0]
  b2n e.early :: dist :: tail

/-- Lexicographic order. -/
def lexLe : List Nat → List Nat → Bool
  | [], _ => true
  | _ :: _, [] => false
  | a :: x, b :: y => if a < b then true else if b < a then false else lexLe x y

/-- Insertion by rank. -/
def insertRank (x : List Nat × Nat) : List (List Nat × Nat) → List (List Nat × Nat)
  | [] => [x]
  | y :: l => if lexLe x.1 y.1 then x :: y :: l else y :: insertRank x l

/-- Indices of the entries that take holds, in rank order. -/
def Sched.order (s : Sched) (c : Nat) : List Nat :=
  let l := ((List.range s.ents.length).zip s.ents).filterMap fun p =>
    if s.ranked p.2 then some (s.rank c p.1 p.2, p.1) else none
  (l.foldl (fun l x => insertRank x l) []).map (·.2)

/-- A schedule. -/
def Dev.sched? (d : Dev) (id : Nat) : Option Sched := d.tiers.scheds.get? id

/-- `f` applied to a schedule. -/
def Dev.updSched (id : Nat) (f : Sched → Sched) (d : Dev) : Dev :=
  d.updTiers fun t => { t with scheds := Map.upd id f t.scheds }

/-- `f` applied to an entry of a schedule. -/
def Dev.updEnt (id ix : Nat) (f : SchedEnt → SchedEnt) (d : Dev) : Dev :=
  d.updSched id fun s => { s with ents := s.ents.modify ix f }

/-- Early holds of a tenant's schedules on tiles that are not promoting or present are given up (R172). -/
def dropEarly (t : Nat) (d : Dev) : Dev :=
  let keep (e : SchedEnt) (i : Nat) : Bool := match d.objs.stored.get? (d.sidOf e.obj e.resv i) with
    | some x => x.near != .absent
    | none => true
  let drop (e : SchedEnt) : SchedEnt := if e.early then { e with held := e.held.filter (keep e) } else e
  d.updTiers fun x => { x with
    scheds := x.scheds.mapVals fun _ s => if s.tenant = t then { s with ents := s.ents.map drop } else s }

/-- What stops a hold on a tile: 1 quota, 2 capacity, 0 nothing. -/
def Dev.holdStop (d : Dev) (tenant half sid : Nat) : Nat :=
  let n := d.copySize sid
  if d.excess tenant 1 n ≠ 0 then 1
  else
    let absent := match d.objs.stored.get? sid with
      | some x => x.near == .absent
      | none => false
    if absent && decide (d.nearUsed half + n > d.nearCap half) then 2 else 0

/-- Tiles of an entry from a list marked as skipped for a cause, where they hold nothing and carry no earlier mark; only an
occurrence in the window is marked (R177, R178). -/
def SchedEnt.skipped (e : SchedEnt) (cause : Nat) (l : List Nat) : SchedEnt :=
  if e.early then e
  else { e with skips := l.foldl (fun m i => if m.has i || e.held.contains i then m else Map.set i cause m) e.skips }

/-- Holds placed on the tiles of one entry from a list; what has stopped them: 0 nothing, 1 quota, 2 capacity. -/
def holdTiles (id ix : Nat) : List Nat → Dev → Nat × Dev
  | [], d => (0, d)
  | i :: l, d =>
    match (d.sched? id).bind fun s => (s.ents[ix]?).map fun e => (s, e) with
    | none => (0, d)
    | some (s, e) =>
      if e.held.contains i then holdTiles id ix l d
      else
        let sid := d.sidOf e.obj e.resv i
        let half := ((d.obj? e.obj).map (·.half)).getD 0
        let stop0 := d.holdStop s.tenant half sid
        let d := if stop0 = 1 ∧ !e.early then dropEarly s.tenant d else d
        let stop := if stop0 = 1 then d.holdStop s.tenant half sid else stop0
        if stop = 0 then
          let started := match d.objs.stored.get? sid with
            | some x => x.near == .absent
            | none => false
          let d := d.updEnt id ix fun e => { e with held := insertNat i e.held }
          let d := holdAdded (if e.early then 0 else s.qos) e.obj e.resv i sid (d.pickStack half []) d
          holdTiles id ix l (bumpTenant s.tenant 8 (b2n started) d)
        else
          (stop, bumpTenant s.tenant (if stop = 1 then 9 else 10) 1
            (d.updEnt id ix fun e => e.skipped stop (i :: l)))

/-- Holds placed in rank order until one stops; what is ranked behind it is skipped for the same cause (R172). -/
def placeHolds (id : Nat) : List Nat → Dev → Dev
  | [], d => d.updSched id fun s => { s with stopped := false }
  | ix :: l, d =>
    match (d.sched? id).bind (·.ents[ix]?) with
    | none => d
    | some e =>
      match holdTiles id ix (fromTo e.first e.count) d with
      | (0, d) => placeHolds id l d
      | (stop, d) =>
        l.foldl (fun d k => d.updEnt id k fun e => e.skipped stop (fromTo e.first e.count))
          (d.updSched id fun s => { s with stopped := true })

/-- Prefetch-staging bytes in use on a half. -/
def Dev.stagingUsed (d : Dev) (half : Nat) : Nat :=
  ((d.tiers.scheds.vals.filter fun s => s.port != 0xFF && portHalf s.port == half).map d.stagedBytes).sum

/-- Tiles of one entry staged one by one, as far as quota and region space allow; `k` bounds them (R172). -/
def stageEnt (id ix : Nat) : Nat → Dev → Dev
  | 0, d => d
  | k + 1, d =>
    match (d.sched? id).bind fun s => (s.ents[ix]?).map fun e => (s, e) with
    | none => d
    | some (s, e) =>
      if e.staged ≥ e.count then d
      else
        let n := d.stageSize s e
        let half := portHalf s.port
        if d.excess s.tenant 0 n ≠ 0 then
          d.updEnt id ix fun e => e.skipped 1 (fromTo (e.first + e.staged) (e.count - e.staged))
        else if d.stagingUsed half + n > d.tcRegion 1 (some half) then d
        else stageEnt id ix k (d.updEnt id ix fun e => { e with staged := e.staged + 1 })

/-- Staging of the entries in range: `stage` 1 and a distance of at most `stage_ahead` (R172). -/
def stageSched (id c : Nat) (d : Dev) : Dev :=
  match d.sched? id with
  | none => d
  | some s =>
    if s.port = 0xFF ∨ !(d.port s.port).tenants.contains s.tenant then d
    else ((List.range s.ents.length).zip s.ents).foldl (fun d p =>
      let on := p.2.stage && !p.2.early && p.2.resv != 0 && (match p.2.occ with
        | some m => decide (serialDiff m c ≤ (s.stageA : Int))
        | none => false)
      if on then stageEnt id p.1 p.2.count d else d) d

/-- A schedule evaluated after its counter went from `old` to `c`, or after holds ended or a hint arrived (old = c):
occurrences leave and enter, holds that the ranking no longer gives go except on tiles that are promoting, holds and
staging are placed (R170 to R174). -/
def evalSched (id old c : Nat) (d : Dev) : Dev :=
  match d.sched? id with
  | none => d
  | some s =>
    let moved := s.ents.map (moveEnt d s old c)
    let late := (moved.map fun p => p.2).sum
    let hints := s.hints.filter fun h => decide (serialDiff h.occ c ≥ 0)
    let s' : Sched := { s with hints := hints, ents := moved.map (·.1) }
    let ents := s'.ents.map fun (e : SchedEnt) =>
      if s'.ranked e then e
      else { e with held := e.held.filter fun i =>
        match d.objs.stored.get? (d.sidOf e.obj e.resv i) with
        | some x => x.near == .promoting
        | none => false }
    let d := bumpTenant s.tenant 11 late (d.updSched id fun _ => { s' with ents := ents })
    let d := releaseCopies d
    let order := match d.sched? id with
      | some s => s.order c
      | none => []
    stageSched id c (placeHolds id order d)

/-- Value of a counter; a counter that is not allocated reads 0. -/
def Dev.ctrVal (d : Dev) (n : Nat) : Nat :=
  match d.sync.counters.get? n with
  | some c => c.val.toNat
  | none => 0

/-- What schedules hold: schedule, object, version, tile. -/
def Dev.schedHolds (d : Dev) : List (Nat × Nat × Nat × Nat) :=
  d.tiers.scheds.flatMap fun p => p.2.ents.flatMap fun e => e.held.map fun i => (p.1, e.obj, e.resv, i)

/-- The schedules that have stopped placing holds are evaluated again where their counters stand. -/
def resumeScheds (d : Dev) : Dev :=
  d.tiers.scheds.foldl (fun d p =>
    if p.2.stopped then evalSched p.1 (d.ctrVal p.2.counter) (d.ctrVal p.2.counter) d else d) d

/-- The same where a schedule has given up a hold since `d0` (R172). -/
def resumeAfter (d0 d : Dev) : Dev :=
  let now := d.schedHolds
  if d0.schedHolds.any fun h => !now.contains h then resumeScheds d else d

/-- Every schedule evaluated again where its counter stands. -/
def evalScheds (d : Dev) : Dev :=
  resumeAfter d
    (d.tiers.scheds.foldl (fun d p => evalSched p.1 (d.ctrVal p.2.counter) (d.ctrVal p.2.counter) d) d)

/-- Every schedule of a counter evaluated after the counter went from `old` to its present value; others that had stopped go
on where that has ended holds. -/
def counterMoved (n old : Nat) (d : Dev) : Dev :=
  resumeAfter d (d.tiers.scheds.foldl (fun d p => if p.2.counter = n then evalSched p.1 old (d.ctrVal n) d else d) d)

/-! ## `RESIDE`, `UNRESIDE` (R161 to R164) -/

/-- Bytes of the tiles of a range that have no near copy, each stored tile once. -/
def Dev.absentBytes (d : Dev) (sids : List Nat) : Nat :=
  ((sids.foldl (fun l s => if s = 0 then l else insertNat s l) []).map fun s =>
    match d.objs.stored.get? s with
    | some x => if x.near == .absent then x.sectors * 256 else 0
    | none => 0).sum

/-- Holds added to every tile of a range under a label. -/
def holdRange (q h v first n stack : Nat) (d : Dev) : Dev :=
  (fromTo first n).foldl (fun d i => holdAdded q h v i (d.sidOf h v i) stack d) d

/-- `RESIDE`. -/
def bodyReside : Body := plain fun x d => do
  let e := x.e
  let o ← objOf x (e.w32 0x20) d
  let v ← resolveSealed o x.t (e.w32 0x20) 0x20
  checkRange o (e.w32 0x24) (e.w32 0x28) 0x24
  need (decide (d.tiers.claims.length < 1048576)) (errS .noResource)
  let sids := (fromTo (e.w32 0x24) (e.w32 0x28)).map (d.sidOf x.e.ha v)
  let charge := (sids.map d.copySize).sum
  checkQuota x.t 0 charge 0 d
  let _ ← chooseHalf (d.absentBytes sids) 0 d [o.half]
  let id := d.tiers.claims.firstFree 0
  let c : Claim :=
    { tenant := x.t, obj := e.ha, ver := v, first := e.w32 0x24, count := e.w32 0x28, charge := charge,
      qos := e.qos, waiter := none }
  let d := d.updTiers fun t => { t with claims := Map.set id c t.claims }
  let d := holdRange e.qos e.ha v c.first c.count (d.pickStack o.half []) d
  if e.fld 0x2C 0 1 = 0 then okRes (c.results id) d
  else if d.claimReady c then .ok (.done (d.claimCpl id c) d)
  else .ok (.wait (d.updTiers fun t => { t with claims := Map.upd id (fun c => { c with waiter := some x.num }) t.claims }))

/-- `UNRESIDE`. -/
def bodyUnreside : Body := plain fun x d => do
  checkQos x d
  let id := x.e.w32 0x20
  match d.tiers.claims.get? id with
  | none => .error (errF 0x20)
  | some c =>
    need (c.tenant == x.t) (errS .notPermitted)
    okRes (leBytes 8 c.charge) (evalScheds (endClaim id (errS .aborted) d))

/-! ## `SCHEDULE_LOAD`, `SCHEDULE_DROP`, `ROUTE_HINT` (R168 to R175) -/

/-- `c` with a record of kind PARTIAL that gives an index. -/
def atEntry (c : Cpl) (i : Nat) : Cpl := { c with ext := some (.part i) }

/-- One schedule entry checked and resolved (Table 5-9, R169). -/
def schedEnt (x : Ctx) (d : Dev) (period ahead last : Nat) (layout : Nat) (b : Bytes) : Except Cpl SchedEnt := do
  let h := fld b 0 0 64
  let o ← checkHandle x 0x18 h (fld b 8 0 32) d
  let ver := fld b 8 0 32
  let follow := bitOf (fld b 0x16 0 8) 0
  need (fld b 0x16 2 6 == 0 && fld b 0x17 0 8 == 0) (errF 0x18)
  need (!(follow && ver != 0)) (errF 0x18)
  let v ← if follow then .ok 0 else resolveSealed o x.t ver 0x18
  need (fld b 0x10 0 32 != 0) (errF 0x18)
  checkRange o (fld b 0xC 0 32) (fld b 0x10 0 32) 0x18
  let m := fld b 0x18 0 48
  need (decide (last ≤ m)) (errF 0x18)
  need (period == 0 || (decide (m < period) && decide (ahead < period))) (errF 0x18)
  need (layout == 0 || !bitOf (fld b 0x16 0 8) 1 || layoutOk layout o.th o.tw) (errF 0x18)
  .ok { obj := h, ver := v, first := fld b 0xC 0 32, count := fld b 0x10 0 32, expert := fld b 0x14 0 16,
        follow := follow, stage := bitOf (fld b 0x16 0 8) 1, marker := m, layer := fld b 0x1E 0 16, dead := false,
        occ := none, early := false, resv := 0, held := [], skips := [], staged := 0 }

/-- The entries of a list, each checked in order; a failure names the entry's index. -/
def schedEnts (x : Ctx) (d : Dev) (period ahead layout : Nat) : Nat → Nat → List Bytes → Except Cpl (List SchedEnt)
  | _, _, [] => .ok []
  | i, last, b :: l =>
    match schedEnt x d period ahead last layout b with
    | .error c => .error (atEntry c i)
    | .ok e => do
      let rest ← schedEnts x d period ahead layout (i + 1) e.marker l
      .ok (e :: rest)

/-- Entries of all schedules. -/
def Dev.schedEntries (d : Dev) : Nat := (d.tiers.scheds.map fun p => p.2.ents.length).sum

/-- Whether a counter is allocated to a tenant. -/
def Dev.ownsCounter (d : Dev) (t n : Nat) : Bool :=
  match d.sync.counters.get? n with
  | some c => c.tenant == t
  | none => false

/-- `SCHEDULE_LOAD`. In sable mode its counter lies on the schedule's half (R23, R298). -/
def bodyScheduleLoad : Body := withData
  (fun x d => do
    checkQos x d
    need (d.ownsCounter x.t (x.e.fld 0x24 0 17)) (errF 0x24)
    checkPath x.half (dieHalf (counterDie (x.e.fld 0x24 0 17))) d
    .ok (32 * x.e.w32 0x20))
  (fun x b d => do
    let e := x.e
    let n := e.w32 0x20
    let period := e.fld 0x30 0 48
    let ahead := e.fld 0x28 0 8
    let ents ← schedEnts x d period ahead (e.w32 0x2C) 0 0 (chunks 32 n b)
    need (decide (d.tiers.scheds.length < 4096)) (atEntry (errS .noResource) 0)
    need (decide (d.schedEntries + n ≤ 16777216)) (atEntry (errS .noResource) (16777216 - d.schedEntries))
    let id := d.tiers.scheds.firstFree 0
    let s : Sched :=
      { tenant := x.t, half := x.half, counter := e.fld 0x24 0 17, ahead := ahead, stageA := e.fld 0x29 0 8,
        early := e.fld 0x2A 0 1 == 1, layout := e.w32 0x2C, period := period, port := e.fld 0x38 0 8, qos := e.qos,
        ents := ents, hints := [], stopped := false }
    let d := d.updTiers fun t => { t with scheds := Map.set id s t.scheds }
    let c := d.ctrVal s.counter
    okRes (leBytes 4 id) (evalSched id c c d))

/-- A schedule removed with its holds and staging. -/
def dropSched (id : Nat) (d : Dev) : Dev :=
  releaseCopies (d.updTiers fun t => { t with scheds := Map.del id t.scheds })

/-- A schedule the issuing tenant may act on, named at 0x20. -/
def ownSched (x : Ctx) (d : Dev) : Except Cpl Sched :=
  match d.sched? (x.e.w32 0x20) with
  | none => .error (errF 0x20)
  | some s => if s.tenant = x.t then .ok s else .error (errS .notPermitted)

/-- `SCHEDULE_DROP`. -/
def bodyScheduleDrop : Body := plain fun x d => do
  checkQos x d
  let _ ← ownSched x d
  okRes [] (evalScheds (dropSched (x.e.w32 0x20) d))

/-- The pairs of a hint: expert and tokens. -/
def hintPairs (b : Bytes) (n : Nat) : List (Nat × Nat) :=
  (List.range n).map fun k => (fld b (4 * k) 0 16, fld b (4 * k + 2) 0 16)

/-- The first pair that is wrong: an expert named twice, or 0xFFFF. -/
def badPair (l : List (Nat × Nat)) : Option Nat :=
  (List.range l.length).find? fun k =>
    let e := (l.getD k (0, 0)).1
    e == 0xFFFF || (l.take k).any (·.1 == e)

/-- The marker of the earliest occurrence of a layer that has not passed (R174). Of a layer whose entries have all passed,
or are skipped for good, there is none, and its hint counts as one for a layer without entries (DESIGN CHOICE, log
entry 76: R174 names only a layer that has no entry in the schedule). -/
def Sched.layerOcc (s : Sched) (layer c : Nat) : Option Nat :=
  let ms := (s.ents.filter fun e => e.layer == layer && !e.dead).filterMap fun e =>
    let n := nextOcc s.period e.marker c
    if serialDiff n c < 0 then none else some n
  ms.foldl (fun a m =>
    match a with
    | none => some m
    | some b => if serialDiff m c < serialDiff b c then some m else some b) none

/-- `ROUTE_HINT`. -/
def bodyRouteHint : Body := withData
  (fun x d => do
    checkQos x d
    let _ ← ownSched x d
    .ok (if x.e.addr = 0 then 0 else 4 * x.e.w16 0x26))
  (fun x b d => do
    let e := x.e
    let s ← ownSched x d
    let inl := e.addr == 0
    let l := hintPairs (if inl then e.bytes.drop 0x28 else b) (e.w16 0x26)
    match badPair l with
    | some k => .error (if inl then errF (0x28 + 4 * k) else errD (4 * k))
    | none =>
      let layer := e.w16 0x24
      let c := d.ctrVal s.counter
      match s.layerOcc layer c with
      | none => okRes [] (bumpTenant x.t 12 1 d)
      | some m =>
        let id := e.w32 0x20
        let d := d.updSched id fun s => { s with
          hints := s.hints.filter (fun h => !(h.layer == layer && h.occ == m)) ++ [⟨layer, m, l⟩] }
        okRes [] (evalSched id c c d))

/-! ## `QUOTA_SET` (R158) -/

/-- `QUOTA_SET`. -/
def bodyQuotaSet : Body := plain fun x d => do
  checkQos x d
  let e := x.e
  let t := e.fld 0x22 0 10
  let tier := e.fld 0x21 0 8
  need (d.defined t) (errF 0x22)
  let d := if e.b20 = 0 then
    evalScheds (d.updTiers fun s => { s with limits := Map.set (t * 3 + tier) (e.w64 0x28) s.limits })
  else d
  okRes (leBytes 8 (d.limit t tier) ++ leBytes 8 (d.charge t tier)) d

/-! ## Meanings -/

/-- RESIDE. -/
def execReside (c : Nat) (s : State) : Host.Outcome State Fault Refusal := onDev (startCmd 0x20 bodyReside c) s
/-- UNRESIDE. -/
def execUnreside (c : Nat) (s : State) : Host.Outcome State Fault Refusal := onDev (startCmd 0x21 bodyUnreside c) s
/-- SCHEDULE_LOAD. -/
def execScheduleLoad (c : Nat) (s : State) : Host.Outcome State Fault Refusal :=
  onDev (startCmd 0x22 bodyScheduleLoad c) s
/-- SCHEDULE_DROP. -/
def execScheduleDrop (c : Nat) (s : State) : Host.Outcome State Fault Refusal :=
  onDev (startCmd 0x23 bodyScheduleDrop c) s
/-- ROUTE_HINT. -/
def execRouteHint (c : Nat) (s : State) : Host.Outcome State Fault Refusal := onDev (startCmd 0x24 bodyRouteHint c) s
/-- QUOTA_SET. -/
def execQuotaSet (c : Nat) (s : State) : Host.Outcome State Fault Refusal := onDev (startCmd 0x26 bodyQuotaSet c) s

end Sys2Proof.Machine
end

