-- ==== Sys2Proof/Machine/Sync.lean ====
section
/-! DEFINITION. Flags, counters and herds: what sets, clears, adds, arrivals and releases do at their homes, and the
signals of partners (10_sync.md). -/

namespace Sys2Proof.Machine

/-! ## Homes and names (R295 to R298) -/

/-- `f` applied to the synchronisation state. -/
def Dev.updSync (f : Sync → Sync) (d : Dev) : Dev := { d with sync := f d.sync }

/-- The physical flag a virtual ID of a tenant names. -/
def Dev.physFlag (d : Dev) (t vid : Nat) : Option Nat := d.sync.flags.findKey? fun _ f => f.tenant == t && f.vid == vid

/-- A flag. -/
def Dev.flag? (d : Dev) (phys : Nat) : Option Flag := d.sync.flags.get? phys

/-- A herd of a tenant. -/
def Dev.herdOf (d : Dev) (t id : Nat) : Option Herd :=
  match d.sync.herds.get? id with
  | some h => if h.tenant = t then some h else none
  | none => none

/-- `n` more refused updates of a tenant (R324). -/
def syncRefused (t : Nat) (d : Dev) : Dev := bumpTenant t 24 1 d

/-- The lowest run of `n` numbers from `lo` below `hi` that misses an ascending list. -/
def firstGap (blocked : List Nat) (lo hi n : Nat) : Option Nat :=
  let s := blocked.foldl (fun s b => if b < s then s else if s + n ≤ b then s else b + 1) lo
  if s + n ≤ hi then some s else none

/-- Die of the issuing half with the most free flags, the lower on a tie (Table 10-5). -/
def Dev.bestFlagDie (d : Dev) (half : Nat) : Nat :=
  let used (k : Nat) : Nat := (d.sync.flags.filter fun p => flagDie p.1 == k).length
  if used (2 * half + 1) < used (2 * half) then 2 * half + 1 else 2 * half

/-! ## Releases (R299 to R302, R307, R310) -/

/-- A released slice goes on after the instruction that waited (R273). -/
def resumeSlice (run idx : Nat) (d : Dev) : Dev :=
  let f (s : Slice) : Slice :=
    { s with
      st := match s.st with
        | .waiting c => .running c
        | x => x
      pc := s.pc + 1 }
  { d with comp := { d.comp with
      runs := Map.upd run (fun r => { r with slices := Map.upd idx f r.slices }) d.comp.runs } }

/-- A wait record taken away. -/
def dropWait (id : Nat) (d : Dev) : Dev := d.updSync fun s => { s with waits := Map.del id s.waits }

/-- A wait released with `SUCCESS`: it reports `v` and the tick of the release (R321). -/
def releaseWait (id : Nat) (w : WaitRec) (v : Nat) (d : Dev) : Dev :=
  let d := dropWait id d
  match w.who with
  | .cmd n => finishCmd n (Cpl.ok (leBytes 8 v ++ leBytes 8 d.now)) d
  | .slice r i => resumeSlice r i d

/-- Half of who waits. -/
def Dev.waiterHalf (d : Dev) (w : WaitRec) : Nat :=
  match w.who with
  | .cmd n => ((d.cmd? n).map (·.half)).getD 0
  | .slice r i =>
    match d.comp.runs.get? r with
    | none => 0
    | some x =>
      match x.slices.get? i with
      | none => x.half
      | some s => match s.st with
        | .waiting c => coreHalf c
        | .running c => coreHalf c
        | .saved c => clusterHalf c

/-- Die of the home of what is waited for. -/
def Dev.waitDie (d : Dev) (w : WaitRec) : Nat :=
  match w.what with
  | .flag p _ => flagDie p
  | .counter n _ => counterDie n
  | .herd id _ => ((d.sync.herds.get? id).map (·.home)).getD 0

/-- Whether a release would go over a bridge that is lost: its waiter is left to its watchdog (R24). -/
def Dev.cutWait (d : Dev) (w : WaitRec) : Bool := d.pwr.sable && dieHalf (d.waitDie w) != d.waiterHalf w

/-- Every wait that passes a test released, in order of registration, but those across a lost bridge. -/
def releaseAll (f : WaitRec → Bool) (v : Nat) (d : Dev) : Dev :=
  d.sync.waits.foldl (fun d p => if f p.2 && !d.cutWait p.2 then releaseWait p.1 p.2 v d else d) d

/-- The TAKE winner of a flag: lowest waiter index, then first registered (R300). -/
def Dev.takeWinner (d : Dev) (phys : Nat) : Option (Nat × WaitRec) :=
  d.sync.waits.foldl (fun a p =>
    if p.2.what = .flag phys true ∧ !d.cutWait p.2 then
      match a with
      | none => some p
      | some q => if p.2.index < q.2.index then some p else some q
    else a) none

/-- `f` applied to a flag. -/
def Dev.updFlag (phys : Nat) (f : Flag → Flag) (d : Dev) : Dev :=
  d.updSync fun s => { s with flags := Map.upd phys f s.flags }

/-- A set reaches a flag's home (Table 10-2, R299 to R301). A quarantined flag ignores it (R322). -/
def setFlag (phys : Nat) (d : Dev) : Dev :=
  match d.flag? phys with
  | none => d
  | some f =>
    if f.quar then syncRefused f.tenant d
    else if f.set then bumpTenant f.tenant 25 1 d
    else
      let d := releaseAll (fun w => w.what == .flag phys false) 1 d
      match d.takeWinner phys with
      | some p => releaseWait p.1 p.2 1 d
      | none => d.updFlag phys fun f => { f with set := true }

/-- A clear reaches a flag's home from a signal or an instruction (R302, R322). -/
def clearFlag (phys : Nat) (d : Dev) : Dev :=
  match d.flag? phys with
  | none => d
  | some f => if f.quar then syncRefused f.tenant d else d.updFlag phys fun f => { f with set := false }

/-- An add reaches a counter's home: its value modulo 2^48, every waiter whose target it has reached released, the
schedules it drives evaluated (R170, R306, R307). -/
def addCounter (n amount : Nat) (d : Dev) : Dev :=
  match d.sync.counters.get? n with
  | none => d
  | some c =>
    let v := c.val + BitVec.ofNat 48 amount
    let d := d.updSync fun s => { s with counters := Map.upd n (fun c => { c with val := v }) s.counters }
    let d := releaseAll (fun w => match w.what with
      | .counter m t => m == n && decide (serialDiff v.toNat t ≥ 0)
      | _ => false) v.toNat d
    counterMoved n c.val.toNat d

/-- Whether a live reduction names a counter as its `retire_counter` (R219, R308). -/
def Dev.retireCtr (d : Dev) (n : Nat) : Bool := d.reds.reds.any fun p => p.2.counter == n && p.2.ended.isNone

/-- Whether an update from one half to an object of a die goes over a bridge that is lost (R24). -/
def Dev.cutOff (d : Dev) (half die : Nat) : Bool := d.pwr.sable && dieHalf die != half

/-- An add that the device makes from a half: one that would cross a lost bridge is not applied, and the waiters'
watchdogs apply (R24). -/
def addCounterFrom (half n amount : Nat) (d : Dev) : Dev :=
  if d.cutOff half (counterDie n) then d else addCounter n amount d

/-- The same of the set of a flag. -/
def setFlagFrom (half phys : Nat) (d : Dev) : Dev := if d.cutOff half (flagDie phys) then d else setFlag phys d

/-! ## Herds (R309, R310) -/

/-- `f` applied to a herd. -/
def Dev.updHerd (id : Nat) (f : Herd → Herd) (d : Dev) : Dev :=
  d.updSync fun s => { s with herds := Map.upd id f s.herds }

/-- Generations completed while the arrival set equals the mask; `k` bounds them. -/
def completeGen (id : Nat) : Nat → Dev → Dev
  | 0, d => d
  | k + 1, d =>
    match d.sync.herds.get? id with
    | none => d
    | some h =>
      if h.a != h.mask then d
      else
        let d := releaseAll (fun w => w.what == .herd id h.g) h.g d
        let d := if h.relFlag = 0xFFFF then d
          else match d.physFlag h.tenant h.relFlag with
            | some p => setFlagFrom (dieHalf h.home) p d
            | none => syncRefused h.tenant d
        let d := h.notify.foldl (fun d n => sendSignalAdd 0 n.1 h.tenant n.2 1 d) d
        let d := bumpTenant h.tenant 27 1 d
        let d := d.updHerd id fun h => { h with
          g := 1 - h.g, a := h.n, n := [], dueAt := if h.n.isEmpty then none else some (d.now + h.timeout) }
        completeGen id k d

/-- What an arrival meets. -/
inductive Arrival where
  | refused | broken | taken
deriving DecidableEq, Repr

/-- An arrival of a participant of a herd, with the wait it registers, if any (R309, R310). -/
def arrive (id p : Nat) (wait : Option (Nat → WaitRec)) (d : Dev) : Arrival × Dev :=
  match d.sync.herds.get? id with
  | none => (.refused, d)
  | some h =>
    let reg (gen : Nat) (d : Dev) : Dev := match wait with
      | none => d
      | some w => d.updSync fun s => { s with waits := Map.set s.nextWait (w gen) s.waits, nextWait := s.nextWait + 1 }
    if !h.mask.contains p then (.refused, bumpTenant h.tenant 28 1 d)
    else if h.broken then (.broken, d)
    else if !h.a.contains p then
      let d := d.updHerd id fun h => { h with
        a := insertNat p h.a, dueAt := if h.a.isEmpty then some (d.now + h.timeout) else h.dueAt }
      (.taken, completeGen id 2 (reg h.g d))
    else if !h.n.contains p then
      (.taken, reg (1 - h.g) (d.updHerd id fun h => { h with n := insertNat p h.n }))
    else (.refused, bumpTenant h.tenant 28 1 d)

/-! ## Signals (R201, R222, R314) -/

/-- A signal applied in a tenant's namespace, as it reaches the device on a port: refused and counted where an object is
not the tenant's, an operand is out of range, or the home lies across a lost bridge. -/
def applySignal (t port op target operand : Nat) (d : Dev) : Dev :=
  let cut (die : Nat) : Bool := d.pwr.sable && dieHalf die != portHalf port
  if op = 1 ∨ op = 4 then
    match d.physFlag t target with
    | none => syncRefused t d
    | some p =>
      if cut (flagDie p) then syncRefused t d
      else if op = 1 then setFlag p d else clearFlag p d
  else if op = 2 then
    if d.ownsCounter t target && decide (1 ≤ operand ∧ operand ≤ 2 ^ 20) && !cut (counterDie target) &&
        !d.retireCtr target then addCounter target operand d
    else syncRefused t d
  else if op = 3 then
    match d.herdOf t target with
    | none => syncRefused t d
    | some h =>
      if cut h.home then syncRefused t d
      else match arrive target operand none d with
        | (.taken, d) => d
        | (_, d) => syncRefused t d
  else syncRefused t d

/-! ## Watchdog records (R303, R311, R551) -/

/-- Object kind and identifier of a wait, as its record names them. -/
def WaitRec.ident (w : WaitRec) : Nat × Nat :=
  match w.what with
  | .flag _ _ => (0, w.vid) | .counter n _ => (1, n) | .herd id _ => (2, id)

/-- The record of an expired wait. -/
def watchdogRec (w : WaitRec) : ErrRec :=
  { ErrRec.mk0 1 0x0D with
    tenValid := true, tenant := w.tenant
    detail := leBytes 1 w.ident.1 ++ zeros 3 ++ leBytes 4 w.ident.2 ++ leBytes 4 w.index }

end Sys2Proof.Machine
end

