-- ==== Sys2Proof/Machine/Runs.lean ====
section
/-! DEFINITION. Kernel runs and Eland batches as other parts meet them: their removal, and the results of batches
(08_engines.md). -/

namespace Sys2Proof.Machine

/-! ## Accessors -/

/-- A live run. -/
def Dev.run? (d : Dev) (n : Nat) : Option Run := d.comp.runs.get? n

/-- A kernel, by handle. -/
def Dev.kernel? (d : Dev) (h : Nat) : Option Kernel := d.comp.kernels.get? h

/-- A batch. -/
def Dev.batch? (d : Dev) (n : Nat) : Option Batch := d.comp.batches.get? n

/-- `f` applied to kernels and runs. -/
def Dev.updComp (f : Comp → Comp) (d : Dev) : Dev := { d with comp := f d.comp }

/-- `f` applied to a run. -/
def Dev.updRun (n : Nat) (f : Run → Run) (d : Dev) : Dev := d.updComp fun c => { c with runs := Map.upd n f c.runs }

/-- `f` applied to a slice of a run. -/
def Dev.updSlice (n i : Nat) (f : Slice → Slice) (d : Dev) : Dev :=
  d.updRun n fun r => { r with slices := Map.upd i f r.slices }

/-- `f` applied to a batch. -/
def Dev.updBatch (n : Nat) (f : Batch → Batch) (d : Dev) : Dev :=
  d.updComp fun c => { c with batches := Map.upd n f c.batches }

/-- A stream. -/
def Dev.str? (d : Dev) (id : Nat) : Option Stream := d.strs.strs.get? id

/-- `f` applied to a stream. -/
def Dev.updStr (id : Nat) (f : Stream → Stream) (d : Dev) : Dev :=
  d.updStrs fun s => { s with strs := Map.upd id f s.strs }

/-- `n` added to a stream's counter (Table 6-10). -/
def strCount (id idx n : Nat) (d : Dev) : Dev := bump 3 id idx n d

/-- A trace record of source 2 about a stream (Table 14-19). -/
def traceStr (ev id : Nat) (d : Dev) : Dev :=
  match d.str? id with
  | none => d
  | some s =>
    trace 2 ev (some s.tenant) id
      (leBytes 1 s.kind ++ leBytes 1 s.port ++ leBytes 1 s.hstat ++ zeros 5 ++ leBytes 8 s.done) d

/-! ## A run that ends (R245, R253) -/

/-- Whether a waiter is a kernel output tile of a run. -/
def Waiter.ofRun (n : Nat) : Waiter → Bool
  | .run m _ => m == n
  | _ => false

/-- A run removed: its slices and their saved state, its registered waits, its output tiles not yet taken, its
reservations. `bad` says whether it ended otherwise than by success: its producer in a version still open is then partial
(R331). -/
def dropRun (n : Nat) (bad : Bool) (d : Dev) : Dev :=
  match d.run? n with
  | none => d
  | some r =>
    let d := dropWrites (fun w => w.ofRun n) d
    let other (w : WaitRec) : Bool := match w.who with
      | .slice m _ => m != n
      | .cmd _ => true
    let d := d.updSync fun s => { s with waits := Map.keep (fun _ w => other w) s.waits }
    let d := r.args.foldl (fun d a =>
      if a.role = 2 then
        d.updVer a.obj a.ver fun v =>
          if v.st = .opened then { v with prods := v.prods.modify a.prod fun p => { p with part := bad } } else v
      else d) d
    let d := r.parts.foldl (fun d p => subNear r.tenant p.1 p.2.1 d) d
    d.updComp fun c => { c with runs := Map.del n c.runs }

/-- The layout in which an input argument is delivered: 0 is the canonical form. -/
def argLay (a : RunArg) (o : Obj) : Nat := if a.layout = 0 then o.fmt else a.layout

/-! ## Results of batches (R262 to R266) -/

/-- An `EXEC_RESULT` message (Table 8-11), with its absolute deadline where it is Scarlet. -/
def sendResult (after : OnTx) (due : Nat) (s : Stream) (id flags status tag expert tokens wver dest off : Nat)
    (data sig : Bytes) (d : Dev) : Dev :=
  sendMsgA after s.qos due s.port 2 s.tenant
    (leBytes 1 7 ++ leBytes 1 flags ++ leBytes 1 status ++ zeros 1 ++ leBytes 4 id ++ leBytes 4 tag ++
      leBytes 2 expert ++ leBytes 2 data.length ++ leBytes 8 dest ++ leBytes 4 off ++
      leBytes 4 (tokens % 512 + 512 * (wver % 2 ^ 23)) ++ data ++ sig) d

/-- The absolute deadline of a batch's run and results in the Scarlet class (R342), else 0. -/
def Dev.batchDue (d : Dev) (s : Stream) (b : Batch) : Nat := if d.clsOf s.qos = 3 then b.accTick + 65535 else 0

/-- A status-only `EXEC_RESULT`. -/
def sendResultStatus (after : OnTx) (s : Stream) (id : Nat) (b : Batch) (status : Nat) (d : Dev) : Dev :=
  sendResult after (d.batchDue s b) s id 1 status b.tag b.expert b.tokens b.wver 0 0 [] [] d

/-- The results of a batch that succeeded, in segments; the last carries the batch's signal record. -/
def sendResultData (after : OnTx) (s : Stream) (id : Nat) (b : Batch) (status : Nat) (data : Bytes) (d : Dev) : Dev :=
  let segs := segments data
  let n := segs.length
  ((List.range n).zip segs).foldl (fun d p =>
    let last := p.1 + 1 == n
    sendResult (if last then after else .none) (d.batchDue s b) s id (b2n last + 2 * b2n (last && !b.sig.isEmpty)) status
      b.tag b.expert b.tokens b.wver (b.dest + p.2.1) p.2.1 p.2.2 (if last then b.sig else []) d) d

/-- Every UNBIND whose expert has no accepted batch left completes (R261). -/
def reapUnbinds (d : Dev) : Dev :=
  d.comp.unbinds.foldl (fun d p =>
    if d.comp.batches.any fun b => b.2.set == p.2.1 && b.2.expert == p.2.2 && b.2.run != 0 then d
    else finishCmd p.1 (Cpl.ok []) (d.updComp fun c => { c with unbinds := c.unbinds.erase p })) d

/-- A batch whose last answer has left its port: its staging and its charge end (R263). -/
def dropBatch (n : Nat) (d : Dev) : Dev :=
  match d.batch? n with
  | none => d
  | some b =>
    reapUnbinds ((d.updComp fun c => { c with batches := Map.del n c.batches }).updStr b.stream fun s =>
      { s with batches := s.batches.erase n, touch := d.now })

/-- Whether the last answer of a batch waits on a port. -/
def Dev.batchInTx (d : Dev) (port n : Nat) : Bool := (d.port port).txq.any fun m => m.after == .batch n

/-- Batches of a stream whose answers have left the port, or have gone nowhere, are over. -/
def reapBatches (id : Nat) (d : Dev) : Dev :=
  match d.str? id with
  | none => d
  | some s =>
    s.batches.foldl (fun d n =>
      match d.batch? n with
      | some b => if b.answered && !d.batchInTx s.port n then dropBatch n d else d
      | none => d) d

/-- One batch answered: its results, or its status alone (R265, R266). -/
def answerBatch (n : Nat) (d : Dev) : Dev :=
  match d.batch? n with
  | none => d
  | some b =>
    match d.str? b.stream, b.result with
    | some s, some (st, data) =>
      let d := if st = 0 ∨ st = 1 then
          strCount b.stream 8 data.length (sendResultData (.batch n) s b.stream b st data d)
        else sendResultStatus (.batch n) s b.stream b st d
      d.updBatch n fun b => { b with answered := true }
    | _, _ => d

/-- Batches that may be answered now: in order of acceptance on an ordered stream, as they finish on an unordered one;
`k` bounds them. -/
def flushBatches (id : Nat) : Nat → Dev → Dev
  | 0, d => reapBatches id d
  | k + 1, d =>
    match d.str? id with
    | none => d
    | some s =>
      let test (p : Batch → Bool) (n : Nat) : Bool := match d.batch? n with
        | some b => p b
        | none => false
      let ready := test fun b => b.result.isSome && !b.answered
      let next := if s.unord then s.batches.find? ready
        else (s.batches.find? (test fun b => !b.answered)).filter ready
      match next with
      | some n => flushBatches id k (answerBatch n d)
      | none => reapBatches id d

/-- The batches of a stream that may be answered now. -/
def pumpBatches (id : Nat) (d : Dev) : Dev :=
  match d.str? id with
  | some s => flushBatches id s.batches.length d
  | none => d

/-- Every unfinished batch of a stream ended with a status, in order; one that has failed already keeps its own. Partly
received batches are answered too, and their later segments discarded. -/
def endBatches (id status : Nat) (d : Dev) : Dev :=
  match d.str? id with
  | none => d
  | some s =>
    let d := s.batches.foldl (fun d n =>
      match d.batch? n with
      | none => d
      | some b =>
        if b.answered then d
        else
          let st := match b.result with
            | some (x, _) => if x = 0 ∨ x = 1 then status else x
            | none => status
          (strCount id 15 1 (sendResultStatus (.batch n) s id b st (dropRun b.run true d))).updBatch n fun b =>
            { b with result := some (st, []), answered := true }) d
    let d := s.batchIn.foldl (fun d p =>
      strCount id 15 1
        (sendResult .none (d.deadlineOf s.qos) s id 1 status p.tag (fld p.hdr 0xC 0 16) (fld p.hdr 0x1C 0 9) 0 0 0 [] [] d)) d
    reapBatches id (d.updStr id fun s => { s with batchIn := [], drops := s.drops ++ s.batchIn.map (·.tag) })

end Sys2Proof.Machine
end

