-- ==== Sys2Proof/Machine/Streams.lean ====
section
/-! DEFINITION. Tile reads and their coalescing, stream contexts, deliveries, tile writes and their acknowledgements,
halts (06_streams.md). -/

namespace Sys2Proof.Machine

/-! ## Reads of tiles (R192, R194, R195) -/

/-- What asking for a tile gives: its bytes at once, a failure, or a read job. -/
inductive ReadAns where
  | ready (b : Bytes)
  | damaged
  | job (n : Nat)

/-- Bytes the bridge carries in one direction in an AO tick: 24 TB/s (R16). -/
def bridgeRate : Nat := 960000

/-- The coded bytes of a read job go over the bridge to the consuming half, or wait for its capacity (R20). -/
def crossBridge (n : Nat) (d : Dev) : Dev :=
  match d.strs.jobs.get? n with
  | none => d
  | some j =>
    let len := ((d.objs.stored.get? j.sid).map (·.len)).getD 0
    let side := 1 - ((d.obj? j.obj).map (·.half)).getD 0
    let used := d.mem.bridgeUsed.getD side 0
    let fits := decide (used + len ≤ bridgeRate)
    let d := if fits then { d with mem := { d.mem with bridgeUsed := d.mem.bridgeUsed.set side (used + len) } } else d
    d.updStrs fun x => { x with jobs := Map.upd n (fun j => { j with cross := if fits then 0 else len }) x.jobs }

/-- The coded bytes of a read job are here: it can be expanded once they have crossed the bridge, where a consumer is on
the other half. -/
def jobCoded (n : Nat) (d : Dev) : Dev :=
  let d := d.updStrs fun x => { x with jobs := Map.upd n (fun j => { j with st := .coded }) x.jobs }
  match d.strs.jobs.get? n with
  | some j => if j.away then crossBridge n d else d
  | none => d

/-- A request for a tile joins a read in flight: its class and deadline become the most urgent of both (R194), and where
it is the first on the other half the coded bytes must cross. -/
def joinJob (n : Nat) (j : Job) (q due : Nat) (away : Bool) (d : Dev) : Dev :=
  let d := d.updStrs fun x => { x with
    jobs := Map.upd n (fun j => { j.hasten q (d.clsOf q) (d.clsOf j.qos) due with away := j.away || away }) x.jobs }
  if away && !j.away && j.st == .coded then crossBridge n d else d

/-- A tile of a version asked for by a consumer on a half. A stored tile is read through a job, the one in flight for a
sealed version if there is one (R194); its near copy, where present, spares the far read (R167). `q` is the label it runs
under, `due` its deadline if Scarlet. -/
def askTile (q due half h v tile : Nat) (d : Dev) : ReadAns × Dev :=
  let (b, bad, sid) := d.tileAt h v tile
  if bad then (.damaged, d)
  else if sid = 0 then
    (.ready b, match d.ver? h v with
      | some x =>
        if x.st == .opened && x.tiles.has tile then
          grantBytes (d.label q) 1 (2 * stackHalf x.stack) b.length (nearAccess x.stack [1, h, v, tile] b.length q false d)
        else d
      | none => d)
  else
    let away := ((d.obj? h).map fun o => o.half != half).getD false
    let solo : Bool := match d.ver? h v with
      | some x => x.st == .opened || x.st == .sealing
      | none => false
    match (if solo then none else d.joinable sid).bind fun n => (d.strs.jobs.get? n).map fun j => (n, j) with
    | some (n, j) => (.job n, joinJob n j q due away d)
    | none =>
      let near : Bool := match d.objs.stored.get? sid with
        | some s => s.near == .present || s.near == .releasing
        | none => false
      let (n, d) := addJob
        { obj := h, ver := v, tile := tile, sid := sid, data := b, st := .far, tries := 0, promo := false, qos := q
          since := d.now, due := due, solo := solo, half := half, core := d.expandCore half, away := away, cross := 0 } d
      (.job n, if near then jobCoded n d else d)

/-! ## Contexts -/

/-- A message dropped and counted at its port (R101, R185, R314, R428). -/
def msgDropped (port : Nat) (d : Dev) : Dev := bump 4 port 10 1 d

/-- What names a tile write of a stream: the partner's write tag and its tile (Table 6-5, R199). -/
def writeKey (tag tile : Nat) : Nat := tag + 65536 * tile

/-- The same of a partly received write. -/
def WrPart.key (p : WrPart) : Nat := writeKey p.tag p.tile

/-- Whether anything unfinished keeps a context from being idle (R186). -/
def Stream.busy (s : Stream) : Bool := !s.reqs.isEmpty || !s.parts.isEmpty || !s.acks.isEmpty || !s.batches.isEmpty ||
  !s.batchIn.isEmpty

/-- Contexts held in hardware at most (R186). -/
def hwContexts : Nat := 262144

/-- Contexts in hardware. -/
def Dev.hwUsed (d : Dev) : Nat := (d.strs.strs.filter fun p => p.2.hw).length

/-- The least recently used active idle context. -/
def Dev.lruIdle (d : Dev) : Option Nat :=
  (d.strs.strs.foldl (fun (a : Option (Nat × Nat)) p =>
    if p.2.hw && p.2.st == .active && !p.2.busy then
      match a with
      | none => some (p.1, p.2.touch)
      | some q => if p.2.touch < q.2 then some (p.1, p.2.touch) else some q
    else a) none).map (·.1)

/-- The least recently used idle context parked, where every hardware context is in use (CONTEXT_PARK, R186). -/
def makeContext (d : Dev) : Dev :=
  if d.hwUsed < hwContexts then d
  else match d.lruIdle with
    | none => d
    | some id => traceStr 4 id (strCount id 12 1 (d.updStr id fun s => { s with st := .parked, hw := false }))

/-- A parked context back in hardware, if one is free (R187). -/
def restoreContext (id : Nat) (d : Dev) : Dev :=
  let d := makeContext d
  if d.hwUsed < hwContexts then
    traceStr 5 id (d.updStr id fun s => { s with
      hw := true, st := if s.st = .parked then .active else s.st, restoring := false, touch := d.now })
  else d

/-- The delivered layout of a stream: 0 is the canonical form (Table 6-1). -/
def Stream.lay (s : Stream) (o : Obj) : Nat := if s.layout = 0 then o.fmt else s.layout

/-! ## Sending (R189, R191, R200, R204) -/

/-- Every `TILE_DATA` of the tile at position `k` of a request; `lastReq` marks its last one as the request's last, which
carries the signal record. -/
def sendTile (id : Nat) (s : Stream) (q : Req) (k dest : Nat) (b : Bytes) (lastReq : Bool) (d : Dev) : Dev :=
  let sig := if lastReq && q.clean then q.sig else []
  let segs := segments b
  let n := segs.length
  ((List.range n).zip segs).foldl (fun d p =>
    let last := p.1 + 1 == n
    let fl := b2n last + 2 * b2n (last && lastReq) + 4 * b2n (last && !sig.isEmpty)
    sendMsgA (.data id q.num k p.2.2.length last (last && lastReq)) s.qos (q.deadline.getD 0) s.port 2 s.tenant
      (tileDataHdr fl 0 id q.tag p.2.2.length (q.first + k) (dest + p.2.1) p.2.1 ++ p.2.2 ++
        (if last then sig else [])) d) d

/-- A status-only `TILE_DATA` that answers part of a request. -/
def sendStatus (id : Nat) (s : Stream) (q : Req) (tile status : Nat) (lastReq trailer : Bool) (d : Dev) : Dev :=
  sendMsgA (.data id q.num q.tiles.length 0 false lastReq) s.qos (q.deadline.getD 0) s.port 2 s.tenant
    (tileDataHdr (1 + 2 * b2n lastReq + 8 * b2n trailer) status id q.tag 0 tile 0 0) d

/-- A status-only answer to a tile after a halt or abort, counted (Table 6-10). -/
def sendEnded (id : Nat) (s : Stream) (q : Req) (tile status : Nat) (lastReq trailer : Bool) (d : Dev) : Dev :=
  strCount id 15 1 (sendStatus id s q tile status lastReq trailer d)

/-- The digest trailer of a request (R193). -/
def sendTrailer (id : Nat) (s : Stream) (q : Req) (dest : Nat) (b : Bytes) (d : Dev) : Dev :=
  let sig := if q.clean then q.sig else []
  sendMsgA (.data id q.num q.tiles.length b.length false true) s.qos (q.deadline.getD 0) s.port 2 s.tenant
    (tileDataHdr (1 + 2 + 4 * b2n (!sig.isEmpty) + 8) 0 id q.tag b.length 0xFFFFFFFF dest 0 ++ b ++ sig) d

/-- Distance between the tiles of a request at `dest`. -/
def Req.step (q : Req) (size : Nat) : Nat := if q.stride = 0 then size else q.stride

/-- Whether a tile has its answer on the port, or gone. -/
def TileSt.over (t : TileSt) : Bool := t == .sent || t == .gone

/-- Tiles of a request not yet answered. -/
def Req.left (q : Req) : Nat := (q.tiles.filter fun t => !t.over).length

/-- Whether everything that answers a request is on the port, or gone. -/
def Req.over (q : Req) : Bool :=
  if q.refused.isSome then q.trSent else q.left == 0 && (!q.trailer || q.trSent)

/-- The request of an ordered stream whose turn it is (R191). -/
def Stream.turn (s : Stream) : Option Nat := s.reqs.findIdx? fun q => !q.over

/-- Whether request `i` of a stream may be answered now. -/
def Stream.mayGo (s : Stream) (i : Nat) : Bool := s.unord || s.turn == some i

/-- `f` applied to a request of a stream by its position. -/
def Dev.updReq (id i : Nat) (f : Req → Req) (d : Dev) : Dev :=
  d.updStr id fun s => { s with reqs := s.reqs.modify i f }

/-- Whether a message that answers a request waits on its port. -/
def Dev.inTx (d : Dev) (port id num : Nat) : Bool :=
  (d.port port).txq.any fun m => match m.after with
    | .data i n _ _ _ _ => i == id && n == num
    | _ => false

/-- Requests whose answers have all left their port, or have gone nowhere, leave the list. -/
def reapReqs (id : Nat) (d : Dev) : Dev :=
  match d.str? id with
  | none => d
  | some s => d.updStr id fun s' => { s' with reqs := s.reqs.filter fun q => !(q.over && !d.inTx s.port id q.num) }

/-- The same for every stream of a port, whose queue has been emptied. -/
def reapPort (port : Nat) (d : Dev) : Dev :=
  d.strs.strs.foldl (fun d p => if p.2.port = port then reapBatches p.1 (reapReqs p.1 d) else d) d

/-- A message that answers a request has left the port: what it delivers is counted (R208), and with the request's last
message its deadline is judged (R196, R197) and the request leaves the list. -/
def dataLeft (id num k bytes : Nat) (tileEnd last : Bool) (d : Dev) : Dev :=
  match d.str? id with
  | none => d
  | some s =>
    let d := strCount id 7 (b2n tileEnd) (strCount id 8 bytes (d.updStr id fun s => { s with
      done := s.done + b2n tileEnd, touch := d.now
      reqs := if tileEnd then s.reqs.map fun q =>
          if q.num = num then { q with tiles := q.tiles.set k .gone } else q
        else s.reqs }))
    let late := last && s.reqs.any fun q => q.num == num && (match q.deadline with
      | some t => decide (t < d.now)
      | none => false)
    reapReqs id (if late then traceStr 6 id (strCount id 11 1 (bumpTenant s.tenant 15 1 d)) else d)

/-- Tile `k` of request `i` sent, ready as it is. -/
def deliverOne (id i k : Nat) (b : Bytes) (d : Dev) : Dev :=
  match d.str? id with
  | none => d
  | some s =>
    match s.reqs[i]? with
    | none => d
    | some q =>
      let lastTile := q.left == 1
      let d := sendTile id s q k (q.dest + k * q.step b.length) b (lastTile && !q.trailer) d
      d.updReq id i fun q => { q with tiles := q.tiles.set k .sent }

/-- The ready tiles of a request that may go now: in order on an ordered stream, as they are on an unordered one. `n`
bounds them. -/
def deliverReady (id i : Nat) : Nat → Dev → Dev
  | 0, d => d
  | n + 1, d =>
    match d.str? id with
    | none => d
    | some s =>
      match s.reqs[i]? with
      | none => d
      | some q =>
        let next := if s.unord then q.tiles.findIdx? fun t => match t with
            | .ready _ => true
            | _ => false
          else q.tiles.findIdx? fun t => !t.over
        match next with
        | none => d
        | some k =>
          match q.tiles[k]? with
          | some (.ready b) => deliverReady id i n (deliverOne id i k b d)
          | _ => d

/-- The trailer of a request whose tiles are all answered is sent (R193). -/
def finishReq (id i : Nat) (d : Dev) : Dev :=
  match d.str? id with
  | none => d
  | some s =>
    match s.reqs[i]? with
    | none => d
    | some q =>
      if q.refused.isSome || q.left != 0 || !q.trailer || q.trSent then d
      else
        let size := match d.obj? s.obj with
          | some o => delivSize (s.lay o) o.th o.tw
          | none => 0
        let d := match d.ver? s.obj s.ver with
          | some v => sendTrailer id s q (q.dest + q.tiles.length * q.step size) (v.content ++ v.prov) d
          | none => d
        d.updReq id i fun q => { q with trSent := true }

/-! ## Answers without data (R190, R204, R206) -/

/-- Every unanswered part of a request answered status-only: the tiles at the positions `bad` with the halt status `hs`,
the others with `status`, or with the status the request carries where it came late (R204, R206). A refused request gets
its refusal. -/
def answerReq (id : Nat) (s : Stream) (q : Req) (status hs : Nat) (bad : List Nat) (d : Dev) : Dev :=
  if q.over then d
  else
    match q.refused with
    | some r => sendStatus id s q q.first r true false d
    | none =>
      let status := q.late.getD status
      let left := (List.range q.tiles.length).filter fun k => !(q.tiles.getD k .sent).over
      let tr := q.trailer && !q.trSent
      let d := left.foldl (fun d k =>
        sendEnded id s q (q.first + k) (if bad.contains k then hs else status) (!tr && some k == left.getLast?) false d) d
      if tr then sendEnded id s q 0xFFFFFFFF status true true d else d

/-- A request every part of which has been answered. -/
def Req.ended (q : Req) : Req :=
  { q with trSent := true, tiles := q.tiles.map fun t => if t.over then t else .sent }

/-- The refused and the late requests whose turn has come are answered in their place; `n` bounds them (R190, R191). -/
def flushTurn (id : Nat) : Nat → Dev → Dev
  | 0, d => d
  | n + 1, d =>
    match d.str? id with
    | none => d
    | some s =>
      let due (q : Req) : Bool := !q.over && (q.refused.isSome || q.late.isSome)
      let next := (if s.unord then s.reqs.findIdx? due else s.turn).bind fun i =>
        (s.reqs[i]?).bind fun q => if due q then some (i, q) else none
      match next with
      | none => reapReqs id d
      | some (i, q) => flushTurn id n (reapReqs id ((answerReq id s q 0 0 [] d).updReq id i Req.ended))

/-- What TILE_READY does for request `i` of a stream: its ready tiles go where its turn has come (R191). -/
def pumpReq (id i : Nat) (d : Dev) : Dev :=
  match d.str? id with
  | none => d
  | some s =>
    if s.mayGo i then flushTurn id (s.reqs.length + 1) (finishReq id i (deliverReady id i 257 d)) else d

/-! ## Acknowledgements (R198, R199) -/

/-- A `TILE_WR_ACK` (Table 6-6), under the stream's label (R183). -/
def sendAck (s : Stream) (id tag tile status : Nat) (d : Dev) : Dev :=
  sendMsgQ s.qos (d.deadlineOf s.qos) s.port 2 s.tenant
    (leBytes 1 0x04 ++ leBytes 1 status ++ leBytes 2 tag ++ leBytes 4 id ++ leBytes 4 tile ++ zeros 4) d

/-- Whether a reserved byte of a signal record (Table 6-7) is set. -/
def sigReserved (b : Bytes) : Bool := fld b 1 0 24 != 0 || fld b 0xE 0 16 != 0

/-- A signal record (Table 6-7) applied in the stream tenant's namespace (R201): refused and counted where it is not
well formed. -/
def applySigRec (t port : Nat) (b : Bytes) (d : Dev) : Dev :=
  if b.isEmpty then d
  else
    let op := fld b 0 0 8
    let bad := sigReserved b || !(op == 1 || op == 2) || (op == 1 && fld b 8 0 48 != 0)
    if bad then syncRefused t d
    else applySignal t port op (if op = 1 then fld b 4 0 16 else fld b 4 0 17) (fld b 8 0 48) d

/-- A received `SIGNAL` message applied (R314). -/
def applySigMsg (port : Nat) (b : Bytes) (d : Dev) : Dev :=
  let t := fld b 2 0 10
  let op := fld b 1 0 8
  let tgt := fld b 4 0 32
  let opd := fld b 8 0 48
  let wide := if op = 1 ∨ op = 4 then tgt ≥ 2 ^ 16 else if op = 2 then tgt ≥ 2 ^ 17 else tgt ≥ 2 ^ 12
  let badOpd := if op = 2 then opd = 0 ∨ opd > 2 ^ 20 else if op = 3 then opd ≥ 1024 else opd ≠ 0
  if op = 0 ∨ op > 4 ∨ fld b 2 10 6 ≠ 0 ∨ fld b 0xE 0 16 ≠ 0 ∨ (b.drop 16).any (· != 0) ∨ wide ∨ badOpd then
    syncRefused t d
  else applySignal t port op tgt opd d

/-- Held signals with nothing left to wait for are applied, oldest first; `n` bounds them (R315). -/
def releaseSigs : Nat → Dev → Dev
  | 0, d => d
  | n + 1, d =>
    match d.strs.sigs.findIdx? (·.waits.isEmpty) with
    | none => d
    | some i =>
      match d.strs.sigs[i]? with
      | none => d
      | some s => releaseSigs n (applySigMsg s.port s.data (d.updStrs fun x => { x with sigs := x.sigs.eraseIdx i }))

/-- A write that held signals back is over: taken or refused. -/
def writeOver (key : Nat × Nat × Nat) (d : Dev) : Dev :=
  if d.strs.sigs.isEmpty then d
  else
    releaseSigs d.strs.sigs.length (d.updStrs fun x => { x with
      sigs := x.sigs.map fun s => { s with waits := s.waits.erase key } })

/-- A tile write acknowledged at once with a status other than `SUCCESS`. -/
def nack (id : Nat) (s : Stream) (tag tile status : Nat) (d : Dev) : Dev :=
  writeOver (id, tag, tile) (sendAck s id tag tile status d)

/-- A tile write of `n` bytes taken: its signal is applied, then it is acknowledged `SUCCESS` (R201). -/
def ackTaken (id : Nat) (s : Stream) (tag tile n : Nat) (sig : Bytes) (d : Dev) : Dev :=
  let d := applySigRec s.tenant s.port sig d
  let d := strCount id 7 1 (strCount id 8 n (d.updStr id fun s => { s with done := s.done + 1, touch := d.now }))
  writeOver (id, tag, tile) (sendAck s id tag tile 0 d)

/-- A stored tile of a waiter put into its version's map, its stripes written. -/
def landTile (a : PendAck) (d : Dev) : Dev :=
  let d := d.updObjs fun s => { s with acks := s.acks.erase a }
  putTile a.obj a.ver a.tile { data := a.data, sid := a.sid, dmg := false, prod := a.prod } d

/-- The durable write of a stream with a tag and tile, and its signal record. -/
def Dev.durable? (d : Dev) (id tag tile : Nat) : Option (PendAck × Bytes) :=
  d.objs.acks.findSome? fun a =>
    match a.who with
    | .wrAck i g t sig => if i = id ∧ g = tag ∧ t = tile ∧ a.stripes.isEmpty then some (a, sig) else none
    | _ => none

/-- Acknowledgements that may go now: on an ordered stream from the oldest on, on an unordered one whichever is settled;
`n` bounds them (R199). -/
def flushAcks (id : Nat) : Nat → Dev → Dev
  | 0, d => d
  | n + 1, d =>
    match d.str? id with
    | none => d
    | some s =>
      let settled (e : AckEnt) : Bool := e.status.isSome || (d.durable? id e.tag e.tile).isSome
      let ix := if s.unord then s.acks.findIdx? settled
        else match s.acks with
          | e :: _ => if settled e then some 0 else none
          | [] => none
      match ix with
      | none => d
      | some i =>
        match s.acks[i]? with
        | none => d
        | some e =>
          let d := d.updStr id fun s => { s with acks := s.acks.eraseIdx i }
          let d := match e.status, d.durable? id e.tag e.tile with
            | some st, _ => nack id s e.tag e.tile st d
            | none, some (a, sig) => ackTaken id s e.tag e.tile a.data.length sig (landTile a d)
            | none, none => d
          flushAcks id n d

/-- The acknowledgements of a stream that may go now. -/
def pumpAcks (id : Nat) (d : Dev) : Dev :=
  match d.str? id with
  | some s => flushAcks id (s.acks.length + 1) d
  | none => d

/-- Writes of a stream that are being stored are dropped: nothing of them is in the version. -/
def cancelWrites (id : Nat) (d : Dev) : Dev :=
  let mine (w : Waiter) : Bool := match w with
    | .wrAck i _ _ _ => i == id
    | _ => false
  let ofStr (r : CxlReq) : Bool := match r.work with
    | .wrBlock i _ _ _ _ => i == id
    | .rdBlock i _ _ => i == id
    | _ => false
  dropWrites mine { d with cxl := { d.cxl with reqs := d.cxl.reqs.filter fun r => !ofStr r } }

/-! ## Halts and ends (R203 to R206) -/

/-- Tile data and trailers of a stream that have not begun to leave its port are taken back: a tile goes on where its
first `TILE_DATA` has left (R204). -/
def retract (id : Nat) (d : Dev) : Dev :=
  match d.str? id with
  | none => d
  | some s =>
    let key (m : TxMsg) : Option (Nat × Nat) := match m.after with
      | .data i n k b _ _ => if i = id ∧ b ≠ 0 then some (n, k) else none
      | _ => none
    let back := ((d.port s.port).txq.filter fun m => fld m.data 0x18 0 32 == 0).filterMap key
    let undo (q : Req) : Req := { q with
      trSent := q.trSent && !back.contains (q.num, q.tiles.length)
      tiles := ((List.range q.tiles.length).zip q.tiles).map fun p =>
        if back.contains (q.num, p.1) then .failed 0 else p.2 }
    (d.updPort s.port fun p => { p with
      txq := p.txq.filter fun m => !((key m).map back.contains).getD false }).updStr id fun s => { s with
        reqs := s.reqs.map undo }

/-- The requests and writes of a stream ended with a status; the tiles `bad`, by the number of their request and their
position in it, get the status `hs` (R204). -/
def endWork (id status hs : Nat) (bad : List (Nat × Nat)) (d : Dev) : Dev :=
  let d := retract id d
  match d.str? id with
  | none => d
  | some s =>
    let d := s.reqs.foldl (fun d q =>
      answerReq id s q status hs (bad.filterMap fun p => if p.1 = q.num then some p.2 else none) d) d
    let d := s.parts.foldl (fun d p => nack id s p.tag p.tile status (strCount id 15 1 d)) d
    let d := cancelWrites id d
    let d := s.acks.foldl (fun d e => nack id s e.tag e.tile (e.status.getD status) (strCount id 15 1 d)) d
    let d := endBatches id status d
    reapReqs id (d.updStr id fun s => { s with
      reqs := s.reqs.map Req.ended, parts := [], acks := [], drops := s.drops ++ s.parts.map WrPart.key })

/-- A stream halts (R203): a record, its status and ID kept, the event counted, its work ended as R204 states. `err` is
the record the halt follows from, `bad` the tiles that failed, by request number and position. A closing stream goes on
closing. -/
def haltStream (id : Nat) (cause : Status) (err : Nat) (bad : List (Nat × Nat)) (d : Dev) : Dev :=
  match d.str? id with
  | none => d
  | some s =>
    if s.hstat ≠ 0 ∨ s.st = .opening ∨ s.st = .halted then d
    else
      let r : ErrRec := { ErrRec.mk0 1 0x0F with
        tenValid := true, tenant := s.tenant, block := 1, inst := s.port, related := err
        detail := leBytes 4 id ++ leBytes 1 cause.code }
      let (n, d) := raiseRec r d
      let d := bumpTenant s.tenant 16 1 d
      let d := d.updStr id fun s => { s with
        hstat := cause.code, herr := if err = 0 then n else err
        st := if s.st = .closing then .closing else .halted }
      endWork id Status.halted.code cause.code bad (traceStr 3 id d)

/-- Every stream that passes a test halts. -/
def haltStreams (f : Nat → Stream → Bool) (cause : Status) (d : Dev) : Dev :=
  d.strs.strs.foldl (fun d p => if f p.1 p.2 then haltStream p.1 cause 0 [] d else d) d

/-- A read job without readers, and without a promotion, is dropped. -/
def sweepJobs (d : Dev) : Dev :=
  d.updStrs fun x => { x with jobs := Map.keep (fun n j => j.promo ||
    (x.strs.any fun s => s.2.reqs.any fun q => q.tiles.any fun t => t == .waiting n) ||
    (d.q.cmds.any fun c => c.2.jobs.any fun p => p.2 == n) ||
    (d.cxl.winReads.any fun w => w.jobs.contains n) ||
    d.comp.runs.any fun r => r.2.jobs.any fun p => p.2.2 == n) x.jobs }

/-! ## `TILE_RD_REQ` (R190) -/

/-- The stream a message names, if it is open, on this port, of a tenant in the port's set (R185). -/
def Dev.strOn (d : Dev) (port id : Nat) : Option Stream :=
  match d.str? id with
  | some s =>
    if s.port = port ∧ s.st ≠ .opening ∧ (d.port port).tenants.contains s.tenant then some s else none
  | none => none

/-- Unfinished tiles of a stream: those whose last message has not left the port. -/
def Stream.open' (s : Stream) : Nat :=
  (s.reqs.map fun q => if q.refused.isSome then 0 else (q.tiles.filter (· != .gone)).length).sum

/-- A read request as a message received at tick `rx` gives it (R196). -/
def reqOf (m : Bytes) (num rx : Nat) (scarlet : Bool) : Req :=
  let dl := fld m 2 0 16
  { tag := fld m 8 0 16, first := fld m 0xC 0 32, tiles := [], dest := fld m 0x10 0 64, stride := fld m 0x18 0 32,
    sig := if fld m 1 0 1 = 1 then (m.drop 0x20).take 16 else [], trailer := fld m 1 1 1 == 1, trSent := false,
    deadline := if scarlet then some (rx + (if dl = 0 then 65535 else dl)) else none, refused := none, clean := true,
    num := num, late := none }

/-- Why a request on `count` tiles of a delivered size is refused, first case first (R190); `trailer` says whether
what is read has digests. -/
def refuseRead (s : Stream) (count size : Nat) (trailer : Bool) (m : Bytes) : Option Status :=
  let n := fld m 0xA 0 16
  let stride := fld m 0x18 0 32
  if s.kind ≠ 0 then some .invalidField
  else if fld m 1 2 6 ≠ 0 ∨ fld m 0x1C 0 32 ≠ 0 ∨ (fld m 1 0 1 = 0 ∧ (m.drop 0x20).any (· != 0)) ∨
      sigReserved (m.drop 0x20) then some .invalidField
  else if n = 0 ∨ n > 256 ∨ fld m 0xC 0 32 + n > count then some .invalidField
  else if stride ≠ 0 ∧ stride < size then some .invalidField
  else if fld m 1 1 1 = 1 ∧ !trailer then some .invalidField
  else if s.open' + n > s.maxOut then some .noResource
  else none

/-- Whether a schedule has staged a tile in a layout for a port (R192). -/
def Dev.stagedFor (d : Dev) (port obj ver tile lay : Nat) : Bool :=
  d.tiers.scheds.any fun p => p.2.port == port && p.2.ents.any fun e =>
    e.obj == obj && e.resv == ver && decide (e.first ≤ tile ∧ tile < e.first + e.staged) &&
      (match d.obj? obj with
        | some o => (if p.2.layout = 0 then o.fmt else p.2.layout) == lay
        | none => false)

/-- A tile delivered in a layout: its bytes, with its conversions counted for a stream (R139, R208). -/
def convFor (id t : Nat) (o : Obj) (lay : Nat) (b : Bytes) (d : Dev) : Bytes × Dev :=
  let (x, sat, nan) := Machine.deliver o.fmt o.th o.tw lay b
  (x, strCount id 9 sat (strCount id 10 nan (bumpTenant t 13 sat (bumpTenant t 14 nan d))))

/-- Whether another request of the same layout already waits for a job (R194). -/
def Dev.sharesPass (d : Dev) (n lay : Nat) : Bool :=
  d.strs.strs.any fun p =>
    (match d.obj? p.2.obj with
      | some o => p.2.lay o == lay
      | none => false) && p.2.reqs.any fun q => q.tiles.any fun t => t == .waiting n

/-- The tiles of an accepted request asked for, first to last. -/
def askTiles (id : Nat) (s : Stream) (o : Obj) (due first : Nat) : Nat → List TileSt → Dev → List TileSt × Dev
  | 0, acc, d => (acc, d)
  | n + 1, acc, d =>
    let tile := first + acc.length
    let (t, d) : TileSt × Dev :=
      match askTile s.qos due s.half s.obj s.ver tile d with
      | (.damaged, d) => (.failed Status.objectDamaged.code, d)
      | (.ready b, d) =>
        let (x, d) := convFor id s.tenant o (s.lay o) b d
        (.ready x, d)
      | (.job j, d') =>
        if d.stagedFor s.port s.obj s.ver tile (s.lay o) then
          let (x, d) := convFor id s.tenant o (s.lay o) (d.tileAt s.obj s.ver tile).1 d
          (.ready x, d)
        else (.waiting j, strCount id 14 (b2n (d.sharesPass j (s.lay o))) d')
    askTiles id s o due first n (acc ++ [t]) d

/-- A request put behind the others of its stream. -/
def addReq (id : Nat) (q : Req) (d : Dev) : Dev :=
  d.updStr id fun s => { s with reqs := s.reqs ++ [q], nextReq := s.nextReq + 1 }

/-- A request that takes its place among the others and is answered there without data: one refused (R190), or one that
came after a halt or a close, every part of which gets `late` (R204, R206). -/
def placeReq (id : Nat) (s : Stream) (q : Req) (d : Dev) : Dev := flushTurn id (s.reqs.length + 1) (addReq id q d)

/-- A request answered per tile, as it arrives after a halt or while the stream closes. -/
def answerLate (id : Nat) (s : Stream) (q : Req) (count : Nat) (status : Status) (d : Dev) : Dev :=
  placeReq id s { q with tiles := List.replicate count (.failed 0), late := some status.code } d

/-- A read request refused in its place among the others (R190). -/
def refuseReq (id : Nat) (s : Stream) (q : Req) (st : Status) (d : Dev) : Dev :=
  placeReq id s { q with refused := some st.code } (if st = .noResource then strCount id 13 1 d else d)

/-- Positions of the failed tiles of a list. -/
def failedAt (ts : List TileSt) : List Nat :=
  (List.range ts.length).filter fun k => match ts.getD k .gone with
    | .failed _ => true
    | _ => false

/-- A `TILE_RD_REQ` received at tick `rx`, handled by a stream in hardware: `why` refuses it, `halt` ends the stream at
once, `ask` gives the states of its tiles, `bad` is the status a failed tile halts the stream with. -/
def takeRdReqOn (id rx : Nat) (s : Stream) (m : Bytes) (why halt : Option Status) (bad : Status)
    (ask : Req → Dev → List TileSt × Dev) (d : Dev) : Dev :=
  let d := d.updStr id fun s => { s with touch := d.now }
  let n := fld m 0xA 0 16
  let q := reqOf m s.nextReq rx (d.clsOf s.qos == 3)
  if s.st = .halted then answerLate id s q n .halted d
  else if s.st = .closing then answerLate id s q n .aborted d
  else
    match why, halt with
    | some st, _ => refuseReq id s q st d
    | none, some st =>
      haltStream id st 0 [(q.num, 0)] (addReq id { q with tiles := List.replicate n (.failed 0) } d)
    | none, none =>
      let (ts, d) := ask q d
      let d := addReq id { q with tiles := ts } d
      match failedAt ts with
      | [] => d
      | k :: _ => sweepJobs (haltStream id bad 0 [(q.num, k)] d)

/-- A `TILE_RD_REQ` of a stream on a tiled object. -/
def takeRdReq (id rx : Nat) (s : Stream) (m : Bytes) (d : Dev) : Dev :=
  match d.obj? s.obj, d.ver? s.obj s.ver with
  | some o, some v =>
    let why := if d.keyless o.tenant then some Status.notReady
      else refuseRead s o.count (delivSize (s.lay o) o.th o.tw) (v.st != .opened && v.st != .sealing) m
    let halt := if d.pwr.sable && o.half != portHalf s.port then some Status.pathLost else none
    takeRdReqOn id rx s m why halt .objectDamaged (fun q d =>
      let (ts, d) := askTiles id s o (q.deadline.getD 0) q.first (fld m 0xA 0 16) [] d
      (if v.damaged then ts.map fun _ => TileSt.failed Status.objectDamaged.code else ts, d)) d
  | _, _ => takeRdReqOn id rx s m (some .invalidField) none .objectDamaged (fun _ d => ([], d)) d

/-! ## `TILE_WR` (R198) -/

/-- A tile write discarded: acknowledged at once, its later segments dropped unless this was its last. -/
def discardWrite (id : Nat) (s : Stream) (tag tile : Nat) (st : Status) (last : Bool) (d : Dev) : Dev :=
  let d := d.updStr id fun s => { s with
    parts := s.parts.filter (·.key != writeKey tag tile)
    drops := if last then s.drops else s.drops ++ [writeKey tag tile] }
  if last then
    pumpAcks id (d.updStr id fun s => { s with acks := s.acks ++ [⟨tag, tile, some st.code⟩] })
  else nack id s tag tile st.code d

/-- A tile write received whole: taken at once, put to be stored, or refused (R66, R68, R134, R332). -/
def takeWrite (id : Nat) (s : Stream) (o : Obj) (tag tile : Nat) (b sig : Bytes) (d : Dev) : Dev :=
  let d := d.updStr id fun s => { s with parts := s.parts.filter (·.key != writeKey tag tile) }
  let b := o.mask tile b
  let no (st : Status) : Dev := discardWrite id s tag tile st true d
  match refuseWrite s.obj s.ver tile d with
  | some st => no st
  | none =>
    if d.keyless o.tenant then no .notReady
    else if !o.scalesOk b then no .invalidField
    else
      match (d.ver? s.obj s.ver).bind Version.external with
      | none => no .noResource
      | some (prod, v) =>
        let d := d.updVer s.obj s.ver fun _ => v
        match writeTile s.obj s.ver tile prod b (.wrAck id tag tile sig) d with
        | (true, d) => ackTaken id s tag tile b.length sig d
        | (false, d) => d.updStr id fun s => { s with acks := s.acks ++ [⟨tag, tile, none⟩] }

/-- Whether a write's header has a reserved field set (R188). -/
def wrReserved (m : Bytes) : Bool :=
  fld m 1 1 1 != 0 || fld m 1 3 5 != 0 || fld m 2 0 16 != 0 || fld m 0x10 0 64 != 0 || fld m 0x1C 0 32 != 0

/-- A segment of a tile write that does not fall under a halt or a close, of a stream on `count` tiles of canonical size
`canon`; `whole` takes a write received whole, with its tag, tile, bytes and signal record. -/
def takeSegment (id : Nat) (s : Stream) (count canon : Nat) (whole : Nat → Nat → Bytes → Bytes → Dev → Dev)
    (m : Bytes) (d : Dev) : Dev :=
  let tag := fld m 8 0 16
  let tile := fld m 0xC 0 32
  let off := fld m 0x18 0 32
  let len := fld m 0xA 0 16
  let last := fld m 1 0 1 == 1
  let hasSig := fld m 1 2 1 == 1
  let data := (m.drop 32).take len
  let sig := if hasSig then (m.drop (32 + len)).take 16 else []
  let others := s.parts.filter (·.key != writeKey tag tile)
  let d := if off = 0 ∧ !s.unord then others.foldl (fun d p => discardWrite id s p.tag p.tile .invalidField false d) d
    else d
  let part := s.parts.find? (·.key == writeKey tag tile)
  let got := match part with
    | some p => p.got
    | none => []
  let bad := wrReserved m || decide (off ≠ got.length ∨ tile ≥ count ∨ len > 16384 ∨ got.length + len > canon) ||
    (hasSig && (!last || sigReserved sig)) || (last && got.length + len != canon)
  let fresh := part.isNone && !bad
  let live := (if off = 0 ∧ !s.unord then 0 else others.length) + (s.acks.filter (·.status.isNone)).length
  if fresh && decide (live + 1 > s.maxOut) then discardWrite id s tag tile .noResource last (strCount id 13 1 d)
  else if bad then discardWrite id s tag tile .invalidField last d
  else if last then whole tag tile (got ++ data) sig d
  else d.updStr id fun s => { s with
    parts := s.parts.filter (·.key != writeKey tag tile) ++ [{ tile := tile, tag := tag, got := got ++ data }] }

/-- A `TILE_WR` handled by a stream in hardware; `on` handles it where no halt, close or wrong kind does. -/
def takeTileWrOn (id : Nat) (s : Stream) (m : Bytes) (on : Dev → Dev) (d : Dev) : Dev :=
  let d := d.updStr id fun s => { s with touch := d.now }
  let tag := fld m 8 0 16
  let tile := fld m 0xC 0 32
  let last := fld m 1 0 1 == 1
  let late (st : Status) : Dev := if last then nack id s tag tile st.code (strCount id 15 1 d) else d
  if s.drops.contains (writeKey tag tile) then
    if last then d.updStr id fun s => { s with drops := s.drops.erase (writeKey tag tile) } else d
  else if s.st = .halted then late .halted
  else if s.st = .closing then late .aborted
  else if s.kind ≠ 1 then (if last then nack id s tag tile Status.invalidField.code d else d)
  else on d

/-- A write that halts its stream because it would cross the bridge in sable mode (R24). -/
def haltWrite (id : Nat) (s : Stream) (m : Bytes) (d : Dev) : Dev :=
  let d := haltStream id .pathLost 0 [] d
  if fld m 1 0 1 = 1 then nack id s (fld m 8 0 16) (fld m 0xC 0 32) Status.halted.code (strCount id 15 1 d) else d

/-- A `TILE_WR` of a stream on a tiled object. -/
def takeTileWr (id : Nat) (s : Stream) (m : Bytes) (d : Dev) : Dev :=
  takeTileWrOn id s m (fun d =>
    match d.obj? s.obj with
    | none =>
      if fld m 1 0 1 = 1 then nack id s (fld m 8 0 16) (fld m 0xC 0 32) Status.invalidField.code d else d
    | some o =>
      if d.pwr.sable && o.half != portHalf s.port then haltWrite id s m d
      else takeSegment id s o.count o.canon (takeWrite id s o) m d) d

/-! ## Seals (R68, R70, R219, R231, R243) -/

/-- Whether a live reduction targets a version. -/
def Dev.redTarget (d : Dev) (h v : Nat) : Bool :=
  d.reds.reds.any fun p => p.2.obj == h && p.2.ver == v && p.2.ended.isNone

/-- Whether a live run has a version as an output. -/
def Dev.runOutput (d : Dev) (h v : Nat) : Bool :=
  d.comp.runs.any fun p => p.2.args.any fun a => a.role == 2 && a.obj == h && a.ver == v

/-- Whether tiles of an `OBJ_WRITE` are still being stored. -/
def Dev.cmdTiles (d : Dev) (n : Nat) : Bool :=
  (d.objs.codings.any fun p => p.2.who == .cmd n) || d.objs.acks.any fun a => a.who == .cmd n && !a.stripes.isEmpty

/-- A completion that reports a number of tiles taken (R75). -/
def Cpl.took (c : Cpl) (k : Nat) : Cpl :=
  { c with
    results := BitVec.ofNat 128 k
    ext := c.ext.map fun e => match e with
      | .part _ => .part k
      | e => e }

/-- The tiles of an `OBJ_WRITE` taken into its version as it completes, if that still takes writes (R68): how many. -/
def takeTiles (n : Nat) (d : Dev) : Nat × Dev :=
  match d.cmd? n with
  | none => (0, d)
  | some k =>
    let h := k.entry.ha
    let v := k.entry.w32 0x20
    match d.ver? h v with
    | none => (0, d)
    | some x =>
      if x.st != .opened || x.damaged then (0, d)
      else
        let done := d.objs.acks.filter fun a => a.who == .cmd n && a.stripes.isEmpty
        let d := k.tiles.foldl (fun d p => putTile h v p.1 p.2
          (nearAccess x.stack [1, h, v, p.1] p.2.data.length k.entry.qos true (d.nearUse x.stack))) d
        (k.tiles.length + done.length, (done.foldl (fun d a => landTile a d) d).updCmd n fun k => { k with tiles := [] })

/-- An `OBJ_WRITE` ends: its tiles are taken, and it reports how many (R68, R75). -/
def endWrite (n : Nat) (c : Cpl) (d : Dev) : Dev :=
  let (k, d) := takeTiles n d
  finishCmd n (c.took k) d

/-- The tile writes of a version that are not yet taken are refused, after a seal with `ALREADY_SEALED` (R68). -/
def refuseInFlight (h v : Nat) (st : Status) (d : Dev) : Dev :=
  let whos := (d.objs.codings.filter fun p => p.2.obj == h && p.2.ver == v).map (fun p => p.2.who) ++
    (d.objs.acks.filter fun a => a.obj == h && a.ver == v).map (·.who)
  let sids := (d.objs.acks.filter fun a => a.obj == h && a.ver == v).map (·.sid)
  let d := d.updObjs fun s => { s with
    acks := s.acks.filter (fun a => !(a.obj == h && a.ver == v))
    codings := Map.keep (fun _ c => !(c.obj == h && c.ver == v)) s.codings }
  let d := sids.foldl (fun d s => freeStored s d) d
  whos.foldl (fun d w =>
    match w with
    | .wrAck id tag tile _ =>
      pumpAcks id (d.updStr id fun s => { s with acks := s.acks.map fun e =>
        if e.tag = tag ∧ e.tile = tile ∧ e.status.isNone then { e with status := some st.code }
        else e })
    | .cmd n => endWrite n (errS st) d
    | _ => d) d

/-- Whether a tile of a version, written or inherited, is damaged. -/
def Dev.anyDamaged (d : Dev) (h v : Nat) : Bool :=
  match d.obj? h, d.ver? h v with
  | some o, some x =>
    let base := (o.vers.get? x.base).map (fun b => b.tiles) |>.getD []
    let bad (m : Map TileEnt) (skip : Map TileEnt) : Bool := m.any fun p =>
      !skip.has p.1 && (p.2.dmg || (match d.objs.stored.get? p.2.sid with
        | some s => s.damaged
        | none => false))
    bad x.tiles [] || bad base x.tiles
  | _, _ => false

/-- A seal of a version by its owner's command, a finished reduction or a run: what refuses it, or its start (Table 2-5,
R68, R219, R231, R243). -/
def trySeal (h v : Nat) (cmd : Option Nat) (fromWork : Bool) (d : Dev) : Except Cpl Dev :=
  match d.ver? h v with
  | none => .error (errF 0x20)
  | some x =>
    if x.st = .sealing ∨ x.st = .sealed then .error (errS .alreadySealed)
    else if x.st = .released then .error (errF 0x20)
    else if x.damaged then .error (errS .objectDamaged)
    else if d.redTarget h v then .error (errC 4 true)
    else if !fromWork && d.runOutput h v then .error (errC 0xFF true)
    else if d.anyDamaged h v then .error (errS .objectDamaged)
    else .ok (startSeal h v cmd fromWork (refuseInFlight h v .alreadySealed d))

end Sys2Proof.Machine
end

