-- ==== Sys2Proof/Machine/Reduction.lean ====
section
/-! DEFINITION. Grid and FAST reductions: opening, contributions, settling, credits, ends, and the meanings of
`REDUCE_OPEN`, `REDUCE_FINISH`, `REDUCE_ABORT`, `REDUCE_TILE_SETTLE` and `REDUCE_FINISH_TIMEOUT`
(07_reduction.md). -/

namespace Sys2Proof.Machine

/-- A reduction, live or ended. -/
def Dev.red? (d : Dev) (id : Nat) : Option Red := d.reds.reds.get? id

/-- `f` applied to a reduction. -/
def Dev.updRed (id : Nat) (f : Red → Red) (d : Dev) : Dev :=
  { d with reds := { d.reds with reds := Map.upd id f d.reds.reds } }

/-! ## Slots (R218) -/

/-- Slots of 256 KiB for `w` tiles of `n` elements. -/
def slotsFor (w n : Nat) : Nat := ceilDiv (w * n) 16384

/-- Units of the reduction-window region in use on a cluster. -/
def Dev.redUnits (d : Dev) (pd : Nat) : Nat := (d.reds.reds.map fun p => (p.2.slots.filter (· == pd)).length).sum

/-- Live clusters of a half. -/
def Dev.liveClusters (d : Dev) (half : Nat) : List Nat :=
  allClusters.filter fun c => !(d.cluster c).retired && clusterHalf c == half

/-- `n` slots spread one by one over the clusters with the most free units, the lowest on a tie; fewer where the half has
fewer. -/
def spreadSlots (cap : Nat) (use : Nat → Nat) (cs : List Nat) : Nat → List Nat → List Nat
  | 0, acc => acc
  | k + 1, acc =>
    let free (c : Nat) : Nat := cap - (use c + (acc.filter (· == c)).length)
    match cs.foldl (fun (a : Option Nat) c =>
      if free c = 0 then a
      else match a with
        | none => some c
        | some b => if free c > free b then some c else some b) none with
    | none => acc
    | some c => spreadSlots cap use cs k (acc ++ [c])

/-- Slots for a reduction on a half. -/
def Dev.takeSlots (d : Dev) (half n : Nat) : List Nat :=
  spreadSlots (tcUnits d.tiers.split 0) d.redUnits (d.liveClusters half) n []

/-- The clusters whose slots hold tile `i` of the range. -/
def Red.slotsOf (r : Red) (n i : Nat) : List Nat :=
  let s := i % r.window * n / 16384
  (fromTo s (max 1 (ceilDiv n 16384))).map fun k => r.slots.getD k 0

/-! ## Contributions (R212, R213, R220 to R222, R233) -/

/-- Segments of a contribution of `n` elements. -/
def Red.segs (r : Red) (n : Nat) : Nat := ceilDiv (n * fmtBits r.cfmt / 8) 16384

/-- An empty tile entering its slot. -/
def RedTile.fresh (i n : Nat) (fast : Bool) : RedTile :=
  { idx := i, seen := [], acc := if fast then [] else List.replicate n 0,
    facc := if fast then List.replicate n 0 else [], ovf := false, nonfin := false, sigs := [] }

/-- Whether lane `k` of a tile lies inside the object's geometry (R56). -/
def Obj.laneIn (o : Obj) (tile k : Nat) : Bool :=
  decide (tile / o.perRow * o.th + k / o.tw < o.rows ∧ tile % o.perRow * o.tw + k % o.tw < o.cols)

/-- One element added to a lane. -/
def addLane (r : Red) (c : Nat) (code : Nat) (t : RedTile) (acc : Int) : Int × RedTile :=
  let (q, mark) := toGrid r.e c (decodeElem r.cfmt code)
  (acc + q, { t with ovf := t.ovf || mark == .overflow, nonfin := t.nonfin || mark == .nonfinite })

/-- A segment's elements added to a tile from lane `off` on. -/
def addSegment (r : Red) (o : Obj) (tile off : Nat) (codes : List Nat) (t : RedTile) : RedTile :=
  if r.fast then
    let old := (t.facc.drop off).take codes.length
    let new := ((List.range old.length).zip (old.zip codes)).map fun p =>
      if o.laneIn tile (off + p.1) then fAdd p.2.1 (toFp32 (decodeElem r.cfmt p.2.2)) else p.2.1
    { t with facc := t.facc.take off ++ new ++ t.facc.drop (off + codes.length) }
  else
    let c := ceilLog2 r.n
    let old := (t.acc.drop off).take codes.length
    let (new, t') := ((List.range old.length).zip (old.zip codes)).foldl (fun (s : List Int × RedTile) p =>
      if o.laneIn tile (off + p.1) then
        let (x, u) := addLane r c p.2.2 s.2 p.2.1
        (x :: s.1, u)
      else (p.2.1 :: s.1, s.2)) ([], t)
    { t' with acc := t.acc.take off ++ new.reverse ++ t.acc.drop (off + codes.length) }

/-- A complete tile rounded to the target format: its canonical bytes and its marks (REDUCE_TILE_FINALISE, R213). -/
def finaliseTile (r : Red) (o : Obj) (t : RedTile) : Bytes × Bool × Bool :=
  if r.fast then
    (packBits (fmtBits o.fmt) (t.facc.map fun x => (convertElem o.fmt .even (ofFp32 x)).1), false, false)
  else
    let out := t.acc.map (gridOut o.fmt r.e)
    (packBits (fmtBits o.fmt) (out.map (·.1)), t.ovf || out.any (fun p => p.2 == .sat), t.nonfin)

/-! ## Retiring and credits (R225, R226) -/

/-- Tiles settled from `k` on, one after the other. -/
def Red.settledFrom (r : Red) : Nat → Nat → Nat
  | 0, k => k
  | f + 1, k => if r.done.any (fun t => t.idx == k && t.settled) then r.settledFrom f (k + 1) else k

/-- Credit amounts a source earns while the number of retired tiles goes from `a` to `b` of `count`. -/
def creditsFor (batch count a b : Nat) : List Nat :=
  if batch = 0 then []
  else
    List.replicate (b / batch - a / batch) batch ++
      (if b = count ∧ a < b ∧ count % batch ≠ 0 then [count % batch] else [])

/-- Credits sent on the port of a source's open stream, or summed while it has none. -/
def payCredits (id : Nat) (a b : Nat) (d : Dev) : Dev :=
  match d.red? id with
  | none => d
  | some r =>
    ((List.range r.sources.length).zip r.sources).foldl (fun d p =>
      let amounts := creditsFor p.2.batch r.count a b
      match p.2.stream.bind d.str? with
      | some s => amounts.foldl (fun d n => sendSignalAdd r.qos s.port r.tenant p.2.target n d) d
      | none => d.updRed id fun r => { r with
          sources := r.sources.modify p.1 fun x => { x with owed := x.owed + amounts.sum } }) d

/-- Tiles that have settled in order retire: the counter advances, credits go (R225, R226). -/
def retireTiles (id : Nat) (d : Dev) : Dev :=
  match d.red? id with
  | none => d
  | some r =>
    let k := r.settledFrom r.count r.retired
    if k = r.retired then d
    else
      let d := d.updRed id fun x => { x with retired := k }
      let d := payCredits id r.retired k d
      addCounterFrom (((d.obj? r.obj).map (·.half)).getD 0) r.counter (k - r.retired) d

/-- Whether a reduction tile's write has been taken: nothing of it is still being coded or waits for stripes. -/
def Dev.redTaken (d : Dev) (id i : Nat) : Bool :=
  !(d.objs.codings.any fun p => p.2.who == .red id i) && !(d.objs.acks.any fun a => a.who == .red id i)

/-- A reduction with every tile whose write has been taken counted as settled (R225), as its end finds it. -/
def Dev.redNow (d : Dev) (id : Nat) (r : Red) : Red :=
  { r with done := r.done.map fun t => { t with settled := t.settled || d.redTaken id t.idx } }

/-! ## Ends (R217, R228 to R232) -/

/-- What `REDUCE_FINISH` reports of the tiles of a reduction: written, overflow, nonfinite, damaged. -/
def Red.tally (r : Red) : Nat × Nat × Nat × Nat :=
  let w := r.done.filter fun t => t.settled && !t.dmg
  (w.length, (w.filter (·.ovf)).length, (w.filter (·.nonfin)).length, (r.done.filter (·.dmg)).length)

/-- Tiles of a reduction ascending by index. -/
def Red.sorted (r : Red) : List RedDone :=
  r.done.foldl (fun l x => (l.takeWhile fun y => y.idx < x.idx) ++ x :: (l.dropWhile fun y => y.idx < x.idx)) []

/-- The 8-byte entries of the tile list (R229). -/
def Red.list (r : Red) (max : Nat) : Bytes :=
  ((r.sorted.filter fun t => t.dmg || (t.settled && (t.ovf || t.nonfin))).take max).flatMap fun t =>
    leBytes 8 (r.first + t.idx + 2 ^ 32 * (b2n (!t.dmg && t.ovf) + 2 * b2n (!t.dmg && t.nonfin) + 4 * b2n t.dmg))

/-- The status of a finish (R228): the cause of an end, else damage, time-out, marks, success. -/
def Red.status (r : Red) (timeout : Bool) : Status :=
  let (_, o, n, dm) := r.tally
  if r.ended = some Status.pathLost.code then .pathLost
  else if r.ended = some Status.unitFault.code then .unitFault
  else if dm ≠ 0 ∨ r.ended = some Status.objectDamaged.code then .objectDamaged
  else if timeout then .timeout
  else if o ≠ 0 ∨ n ≠ 0 then .gridOverflow
  else .success

/-- The completion of `REDUCE_FINISH` (R228, R229). -/
def Red.cpl (r : Red) (st : Status) (e : Entry) : Cpl :=
  let (w, o, n, dm) := r.tally
  let pick (f : RedDone → Bool) : List Nat := (r.sorted.filter f).map fun t => r.first + t.idx
  let list := if e.addr = 0 then [] else r.list (e.w32 0x2C)
  { Cpl.ok (leBytes 4 w ++ leBytes 4 o ++ leBytes 4 n ++ leBytes 4 dm) with
    status := st
    data := if list.isEmpty then [] else [⟨e.addr, list⟩]
    ext := match st with
      | .unitFault | .timeout => some (.part r.retired)
      | .objectDamaged => some (.tiles r.ver (pick (·.dmg)))
      | .gridOverflow => some (.tiles r.ver (pick fun t => t.settled && !t.dmg && (t.ovf || t.nonfin)))
      | _ => none }

/-- Steps 1 and 2 of R228: tiles not written are dropped with their accumulators, slots, charge, claim and counter are
released. A producer that ended otherwise than by `SUCCESS` or `GRID_OVERFLOW` is partial if it supplies a tile
(R331). -/
def closeRed (id : Nat) (st : Status) (d : Dev) : Dev :=
  match d.red? id with
  | none => d
  | some r =>
    let mine (w : Waiter) : Bool := match w with
      | .red i _ => i == id
      | _ => false
    let now := d.redNow id r
    let d := dropWrites mine d
    let part := !(st == .success || st == .gridOverflow)
    let d := d.updVer r.obj r.ver fun v => { v with prods := v.prods.modify r.prod fun p => { p with part := part } }
    d.updRed id fun r => { r with
      tiles := [], slots := [], charge := 0, done := now.done.filter (fun t => t.settled || t.dmg), ended := some st.code }

/-- A reduction's ID freed. -/
def freeRed (id : Nat) (d : Dev) : Dev := { d with reds := { d.reds with reds := Map.del id d.reds.reds } }

/-- The end of a wait of `REDUCE_FINISH`: steps 1 to 3 of R228, with the seal of R230 before the completion. -/
def finishRed (id cmd : Nat) (timeout : Bool) (sl : Bool) (d : Dev) : Dev :=
  match d.red? id, d.cmd? cmd with
  | some r, some k =>
    let r := d.redNow id r
    let st := r.status timeout
    let c := r.cpl st k.entry
    let d := freeRed id (if r.ended.isSome then d else closeRed id st d)
    if sl && st == .success then
      let key := ((d.obj? r.obj).map fun o => checkKey o d).getD (.ok ())
      match key.bind fun _ => trySeal r.obj r.ver (some cmd) true d with
      | .ok d => parkCmd cmd (d.updCmd cmd fun k => { k with ends := some c })
      | .error e => finishCmd cmd { e with results := 0, data := c.data } d
    else finishCmd cmd c d
  | _, _ => d

/-- A reduction ends without `REDUCE_FINISH` or `REDUCE_ABORT`: a waiting finish reports it, else it becomes ended
(R217). -/
def loseRed (id : Nat) (st : Status) (d : Dev) : Dev :=
  match d.red? id with
  | none => d
  | some r =>
    if r.ended.isSome then d
    else
      let d := closeRed id st d
      match r.finish with
      | some n => finishRed id n false false d
      | none => d

/-- After a tile has settled: tiles retire, and a finish that waits ends once all have (R225, R228). -/
def settleRed (id : Nat) (d : Dev) : Dev :=
  let d := retireTiles id d
  match d.red? id with
  | none => d
  | some r =>
    match r.finish with
    | some n => if r.ended.isNone && r.retired == r.count then finishRed id n false r.finSeal d else d
    | none => d

/-- A tile of a reduction damaged under the record `err`: a record of class permanent, the mark in the target's map, then it
settles (R231). -/
def damageRedTile (id i err : Nat) (d : Dev) : Dev :=
  match d.red? id with
  | none => d
  | some r =>
    let tile := r.first + i
    let d := raise { ErrRec.mk0 2 0x06 with
      objValid := true, tenValid := true, tenant := r.tenant, locator := r.obj, version := r.ver, tile := tile
      related := err
      detail := leBytes 4 1 ++ leBytes 4 r.ver ++ leBytes 4 r.ver } d
    let d := dropWrites (fun w => w == .red id i) d
    let d := putTile r.obj r.ver tile { data := [], sid := 0, dmg := true, prod := r.prod } d
    d.updRed id fun r => { r with
      tiles := r.tiles.filter (fun t => t.idx != i)
      done := r.done.filter (fun t => t.idx != i) ++
        [{ idx := i, ovf := false, nonfin := false, dmg := true, settled := true }] }

/-- Indices in the window whose tiles have not settled: each holds its slots (R231). -/
def Red.held (r : Red) : List Nat :=
  (fromTo r.retired (min r.window (r.count - r.retired))).filter fun i => !r.done.any fun t => t.idx == i && t.settled

/-- Slots with those of a cluster replaced one by one, each in its place; where there are not enough free units the last
ones share a live cluster's (log entry 80). -/
def moveSlots (pd alt : Nat) : List Nat → List Nat → List Nat
  | [], _ => []
  | s :: l, new =>
    if s = pd then
      match new with
      | n :: m => n :: moveSlots pd alt l m
      | [] => alt :: moveSlots pd alt l []
    else s :: moveSlots pd alt l new

/-- A cluster retired under the record `err` takes its reduction slots with it (R231). -/
def redsLoseCluster (pd err : Nat) (d : Dev) : Dev :=
  d.reds.reds.foldl (fun d p =>
    let r := p.2
    if r.ended.isSome || !r.slots.contains pd then d
    else
      let o := d.obj? r.obj
      let n := (o.map Obj.n).getD 16384
      let half := (o.map (·.half)).getD 0
      let alone := (d.liveClusters half).isEmpty
      let hit := (d.redNow p.1 r).held.filter fun i => alone || (r.slotsOf n i).contains pd
      let d := hit.foldl (fun d i => damageRedTile p.1 i err d) d
      let live := d.liveClusters half
      let new := d.takeSlots half (r.slots.filter (· == pd)).length
      let d := d.updRed p.1 fun r => { r with slots := moveSlots pd (live.headD pd) r.slots new }
      if alone then loseRed p.1 .unitFault (retireTiles p.1 d) else settleRed p.1 d) d

/-! ## `REDUCE_CONTRIB` (R220 to R224) -/

/-- Signals of a source whose contribution is complete are applied (R222). -/
def fireSigs (id i source nseg : Nat) (s : Stream) (d : Dev) : Dev :=
  match (d.red? id).bind fun r => r.tiles.find? (·.idx == i) with
  | none => d
  | some t =>
    if (t.seen.filter fun b => b / 16 == source).length < nseg then d
    else
      let fire := t.sigs.filter (·.1 == source)
      let d := d.updRed id fun r => { r with tiles := r.tiles.map fun t =>
        if t.idx = i then { t with sigs := t.sigs.filter (·.1 != source) } else t }
      fire.foldl (fun d p => applySigRec s.tenant s.port p.2 d) d

/-- A tile whose arrival map is full leaves its slot: it is finalised and written as one tile write (R213, R225). -/
def finaliseRed (id i nseg : Nat) (d : Dev) : Dev :=
  match d.red? id with
  | none => d
  | some r =>
    match r.tiles.find? (·.idx == i), d.obj? r.obj with
    | some t, some o =>
      if t.seen.length < r.n * nseg then d
      else
        let (b, ov, nf) := finaliseTile r o t
        let tile := r.first + i
        let d := d.updRed id fun r => { r with
          tiles := r.tiles.filter (fun t => t.idx != i)
          done := r.done ++ [{ idx := i, ovf := ov, nonfin := nf, dmg := false, settled := false }] }
        (writeTile r.obj r.ver tile r.prod (o.mask tile b) (.red id i) d).2
    | _, _ => d

/-- A contribution segment handled by its stream: added, or discarded and counted (R221). -/
def takeContrib (sid : Nat) (s : Stream) (m : Bytes) (d : Dev) : Dev :=
  let d := d.updStr sid fun s => { s with touch := d.now }
  let bad (d : Dev) : Dev := strCount sid 19 1 d
  match d.red? s.binding with
  | none => bad d
  | some r =>
    match d.obj? r.obj with
    | none => bad d
    | some o =>
      let len := fld m 0xA 0 16
      let seg := fld m 2 0 8
      let zero := fld m 1 1 1 == 1
      let hasSig := fld m 1 0 1 == 1
      let tile := fld m 0xC 0 32
      let nseg := r.segs o.n
      let size := o.n * fmtBits r.cfmt / 8
      let want := if zero then 0 else min 16384 (size - seg * 16384)
      let i := tile - r.first
      if s.kind ≠ 2 ∨ s.st ≠ .active ∨ r.ended.isSome ∨ fld m 1 2 6 ≠ 0 ∨ fld m 3 0 8 ≠ 0 ∨ fld m 8 0 16 ≠ 0 ∨
          ((m.drop 0x10).take 16).any (· != 0) ∨ tile < r.first ∨ i ≥ r.count ∨ seg ≥ nseg ∨ (zero ∧ seg ≠ 0) ∨
          len ≠ want then bad d
      else if i < r.retired ∨ r.done.any (·.idx == i) then strCount sid 17 1 d
      else if i - r.retired ≥ r.window then strCount sid 18 1 d
      else
        let t := (r.tiles.find? (·.idx == i)).getD (RedTile.fresh i o.n r.fast)
        let mineSeen := t.seen.filter fun b => b / 16 == s.source
        if (if zero then !mineSeen.isEmpty else mineSeen.contains (s.source * 16 + seg)) then strCount sid 17 1 d
        else
          let data := (m.drop 32).take len
          let t' := if zero then t
            else addSegment r o tile (seg * 16384 * 8 / fmtBits r.cfmt) (unpackBits (fmtBits r.cfmt) data) t
          let seen := if zero then t.seen ++ (List.range nseg).map (s.source * 16 + ·)
            else t.seen ++ [s.source * 16 + seg]
          let sigs := if hasSig then t.sigs ++ [(s.source, (m.drop (32 + len)).take 16)] else t.sigs
          let t' := { t' with seen := seen, sigs := sigs }
          let d := strCount sid 16 1 (d.updRed s.binding fun r => { r with
            tiles := r.tiles.filter (fun t => t.idx != i) ++ [t'] })
          finaliseRed s.binding i nseg (fireSigs s.binding i s.source nseg s d)

/-! ## `REDUCE_OPEN` (R215 to R218) -/

/-- Steps 1 to 4 of R216, but for the source entries. -/
def redChecks (x : Ctx) (d : Dev) : Except Cpl (Obj × Version) := do
  let e := x.e
  let o ← checkHandle x 8 e.ha (e.w32 0x20) d
  checkQos x d
  need (o.typ == 3) (errF 8)
  ownOf x o
  checkPath x.half o.half d
  let v ← match o.vers.get? (e.w32 0x20) with
    | some v => .ok v
    | none => .error (errF 0x20)
  need (v.st != .released) (errF 0x20)
  need (v.st == .opened) (errS .alreadySealed)
  need (!v.damaged) (errS .objectDamaged)
  checkRange o (e.w32 0x24) (e.w32 0x28) 0x24
  need (decide (1 ≤ e.w32 0x28)) (errF 0x28)
  need (decide (1 ≤ e.w16 0x2C ∧ e.w16 0x2C ≤ 2048)) (errF 0x2C)
  need (e.fld 0x32 0 1 == 0 || e.fld 0x2E 0 8 == 0) (errF 0x2E)
  need (decide (1 ≤ e.w16 0x30 ∧ e.w16 0x30 ≤ e.w32 0x28)) (errF 0x30)
  need (d.ownsCounter x.t (e.fld 0x34 0 17)) (errF 0x34)
  checkPath x.half (dieHalf (counterDie (e.fld 0x34 0 17))) d
  .ok (o, v)

/-- The first source entry with a reserved byte set: its data offset. -/
def badSource (n : Nat) (b : Bytes) : Option Nat :=
  ((List.range n).find? fun k => (b.drop (16 * k + 6)).take 10 |>.any (· != 0)).map fun k => 16 * k + 6

/-- The hashed body of a reduction producer (Table 11-6). -/
def redBody (e : Entry) (fast : Bool) (fmt : Nat) : Bytes :=
  leBytes 1 (if fast then 0 else e.fld 0x2E 0 8) ++ leBytes 1 (e.fld 0x2F 0 8) ++ leBytes 1 fmt ++
    leBytes 1 (b2n fast) ++ leBytes 2 (e.w16 0x2C) ++ zeros 2 ++ leBytes 4 (e.w32 0x24) ++ leBytes 4 (e.w32 0x28)

/-- Signed value of a byte. -/
def sbyte (x : Nat) : Int := if x ≥ 128 then (x : Int) - 256 else x

/-- `REDUCE_OPEN`. -/
def bodyReduceOpen : Body := withData
  (fun x d => do
    let _ ← redChecks x d
    .ok (if x.e.addr = 0 then 0 else 16 * x.e.w16 0x2C))
  (fun x b d => do
    let e := x.e
    let (o, v) ← redChecks x d
    let first := e.w32 0x24
    let count := e.w32 0x28
    let n := e.w16 0x2C
    let ctr := e.fld 0x34 0 17
    let fast := e.fld 0x32 0 1 == 1
    match badSource n b with
    | some k => .error (errD k)
    | none =>
      let ver := e.w32 0x20
      need (v.staged || !(v.tiles.any fun p => decide (first ≤ p.1 ∧ p.1 < first + count) && !p.2.unwritten))
        (errS .alreadySealed)
      need (!(d.strs.strs.any fun p => p.2.kind == 1 && p.2.obj == e.ha && p.2.ver == ver) && !d.runOutput e.ha ver)
        (errC 0xFF true)
      need (!(d.reds.reds.any fun p => p.2.ended.isNone && p.2.obj == e.ha &&
        overlaps p.2.first p.2.count first count)) (errC 4 true)
      need (!(d.retireCtr ctr) && !(d.tiers.scheds.any fun p => p.2.counter == ctr)) (errC 0xFE true)
      need (decide (d.reds.reds.length < 4096) && !v.full) (errS .noResource)
      let want := slotsFor (e.w16 0x30) o.n
      checkQuota x.t (want * 262144) 0 0 d
      let slots := d.takeSlots o.half want
      need (decide (slots.length = want))
        { Cpl.of .capacityShort with ext := some (.capacity o.half ((want - slots.length) * 262144) 0 0) }
      let slot := lowestFree (d.reds.reds.keys.map (· % 4096))
      let gen := match d.reds.gens.get? slot with
        | some g => (g + 1) % 2 ^ 20
        | none => 0
      let id := slot + 4096 * gen
      let base := d.ctrVal ctr
      let srcs := (List.range n).map fun k =>
        { target := fld b (16 * k) 0 32, batch := fld b (16 * k + 4) 0 16, owed := 0, stream := none : RedSource }
      let p : Producer :=
        { kind := 4, loc := id, run := 0, body := redBody e fast o.fmt, tail := [], nd := fast, inNd := false,
          part := false, supplied := 0 }
      let r : Red :=
        { tenant := x.t, obj := e.ha, ver := ver, first := first, count := count, n := n,
          e := if fast then 0 else sbyte (e.fld 0x2E 0 8), cfmt := e.fld 0x2F 0 8, window := e.w16 0x30, fast := fast,
          counter := ctr, qos := e.qos, base := base, retired := 0, slots := slots, charge := want * 262144, sources := srcs,
          tiles := [], done := [], finish := none, finTick := 0, finSeal := false, ended := none,
          prod := v.prods.length }
      let d := d.updVer e.ha ver fun v => { v with prods := v.prods ++ [p] }
      let d := { d with reds := { reds := Map.set id r d.reds.reds, gens := Map.set slot gen d.reds.gens } }
      okRes (leBytes 4 id ++ leBytes 6 base ++ leBytes 2 want ++ zeros 4) d)

/-! ## `REDUCE_FINISH`, `REDUCE_ABORT` (R227 to R230) -/

/-- The reduction a command names at 0x20 (R217). -/
def ownRed (x : Ctx) (d : Dev) : Except Cpl Red :=
  match d.red? (x.e.w32 0x20) with
  | none => .error (errF 0x20)
  | some r => if r.tenant = x.t then .ok r else .error (errS .notPermitted)

/-- `REDUCE_FINISH`. -/
def bodyReduceFinish : Body := plain fun x d => do
  checkQos x d
  let r ← ownRed x d
  need r.finish.isNone (errC 0xFF true)
  let e := x.e
  let id := e.w32 0x20
  let d := d.updRed id fun r => { r with
    finish := some x.num, finTick := d.now + e.w32 0x24, finSeal := e.fld 0x28 0 1 == 1 }
  .ok (.wait d)

/-- A `REDUCE_FINISH` just taken ends at once where nothing is left to wait for. -/
def reduceFinishNow (n : Nat) (d : Dev) : Dev :=
  match d.reds.reds.find? fun p => p.2.finish == some n with
  | none => d
  | some (id, r) =>
    if r.ended.isSome || r.retired == r.count then finishRed id n false r.finSeal d else d

/-- `REDUCE_ABORT`. -/
def bodyReduceAbort : Body := plain fun x d => do
  checkQos x d
  let r ← ownRed x d
  need r.finish.isNone (errC 0xFF true)
  let id := x.e.w32 0x20
  okRes (leBytes 4 (d.redNow id r).tally.1) (freeRed id (if r.ended.isSome then d else closeRed id .aborted d))

/-! ## Meanings -/

/-- REDUCE_OPEN. -/
def execReduceOpen (c : Nat) (s : State) : Host.Outcome State Fault Refusal :=
  onDev (startCmd 0x40 bodyReduceOpen c) s
/-- REDUCE_FINISH. -/
def execReduceFinish (c : Nat) (s : State) : Host.Outcome State Fault Refusal :=
  onDev (fun d => reduceFinishNow c (startCmd 0x41 bodyReduceFinish c d)) s
/-- REDUCE_ABORT. -/
def execReduceAbort (c : Nat) (s : State) : Host.Outcome State Fault Refusal :=
  onDev (startCmd 0x42 bodyReduceAbort c) s

/-- REDUCE_TILE_SETTLE: the tile at an index of a reduction's range, written and taken, settles. -/
def reduceTileSettle (id i : Nat) (d : Dev) : Dev :=
  match d.red? id with
  | none => d
  | some r =>
    if r.ended.isNone && (r.done.any fun t => t.idx == i && !t.settled) && d.redTaken id i then
      settleRed id (d.updRed id fun r => { r with
        done := r.done.map fun t => if t.idx = i then { t with settled := true } else t })
    else d

/-- REDUCE_FINISH_TIMEOUT: the watchdog of a waiting finish has expired. -/
def reduceFinishTimeout (id : Nat) (d : Dev) : Dev :=
  match d.red? id with
  | none => d
  | some r =>
    match r.finish with
    | some n => if r.finTick ≤ d.now then finishRed id n true r.finSeal d else d
    | none => d

/-- REDUCE_FINISH_TIMEOUT. -/
def execReduceFinishTimeout (red : Nat) (s : State) : Host.Outcome State Fault Refusal :=
  onDev (reduceFinishTimeout red) s

end Sys2Proof.Machine
end

