-- ==== Sys2Proof/Machine/Units.lean ====
section
/-! DEFINITION. Unit references and groups (R30 to R35), the meaning of `UNIT_GROUP`, and the clocks of clusters that
have work (R37). -/

namespace Sys2Proof.Machine

/-! ## Unit references (Table 1-4) -/

/-- The level of a unit reference. -/
def unitLevel (u : Nat) : Nat := u / 2 ^ 28

/-- Whether a unit reference is well formed: a listed level, and zero in every field its level does not use. -/
def unitOk (u : Nat) : Bool :=
  match unitLevel u with
  | 0 => bits u 0 18 == 0 && decide (bits u 18 3 ≤ 5)
  | 1 => bits u 0 21 == 0
  | 2 => bits u 0 24 == 0
  | 3 => bits u 0 26 == 0
  | 4 => bits u 0 28 == 0
  | 5 => bits u 12 16 == 0
  | _ => false

/-- The engines of cores `c` to `c + n - 1`, each as 8 × core + engine. -/
def coreEngines (c n : Nat) : List Nat := (fromTo c n).flatMap fun k => fromTo (8 * k) 6

/-- The flattened set of a unit, ascending, each engine as 8 × core + engine (R33); `k` bounds the depth. None where a
group does not exist. -/
def Dev.unitSet (d : Dev) : Nat → Nat → Option (List Nat)
  | 0, _ => none
  | k + 1, u =>
    match unitLevel u with
    | 0 => some [8 * coreOf u + bits u 18 3]
    | 1 => some (coreEngines (coreOf u) 1)
    | 2 => some (coreEngines (coreOf u) 8)
    | 3 => some (coreEngines (coreOf u) 32)
    | 4 => some (coreEngines 0 128)
    | _ =>
      match d.comp.groups.get? (bits u 0 12) with
      | none => none
      | some g => g.2.foldl (fun a m =>
          match a, d.unitSet k m with
          | some l, some x => some (x.foldl (fun l e => insertNat e l) l)
          | _, _ => none) (some [])

/-- Depth of a unit: 0 for a unit that is no group (R33); `k` bounds it. -/
def Dev.unitDepth (d : Dev) : Nat → Nat → Nat
  | 0, _ => 0
  | k + 1, u =>
    if unitLevel u = 5 then
      match d.comp.groups.get? (bits u 0 12) with
      | none => 0
      | some g => 1 + (g.2.map (d.unitDepth k)).foldl max 0
    else 0

/-- The logical cores of a set of engines. -/
def coresOf (l : List Nat) : List Nat := l.foldl (fun a e => insertNat (e / 8) a) []

/-- The checks of a unit reference a command names at a field (R30, R33, R34): its engines. -/
def checkUnit (t off u : Nat) (d : Dev) : Except Cpl (List Nat) := do
  need (unitOk u) (errF off)
  if unitLevel u = 5 then
    match d.comp.groups.get? (bits u 0 12) with
    | none => .error (errF off)
    | some g => need (g.1 == t) (errS .notPermitted)
  else .ok ()
  match d.unitSet 10 u with
  | some l => .ok l
  | none => .error (errF off)

/-- Whether a set of engines has every engine a kernel's mask names (R31). -/
def hasEngines (mask : Nat) (l : List Nat) : Bool :=
  (setBits 6 mask).all fun b => l.any fun e => e % 8 == b

/-! ## Clocks of clusters with work (R37, R523) -/

/-- A cluster that has a slice: its domain, and its die's uncore before it (R41), are switched on if they are off, its
PLL started if its clock stands. -/
def wakeCluster (pd : Nat) (d : Dev) : Dev :=
  match d.domain pd with
  | .on =>
    let c := d.cluster pd
    if c.clock || c.pllWait then d else d.updCluster pd fun c => { c with pllWait := true }
  | .off =>
    let die := 18 + clusterDie pd
    if (d.cluster pd).retired then d
    else (if d.domain die = .off then d.setDomain die .switchingOn else d).setDomain pd .switchingOn
  | _ => d

/-- Whether a Scarlet READ stream is open on a port of a half (R539). -/
def Dev.scarletReads (d : Dev) (half : Nat) : Bool :=
  d.strs.strs.any fun p => p.2.kind == 0 && p.2.half == half && p.2.st != .opening && d.clsOf p.2.qos == 3

/-- The clusters of a half whose clock runs. -/
def Dev.clocked (d : Dev) (half : Nat) : List Nat :=
  allClusters.filter fun c => clusterHalf c == half && (d.cluster c).clock && !(d.cluster c).retired

/-- Whether a cluster's clock is kept running for the Scarlet READ streams of its half: it is the last that runs (R539). -/
def Dev.clockKept (d : Dev) (pd : Nat) : Bool :=
  d.scarletReads (clusterHalf pd) && d.clocked (clusterHalf pd) == [pd]

/-- While a Scarlet READ stream is open on a half without a running clock, its lowest live cluster is started (R539). -/
def keepClock (half : Nat) (d : Dev) : Dev :=
  if d.scarletReads half && (d.clocked half).isEmpty then
    match allClusters.find? fun c => clusterHalf c == half && !(d.cluster c).retired with
    | some c => wakeCluster c d
    | none => d
  else d

/-- Whether slices may start on a cluster: its clock runs (R37). -/
def Dev.clusterReady (d : Dev) (pd : Nat) : Bool :=
  let c := d.cluster pd
  d.domain pd == .on && c.clock && !c.retired

/-! ## `UNIT_GROUP` (R32 to R35) -/

/-- The members of a group checked in order, each at its field. -/
def checkMembers (t : Nat) (d : Dev) : Nat → List Nat → Except Cpl Unit
  | _, [] => .ok ()
  | off, u :: l => do
    let _ ← checkUnit t off u d
    need (decide (d.unitDepth 9 u < 8)) (errF off)
    checkMembers t d (off + 4) l

/-- `UNIT_GROUP`. -/
def bodyUnitGroup : Body := plain fun x d => do
  checkQos x d
  let e := x.e
  if e.b20 = 0 then
    let ms := (List.range (e.fld 0x21 0 8)).map fun k => e.w32 (0x24 + 4 * k)
    checkMembers x.t d 0x24 ms
    need (decide (d.comp.groups.length < 4096)) (errS .noResource)
    let id := d.comp.groups.firstFree 0
    let d := d.updComp fun c => { c with groups := Map.set id (x.t, ms) c.groups }
    let n := match d.unitSet 10 (5 * 2 ^ 28 + id) with
      | some l => (coresOf l).length
      | none => 0
    okRes (leBytes 2 id ++ leBytes 2 n) d
  else
    let id := e.w16 0x22
    match d.comp.groups.get? id with
    | none => .error (errF 0x22)
    | some g =>
      need (g.1 == x.t) (errS .notPermitted)
      need (!(d.comp.runs.any fun p => p.2.unit == 5 * 2 ^ 28 + id) &&
        !(d.comp.groups.any fun p => p.2.2.contains (5 * 2 ^ 28 + id))) (errC 0xFF true)
      okRes [] (d.updComp fun c => { c with groups := Map.del id c.groups })

/-- UNIT_GROUP. -/
def execUnitGroup (c : Nat) (s : State) : Host.Outcome State Fault Refusal := onDev (startCmd 0x08 bodyUnitGroup c) s

end Sys2Proof.Machine
end

