-- ==== Sys2Proof/Machine/Kernels.lean ====
section
/-! DEFINITION. Kernel objects and runs: `KERNEL_LOAD`, `KERNEL_UNLOAD`, `KERNEL_RUN`, `KERNEL_ABORT`, how runs end,
`KERNEL_RUN_COMPLETE` and `KERNEL_TIMEOUT` (08_engines.md). -/

namespace Sys2Proof.Machine

/-! ## Kernel objects (R235 to R240) -/

/-- R50 for a handle that names a kernel. -/
def checkKernel (x : Ctx) (off h : Nat) (d : Dev) : Except Cpl Kernel :=
  match d.kernel? h with
  | some k => if k.tenant = x.t then .ok k else .error (errS .notPermitted)
  | none => if hTenant h = x.t then .error (errF off) else .error (errS .notPermitted)

/-- A new object number of a tenant (R49). -/
def takeNum (t : Nat) (d : Dev) : Nat × Dev :=
  let n := d.objs.nextNum.getD t 1
  (n, d.updObjs fun s => { s with nextNum := Map.set t (n + 1) s.nextNum })

/-- Instruction words of code bytes. -/
def wordsOf (b : Bytes) : List (BitVec 64) := (chunks 8 (b.length / 8) b).map fun w => BitVec.ofNat 64 (leNat w)

/-- A kernel made: one near-tier copy on each half that can be reached, charged twice the binary's length (R235). -/
def makeKernel (x : Ctx) (lib : Nat) (h code : Bytes) (d : Dev) : Except Cpl Res := do
  let len := 256 + code.length
  let charge := roundUp (2 * len) 4096
  let copy := roundUp len 4096
  need (decide (d.comp.kernels.length < 16384)) (errS .noResource)
  needObject d
  checkQuota x.t 0 charge 0 d
  let halves := if d.pwr.sable then [x.half] else [x.half, 1 - x.half]
  halves.foldlM (fun _ half => do
    let _ ← chooseHalf copy 0 d [half]
    .ok ()) ()
  let (n, d) := takeNum x.t d
  let handle := mkHandle x.t 5 n
  let k : Kernel :=
    { tenant := x.t, header := h, code := wordsOf code, charge := charge, lib := lib,
      copies := [0, 1].map fun half => if halves.contains half then some (d.pickStack half []) else none }
  let d := halves.foldl (fun d half => addNearH half copy d) (addNearT x.t charge d)
  okRes (leBytes 8 handle ++ leBytes 8 charge) (d.updComp fun c => { c with kernels := Map.set handle k c.kernels })

/-- `KERNEL_LOAD`. -/
def bodyKernelLoad : Body := withData
  (fun x d => do
    checkQos x d
    let n := x.e.w32 0x20
    if x.e.fld 0x24 0 8 = 1 then .ok 0
    else
      need (decide (264 ≤ n ∧ n ≤ 256 + 8 * 65536)) (errF 0x20)
      .ok n)
  (fun x b d => do
    if x.e.fld 0x24 0 8 = 1 then
      let id := x.e.w16 0x26
      need (libIds.contains id) (errF 0x26)
      makeKernel x id ((libBinary id).take 256) ((libBinary id).drop 256) d
    else
      let h := b.take 256
      let code := b.drop 256
      match badHeader h with
      | some o => .error (errD o)
      | none =>
        need (decide (x.e.w32 0x20 = 256 + 8 * hWords h)) (errF 0x20)
        match (wordsOf code).findIdx? fun w => !wordOk h w with
        | some i => .error { Cpl.of .invalidField with ext := some (.part i) }
        | none =>
          need (kernelDigest h code == hDigest h) (errS .integrityFail)
          makeKernel x 0 h code d)

/-- `KERNEL_UNLOAD`. -/
def bodyKernelUnload : Body := plain fun x d => do
  let h := x.e.ha
  let k ← checkKernel x 8 h d
  checkQos x d
  need (!(d.comp.runs.any fun p => p.2.kernel == h) &&
    !(d.comp.sets.any fun p => p.2.binds.any fun b => b.2.kernel == h)) (errC 0xFF true)
  let copy := roundUp (256 + 8 * k.code.length) 4096
  let d := ([0, 1].zip k.copies).foldl (fun d p => if p.2.isSome then subNearH p.1 copy d else d)
    (subNearT k.tenant k.charge d)
  okRes [] (d.updComp fun c => { c with kernels := Map.del h c.kernels })

/-! ## Grids and slices (R249, R251) -/

/-- Slices of a run's phases before phase `p`. -/
def Run.before (r : Run) (p : Nat) : Nat := ((r.grids.take p).map fun g => g.1 * g.2).sum

/-- All slices of a run. -/
def Run.total (r : Run) : Nat := r.before r.grids.length

/-- The phase of a run-wide index. -/
def Run.phaseOf (r : Run) (i : Nat) : Nat :=
  ((List.range r.grids.length).filter fun p => decide (r.before p ≤ i)).length - 1

/-- Tiles of an input that its `map` gives slice (x, y). -/
def mappedTiles (o : Obj) (map x y : Nat) : List Nat :=
  let l := match map with
    | 1 => [y * o.perRow + x]
    | 2 => fromTo (y * o.perRow) o.perRow
    | 3 => (List.range o.tileRows).map fun k => k * o.perRow + x
    | _ => []
  l.filter (· < o.count)

/-- The (argument, tile) pairs staged for slice `i` of a run. -/
def Dev.sliceTiles (d : Dev) (r : Run) (i : Nat) : List (Nat × Nat) :=
  let p := r.phaseOf i
  let (gx, _) := r.grids.getD p (1, 1)
  let k := i - r.before p
  ((List.range r.args.length).zip r.args).flatMap fun a =>
    match d.obj? a.2.obj with
    | some o => if a.2.role = 1 then (mappedTiles o a.2.map (k % gx) (k / gx)).map fun t => (a.1, t) else []
    | none => []

/-! ## `KERNEL_RUN` (R241 to R243, R253) -/

/-- Save size of a slice (R253). -/
def saveSize (h : Bytes) : Nat :=
  roundUp (hVregs h * 256 + hSregs h * 8 + 16 + hTregs h * 4096 + hScratch h) 4096

/-- Delivered bytes of the input tiles mapped to one slice. -/
def mappedBytes (l : List (Nat × Nat × Obj)) : Nat :=
  (l.map fun p =>
    let o := p.2.2
    let n := match p.1 with
      | 1 => 1
      | 2 => o.perRow
      | 3 => o.tileRows
      | _ => 0
    n * delivSize (if p.2.1 = 0 then o.fmt else p.2.1) o.th o.tw).sum

/-- The reservations of a run by half: near-tier bytes, tile-cache bytes (R253). -/
def runParts (h : Bytes) (mapped total : Nat) (cores : List Nat) : List (Nat × Nat × Nat) :=
  let wins := hWindow h * total
  let cls := (cores.map coreCluster).foldl (fun l c => insertNat c l) []
  let share (half : Nat) : Nat := wins * (cls.filter fun c => clusterHalf c == half).length / cls.length
  let halves := [0, 1].filter fun half => cores.any fun c => coreHalf c == half
  let rest := wins - (halves.map share).sum
  ((List.range halves.length).zip halves).map fun p =>
    let nc := (cores.filter fun c => coreHalf c == p.2).length
    (p.2, saveSize h * nc, nc * (hScratch h + 2 * mapped) + share p.2 + (if p.1 = 0 then rest else 0))

/-- Tile-cache bytes of the kernel-scratch region in use on a half. -/
def Dev.scratchUsed (d : Dev) (half : Nat) : Nat :=
  (d.comp.runs.vals.map fun r => ((r.parts.filter (·.1 == half)).map (·.2.2)).sum).sum

/-- The reservations of a run checked by R159: quota first, then each half's space. -/
def checkParts (t : Nat) (parts : List (Nat × Nat × Nat)) (d : Dev) : Except Cpl Unit := do
  checkQuota t ((parts.map (·.2.2)).sum) ((parts.map (·.2.1)).sum) 0 d
  parts.foldlM (fun _ p => do
    let short := d.scratchUsed p.1 + p.2.2 - d.tcRegion 2 (some p.1)
    need (p.2.2 == 0 || short == 0) { Cpl.of .capacityShort with ext := some (.capacity p.1 short 0 0) }
    let _ ← chooseHalf p.2.1 0 d [p.1]
    .ok ()) ()

/-- An argument entry as the command gives it (Table 8-5). -/
structure ArgIn where
  handle : Nat
  ver    : Nat
  layout : Nat

/-- Argument entry `i` of the data. -/
def argIn (b : Bytes) (i : Nat) : ArgIn := ⟨fld b (16 * i) 0 64, fld b (16 * i + 8) 0 32, fld b (16 * i + 0xC) 0 32⟩

/-- Step 3 of R242 for one argument: its handle, type, format and layout. -/
def checkArg (t : Nat) (h : Bytes) (k : Nat) (i off : Nat) (a : ArgIn) (d : Dev) : Except Cpl Obj := do
  let o ← match (d.obj? a.handle).filter Obj.lives with
    | some o => if o.tenant = t || o.covers t a.ver then .ok o else .error (errS .notPermitted)
    | none => if hTenant a.handle = t then .error (errD off) else .error (errS .notPermitted)
  need (o.typ == hArg h i 8 8 && (hArg h i 16 8 == 0 || hArg h i 16 8 == o.fmt)) (errD off)
  if k = 1 then need (a.layout == 0 || layoutOk a.layout o.th o.tw) (errD (off + 0xC))
  else need (a.layout == 0) (errD (off + 0xC))
  checkKey o d
  .ok o

/-- The grid of each phase (Table 8-2), and whether one is too large or empty. -/
def gridsOf (h : Bytes) (objs : List Obj) (gx gy : Nat) : List (Nat × Nat) :=
  (List.range (hPhases h)).map fun p =>
    match hPhase h p 0 2 with
    | 0 => (hPhase h p 24 20, hPhase h p 44 20)
    | 1 => match objs[hPhase h p 2 4]? with
      | some o => (o.perRow, o.tileRows)
      | none => (0, 0)
    | _ => (gx, gy)

/-- The grid checks of step 3 of R242: every phase has slices, 16,777,216 at most, and covers no more than the tile grid of
an argument of `map` 1. `gx` and `gy` are the fields that name the run's grid. -/
def checkGrids (h : Bytes) (objs : List Obj) (grids : List (Nat × Nat)) (gx gy : Nat) : Except Cpl Unit := do
  need (!(grids.any fun g => g.1 != 0 && g.2 == 0)) (errF gy)
  need (grids.all fun g => g.1 != 0 && decide (g.1 * g.2 ≤ 16777216)) (errF gx)
  ((List.range objs.length).zip objs).foldlM (fun _ p =>
    need (hArg h p.1 24 2 != 1 || grids.all fun g => decide (g.1 ≤ p.2.perRow ∧ g.2 ≤ p.2.tileRows))
      (errD (16 * p.1))) ()

/-- Step 4 of R242 for one argument: its version. `off` is the entry's offset in the data. -/
def checkArgVer (t role off : Nat) (a : ArgIn) (o : Obj) : Except Cpl Nat :=
  if role = 1 then
    match resolveSealed o t a.ver 0x18 with
    | .ok v => .ok v
    | .error e => .error (if e.status = .invalidField then errD (off + 8) else e)
  else if o.tenant ≠ t then .error (errS .notPermitted)
  else
    match o.vers.get? a.ver with
    | none => .error (errD (off + 8))
    | some v =>
      match v.st with
      | .released => .error (errD (off + 8))
      | .opened => if v.damaged then .error (errS .objectDamaged) else .ok a.ver
      | _ => .error (errS .alreadySealed)

/-- The kernel, the unit's engines and the surviving cores: steps 1 and 2 of R242. -/
def checkRunUnit (t : Nat) (k : Kernel) (u off : Nat) (d : Dev) : Except Cpl (List Nat × Bool) := do
  let es ← checkUnit t off u d
  need (hasEngines (hEngines k.header) es) (errF off)
  let cores := coresOf es
  let live := cores.filter d.coreLive
  need (!live.isEmpty) (errS .unitFault)
  .ok (live, decide (live.length < cores.length))

/-- The cores left in sable mode (R23): the device unit keeps the issuing half's; another unit must lie on it. -/
def sableCores (half u : Nat) (cores : List Nat) (d : Dev) : Except Cpl (List Nat) :=
  if !d.pwr.sable then .ok cores
  else if unitLevel u = 4 then
    let l := cores.filter fun c => coreHalf c == half
    if l.isEmpty then .error (errS .unitFault) else .ok l
  else if cores.all fun c => coreHalf c == half then .ok cores
  else .error (errS .pathLost)

/-- Step 1 of R242. -/
def runKernel (x : Ctx) (d : Dev) : Except Cpl Kernel := do
  let k ← checkKernel x 8 x.e.ha d
  checkQos x d
  need (!hExec k.header) (errF 8)
  .ok k

/-- The hashed body of a kernel producer, and its locators (Table 11-5). -/
def kernelBody (k : Kernel) (out gx gy seed : Nat) (params : Bytes) (ins : List (Nat × RunArg × Version)) :
    Bytes × Bytes :=
  let head := hDigest k.header ++ leBytes 1 out ++ leBytes 1 ins.length ++ leBytes 2 params.length ++ leBytes 4 gx ++
    leBytes 4 gy ++ zeros 4 ++ leBytes 8 seed ++ pad8 params
  (head ++ ins.flatMap fun p => leBytes 1 p.1 ++ zeros 3 ++ leBytes 4 p.2.1.layout ++ p.2.2.prov,
   ins.flatMap fun p => leBytes 8 p.2.1.obj ++ leBytes 4 p.2.1.ver ++ zeros 4)

/-- Every cluster of a list of cores woken (R37). -/
def wakeCores (cores : List Nat) (d : Dev) : Dev :=
  ((cores.map coreCluster).foldl (fun l c => insertNat c l) []).foldl (fun d c => wakeCluster c d) d

/-- A run put into the device: its producers attached, its reservations taken. -/
def addRun (r : Run) (k : Kernel) (gx gy : Nat) (d : Dev) : Nat × Dev :=
  let n := d.comp.nextRun
  let ins := ((List.range r.args.length).zip r.args).filterMap fun p =>
    if p.2.role = 1 then (d.ver? p.2.obj p.2.ver).map fun v => (p.1, p.2, v) else none
  let nd := hNd k.header != 0
  let inNd := ins.any fun p => p.2.2.nd
  let (args, d) := ((List.range r.args.length).zip r.args).foldl (fun (s : List RunArg × Dev) p =>
    if p.2.role = 2 then
      match s.2.ver? p.2.obj p.2.ver with
      | none => (s.1 ++ [p.2], s.2)
      | some v =>
        let (body, tail) := kernelBody k p.1 gx gy r.seed r.params ins
        let q : Producer :=
          { kind := 3, loc := r.kernel, run := n, body := body, tail := tail, nd := nd, inNd := inNd, part := false,
            supplied := 0 }
        (s.1 ++ [{ p.2 with prod := v.prods.length }],
          s.2.updVer p.2.obj p.2.ver fun v => { v with prods := v.prods ++ [q] })
    else (s.1 ++ [p.2], s.2)) ([], d)
  let d := r.parts.foldl (fun d p => addNear r.tenant p.1 p.2.1 d) d
  (n, wakeCores r.cores (d.updComp fun c => { c with
    runs := Map.set n { r with args := args } c.runs, nextRun := n + 1 }))

/-- A run before it starts. -/
def Run.fresh (by' : RunBy) (tenant kernel unit : Nat) (cores : List Nat) (degraded : Bool) (args : List RunArg)
    (params : Bytes) (grids : List (Nat × Nat)) (qos half now : Nat) : Run :=
  { by' := by', qp := 0xFFFF, tag := 0, tenant := tenant, fn := none, kernel := kernel, unit := unit, cores := cores,
    args := args, params := params, seed := 0, gx := 0, gy := 0, qos := qos, half := half, deadline := none,
    timeout := none, sealOut := false, grids := grids, slices := [], phase := 0, nextIdx := 0, doneN := 0,
    preempts := 0, written := [], windows := [], accs := [], staged := [], jobs := [], since := now, parts := [],
    tcCh := 0, ending := false, sealIx := 0, degraded := degraded,
    coreTime := 0 }

/-- Steps 3 to 8 of R242 and the start of the run. -/
def startRun (x : Ctx) (k : Kernel) (cores : List Nat) (degraded : Bool) (b : Bytes) (d : Dev) : Except Cpl Res := do
  let e := x.e
  let h := k.header
  let na := hArgs h
  let gx := e.fld 0x30 0 20
  let gy := e.fld 0x34 0 20
  let ins := (List.range na).map (argIn b)
  let role (i : Nat) : Nat := hArg h i 0 2
  let objs ← (List.range na).foldlM (fun (l : List Obj) i => do
    let a := argIn b i
    let o ← checkArg x.t h (role i) i (16 * i) a d
    need (role i == 1 || !((List.range i).any fun j =>
      role j == 2 && (argIn b j).handle == a.handle && (argIn b j).ver == a.ver)) (errD (16 * i + 8))
    .ok (l ++ [o])) []
  need (e.w16 0x3C == hParams h) (errF 0x3C)
  let rule2 := (List.range (hPhases h)).any fun p => hPhase h p 0 2 == 2
  need (rule2 || gx == 0) (errF 0x30)
  need (rule2 || gy == 0) (errF 0x34)
  let grids := gridsOf h objs gx gy
  checkGrids h objs grids 0x30 0x34
  let vers ← ((List.range na).zip objs).foldlM (fun (l : List Nat) p => do
    let v ← checkArgVer x.t (role p.1) (16 * p.1) (ins.getD p.1 ⟨0, 0, 0⟩) p.2
    .ok (l ++ [v])) []
  let cores ← sableCores x.half (e.w32 0x20) cores d
  objs.foldlM (fun _ o => checkPath x.half o.half d) ()
  need (cores.all fun c => (k.copies.getD (coreHalf c) none).isSome) (errS .objectDamaged)
  let args := (List.range na).map fun i =>
    let a := argIn b i
    { role := role i, obj := a.handle, ver := vers.getD i 0, layout := a.layout, map := hArg h i 24 2,
      prod := 0 : RunArg }
  let outs := args.filter (·.role == 2)
  need (!(outs.any fun a => d.runOutput a.obj a.ver || d.redTarget a.obj a.ver ||
    d.strs.strs.any fun p => p.2.kind == 1 && p.2.obj == a.obj && p.2.ver == a.ver)) (errC 0xFF true)
  need (decide (d.comp.runs.length < 65536) && outs.all fun a => match d.ver? a.obj a.ver with
    | some v => !v.full
    | none => true) (errS .noResource)
  let mapped := mappedBytes ((args.zip objs).filterMap fun p =>
    if p.1.role = 1 then some (p.1.map, p.1.layout, p.2) else none)
  let r0 := Run.fresh (.cmd x.num) x.t e.ha (e.w32 0x20) cores degraded args (b.drop (16 * na)) grids e.qos x.half d.now
  let parts := runParts h mapped r0.total cores
  checkParts x.t parts d
  let dl := e.w16 0x26
  let r : Run := { r0 with
    qp := x.qp?.getD 0xFFFF, tag := e.fld 2 0 16, fn := x.fn? d, seed := e.w64 0x28, gx := gx, gy := gy
    deadline := if e.qos / 1024 = 3 then some (d.now + (if dl = 0 then 65535 else dl)) else none
    timeout := if e.w32 0x38 = 0 then none else some (d.now + e.w32 0x38)
    sealOut := e.fld 0x24 0 1 == 1, parts := parts, tcCh := (parts.map (·.2.2)).sum }
  .ok (.wait (addRun r k gx gy d).2)

/-- `KERNEL_RUN`. -/
def bodyKernelRun : Body := withData
  (fun x d => do
    let k ← runKernel x d
    let _ ← checkRunUnit x.t k (x.e.w32 0x20) 0x20 d
    .ok (16 * hArgs k.header + hParams k.header))
  (fun x b d => do
    let k ← runKernel x d
    let (cores, degraded) ← checkRunUnit x.t k (x.e.w32 0x20) 0x20 d
    startRun x k cores degraded b d)

/-! ## How runs end (R244, R245) -/

/-- Results of `KERNEL_RUN` (R244). -/
def Dev.runResults (d : Dev) (r : Run) : Bytes :=
  let nd := match d.kernel? r.kernel with
    | some k => hNd k.header != 0
    | none => false
  leBytes 8 r.doneN ++ leBytes 4 r.preempts ++ leBytes 1 (b2n nd)

/-- Results of a batch: its pushed units, and zeros where none was pushed (R282). -/
def Batch.results (b : Batch) : Bytes :=
  (List.range (b.tokens * b.dout * 2 / 64)).flatMap fun u =>
    match b.pushed.find? (·.1 == u) with
    | some p => p.2
    | none => zeros 64

/-- A run ends early with a status (R245); a batch is answered with it, and `weight`, a poisoned or damaged weight tile,
halts its stream (R266). -/
def endRunAs (weight : Bool) (n : Nat) (st : Status) (err : Nat) (d : Dev) : Dev :=
  match d.run? n with
  | none => d
  | some r =>
    let c : Cpl := { Cpl.ok (d.runResults r) with status := st, errId := err, ext := some (.part r.doneN) }
    let d := sweepJobs (dropRun n true d)
    match r.by' with
    | .cmd m => finishCmd m c d
    | .batch b =>
      match d.batch? b with
      | none => d
      | some x =>
        let d := d.updBatch b fun x => { x with result := some (st.code, []) }
        if weight then haltStream x.stream st err [] d else pumpBatches x.stream d

/-- A run ends for a cause of its own: a tile it reads that is poisoned or damaged is a weight of a batch. -/
def endRun (n : Nat) (st : Status) (err : Nat) (d : Dev) : Dev :=
  endRunAs (st == .poisoned || st == .objectDamaged) n st err d

/-- Every run that passes a test ends. -/
def endRuns (f : Nat → Run → Bool) (st : Status) (err : Nat) (d : Dev) : Dev :=
  d.comp.runs.foldl (fun d p => if f p.1 p.2 then endRun p.1 st err d else d) d

/-- Output tiles of a run not yet taken. -/
def Dev.runBusy (d : Dev) (n : Nat) : Bool :=
  (d.objs.codings.any fun p => p.2.who.ofRun n) || d.objs.acks.any fun a => a.who.ofRun n

/-- Whether a slice has committed tiles that are not yet taken. -/
def Dev.sliceBusy (d : Dev) (n i : Nat) : Bool :=
  (d.objs.codings.any fun p => p.2.who == .run n i) || d.objs.acks.any fun a => a.who == .run n i

/-- A run that has done everything completes: its reservations are released (R244, R253). A batch adds to its expert's
times: the AO ticks of 40 ns its slices held the eight cores of a cluster, by blocks of 32 tokens (R267). -/
def completeRun (n : Nat) (st : Status) (d : Dev) : Dev :=
  match d.run? n with
  | none => d
  | some r =>
    let c : Cpl := { Cpl.ok (d.runResults r) with status := st }
    let d := sweepJobs (dropRun n (st != .success && st != .successDegraded) d)
    match r.by' with
    | .cmd m => finishCmd m c d
    | .batch b =>
      match d.batch? b with
      | none => d
      | some x =>
        let took := 40 * r.coreTime / (8 * max 1 (ceilDiv x.tokens 32))
        let d := d.updComp fun c => { c with
          sets := Map.upd x.set (fun s => { s with
            binds := Map.upd x.expert (fun y => { y with times := (took :: y.times).take 16 }) s.binds }) c.sets }
        pumpBatches x.stream (d.updBatch b fun x => { x with result := some (st.code, x.results) })

/-- Outputs of a run, in argument order. -/
def Run.outs (r : Run) : List RunArg := r.args.filter (·.role == 2)

/-- Status of a run that did all its work (R29). -/
def Run.good (r : Run) : Status := if r.degraded then .successDegraded else .success

/-- The next output of a run sealed; the first seal that fails ends the run with its status (R244). -/
def sealNext (n : Nat) (d : Dev) : Dev :=
  match d.run? n with
  | none => d
  | some r =>
    match r.outs[r.sealIx]? with
    | none => completeRun n r.good d
    | some a =>
      match trySeal a.obj a.ver none true d with
      | .ok d => d
      | .error e => completeRun n e.status d

/-- A version a run seals has been sealed: the next one follows. -/
def runSealed (h v : Nat) (d : Dev) : Dev :=
  d.comp.runs.foldl (fun d p =>
    if p.2.ending && (match p.2.outs[p.2.sealIx]? with
      | some a => a.obj == h && a.ver == v
      | none => false) then sealNext p.1 (d.updRun p.1 fun r => { r with sealIx := r.sealIx + 1 }) else d) d

/-- Whether every slice of a run has finished and every output tile is taken. -/
def Dev.runReady (d : Dev) (n : Nat) (r : Run) : Bool := r.doneN == r.total && !d.runBusy n && !r.ending

/-- KERNEL_RUN_COMPLETE: the last slice has finished and the outputs are taken. -/
def kernelRunComplete (n : Nat) (d : Dev) : Dev :=
  match d.run? n with
  | none => d
  | some r =>
    if !d.runReady n r || (match r.by' with
      | .cmd _ => false
      | .batch _ => true) then d
    else if r.sealOut then sealNext n (d.updRun n fun r => { r with ending := true })
    else completeRun n r.good d

/-- KERNEL_TIMEOUT: a run's `timeout` has expired (R245). -/
def kernelTimeout (n : Nat) (d : Dev) : Dev :=
  match d.run? n with
  | none => d
  | some r =>
    match r.timeout with
    | some t => if t ≤ d.now ∧ !r.ending then endRun n .timeout 0 d else d
    | none => d

/-- `KERNEL_ABORT`. A run whose outputs are being sealed has done its work: the abort waits for its completion. -/
def bodyKernelAbort : Body := plain fun x d => do
  checkQos x d
  let q := x.e.w16 0x20
  let t := x.e.w16 0x22
  match d.comp.runs.find? fun p => p.2.qp == q && p.2.tag == t && q != 0xFFFF with
  | none => .error (errF 0x20)
  | some (n, r) =>
    need (r.tenant == x.t) (errS .notPermitted)
    match r.by' with
    | .batch _ => .error (errF 0x20)
    | .cmd m =>
      let d := if r.ending then d else endRun n .aborted 0 d
      if (d.cmd? m).isNone then okRes [] d
      else .ok (.wait (d.updComp fun c => { c with aborts := c.aborts ++ [(x.num, m)] }))

/-! ## Meanings -/

/-- KERNEL_LOAD. -/
def execKernelLoad (c : Nat) (s : State) : Host.Outcome State Fault Refusal := onDev (startCmd 0x50 bodyKernelLoad c) s
/-- KERNEL_RUN. -/
def execKernelRun (c : Nat) (s : State) : Host.Outcome State Fault Refusal := onDev (startCmd 0x51 bodyKernelRun c) s
/-- KERNEL_ABORT. -/
def execKernelAbort (c : Nat) (s : State) : Host.Outcome State Fault Refusal :=
  onDev (startCmd 0x52 bodyKernelAbort c) s
/-- KERNEL_UNLOAD. -/
def execKernelUnload (c : Nat) (s : State) : Host.Outcome State Fault Refusal :=
  onDev (startCmd 0x53 bodyKernelUnload c) s
/-- KERNEL_RUN_COMPLETE. -/
def execKernelRunComplete (run : Nat) (s : State) : Host.Outcome State Fault Refusal := onDev (kernelRunComplete run) s
/-- KERNEL_TIMEOUT. -/
def execKernelTimeout (run : Nat) (s : State) : Host.Outcome State Fault Refusal := onDev (kernelTimeout run) s

end Sys2Proof.Machine
end

