-- ==== Sys2Proof/Machine/Coherence.lean ====
section
/-! DEFINITION. Extents, their lines, the directory and its snoops, host accesses, host loss, streams on extents
(17_coherent_windows.md). -/

namespace Sys2Proof.Machine

/-! ## Extents and their lines (R474 to R478) -/

/-- `f` applied to the coherence state. -/
def Dev.updCxl (f : Cxl → Cxl) (d : Dev) : Dev := { d with cxl := f d.cxl }

/-- An extent. -/
def Dev.ext? (d : Dev) (h : Nat) : Option Extent := d.cxl.exts.get? h

/-- `f` applied to an extent. -/
def Dev.updExt (h : Nat) (f : Extent → Extent) (d : Dev) : Dev :=
  d.updCxl fun c => { c with exts := Map.upd h f c.exts }

/-- The hosts a target names: one port, or the members of a share group. -/
def Dev.targetHosts (d : Dev) (target : Nat) : List Nat :=
  if target < 4 then [target] else setBits 4 (d.cxl.groups.getD (target - 0x10) 0)

/-- Whether an extent lies at an offset. -/
def Extent.at' (e : Extent) (off : Nat) : Bool := decide (e.offset ≤ off ∧ off < e.offset + e.length)

/-- Key of a line in the directory. -/
def lineKey (h line : Nat) : Nat := h * 2 ^ 32 + line

/-- A line's 64 bytes; a line never written reads as zeros (R153, R477). -/
def Extent.line (e : Extent) (n : Nat) : Bytes := e.lines.getD n (zeros 64)

/-- A whole line stored, poisoned or not (R471, R478). -/
def Extent.put (e : Extent) (n : Nat) (b : Bytes) (poison : Bool) : Extent :=
  { e with
    lines := if poison || !(b.any (· != 0)) then Map.del n e.lines else Map.set n b e.lines
    poison := if poison then insertNat n e.poison else e.poison.filter (· != n) }

/-- Bytes of `b` where the mask's bit is 1, of `a` elsewhere. -/
def mergeMask (mask : Nat) (a b : Bytes) : Bytes :=
  (List.range 64).map fun k => if bitOf mask k then b.getD k 0 else a.getD k 0

/-- 64 bytes nothing constrains. -/
def freeLine (d : Dev) : Bytes × Dev :=
  (List.range 8).foldl (fun (p : Bytes × Dev) _ =>
    let (w, d) := draw p.2
    (p.1 ++ leBytes 8 w.toNat, d)) ([], d)

/-- An access to a line of a writable extent, which lies with its 2 MiB unit (R477). -/
def extentAccess (h : Nat) (e : Extent) (line : Nat) (write : Bool) (d : Dev) : Dev :=
  nearAccess (stackFor 3 (h * 2 ^ 20 + line / 32768) e.half) [2, h, line / 4] 64 e.qos write d

/-- An error record of an extent's line found poisoned or uncorrectable (R389, R397): 0xFF bits for a poisoned word. -/
def ueExtent (h : Nat) (e : Extent) (bits : Nat) (d : Dev) : Dev :=
  raise { ErrRec.mk0 1 0x02 with
    block := 4, objValid := true, locator := h, tenValid := true, tenant := e.tenant, detail := leBytes 1 bits } d

/-- A host's bytes written into a line: a partial write reads, merges and writes back, and leaves a poisoned line
poisoned (R389, R478). While the tenant's key is not loaded, what the line then holds nothing constrains
(log entry 5). -/
def writeLine (h n : Nat) (b : Bytes) (mask : Nat) (poison : Bool) (d : Dev) : Dev :=
  match d.ext? h with
  | none => d
  | some e =>
    let full := decide (mask % 2 ^ 64 = 2 ^ 64 - 1)
    let hit := e.poison.contains n && !full
    let d := if hit then ueExtent h e 0xFF d else d
    if d.keyless e.tenant then
      let (x, d) := freeLine d
      d.updExt h fun e => e.put n x poison
    else d.updExt h fun e => e.put n (mergeMask mask (e.line n) b) (poison || hit)

/-! ## Refusals (R474) -/

/-- A HOST_LOSS record of a refusal, at most one per port and cause in 2^16 AO ticks. -/
def refusalRec (port cause off : Nat) (d : Dev) : Dev :=
  let k := port * 256 + cause
  let due := match d.cxl.refTick.get? k with
    | some t => decide (t + 2 ^ 16 ≤ d.now)
    | none => true
  if due then
    raise { ErrRec.mk0 1 0x16 with
      block := 2, inst := port, detail := leBytes 1 cause ++ leBytes 1 port ++ zeros 6 ++ leBytes 8 off }
      (d.updCxl fun c => { c with refTick := Map.set k d.now c.refTick })
  else d

/-- A host access refused: a read returns poison, a write is completed and discarded. -/
def refuseHost (port off cause : Nat) (read : Bool) (d : Dev) : Dev :=
  let d := refusalRec port cause off (bump 5 port 16 1 d)
  emit (if read then .cxlData port off [] true false else .cxlDone port off) d

/-- The extent that serves a host's access at an offset, or the cause it is refused for. A host lost as a whole is
refused until its event is closed (R486); in sable mode an extent of the other half is closed to the host. -/
def Dev.hostExtent (d : Dev) (port off : Nat) : Except Nat (Nat × Extent) :=
  if d.cxl.events.any fun p => p.2.port == port && p.2.whole then .error 0x12
  else
    let here := d.cxl.exts.filter fun p => p.2.at' off
    match here.find? fun p => (d.targetHosts p.2.target).contains port with
    | some (h, e) =>
      if e.revoker.isSome then .error 0x11
      else if e.writable && d.pwr.sable && hostHalf port != e.half then .error 0x12
      else .ok (h, e)
    | none => .error (if here.isEmpty then 0x11 else 0x12)

/-! ## Windows (R479, R480) -/

/-- The mapping that holds an offset of a window extent; one that is being removed takes no new read (R481). -/
def Dev.mapAt (d : Dev) (h off : Nat) : Option (Nat × Mapping) :=
  d.cxl.maps.find? fun p => p.2.ext == h && p.2.closer.isNone &&
    decide (p.2.offset ≤ off ∧ off < p.2.offset + p.2.length)

/-- Bytes the expanded window tiles of a half take. -/
def Dev.windowBytes (d : Dev) (half : Nat) (l : List (Nat × Nat × Nat)) : Nat :=
  (l.map fun p => match d.obj? p.1 with
    | some o => if o.half = half then roundUp o.canon 4096 else 0
    | none => 0).sum

/-- An expanded tile put into the staging region of its home half, the least recently used ones leaving it. -/
def stageWindow (h v tile : Nat) (d : Dev) : Dev :=
  match d.obj? h with
  | none => d
  | some o =>
    let l := d.cxl.stagedW.filter (· != (h, v, tile)) ++ [(h, v, tile)]
    let room := d.tcRegion 3 (some o.half)
    let mine (p : Nat × Nat × Nat) : Bool := ((d.obj? p.1).map fun o' => o'.half == o.half).getD true
    let drop := (l.filter mine).foldl (fun (a : List (Nat × Nat × Nat) × Nat) p =>
      if a.2 > room then (a.1 ++ [p], a.2 - d.windowBytes o.half [p]) else a) ([], d.windowBytes o.half l)
    d.updCxl fun c => { c with stagedW := l.filter fun p => !drop.1.contains p }

/-- A window line answered with poison. -/
def poisonWin (port off : Nat) (d : Dev) : Dev := emit (.cxlData port off [] true false) d

/-- Where an offset of a window's line lies in its object: the first tile it takes from, the byte in that tile, and the
tiles, two where the canonical size is no multiple of 64. -/
def Dev.winTiles (d : Dev) (m : Mapping) (off : Nat) : Nat × Nat × List Nat :=
  match d.obj? m.obj with
  | none => (0, 0, [])
  | some o =>
    let rel := off - ((d.ext? m.ext).map (·.offset)).getD 0 - m.offset
    let tile := rel / o.canon
    (tile, rel - tile * o.canon, (List.range 2).map (tile + ·) |>.filter fun t =>
      decide (t < o.count ∧ t * o.canon < rel + 64))

/-- A window line answered from expanded tiles, which are staged: zeros past the last tile (R479, R480). -/
def answerWin (port off : Nat) (m : Mapping) (d : Dev) : Dev :=
  match d.obj? m.obj with
  | none => poisonWin port off d
  | some o =>
    let (_, at', tiles) := d.winTiles m off
    let d := tiles.foldl (fun d t => stageWindow m.obj m.ver t d) d
    let all := tiles.flatMap fun t => (d.tileAt m.obj m.ver t).1
    if d.keyless o.tenant then
      let (x, d) := freeLine d
      emit (.cxlData port off x false false) d
    else emit (.cxlData port off (((all.drop at').take 64 ++ zeros 64).take 64) false false) d

/-- The tiles of a window read asked for: the read jobs, or none where one is damaged. Staged tiles need none. -/
def askWin (q half h v : Nat) : List Nat → Dev → Option (List Nat) × Dev
  | [], d => (some [], d)
  | t :: l, d =>
    if (d.tileAt h v t).2.1 then (none, d)
    else if d.cxl.stagedW.contains (h, v, t) then askWin q half h v l d
    else
      match askTile q (d.deadlineOf q) half h v t d with
      | (.damaged, d) => (none, d)
      | (.ready _, d) => askWin q half h v l d
      | (.job n, d) =>
        let (r, d) := askWin q half h v l d
        (r.map (n :: ·), d)

/-- A host's read of a window line. A damaged tile, a read that would cross the bridge in sable mode, a line the host has
tried to write, and a version the mapping's tenant may no longer read (log entry 77) are poison. The tile is expanded on
its home half, where it is not staged there (R480). -/
def windowRead (port off h : Nat) (e : Extent) (d : Dev) : Dev :=
  match d.mapAt h (off - e.offset) with
  | none => refuseHost port off 0x11 true d
  | some (id, m) =>
    let q := d.label e.qos
    let d := grantBytes q 1 (2 * e.half) 64 (bump 5 port 19 1 d)
    match d.obj? m.obj with
    | none => poisonWin port off d
    | some o =>
      if d.cxl.badLines.contains (port, off) || (d.pwr.sable && o.half != hostHalf port) ||
          !o.readableBy m.tenant m.ver then poisonWin port off d
      else
        match askWin q o.half m.obj m.ver (d.winTiles m off).2.2 d with
        | (none, d) => sweepJobs (poisonWin port off d)
        | (some [], d) => answerWin port off m d
        | (some js, d) => d.updCxl fun c => { c with
            winReads := c.winReads ++ [{ port := port, off := off, map := id, jobs := js }] }

/-! ## The directory (R482 to R484) -/

/-- Holders of a line. -/
def Line.holders : Line → List Nat
  | .shared hs => hs
  | .owned o => [o]

/-- A line without a holder. -/
def Line.without (l : Line) (h : Nat) : Line :=
  match l with
  | .shared hs => .shared (hs.filter (· != h))
  | .owned o => if o = h then .shared [] else .owned o

/-- Whether a line is dirty or may be. -/
def Line.isOwned : Line → Bool
  | .owned _ => true
  | .shared _ => false

/-- Line entries of a directory slice (R482). -/
def sliceEntries : Nat := 33554432

/-- Entries of a range of lines of an extent. -/
def Dev.entriesIn (d : Dev) (h first count : Nat) : Map DirEnt :=
  Map.keep (fun k _ => decide (lineKey h first ≤ k ∧ k < lineKey h (first + count))) d.cxl.dir

/-- Home half of the line a key names. -/
def Dev.keyHalf (d : Dev) (k : Nat) : Nat := ((d.ext? (k / 2 ^ 32)).map (·.half)).getD 0

/-- Entries in use in the slice of a half. -/
def Dev.sliceUsed (d : Dev) (half : Nat) : Nat := (d.cxl.dir.filter fun p => d.keyHalf p.1 == half).length

/-- `f` applied to a directory entry; an entry without holder and without outstanding snoop is freed. -/
def updDir (k : Nat) (f : DirEnt → DirEnt) (d : Dev) : Dev :=
  match d.cxl.dir.get? k with
  | none => d
  | some e =>
    let e := f e
    d.updCxl fun c => { c with dir :=
      if e.line.holders.isEmpty && e.snoops.isEmpty then Map.del k c.dir else Map.set k e c.dir }

/-- Snoops sent to hosts for a line; each is counted at its port. -/
def sendSnoops (k : Nat) (hosts : List Nat) (inv : Bool) (d : Dev) : Dev :=
  match d.ext? (k / 2 ^ 32) with
  | none => d
  | some e =>
    let off := e.offset + 64 * (k % 2 ^ 32)
    let d := hosts.foldl (fun d h => emit (.snoop h off inv) (bump 5 h 17 1 d)) d
    updDir k (fun x => { x with snoops := hosts, inv := inv, since := d.now }) d

/-- The snoops a request needs of an entry: the hosts, and whether they invalidate (Table 17-4). -/
def CxlWork.needs (w : CxlWork) (l : Line) : List Nat × Bool :=
  match w with
  | .read port _ .shared => (if l.isOwned then l.holders.filter (· != port) else [], false)
  | .read port _ _ => (l.holders.filter (· != port), true)
  | .write port _ _ _ _ _ => (l.holders.filter (· != port), true)
  | .rdBlock _ _ _ => (if l.isOwned then l.holders else [], false)
  | _ => (l.holders, true)

/-- The line's state once a host's read is answered. -/
def lineRead (port : Nat) (kind : CxlRead) (old : Option Line) : Line :=
  match kind, old with
  | .shared, none => .shared [port]
  | .shared, some (.shared hs) => .shared (insertNat port hs)
  | .shared, some (.owned o) => .owned o
  | _, _ => .owned port

/-- A host's read answered: data from memory, the host among the line's holders. -/
def actRead (h n port off : Nat) (kind : CxlRead) (d : Dev) : Dev :=
  match d.ext? h with
  | none => d
  | some e =>
    let k := lineKey h n
    let old := (d.cxl.dir.get? k).map (·.line)
    let line := lineRead port kind old
    let stamp := ((d.cxl.dir.get? k).map (·.stamp)).getD d.cxl.stamp
    let d := d.updCxl fun c => { c with
      stamp := if old.isNone then c.stamp + 1 else c.stamp
      dir := Map.set k { line := line, stamp := stamp, snoops := [], inv := false, since := 0 } c.dir }
    let bad := e.poison.contains n
    let d := if bad then ueExtent h e 0xFF d else d
    if kind = .current then emit (.cxlData port off [] false true) d
    else if bad then emit (.cxlData port off [] true line.isOwned) d
    else if d.keyless e.tenant then
      let (x, d) := freeLine d
      emit (.cxlData port off x false line.isOwned) d
    else emit (.cxlData port off (e.line n) false line.isOwned) d

/-- A host's write applied: the line leaves the directory, or stays shared with an owner that keeps a copy. -/
def actWrite (h n port off : Nat) (b : Bytes) (mask : Nat) (poison keep : Bool) (d : Dev) : Dev :=
  let k := lineKey h n
  let owner := match d.cxl.dir.get? k with
    | some e => e.line == .owned port
    | none => false
  let d := writeLine h n b mask poison d
  let d := updDir k (fun e => { e with line := if owner && keep then .shared [port] else e.line.without port }) d
  emit (.cxlDone port off) d

/-- The bytes of a block of an extent, or none where a line of it is poisoned. -/
def Extent.block (e : Extent) (tile : Nat) : Option Bytes :=
  if e.poison.any fun n => decide (256 * tile ≤ n ∧ n < 256 * tile + 256) then none
  else some ((fromTo (256 * tile) 256).flatMap e.line)

/-- Position of a request and of a tile in it that waits for the directory. -/
def Stream.waitsExt (s : Stream) (tag tile : Nat) : Option (Nat × Nat) :=
  (s.reqs.findIdx? fun q => q.tag == tag && decide (q.first ≤ tile) &&
    (match q.tiles[tile - q.first]? with
      | some (.waiting 0) => true
      | _ => false)).bind fun i => (s.reqs[i]?).map fun q => (i, tile - q.first)

/-- The tile of a stream that waits for the directory, as a halt names it: the number of its request and its position. -/
def Stream.extBad (s : Stream) (tag tile : Nat) : List (Nat × Nat) :=
  match (s.waitsExt tag tile).bind fun p => (s.reqs[p.1]?).map fun q => (q.num, p.2) with
  | some p => [p]
  | none => []

/-- A READ block whose owned lines have been written back: read, or its stream halts (R195). -/
def actRdBlock (h id tag tile : Nat) (d : Dev) : Dev :=
  match (d.str? id).bind fun s => (s.waitsExt tag tile), (d.ext? h).map fun e => (e, e.block tile) with
  | some (i, k), some (_, some b) =>
    pumpReq id i (d.updReq id i fun q => { q with tiles := q.tiles.set k (.ready b) })
  | some _, some (e, none) =>
    haltStream id .poisoned 0 (((d.str? id).map fun s => s.extBad tag tile).getD []) (ueExtent h e 0xFF d)
  | _, _ => d

/-- A WRITE block taken whole: stored, then acknowledged in its turn (R485). -/
def actWrBlock (h id tag tile : Nat) (b sig : Bytes) (d : Dev) : Dev :=
  let d := (List.range 256).foldl (fun d k =>
    d.updExt h fun e => e.put (256 * tile + k) ((b.drop (64 * k)).take 64) false) d
  pumpAcks id (d.updObjs fun s => { s with acks := s.acks ++
    [{ who := .wrAck id tag tile sig, obj := h, ver := 0, tile := tile, data := b, sid := 0, prod := 0,
       stripes := [] }] })

/-- The mappings that pass a test removed, with what hosts may no longer read of them (R481). -/
def dropMaps (f : Nat → Mapping → Bool) (d : Dev) : Dev :=
  (d.cxl.maps.filter fun p => f p.1 p.2).foldl (fun d p =>
    let m := p.2
    let lo := ((d.ext? m.ext).map (·.offset)).getD 0 + m.offset
    let d := d.updVer m.obj m.ver fun v => { v with mapped := v.mapped - 1 }
    let port := ((d.ext? m.ext).map (·.target)).getD 0
    d.updCxl fun c => { c with
      maps := Map.del p.1 c.maps
      badLines := c.badLines.filter fun b => !(b.1 == port && decide (lo ≤ b.2 ∧ b.2 < lo + m.length)) }) d

/-- Mappings being removed whose reads have all been answered are gone, and their commands complete (R481). -/
def reapMaps (d : Dev) : Dev :=
  d.cxl.maps.foldl (fun d p =>
    match p.2.closer with
    | some c =>
      if d.cxl.winReads.any fun w => w.map == p.1 then d
      else finishCmd c (Cpl.ok []) (dropMaps (fun k _ => k == p.1) d)
    | none => d) d

/-- An extent whose lines have all been recalled is cleared and freed, and its `EXTENT_REVOKE` completes (Table 17-7,
steps 5 and 6). -/
def actRevoke (h cmd : Nat) (d : Dev) : Dev :=
  match d.ext? h with
  | none => d
  | some e =>
    let d := dropMaps (fun _ m => m.ext == h) d
    let d := if e.writable then subNear e.tenant e.half e.length d else d
    let d := d.updCxl fun c => { c with exts := Map.del h c.exts }
    finishCmd cmd { Cpl.ok (leBytes 4 (min e.lostIn (2 ^ 32 - 1))) with
      status := if e.hostLost then .hostLost else .success } d

/-- Zeros written over a range (R407). -/
def actClear (h first count cmd : Nat) (d : Dev) : Dev :=
  let keep (n : Nat) : Bool := !decide (first ≤ n ∧ n < first + count)
  let d := d.updExt h fun e => { e with lines := Map.keep (fun n _ => keep n) e.lines, poison := e.poison.filter keep }
  finishCmd cmd (Cpl.ok (leBytes 8 count)) d

/-- A request that nothing holds back any more. -/
def actReq (r : CxlReq) (d : Dev) : Dev :=
  match r.work with
  | .read port off kind => actRead r.ext r.first port off kind d
  | .write port off b mask poison keep => actWrite r.ext r.first port off b mask.toNat poison keep d
  | .rdBlock id tag tile => actRdBlock r.ext id tag tile d
  | .wrBlock id tag tile b sig => actWrBlock r.ext id tag tile b sig d
  | .clear c => actClear r.ext r.first r.count c d
  | .revoke c => actRevoke r.ext c d

/-- Whether two requests have lines in common. -/
def CxlReq.meets (a b : CxlReq) : Bool := a.ext == b.ext && overlaps a.first a.count b.first b.count

/-- The entry of a slice allocated longest ago that no snoop is outstanding on. -/
def Dev.oldestEntry (d : Dev) (half : Nat) : Option Nat :=
  (d.cxl.dir.foldl (fun (a : Option (Nat × Nat)) p =>
    if d.keyHalf p.1 != half || !p.2.snoops.isEmpty then a
    else match a with
      | some b => if p.2.stamp < b.2 then some (p.1, p.2.stamp) else a
      | none => some (p.1, p.2.stamp)) none).map (·.1)

/-- Whether a request needs an entry its slice has no room for. -/
def Dev.needsRoom (d : Dev) (r : CxlReq) : Bool :=
  match r.work with
  | .read _ _ _ => !(d.cxl.dir.has (lineKey r.ext r.first)) &&
      decide (d.sliceUsed (d.keyHalf (lineKey r.ext r.first)) ≥ sliceEntries)
  | _ => false

/-- Whether a request frees its extent. -/
def CxlWork.revokes (w : CxlWork) : Bool :=
  match w with
  | .revoke _ => true
  | _ => false

/-- What the directory does next for a request: nothing while a snoop or a recall it waits for is outstanding, or window
reads of an extent that is to be freed are in flight (R481); its snoops go out; an entry is recalled to make room (R484); or it acts. -/
def stepReq (i : Nat) (r : CxlReq) (d : Dev) : Option Dev :=
  let here := d.entriesIn r.ext r.first r.count
  let recalling : Bool := match r.recalls.bind d.cxl.dir.get? with
    | some e => !e.snoops.isEmpty
    | none => false
  if recalling || here.any fun p => !p.2.snoops.isEmpty then none
  else if r.work.revokes && d.cxl.winReads.any fun w => ((d.cxl.maps.get? w.map).map (·.ext)) == some r.ext then none
  else
    let want := here.filter fun p => !(r.work.needs p.2.line).1.isEmpty
    if !want.isEmpty then
      some (want.foldl (fun d p => let n := r.work.needs p.2.line; sendSnoops p.1 n.1 n.2 d) d)
    else if d.needsRoom r then
      (d.oldestEntry (d.keyHalf (lineKey r.ext r.first))).map fun k =>
        let hs := ((d.cxl.dir.get? k).map fun e => e.line.holders).getD []
        let d := hs.foldl (fun d h => bump 5 h 18 1 d) (sendSnoops k hs true d)
        d.updCxl fun c => { c with reqs := c.reqs.modify i fun r => { r with recalls := some k } }
    else some (actReq r (d.updCxl fun c => { c with reqs := c.reqs.eraseIdx i }))

/-- The first request, none before it sharing a line with it, for which the directory can do something. -/
def firstStep (d : Dev) : Nat → List CxlReq → List CxlReq → Option Dev
  | _, _, [] => none
  | i, before, r :: l =>
    if before.any r.meets then firstStep d (i + 1) (before ++ [r]) l
    else
      match stepReq i r d with
      | some d' => some d'
      | none => firstStep d (i + 1) (before ++ [r]) l

/-- The directory works until nothing more can go on; `n` bounds its steps. -/
def pumpN : Nat → Dev → Dev
  | 0, d => d
  | n + 1, d =>
    match firstStep d 0 [] d.cxl.reqs with
    | some d' => pumpN n d'
    | none => d

/-- The directory works on its requests. -/
def pumpCxl (d : Dev) : Dev := pumpN (3 * d.cxl.reqs.length + 3) d

/-- A request handed to the directory. -/
def askDir (h first count : Nat) (w : CxlWork) (d : Dev) : Dev :=
  pumpCxl (d.updCxl fun c => { c with
    reqs := c.reqs ++ [{ ext := h, first := first, count := count, work := w, recalls := none }] })

/-- A read job that window reads wait for has been expanded, or is lost: they are answered once nothing more is
outstanding, with poison where it is lost (R480). -/
def windowSettled (n : Nat) (lost : Bool) (d : Dev) : Dev :=
  let mine := d.cxl.winReads.filter fun w => w.jobs.contains n
  if mine.isEmpty then d
  else
    let done (w : WinRead) : Bool := lost || w.jobs.all (· == n)
    let rest := (d.cxl.winReads.filter fun w => !(w.jobs.contains n && done w)).map fun w =>
      { w with jobs := w.jobs.filter (· != n) }
    let d := d.updCxl fun c => { c with winReads := rest }
    let d := (mine.filter done).foldl (fun d w =>
      match lost, d.cxl.maps.get? w.map with
      | false, some m => answerWin w.port w.off m d
      | _, _ => poisonWin w.port w.off d) d
    pumpCxl (reapMaps d)

/-! ## Host accesses (R474, R478, R480, R483) -/

/-- CXL_MEM_READ at a window-space offset. -/
def cxlRead (port off0 : Nat) (kind : CxlRead) (d : Dev) : Dev :=
  let off := off0 / 64 * 64
  match d.hostExtent port off with
  | .error c => refuseHost port off c true d
  | .ok (h, e) =>
    if !e.writable then windowRead port off h e d
    else
      askDir h ((off - e.offset) / 64) 1 (.read port off kind) (grantBytes (d.label e.qos) 1 (2 * e.half) 64
        (extentAccess h e ((off - e.offset) / 64) false d))

/-- A host's write at a window-space offset. A write to a window is refused, and the line is poison for the host while
its mapping lasts. An owner's write-back that meets a snoop to that owner is the snoop's data. -/
def cxlWrite (port off0 : Nat) (b : Bytes) (mask : BitVec 64) (poison keep : Bool) (d : Dev) : Dev :=
  let off := off0 / 64 * 64
  match d.hostExtent port off with
  | .error c =>
    -- an extent being revoked still takes the data of the snoops sent for it (Table 17-7, step 3)
    match d.cxl.exts.find? fun p => p.2.at' off && p.2.revoker.isSome && (d.targetHosts p.2.target).contains port with
    | some (h, e) =>
      let k := lineKey h ((off - e.offset) / 64)
      match d.cxl.dir.get? k with
      | some x =>
        if x.line = .owned port then
          emit (.cxlDone port off) (updDir k (fun x => { x with line := .shared [port] })
            (writeLine h ((off - e.offset) / 64) b mask.toNat poison d))
        else refuseHost port off c false d
      | none => refuseHost port off c false d
    | none => refuseHost port off c false d
  | .ok (h, e) =>
    if !e.writable then
      let d := if (d.mapAt h (off - e.offset)).isSome && !d.cxl.badLines.contains (port, off) then
        d.updCxl fun c => { c with badLines := c.badLines ++ [(port, off)] } else d
      refuseHost port off 0x10 false d
    else
      let d := grantBytes (d.label e.qos) 1 (2 * e.half + 1) 64 (extentAccess h e ((off - e.offset) / 64) true d)
      let n := (off - e.offset) / 64
      let k := lineKey h n
      let snooped : Bool := match d.cxl.dir.get? k with
        | some x => x.snoops.contains port && x.line == .owned port
        | none => false
      if snooped then
        emit (.cxlDone port off) (updDir k (fun x => { x with line := .shared [port] })
          (writeLine h n b mask.toNat poison d))
      else askDir h n 1 (.write port off b mask poison keep) d

/-- The directory entry of the line at an offset of a host's window space. -/
def Dev.lineOf (d : Dev) (port off : Nat) : Option (Nat × DirEnt) :=
  (d.cxl.exts.find? fun p => p.2.at' off && p.2.writable && (d.targetHosts p.2.target).contains port).bind fun p =>
    let k := lineKey p.1 ((off - p.2.offset) / 64)
    (d.cxl.dir.get? k).map fun e => (k, e)

/-- CLEAN_EVICT: the host no longer holds the line. -/
def cxlEvict (port off : Nat) (d : Dev) : Dev :=
  match d.lineOf port off with
  | some (k, _) => pumpCxl (updDir k (fun e => { e with line := e.line.without port }) d)
  | none => d

/-- SNOOP_RESPONSE: the answer of a host to an outstanding snoop. -/
def snoopAnswer (port off : Nat) (resp : SnoopResp) (d : Dev) : Dev :=
  match d.lineOf port off with
  | some (k, e) =>
    if !e.snoops.contains port then d
    else
      let line : Line :=
        if !e.inv && resp == .shared && e.line.holders.contains port then .shared [port] else e.line.without port
      pumpCxl (updDir k (fun e => { e with line := line, snoops := e.snoops.filter (· != port) }) d)
  | none => d

/-! ## Host loss (R486) -/

/-- Whether a key lies in an extent that a loss covers. -/
def Dev.inScope (d : Dev) (scope : Extent → Bool) (k : Nat) : Bool := ((d.ext? (k / 2 ^ 32)).map scope).getD false

/-- Requests of a list ended with `HOST_LOST` under a record's ID: a host's own is refused, a command completes, a
stream halts. -/
def endLost (id port : Nat) : List CxlReq → Dev → Dev
  | [], d => d
  | r :: l, d =>
    let d := match r.work with
      | .read _ off _ => refuseHost port off 0x12 true d
      | .write _ off _ _ _ _ => refuseHost port off 0x12 false d
      | .rdBlock sid tag tile => haltStream sid .hostLost id (((d.str? sid).map fun s => s.extBad tag tile).getD []) d
      | .wrBlock sid tag tile _ _ =>
        let d := pumpAcks sid (d.updStr sid fun s => { s with acks := s.acks.map fun e =>
          if e.tag = tag ∧ e.tile = tile ∧ e.status.isNone then { e with status := some Status.hostLost.code } else e })
        haltStream sid .hostLost id [] d
      | .clear c => finishCmd c (errE .hostLost id) d
      | .revoke _ => d
    endLost id port l d

/-- A host is lost, for the extents of a scope (R486, Table 17-5). Lines of an extent being revoked count there and are
in no event (R488). -/
def loseHost (port cause : Nat) (whole : Bool) (scope : Extent → Bool) (d : Dev) : Dev :=
  let own (r : CxlReq) : Bool := d.inScope scope (lineKey r.ext 0) && (match r.work with
    | .read p _ _ => p == port
    | .write p _ _ _ _ _ => p == port
    | _ => false)
  let waits (r : CxlReq) : Bool := (match r.work with
    | .rdBlock _ _ _ => true
    | .wrBlock _ _ _ _ _ => true
    | .clear _ => true
    | _ => false) && (d.entriesIn r.ext r.first r.count).any fun p =>
      d.inScope scope p.1 && p.2.snoops.contains port
  let dead := d.cxl.reqs.filter fun r => own r || waits r
  let lost := (d.cxl.dir.filter fun p => d.inScope scope p.1 && p.2.line == .owned port).map (·.1)
  let d := d.updCxl fun c => { c with
    reqs := c.reqs.filter fun r => !(own r || waits r)
    dir := (c.dir.mapVals fun k e => if d.inScope scope k then
        { e with line := e.line.without port, snoops := e.snoops.filter (· != port) } else e).filter fun p =>
      !(p.2.line.holders.isEmpty && p.2.snoops.isEmpty) }
  let hosts (e : Extent) : Bool := (d.targetHosts e.target).contains port
  let hit (h : Nat) (e : Extent) : Extent :=
    let mine := (lost.filter fun k => k / 2 ^ 32 == h).map (· % 2 ^ 32)
    if e.revoker.isSome then
      { e with lostIn := e.lostIn + mine.length, hostLost := e.hostLost || (scope e && hosts e) }
    else mine.foldl (fun e n => e.put n [] true) e
  let kept := lost.filter fun k => ((d.ext? (k / 2 ^ 32)).map fun e => e.revoker.isNone).getD false
  let d := d.updCxl fun c => { c with exts := c.exts.mapVals hit }
  let exts := (lost.foldl (fun l k => insertNat (k / 2 ^ 32) l) []).length
  let (id, d) := raiseRec { ErrRec.mk0 1 0x16 with
    block := 2, inst := port
    detail := leBytes 1 cause ++ leBytes 1 port ++ leBytes 2 exts ++ leBytes 4 (min lost.length (2 ^ 32 - 1)) } d
  let d := setCauses 4 (fun f => f.bound == some 0) (bump 5 port 20 1 d)
  let ev := (d.cxl.events.findKey? fun _ x => x.port == port).getD id
  let old := d.cxl.events.getD ev { port := port, whole := false, lines := [] }
  let new : LossEvent := { old with
    whole := old.whole || whole, lines := kept.foldl (fun l k => insertNat k l) old.lines }
  let d := d.updCxl fun c => { c with events := Map.set ev new c.events }
  pumpCxl (endLost id port dead d)

/-- Losses at sable-mode entry: each host on the half other than an extent's home, for such extents only. -/
def sableHosts (d : Dev) : Dev :=
  [0, 1, 2, 3].foldl (fun d port =>
    let far (e : Extent) : Bool :=
      e.writable && e.half != hostHalf port && (d.targetHosts e.target).contains port
    if d.cxl.exts.any fun p => far p.2 then loseHost port 5 false far d else d) d

/-- RECALL_TIMEOUT: a snoop unanswered for the recall timeout makes its host lost (R482, R483). -/
def recallTimeout (port off : Nat) (d : Dev) : Dev :=
  match d.lineOf port off with
  | some (_, e) =>
    if e.snoops.contains port && decide (e.since + d.feat 0x0A 0 32 ≤ d.now) then
      loseHost port 4 true (fun _ => true) d
    else d
  | none => d

/-! ## Streams on extents (R485) -/

/-- Whether a handle is of the type EXTENT. -/
def isExtent (h : Nat) : Bool := hType h == 6

/-- R50 for a handle that names an extent. -/
def checkExtent (x : Ctx) (off h : Nat) (d : Dev) : Except Cpl Extent :=
  if hTenant h ≠ x.t then .error (errS .notPermitted)
  else match d.ext? h with
    | some e => .ok e
    | none => .error (errF off)

/-- States of the blocks of an accepted request: poisoned, waiting for owned lines, or read at once. -/
def askBlocks (h id tag first : Nat) (e : Extent) : Nat → List TileSt → Dev → List TileSt × Dev
  | 0, acc, d => (acc, d)
  | n + 1, acc, d =>
    let tile := first + acc.length
    let busy := ((d.entriesIn h (256 * tile) 256).any fun p => p.2.line.isOwned || !p.2.snoops.isEmpty) ||
      d.cxl.reqs.any fun r => r.ext == h && overlaps r.first r.count (256 * tile) 256
    let r : CxlReq := { ext := h, first := 256 * tile, count := 256, work := .rdBlock id tag tile, recalls := none }
    let (t, d) : TileSt × Dev :=
      match busy, e.block tile with
      | true, _ => (.waiting 0, d.updCxl fun c => { c with reqs := c.reqs ++ [r] })
      | false, some b => (.ready b, d)
      | false, none => (.failed Status.poisoned.code, ueExtent h e 0xFF d)
    askBlocks h id tag first e n (acc ++ [t]) d

/-- A read request of a stream on an extent. One that is revoked or gone halts the stream (R488). -/
def extRdReq (id rx : Nat) (s : Stream) (m : Bytes) (d : Dev) : Dev :=
  match d.ext? s.obj with
  | none => takeRdReqOn id rx s m none (some .revoked) .revoked (fun _ d => ([], d)) d
  | some e =>
    let why := if e.revoker.isSome then none
      else if d.keyless e.tenant then some Status.notReady
      else refuseRead s (e.length / 16384) 16384 false m
    let halt := if e.revoker.isSome then some Status.revoked
      else if d.pwr.sable && e.half != portHalf s.port then some .pathLost else none
    pumpCxl (takeRdReqOn id rx s m why halt .poisoned (fun q d =>
      askBlocks s.obj id q.tag q.first e (fld m 0xA 0 16) [] d) d)

/-- A block received whole: its lines are recalled before it is written. -/
def takeBlock (id : Nat) (s : Stream) (e : Extent) (tag tile : Nat) (b sig : Bytes) (d : Dev) : Dev :=
  let d := d.updStr id fun s => { s with parts := s.parts.filter (·.key != writeKey tag tile) }
  if d.keyless e.tenant then discardWrite id s tag tile .notReady true d
  else
    askDir s.obj (256 * tile) 256 (.wrBlock id tag tile b sig)
      (d.updStr id fun s => { s with acks := s.acks ++ [⟨tag, tile, none⟩] })

/-- A write of a stream on an extent. -/
def extTileWr (id : Nat) (s : Stream) (m : Bytes) (d : Dev) : Dev :=
  takeTileWrOn id s m (fun d =>
    let revoked (d : Dev) : Dev :=
      haltStream id .revoked 0 []
        (discardWrite id s (fld m 8 0 16) (fld m 0xC 0 32) .revoked (fld m 1 0 1 == 1) d)
    match d.ext? s.obj with
    | none => revoked d
    | some e =>
      if e.revoker.isSome then revoked d
      else if d.pwr.sable && e.half != portHalf s.port then haltWrite id s m d
      else takeSegment id s (e.length / 16384) 16384 (takeBlock id s e) m d) d

/-! ## Meanings of what a host sends -/

/-- The window-space offset a decoder gives an HPA (R472). -/
def Hdm.offset? (h : Hdm) (hpa : Nat) : Option Nat :=
  let base := h.baseHigh.toNat * 2 ^ 32 + h.baseLow.toNat
  let size := h.sizeHigh.toNat * 2 ^ 32 + h.sizeLow.toNat
  if base ≤ hpa ∧ hpa < base + size then some (hpa - base) else none

/-- The decoder of a port. -/
def State.hdmOf (s : State) (port : Nat) : Hdm := s.hdm.getD port Hdm.reset

/-- The offset of a request a port decodes: its decoder is committed (R473) and the data path runs (R401). -/
def State.decoded (s : State) (port hpa : Nat) : Option Nat :=
  if bitOf (s.hdmOf port).ctrl.toNat 10 && !s.dev.pwr.fatal then (s.hdmOf port).offset? hpa else none

/-- CXL_MEM_READ. -/
def execCxlMemRead (port hpa : Nat) (kind : CxlRead) (s : State) : Host.Outcome State Fault Refusal :=
  onDev (fun d => match s.decoded port hpa with
    | some off => cxlRead port off kind d
    | none => d) s
/-- CXL_MEM_WRITE. -/
def execCxlMemWrite (port hpa : Nat) (data : Bytes) (mask : BitVec 64) (poison : Bool) (s : State) :
    Host.Outcome State Fault Refusal :=
  onDev (fun d => match s.decoded port hpa with
    | some off => cxlWrite port off data mask poison false d
    | none => d) s
/-- WRITE_BACK. -/
def execWriteBack (port hpa : Nat) (data : Bytes) (poison keep : Bool) (s : State) :
    Host.Outcome State Fault Refusal :=
  onDev (fun d => match s.decoded port hpa with
    | some off => cxlWrite port off data (BitVec.allOnes 64) poison keep d
    | none => d) s
/-- CLEAN_EVICT. -/
def execCleanEvict (port hpa : Nat) (s : State) : Host.Outcome State Fault Refusal :=
  onDev (fun d => match s.decoded port hpa with
    | some off => cxlEvict port off d
    | none => d) s
/-- SNOOP_RESPONSE. -/
def execSnoopResponse (port hpa : Nat) (resp : SnoopResp) (s : State) : Host.Outcome State Fault Refusal :=
  onDev (fun d => match (s.hdmOf port).offset? hpa with
    | some off => snoopAnswer port off resp d
    | none => d) s
/-- RECALL_TIMEOUT. -/
def execRecallTimeout (port hpa : Nat) (s : State) : Host.Outcome State Fault Refusal :=
  onDev (fun d => match (s.hdmOf port).offset? hpa with
    | some off => recallTimeout port off d
    | none => d) s

end Sys2Proof.Machine
end

