-- ==== Sys2Proof/Machine/Eland.lean ====
section
/-! DEFINITION. The Eland path: expert bindings, token batches, their runs and results (R260 to R267). -/

namespace Sys2Proof.Machine

/-! ## `EXPERT_BIND` (R260, R261) -/

/-- A set of the issuing tenant, named at 0x24. -/
def ownSet (x : Ctx) (d : Dev) : Except Cpl BindSet :=
  match d.comp.sets.get? (x.e.w32 0x24) with
  | none => .error (errF 0x24)
  | some s => if s.tenant = x.t then .ok s else .error (errS .notPermitted)

/-- Bindings of all sets. -/
def Dev.bindings (d : Dev) : Nat := (d.comp.sets.map fun p => p.2.binds.length).sum

/-- Whether the weights of a library expert kernel fit `d_in` and `d_out`: the gate and up matrices have `d_in` rows,
the down matrix `d_out`, all as many columns (log entry 14). -/
def libFits (lib : Nat) (objs : List Obj) (din dout : Nat) : Bool :=
  let cols := (objs.map (·.cols)).headD 0
  let rows := objs.map (·.rows)
  if lib = 0x10 then objs.all (·.cols == cols) && rows == [din, din, dout]
  else if lib = 0x11 then objs.all (·.cols == cols) && rows == [din, dout]
  else true

/-- The kernel of a BIND (R242 step 1, with `exec` 1). -/
def bindKernel (x : Ctx) (d : Dev) : Except Cpl Kernel := do
  let k ← checkKernel x 8 x.e.ha d
  checkQos x d
  need (hExec k.header && !((List.range (hArgs k.header)).any fun i => hArg k.header i 0 2 == 2) &&
    !((List.range (hPhases k.header)).any fun p => hPhase k.header p 0 2 == 2)) (errF 8)
  .ok k

/-- BIND. -/
def bindExpert (x : Ctx) (b : Bytes) (d : Dev) : Except Cpl Res := do
  let e := x.e
  let k ← bindKernel x d
  let set ← ownSet x d
  let h := k.header
  let na := hArgs h
  let ins := (List.range na).map (argIn b)
  let (small, _) ← checkRunUnit x.t k (e.w32 0x28) 0x28 d
  let (large, _) ← checkRunUnit x.t k (e.w32 0x2C) 0x2C d
  let objs ← (List.range na).foldlM (fun (l : List Obj) i => do
    let o ← checkArg x.t h 1 i (16 * i) (argIn b i) d
    .ok (l ++ [o])) []
  checkGrids h objs (gridsOf h objs 0 0) 8 8
  need (libFits k.lib objs (e.w16 0x34) (e.w16 0x36)) (errF 0x34)
  let vers ← ((List.range na).zip objs).foldlM (fun (l : List Nat) p => do
    let v ← checkArgVer x.t 1 (16 * p.1) (ins.getD p.1 ⟨0, 0, 0⟩) p.2
    .ok (l ++ [v])) []
  let _ ← sableCores x.half (e.w32 0x28) small d
  let _ ← sableCores x.half (e.w32 0x2C) large d
  objs.foldlM (fun _ o => checkPath x.half o.half d) ()
  let follow := e.fld 0x21 0 1 == 1
  let ex := e.w16 0x22
  need (set.binds.has ex || decide (d.bindings < 1048576)) (errS .noResource)
  let ws := (List.range na).map fun i =>
    let a := ins.getD i ⟨0, 0, 0⟩
    { role := 1, obj := a.handle, ver := if follow && a.ver == 0 then 0 else vers.getD i 0, layout := a.layout,
      map := hArg h i 24 2, prod := 0 : RunArg }
  let y : Binding :=
    { kernel := e.ha, follow := follow, small := e.w32 0x28, large := e.w32 0x2C, thresh := e.w16 0x30,
      din := e.w16 0x34, dout := e.w16 0x36, weights := ws, params := b.drop (16 * na), times := [] }
  okRes [] (d.updComp fun c => { c with
    sets := Map.upd (e.w32 0x24) (fun s => { s with binds := Map.set ex y s.binds }) c.sets })

/-- NEW_SET, UNBIND and DELETE_SET. -/
def bindOther (x : Ctx) (d : Dev) : Except Cpl Res := do
  let e := x.e
  checkQos x d
  if e.b20 = 0 then
    need (decide (d.comp.sets.length < 4096)) (errS .noResource)
    let id := d.comp.sets.firstFree 0
    okRes (leBytes 4 id) (d.updComp fun c => { c with sets := Map.set id { tenant := x.t, binds := [] } c.sets })
  else
    let set ← ownSet x d
    let id := e.w32 0x24
    if e.b20 = 2 then
      let ex := e.w16 0x22
      need (set.binds.has ex) (errF 0x22)
      let d := d.updComp fun c => { c with
        sets := Map.upd id (fun s => { s with binds := Map.del ex s.binds }) c.sets }
      if d.comp.batches.any fun b => b.2.set == id && b.2.expert == ex && b.2.run != 0 then
        .ok (.wait (d.updComp fun c => { c with unbinds := c.unbinds ++ [(x.num, id, ex)] }))
      else okRes [] d
    else
      need (!(d.strs.strs.any fun p => p.2.kind == 3 && p.2.binding == id)) (errC 0xFF true)
      okRes [] (d.updComp fun c => { c with sets := Map.del id c.sets })

/-- `EXPERT_BIND`. -/
def bodyExpertBind : Body := withData
  (fun x d => do
    if x.e.b20 = 1 then
      let k ← bindKernel x d
      let _ ← ownSet x d
      .ok (16 * hArgs k.header + hParams k.header)
    else .ok 0)
  (fun x b d => if x.e.b20 = 1 then bindExpert x b d else bindOther x d)

/-! ## Batches (R262 to R264) -/

/-- Blocks of 4 KiB of expert staging free on a cluster (R47, R263). -/
def Dev.stageRoom (d : Dev) (pd : Nat) : Nat :=
  tcUnits d.tiers.split 3 * 64 -
    ((d.comp.batches.vals.filter fun b => b.cluster == pd && b.blocks != 0).map (·.blocks)).sum

/-- The binding a batch uses. -/
def Dev.binding? (d : Dev) (set ex : Nat) : Option Binding := (d.comp.sets.get? set).bind fun s => s.binds.get? ex

/-- What a batch needs to run: its kernel, cores, weights at their resolved versions, and the cluster that stages it;
or the status it is answered with (R263, R264). -/
def prepBatch (s : Stream) (y : Binding) (tokens : Nat) (d : Dev) :
    Except Status (Kernel × Nat × List Nat × Bool × List RunArg × List Obj × Nat × Nat) := do
  let lift {α : Type} (e : Except Cpl α) (st : Status → Status) : Except Status α :=
    match e with
    | .ok v => .ok v
    | .error c => .error (st c.status)
  let bad (_ : Status) : Status := .invalidField
  let k ← match d.kernel? y.kernel with
    | some k => .ok k
    | none => .error .invalidField
  let ws ← y.weights.foldlM (fun (l : List (RunArg × Obj)) a => do
    let o ← match d.obj? a.obj with
      | some o => .ok o
      | none => .error .invalidField
    let v ← lift (resolveSealed o s.tenant a.ver 0) bad
    if o.tenant = s.tenant ∨ o.covers s.tenant v then .ok (l ++ [({ a with ver := v }, o)])
    else .error .invalidField) []
  let unfinished := (s.batches.filter fun n => match d.batch? n with
    | some b => b.result.isNone
    | none => false).length
  if unfinished + 1 > s.maxOut then .error .noResource else
  let u := if tokens ≤ y.thresh then y.small else y.large
  let (cores, degraded) ← lift (checkRunUnit s.tenant k u 0 d) id
  let cores ← lift (sableCores s.half u cores d) id
  let _ ← lift (ws.foldlM (fun _ w => checkPath s.half w.2.half d) ()) id
  if !(cores.all fun c => (k.copies.getD (coreHalf c) none).isSome) then .error .objectDamaged else
  let blocks := ceilDiv (tokens * (y.din + y.dout) * 2) 4096
  let _ ← lift (checkQuota s.tenant (4096 * blocks) 0 0 d) fun _ => .noResource
  match (cores.map coreCluster).find? fun c => decide (blocks ≤ d.stageRoom c) with
  | none => .error .noResource
  | some c =>
    if d.comp.runs.length ≥ 65536 then .error .noResource
    else .ok (k, u, cores, degraded, ws.map (·.1), ws.map (·.2), blocks, c)

/-- A batch put behind the others of its stream. -/
def addBatch (id : Nat) (b : Batch) (d : Dev) : Nat × Dev :=
  let n := d.comp.nextBatch
  (n, (d.updComp fun c => { c with batches := Map.set n b c.batches, nextBatch := n + 1 }).updStr id fun s =>
    { s with batches := s.batches ++ [n] })

/-- A batch as its header gives it. -/
def batchOf (id : Nat) (s : Stream) (m : Bytes) (now : Nat) : Batch :=
  { stream := id, tag := fld m 8 0 32, expert := fld m 0xC 0 16, set := s.binding, tokens := fld m 0x1C 0 9, din := 0,
    dout := 0, acts := [], dest := fld m 0x10 0 64, sig := [], run := 0, blocks := 0, cluster := 0, wver := 0,
    pushed := [], result := none, accTick := now, answered := false }

/-- A batch that is refused: its status takes its place in order; its later segments are discarded. -/
def refuseBatch (id : Nat) (s : Stream) (m : Bytes) (st : Status) (d : Dev) : Dev :=
  let tag := fld m 8 0 32
  let last := fld m 1 0 1 == 1
  let d := if st = .noResource then strCount id 13 1 d else d
  let d := d.updStr id fun s => { s with
    batchIn := s.batchIn.filter (·.tag != tag), drops := if last then s.drops else s.drops ++ [tag] }
  pumpBatches id (addBatch id { batchOf id s m d.now with result := some (st.code, []) } d).2

/-- A batch received whole: its run starts. -/
def acceptBatch (id : Nat) (s : Stream) (m acts sig : Bytes) (d : Dev) : Dev :=
  let tag := fld m 8 0 32
  let d := d.updStr id fun s => { s with batchIn := s.batchIn.filter (·.tag != tag) }
  match d.binding? s.binding (fld m 0xC 0 16) with
  | none => refuseBatch id s m .invalidField d
  | some y =>
    let tokens := fld m 0x1C 0 9
    if acts.length ≠ tokens * y.din * 2 then refuseBatch id s m .invalidField d
    else
      match prepBatch s y tokens d with
      | .error st => refuseBatch id s m st d
      | .ok (k, u, cores, degraded, args, objs, blocks, cluster) =>
        let b := { batchOf id s m d.now with
          din := y.din, dout := y.dout, acts := acts, sig := sig, blocks := blocks, cluster := cluster
          wver := (args.map (·.ver)).headD 0 }
        let (n, d) := addBatch id b d
        let r := Run.fresh (.batch n) s.tenant y.kernel u cores degraded args y.params (gridsOf k.header objs 0 0)
          s.qos s.half d.now
        let r := { r with deadline := if d.clsOf s.qos = 3 then some (d.batchDue s b) else none }
        let (run, d) := addRun r k 0 0 d
        d.updBatch n fun b => { b with run := run }

/-- Whether a segment's header has a reserved field set. -/
def tokReserved (m : Bytes) : Bool := fld m 1 2 6 != 0 || fld m 2 0 16 != 0 || fld m 0x1C 9 23 != 0

/-- An `EXEC_TOKENS` segment handled by its stream in hardware. -/
def takeTokens (id : Nat) (s : Stream) (m : Bytes) (d : Dev) : Dev :=
  let d := d.updStr id fun s => { s with touch := d.now }
  let tag := fld m 8 0 32
  let last := fld m 1 0 1 == 1
  let off := fld m 0x18 0 32
  let len := fld m 0xE 0 16
  let late (st : Status) : Dev :=
    if last then sendResultStatus .none s id (batchOf id s m d.now) st.code (strCount id 15 1 d) else d
  if s.drops.contains tag then
    if last then d.updStr id fun s => { s with drops := s.drops.erase tag } else d
  else if s.st = .halted then late .halted
  else if s.st = .closing then late .aborted
  else if s.kind ≠ 3 then
    if last then sendResultStatus .none s id (batchOf id s m d.now) Status.invalidField.code d else d
  else
    let others := if off = 0 ∧ !s.unord then s.batchIn.filter (·.tag != tag) else []
    let d := others.foldl (fun d p => refuseBatch id s p.hdr .invalidField d) d
    let part := s.batchIn.find? (·.tag == tag)
    let got := (part.map (·.got)).getD []
    let hasSig := fld m 1 1 1 == 1
    let tokens := fld m 0x1C 0 9
    let differs := match part with
      | some p => fld p.hdr 0x1C 0 9 != tokens || fld p.hdr 0xC 0 16 != fld m 0xC 0 16
      | none => false
    if tokReserved m || differs || decide (off ≠ got.length ∨ len > 16384 ∨ tokens = 0 ∨ tokens > 256) ||
        (hasSig && !last) then refuseBatch id s m .invalidField d
    else
      let data := got ++ (m.drop 32).take len
      if last then acceptBatch id s m data (if hasSig then (m.drop (32 + len)).take 16 else []) d
      else d.updStr id fun s => { s with
        batchIn := s.batchIn.filter (·.tag != tag) ++ [{ tag := tag, hdr := m.take 32, got := data }] }

/-- BATCH_COMPLETE: the run of a batch has done everything; its results go in the order the stream allows (R265). -/
def batchComplete (n : Nat) (d : Dev) : Dev :=
  match d.batch? n with
  | none => d
  | some b =>
    match d.run? b.run with
    | none => d
    | some r => if b.result.isNone && d.runReady b.run r then completeRun b.run r.good d else d

/-! ## Meanings -/

/-- EXPERT_BIND. -/
def execExpertBind (c : Nat) (s : State) : Host.Outcome State Fault Refusal :=
  onDev (startCmd 0x54 bodyExpertBind c) s
/-- BATCH_COMPLETE. -/
def execBatchComplete (batch : Nat) (s : State) : Host.Outcome State Fault Refusal := onDev (batchComplete batch) s

end Sys2Proof.Machine
end

