-- ==== Sys2Proof/Machine/StreamCmds.lean ====
section
/-! DEFINITION. The stream commands, and the messages of streams and signals as they arrive (R180 to R187, R190, R198,
R206, R207, R221, R263, R314, R315). -/

namespace Sys2Proof.Machine

/-! ## Messages received (Table 15-4, R427, R433) -/

/-- Length of a message from its header, before padding; none for an unlisted code. -/
def msgLen (m : Bytes) : Option Nat :=
  let k := fld m 0 0 8
  if k = 1 then some 48
  else if k = 2 ∨ k = 3 then some (32 + fld m 0xA 0 16 + 16 * fld m 1 2 1)
  else if k = 4 then some 16
  else if k = 5 then some (32 + fld m 0xA 0 16 + 16 * fld m 1 0 1)
  else if k = 6 ∨ k = 7 then some (32 + fld m 0xE 0 16 + 16 * fld m 1 1 1)
  else if k = 8 then some 32
  else if k = 9 then some 80
  else if k = 0xA then some 40
  else if k = 0xB then some 24
  else none

/-- Credit class of a message: C0 to C3, 4 for none. -/
def msgClass (m : Bytes) : Nat :=
  let k := fld m 0 0 8
  if k = 1 ∨ k = 9 then 0
  else if k = 3 ∨ k = 5 ∨ k = 6 then 1
  else if k = 8 then 3
  else if k = 0xB then 4 else 2

/-- A message taken: its credits go back to the partner (R428, R433). -/
def noteRx (port : Nat) (m : Bytes) (d : Dev) : Dev :=
  d.updPort port fun p => { p with
    lastMsg := d.now
    owed := if msgClass m = 4 then p.owed else p.owed.modify (msgClass m) (· + ceilDiv (roundUp m.length 8) 64) }

/-! ## `STREAM_OPEN` (R180 to R184) -/

/-- Slots for contexts (R181). -/
def maxStreams : Nat := 4456448

/-- Steps 3 and 4 of R181: the version of a READ or WRITE stream. -/
def openVersion (x : Ctx) (o : Obj) (d : Dev) : Except Cpl Nat :=
  let v := x.e.w32 0x24
  if x.e.b20 = 0 then resolveRead o x.t v 0x24
  else if o.tenant ≠ x.t then .error (errS .notPermitted)
  else
    match o.vers.get? v with
    | none => .error (errF 0x24)
    | some w =>
      if w.st = .sealing ∨ w.st = .sealed then .error (errS .alreadySealed)
      else if w.st ≠ .opened then .error (errF 0x24)
      else if w.damaged then .error (errS .objectDamaged)
      else if d.redTarget x.e.ha v then .error (errC 4 true)
      else if d.runOutput x.e.ha v then .error (errC 0xFF true)
      else .ok v

/-- Step 5: the layout. -/
def openLayout (x : Ctx) (o : Obj) : Except Cpl Unit :=
  let l := x.e.w32 0x28
  need (l == 0 || (if x.e.b20 = 0 then layoutOk l o.th o.tw else l == o.canonLayout)) (errF 0x28)

/-- Step 7 for a REDUCE stream. -/
def openSource (x : Ctx) (d : Dev) : Except Cpl Unit :=
  match d.red? (x.e.w32 0x30) with
  | none => .error (errF 0x30)
  | some r =>
    if r.ended.isSome then .error (errF 0x30)
    else if r.tenant ≠ x.t then .error (errS .notPermitted)
    else
      match r.sources[x.e.w16 0x34]? with
      | none => .error (errF 0x34)
      | some s => need s.stream.isNone (errC 0xFF true)

/-- Step 7 for an EXEC stream. -/
def openSet (x : Ctx) (d : Dev) : Except Cpl Unit :=
  match d.comp.sets.get? (x.e.w32 0x30) with
  | none => .error (errF 0x30)
  | some s => need (s.tenant == x.t) (errS .notPermitted)

/-- The checks of R181 in order: the resolved version. -/
def openChecks (x : Ctx) (d : Dev) : Except Cpl Nat := do
  let e := x.e
  let port := e.fld 0x22 0 8
  let kind := e.b20
  let p := d.port port
  let ext := decide (kind ≤ 1) && isExtent e.ha
  let o ← if kind ≤ 1 ∧ !ext then (checkHandle x 8 e.ha (e.w32 0x24) d).map some else .ok none
  let w ← if ext then (checkExtent x 8 e.ha d).map some else .ok none
  checkQos x d
  need (p.bound && p.tenants.contains x.t) (errS .notPermitted)
  match w with
  | some w => do
    need w.writable (errF 8)
    need w.revoker.isNone (errS .revoked)
    need (e.w32 0x24 == 0) (errF 0x24)
    need (e.w32 0x28 == 0) (errF 0x28)
    checkPath (portHalf port) w.half d
  | none => .ok ()
  let v ← match o with
    | some o => do
      let v ← openVersion x o d
      openLayout x o
      checkPath (portHalf port) o.half d
      .ok v
    | none => .ok 0
  if kind = 2 then
    match (d.red? (e.w32 0x30)).bind fun r => d.obj? r.obj with
    | some o => checkPath (portHalf port) o.half d
    | none => .ok ()
    openSource x d
  else if kind = 3 then openSet x d
  else .ok ()
  need (decide (d.strs.strs.length < maxStreams)) (errS .noResource)
  .ok v

/-- A source of a reduction gets its stream, and credits owed to it are sent (R226). -/
def bindSource (id : Nat) (s : Stream) (d : Dev) : Dev :=
  match (d.red? s.binding).bind fun r => (r.sources[s.source]?).map fun q => (r, q) with
  | none => d
  | some (r, q) =>
    let d := d.updRed s.binding fun r => { r with
      sources := r.sources.modify s.source fun q => { q with stream := some id, owed := 0 } }
    if q.owed = 0 then d else sendSignalAdd r.qos s.port s.tenant q.target q.owed d

/-- A stream opened in a free slot: it waits for a hardware context. -/
def openStream (x : Ctx) (v : Nat) (d : Dev) : Dev :=
  let e := x.e
  let slot := lowestFree (d.strs.strs.keys.map (· % 2 ^ 23))
  let gen := match d.strs.gens.get? slot with
    | some g => (g + 1) % 512
    | none => 0
  let id := slot + 2 ^ 23 * gen
  let port := e.fld 0x22 0 8
  let s : Stream :=
    { kind := e.b20, unord := e.fld 0x21 0 1 == 1, port := port, tenant := x.t, half := portHalf port,
      obj := if e.b20 ≤ 1 then e.ha else 0, ver := v, layout := e.w32 0x28, maxOut := e.w16 0x2C,
      binding := e.w32 0x30, source := e.w16 0x34, qos := e.qos, opener := x.fn? d, openCmd := some x.num,
      st := .opening, hw := false, hstat := 0, herr := 0, done := 0, touch := d.now, reqs := [], parts := [],
      drops := [], acks := [], batchIn := [], batches := [], closeCmd := none, abortC := false, restoring := false,
      stall := none, held := [], nextReq := 0 }
  let d := d.updStrs fun t => { t with strs := Map.set id s t.strs, gens := Map.set slot gen t.gens }
  if s.kind = 2 then bindSource id s d else d

/-- `STREAM_OPEN`. -/
def bodyStreamOpen : Body := plain fun x d => do
  let v ← openChecks x d
  .ok (.wait (openStream x v d))

/-- HARDWARE_CONTEXT_AVAILABLE: an opening stream becomes active and its `STREAM_OPEN` completes (Table 6-2). -/
def contextAvailable (id : Nat) (d : Dev) : Dev :=
  match d.str? id with
  | none => d
  | some s =>
    if s.st ≠ .opening then d
    else
      let d := makeContext d
      if d.hwUsed < hwContexts then
        let d := traceStr 1 id (d.updStr id fun s => { s with
          st := .active, hw := true, openCmd := none, touch := d.now })
        let d := keepClock s.half d
        match s.openCmd with
        | some n => finishCmd n (Cpl.ok (leBytes 4 id ++ leBytes 4 s.ver)) d
        | none => d
      else d

/-! ## Messages of streams (R185 to R187) -/

/-- What a stream in hardware does with a message received at tick `rx`; its data bytes count at the port's ingress
(R353). -/
def handleMsg (id rx : Nat) (s : Stream) (m : Bytes) (d : Dev) : Dev :=
  let k := fld m 0 0 8
  let n := if k = 3 ∨ k = 5 then fld m 0xA 0 16 else if k = 6 then fld m 0xE 0 16 else 0
  let d := grantBytes s.qos 2 s.port n d
  if k = 1 then (if isExtent s.obj then extRdReq id rx s m d else takeRdReq id rx s m d)
  else if k = 3 then (if isExtent s.obj then extTileWr id s m d else takeTileWr id s m d)
  else if k = 5 then takeContrib id s m d
  else if k = 6 then takeTokens id s m d
  else msgDropped s.port d

/-- Entries of the restore buffer of a link die (R187). -/
def restoreEntries : Nat := 256

/-- Messages in the restore buffer of the link die of a port. -/
def Dev.restoreUsed (d : Dev) (port : Nat) : Nat :=
  (d.strs.strs.map fun p => if portPd p.2.port = portPd port then
      (p.2.held.filter fun t => match t with
        | .msg _ _ => true
        | .cmd _ => false).length
    else 0).sum

/-- The stream a message names. -/
def msgStream (m : Bytes) : Nat := fld m 4 0 32

/-- Whether a message of a stream waits in the ingress queue of its port. -/
def Port.waitsFor (p : Port) (id : Nat) : Bool := p.ingress.any fun q => msgStream q.2 == id

/-- A message of a stream, received at tick `rx`: dropped and counted where it names none here (R185). While the context
is parked it waits in the restore buffer, or where that is full, or an earlier message of the stream waits there, in the
ingress queue, where it keeps its credits (R187; log entry 78). -/
def takeStreamMsg (port rx : Nat) (m : Bytes) (d : Dev) : Dev :=
  let id := msgStream m
  match d.strOn port id with
  | none => msgDropped port (noteRx port m d)
  | some s =>
    if s.hw then handleMsg id rx s m (noteRx port m d)
    else
      let d := d.updStr id fun s => { s with restoring := true }
      if d.restoreUsed port < restoreEntries ∧ !(d.port port).waitsFor id then
        noteRx port m (d.updStr id fun s => { s with held := s.held ++ [.msg rx m] })
      else d.updPort port fun p => { p with lastMsg := d.now, ingress := p.ingress ++ [(rx, m)] }

/-- A message of a stream as it is received. -/
def streamMsg (port : Nat) (m : Bytes) (d : Dev) : Dev := takeStreamMsg port d.now m d

/-- The messages that wait in the ingress queue of a port are looked at again, oldest first. -/
def pumpIngress (port : Nat) (d : Dev) : Dev :=
  (d.port port).ingress.foldl (fun d q => takeStreamMsg port q.1 q.2 d)
    (d.updPort port fun p => { p with ingress := [] })

/-- Writes of a stream whose last segment has arrived and that are not settled. -/
def Stream.pendingWrites (s : Stream) (id : Nat) : List (Nat × Nat × Nat) :=
  (s.acks.filter fun a => a.status.isNone).map fun a => (id, a.tag, a.tile)

/-- What stands for the messages that wait for a stream's context in the list of what a signal waits for. -/
def heldKey (id : Nat) : Nat × Nat × Nat := (id, 0x10000, 0)

/-! ## `STREAM_CLOSE` and `STREAM_QUERY` on a context in hardware (R206, R207) -/

/-- Partly received writes of a stream that closes are acknowledged `ABORTED`, their later segments discarded. -/
def dropParts (id : Nat) (s : Stream) (d : Dev) : Dev :=
  let d := s.parts.foldl (fun d p => nack id s p.tag p.tile Status.aborted.code (strCount id 15 1 d)) d
  d.updStr id fun s => { s with drops := s.drops ++ s.parts.map WrPart.key, parts := [] }

/-- A stream starts to close under a command; with `abort` its work ends as at a halt. -/
def startClose (id n : Nat) (abort : Bool) (s : Stream) (d : Dev) : Dev :=
  let d := dropParts id s (d.updStr id fun s => { s with
    st := .closing, closeCmd := some n, abortC := abort, touch := d.now })
  if abort then sweepJobs (endWork id Status.aborted.code Status.aborted.code [] d) else d

/-- Code of a state in a query. -/
def StrState.code : StrState → Nat
  | .opening => 1 | .active => 2 | .parked => 3 | .halted => 4 | .closing => 5

/-- Unfinished tiles or batches of a stream. -/
def Dev.outstanding (d : Dev) (s : Stream) : Nat :=
  s.open' + s.parts.length + s.acks.length + s.batchIn.length + (s.batches.filter fun n => match d.batch? n with
    | some b => b.result.isNone
    | none => false).length

/-- The record of Table 6-9. -/
def Dev.streamRecord (d : Dev) (s : Stream) : Bytes :=
  leBytes 1 s.st.code ++ leBytes 1 s.kind ++ leBytes 1 s.port ++ leBytes 1 (b2n s.unord) ++ leBytes 1 s.hstat ++
    zeros 3 ++ leBytes 4 s.herr ++ leBytes 4 s.ver ++ leBytes 8 s.obj ++ leBytes 2 (d.outstanding s) ++
    leBytes 2 s.qos ++ zeros 4 ++ leBytes 8 s.done ++ leBytes 8 s.touch ++ zeros 16

/-! ## Restoring (R187) -/

/-- What waited for a context is handled: a message, or a command that named it (Table 6-2). -/
def handleTouch (id : Nat) (t : Touch) (d : Dev) : Dev :=
  match d.str? id with
  | none => d
  | some s =>
    match t with
    | .msg rx m => handleMsg id rx s m d
    | .cmd n =>
      match d.cmd? n with
      | none => d
      | some c =>
        if c.entry.op = 0x31 then
          if s.st = .closing then finishCmd n (errC 0xFF true) d
          else startClose id n (c.entry.fld 0x24 0 1 == 1) s d
        else
          let d := d.updStr id fun s => { s with touch := d.now }
          finishCmd n { Cpl.ok [] with data := [⟨c.entry.addr, d.streamRecord { s with touch := d.now }⟩] } d

/-- The messages in the ingress queues of a link die are looked at again, and signals that waited for a stream wait on for
the writes of it that are not settled (R315). -/
def pumpDie (id port : Nat) (d : Dev) : Dev :=
  let d := (fromTo (port / 14 * 14) 14).foldl (fun d p => pumpIngress p d) d
  let new := ((d.str? id).map fun s => s.pendingWrites id).getD []
  let wait (g : HeldSig) : HeldSig :=
    if g.waits.contains (heldKey id) then { g with waits := g.waits.erase (heldKey id) ++ new } else g
  let d := d.updStrs fun x => { x with sigs := x.sigs.map wait }
  releaseSigs (d.strs.sigs.length + 1) d

/-- STREAM_CONTEXT_RESTORED: a parked context is back, and what waited for it is handled, oldest first (R187); `f` is what
its words do as they are read. It waits on while no hardware context is to be had (R186). -/
def contextRestored (id : Nat) (f : Stream → Dev → Dev) (d : Dev) : Dev :=
  match d.str? id with
  | none => d
  | some s =>
    if s.hw || !s.restoring then d
    else
      let d := restoreContext id d
      match d.str? id with
      | none => d
      | some t =>
        if !t.hw then d
        else
          let d := f t d
          pumpDie id s.port
            (s.held.foldl (fun d t => handleTouch id t d) (d.updStr id fun s => { s with held := [] }))

/-! ## `SIGNAL` (R314, R315) -/

/-- Whether a message of a stream waits for its context. -/
def Dev.waitsRestore (d : Dev) (id : Nat) (s : Stream) : Bool :=
  s.held.any (fun t => match t with
    | .msg _ _ => true
    | .cmd _ => false) || (d.port s.port).waitsFor id

/-- What a signal of a tenant on a port waits for: writes received and not settled, and messages that wait for a
context. -/
def Dev.sigBlockers (d : Dev) (port t : Nat) : List (Nat × Nat × Nat) :=
  (d.strs.strs.filter fun p => p.2.port == port && p.2.tenant == t).flatMap fun p =>
    p.2.pendingWrites p.1 ++ if d.waitsRestore p.1 p.2 then [heldKey p.1] else []

/-- A `SIGNAL` received: applied once everything of its tenant that arrived before it on its port is taken or
refused. -/
def signalMsg (port : Nat) (m : Bytes) (d : Dev) : Dev :=
  let d := noteRx port m d
  let t := fld m 2 0 10
  if !(d.port port).tenants.contains t then msgDropped port d
  else
    let w := d.sigBlockers port t
    if w.isEmpty then applySigMsg port m d
    else d.updStrs fun x => { x with sigs := x.sigs ++ [{ port := port, tenant := t, data := m, waits := w }] }

/-! ## `STREAM_CLOSE`, `STREAM_QUERY` (R206, R207) -/

/-- The open stream a command names at 0x20, and its tenant's right to it. -/
def ownStream (x : Ctx) (opening : Bool) (d : Dev) : Except Cpl Stream :=
  match d.str? (x.e.w32 0x20) with
  | none => .error (errF 0x20)
  | some s =>
    if s.st = .opening ∧ !opening then .error (errF 0x20)
    else if s.tenant = x.t then .ok s else .error (errS .notPermitted)

/-- A command on a parked context waits until it is restored (Table 6-2). -/
def awaitContext (id n : Nat) (d : Dev) : Dev :=
  d.updStr id fun s => { s with restoring := true, held := s.held ++ [.cmd n] }

/-- `STREAM_CLOSE`. -/
def bodyStreamClose : Body := plain fun x d => do
  checkQos x d
  let s ← ownStream x false d
  need (s.st != .closing) (errC 0xFF true)
  let id := x.e.w32 0x20
  .ok (.wait (if s.hw then startClose id x.num (x.e.fld 0x24 0 1 == 1) s d else awaitContext id x.num d))

/-- STREAM_CLOSED: a closing stream with nothing left unfinished is closed (Table 6-2). -/
def streamClosed (id : Nat) (d : Dev) : Dev :=
  match d.str? id with
  | none => d
  | some s =>
    if s.st ≠ .closing ∨ s.busy ∨ !s.held.isEmpty then d
    else
      let d := traceStr 2 id d
      let d := d.updStrs fun x => { x with strs := Map.del id x.strs }
      let d := d.updRed s.binding fun r =>
        if s.kind = 2 then { r with
          sources := r.sources.map fun q => if q.stream = some id then { q with stream := none } else q }
        else r
      match s.closeCmd with
      | some n => finishCmd n (Cpl.ok (leBytes 8 s.done ++ leBytes 1 s.hstat ++ zeros 3 ++ leBytes 4 s.herr)) d
      | none => d

/-- `STREAM_QUERY`. -/
def bodyStreamQuery : Body := plain fun x d => do
  checkQos x d
  let s ← ownStream x true d
  let id := x.e.w32 0x20
  if s.hw || s.st == .opening then
    let d := d.updStr id fun s => { s with touch := d.now }
    okData x [] (d.streamRecord { s with touch := d.now }) d
  else .ok (.wait (awaitContext id x.num d))

/-! ## Meanings -/

/-- STREAM_OPEN. -/
def execStreamOpen (c : Nat) (s : State) : Host.Outcome State Fault Refusal :=
  onDev (startCmd 0x30 bodyStreamOpen c) s
/-- STREAM_CLOSE. -/
def execStreamClose (c : Nat) (s : State) : Host.Outcome State Fault Refusal :=
  onDev (startCmd 0x31 bodyStreamClose c) s
/-- STREAM_QUERY. -/
def execStreamQuery (c : Nat) (s : State) : Host.Outcome State Fault Refusal :=
  onDev (startCmd 0x32 bodyStreamQuery c) s
/-- TILE_READY. -/
def execTileReady (stream req : Nat) (s : State) : Host.Outcome State Fault Refusal := onDev (pumpReq stream req) s
/-- HARDWARE_CONTEXT_AVAILABLE. -/
def execHardwareContextAvailable (stream : Nat) (s : State) : Host.Outcome State Fault Refusal :=
  onDev (contextAvailable stream) s
/-- STREAM_CLOSED. -/
def execStreamClosed (stream : Nat) (s : State) : Host.Outcome State Fault Refusal := onDev (streamClosed stream) s

end Sys2Proof.Machine
end

