-- ==== Sys2Proof/Machine/ObjectCmds.lean ====
section
/-! DEFINITION. The object commands (R48 to R83, R128, R338, R339). -/

namespace Sys2Proof.Machine

/-! ## `OBJ_CREATE`, `OBJ_CLONE` (R18, R19, R48 to R54, R64 to R67, R78, R80) -/

/-- Live versions, and the tile-map entries of every version whose map stands, released ones still read among them
(R52). -/
def Dev.mapUse (d : Dev) : Nat × Nat :=
  d.objs.objs.foldl (fun a p =>
    (a.1 + (p.2.vers.filter fun v => v.2.st != .released).length, a.2 + p.2.vers.length * p.2.count)) (0, 0)

/-- Room for one more version, and one more object where it is new (R52). -/
def checkRoom (o : Obj) (new : Bool) (d : Dev) : Except Cpl Unit := do
  let (vs, ents) := d.mapUse
  need (decide (vs < 67108864 ∧ ents + o.count ≤ 1342177280)) (errS .noResource)
  if new then needObject d

/-- Geometry of a new object (Table 2-2, R53, R54). -/
def checkShape (e : Entry) (o : Obj) : Except Cpl Unit := do
  need (o.typ != 3 || o.fmt == 1 || o.fmt == 2) (errF 0x22)
  need (decide (o.canon ≤ 131072)) (errF 0x23)
  need (!(isMx o.fmt && o.tc == 0)) (errF 0x23 4)
  need (e.w32 0x24 != 0) (errF 0x24)
  need (e.w32 0x28 != 0) (errF 0x28)
  need (decide (o.count < 2 ^ 32)) (errF 0x24)

/-- The object an entry describes, before its version 1. -/
def newObj (x : Ctx) : Obj :=
  let e := x.e
  { tenant := x.t, typ := e.fld 0x21 0 8, num := 0, fmt := e.fld 0x22 0 8, tr := e.fld 0x23 0 3, tc := e.fld 0x23 4 3,
    rows := e.w32 0x24, cols := e.w32 0x28, half := 0, vers := [], top := 1, grants := [] }

/-- An object put into the store under the next handle of its tenant (R49). -/
def addObj (o : Obj) (d : Dev) : Nat × Dev :=
  let (n, d) := takeNum o.tenant d
  let h := mkHandle o.tenant o.typ n
  (h, d.updObjs fun s => { s with objs := Map.set h { o with num := n } s.objs })

/-- Results of `OBJ_CREATE`. -/
def createRes (h v : Nat) : Bytes := leBytes 8 h ++ leBytes 4 v

/-- NEW_OBJECT. -/
def createObject (x : Ctx) (d : Dev) : Except Cpl Res := do
  checkQos x d
  let o := newObj x
  checkShape x.e o
  let halves ← halvesFor x.half (x.e.fld 0x2D 0 8) d
  checkRoom o true d
  let staged := x.e.fld 0x2C 0 8 == 0
  let near := if staged then o.nearWorst else 0
  let far := d.farCost o.worst
  checkQuota x.t 0 near far d
  let half ← chooseHalf near far d halves
  let v := Version.fresh staged 0 (d.pickStack half []) near far
  let (h, d) := addObj { o with half := half, vers := [(1, v)] } d
  okRes (createRes h 1) d

/-- The base version a NEW_VERSION names (R67, R71). -/
def checkBase (o : Obj) (b : Nat) : Except Cpl Unit :=
  if b = 0 then .ok ()
  else
    match o.vers.get? b with
    | none => .error (errF 0x30)
    | some v =>
      if v.st == .released then .error (errF 0x30)
      else need (v.st == .sealed) (errS (if v.damaged then .objectDamaged else .notSealed))

/-- NEW_VERSION. -/
def createVersion (x : Ctx) (d : Dev) : Except Cpl Res := do
  let o ← ownObj x 0 d
  need o.openVer.isNone (errC 0xFF true)
  need (decide (o.top < 0xFFFFFFFF)) (errS .versionLimit)
  checkBase o (x.e.w32 0x30)
  checkRoom o false d
  let staged := x.e.fld 0x2C 0 8 == 0
  let near := if staged then o.nearWorst else 0
  let far := d.farCost o.worst
  checkQuota x.t 0 near far d
  let half ← chooseHalf near far d [o.half]
  let v := Version.fresh staged (x.e.w32 0x30) (d.pickStack half []) near far
  let n := o.top + 1
  okRes (createRes x.e.ha n) (d.updObj x.e.ha fun o => { o with vers := Map.set n v o.vers, top := n })

/-- `OBJ_CREATE`. -/
def bodyObjCreate : Body := plain fun x d => if x.e.b20 = 0 then createObject x d else createVersion x d

/-- Tiles of a version copied into new stored forms of another object; none where a half has no room. -/
def copyTiles (h : Nat) (o : Obj) : List (Nat × TileEnt) → Map TileEnt → List (Nat × Nat) → Dev →
    Option (Map TileEnt × List (Nat × Nat) × Dev)
  | [], m, ps, d => some (m, ps, d)
  | (i, t) :: l, m, ps, d =>
    match d.store h i o t.data false with
    | none => none
    | some (sid, at', d) => copyTiles h o l (Map.set i { t with sid := sid } m) (ps ++ at') d

/-- Stripes marked as written with their parity. -/
def markWritten (l : List (Nat × Nat)) (d : Dev) : Dev :=
  l.foldl (fun d p => d.updGroup p.1 fun g => { g with
    stripes := Map.upd p.2 (fun s => { s with written := true }) g.stripes }) d

/-- `OBJ_CLONE`: its whole copy is made in one step (log entry 15). -/
def bodyObjClone : Body := plain fun x d => do
  let e := x.e
  let o ← objOf x (e.w32 0x20) d
  let v ← resolveSealed o x.t (e.w32 0x20) 0x20
  let src ← match o.vers.get? v with
    | some s => .ok s
    | none => .error (errF 0x20)
  checkKey o d
  let halves ← halvesFor x.half (e.fld 0x25 0 8) d
  need (!(d.anyDamaged e.ha v)) (errS .objectDamaged)
  checkRoom o true d
  let far := d.farCost ((src.tiles.map fun p => d.sectors p.2.sid).sum)
  checkQuota x.t 0 0 far d
  let half ← chooseHalf 0 far d halves
  let copy : Obj := { o with tenant := x.t, half := half, vers := [], top := 1, grants := [] }
  let (h, d1) := addObj copy d
  match copyTiles h copy src.tiles [] [] d1 with
  | none => .error { Cpl.of .capacityShort with ext := some (.capacity half 0 0 far) }
  | some (tiles, ps, d2) =>
    let ver : Version := { src with
      staged := true, base := 0, tiles := tiles, added := src.tiles.length,
      stored := (tiles.map fun p => match d2.objs.stored.get? p.2.sid with
        | some s => s.len
        | none => 0).sum
      mapped := 0, sealCmd := none, sealRed := false }
    okRes (leBytes 8 h) (markWritten ps (closeStripes ps (d2.updObj h fun o => { o with vers := [(1, ver)] })))

/-! ## `OBJ_WRITE` (R62, R66, R68, R75) -/

/-- What `OBJ_WRITE` checks before it reads a tile. -/
def writeChecks (x : Ctx) (d : Dev) : Except Cpl (Obj × Nat) := do
  let e := x.e
  let o ← ownObj x (e.w32 0x20) d
  need (e.w32 0x2C == o.canonLayout) (errF 0x2C)
  let v ← resolveRead o x.t (e.w32 0x20) 0x20
  checkRange o (e.w32 0x24) (e.w16 0x28) 0x24
  let w ← match o.vers.get? v with
    | some w => .ok w
    | none => .error (errF 0x20)
  checkKey o d
  need (w.st == .opened) (errS .alreadySealed)
  need (!w.damaged) (errS .objectDamaged)
  need (!(d.runOutput e.ha v)) (errC 0xFF true)
  need (!(d.reds.reds.any fun p => p.2.ended.isNone && p.2.obj == e.ha && p.2.ver == v &&
    overlaps p.2.first p.2.count (e.w32 0x24) (e.w16 0x28))) (errC 4 true)
  need (w.external.isSome) (errS .noResource)
  .ok (o, v)

/-- One tile of an `OBJ_WRITE` read: kept until the command completes, or put to be coded; what refuses it (R68). -/
def takeCmdTile (x : Ctx) (o : Obj) (v k : Nat) (b : Bytes) (d : Dev) : Except Cpl Dev := do
  let h := x.e.ha
  let tile := x.e.w32 0x24 + k
  let b := o.mask tile b
  match refuseWrite h v tile d with
  | some st => .error (errS st)
  | none =>
    need (o.scalesOk b) (errD (k * o.canon))
    match (d.ver? h v).bind Version.external with
    | none => .error (errS .noResource)
    | some (prod, w) =>
      let d := d.updVer h v fun _ => w
      if w.staged then
        let e : TileEnt := { data := b, sid := 0, dmg := false, prod := prod }
        .ok (d.updCmd x.num fun c => { c with tiles := c.tiles ++ [(tile, e)] })
      else .ok (addCoding h v tile prod b (.cmd x.num) d)

/-- `OBJ_WRITE`: tile `k` is read before tile `k + 1`. Its tiles are taken as it completes, and the results count them (R68,
R75). -/
def bodyObjWrite : Body := fun x got fail d =>
  let stop (c : Cpl) (d : Dev) : Except Cpl Res :=
    if d.cmdTiles x.num then .ok (.wait (d.updCmd x.num fun k => { k with ends := some c }))
    else
      let (n, d) := takeTiles x.num d
      .ok (.done (c.took n) d)
  match fail with
  | some s => stop (errS s) d
  | none =>
    match got.getLast? with
    | none => do
      let (o, _) ← writeChecks x d
      .ok (.read 0 o.canon d)
    | some b =>
      match writeChecks x d with
      | .error c => stop c d
      | .ok (o, v) =>
        match takeCmdTile x o v (got.length - 1) b d with
        | .error c => stop c d
        | .ok d =>
          if got.length < x.e.w16 0x28 then .ok (.read (got.length * o.canon) o.canon d)
          else stop (Cpl.ok []) d

/-! ## `OBJ_READ` (R61, R73, R75, R139) -/

/-- An `OBJ_READ` whose tiles are all read: they are converted, counted, written and reported (R75, R139). The tiles
wait in canonical form in `ends`, whose results hold the resolved version. -/
def readCpl (x : Ctx) (o : Obj) (c : Cpl) (d : Dev) : Cpl × Dev :=
  let conv := c.data.map fun w => (w.addr, Machine.deliver o.fmt o.th o.tw (x.e.w32 0x2C) w.data)
  let sat := (conv.map fun p => p.2.2.1).sum
  let nan := (conv.map fun p => p.2.2.2).sum
  let res := leBytes 4 c.data.length ++ leBytes 4 c.results.toNat ++ leBytes 4 sat ++ leBytes 4 nan
  ({ c with results := BitVec.ofNat 128 (leNat res), data := conv.map fun p => ⟨p.1, p.2.1⟩ },
    bumpTenant x.t 13 sat (bumpTenant x.t 14 nan d))

/-- The tiles of an `OBJ_READ` asked for in index order: the first that is damaged ends the list (R75). -/
def askRange (q due half h v first size addr : Nat) : Nat → Nat → List Wr → List (Nat × Nat) → Dev →
    Bool × List Wr × List (Nat × Nat) × Dev
  | 0, _, ws, js, d => (true, ws, js, d)
  | n + 1, k, ws, js, d =>
    match askTile q due half h v (first + k) d with
    | (.damaged, d) => (false, ws, js, d)
    | (.ready b, d) => askRange q due half h v first size addr n (k + 1) (ws ++ [⟨addr + k * size, b⟩]) js d
    | (.job j, d) =>
      let b := (d.tileAt h v (first + k)).1
      askRange q due half h v first size addr n (k + 1) (ws ++ [⟨addr + k * size, b⟩]) (js ++ [(k, j)]) d

/-- `OBJ_READ`. -/
def bodyObjRead : Body := plain fun x d => do
  let e := x.e
  let o ← objOf x (e.w32 0x20) d
  need (layoutOk (e.w32 0x2C) o.th o.tw) (errF 0x2C)
  let v ← resolveRead o x.t (e.w32 0x20) 0x20
  checkRange o (e.w32 0x24) (e.w16 0x28) 0x24
  checkKey o d
  need (!(d.verDamaged e.ha v)) (errS .objectDamaged)
  let size := delivSize (e.w32 0x2C) o.th o.tw
  let (whole, ws, js, d) :=
    askRange e.qos (d.deadlineOf e.qos) x.half e.ha v (e.w32 0x24) size e.addr (e.w16 0x28) 0 [] [] d
  let st : Status := if whole then .success else .objectDamaged
  let c : Cpl := { Cpl.of st with results := BitVec.ofNat 128 v, data := ws }
  if js.isEmpty then
    let (c, d) := readCpl x o c d
    .ok (.done c d)
  else .ok (.wait (d.updCmd x.num fun k => { k with ends := some c, jobs := js }))

/-- An `OBJ_READ` that waits for no tile any more completes. -/
def endReadCmd (n : Nat) (d : Dev) : Dev :=
  match d.cmd? n with
  | none => d
  | some k =>
    match k.ends, d.obj? k.entry.ha with
    | some c, some o =>
      if k.jobs.isEmpty then
        let (c, d) := readCpl ⟨n, k⟩ o c d
        finishCmd n c d
      else d
    | some c, none => if k.jobs.isEmpty then finishCmd n { c with results := 0, data := [] } d else d
    | none, _ => d

/-- A read job has been expanded: the `OBJ_READ`s that waited for it go on. -/
def cmdsGot (job : Nat) (d : Dev) : Dev :=
  d.q.cmds.foldl (fun d p =>
    if p.2.entry.op = 0x12 ∧ p.2.jobs.any (·.2 == job) then
      endReadCmd p.1 (d.updCmd p.1 fun k => { k with jobs := k.jobs.filter (·.2 != job) })
    else d) d

/-- A read job has failed: the `OBJ_READ`s that waited for it deliver what lies before its tile (R75, R195). -/
def cmdsLost (job : Nat) (st : Status) (err : Nat) (d : Dev) : Dev :=
  d.q.cmds.foldl (fun d p =>
    if p.2.entry.op ≠ 0x12 then d
    else
      match p.2.jobs.find? (·.2 == job) with
      | none => d
      | some (k, _) =>
        endReadCmd p.1 (d.updCmd p.1 fun c => { c with
          jobs := c.jobs.filter (·.1 < k)
          ends := c.ends.map fun z => { z with status := st, errId := err, data := z.data.take k } })) d

/-! ## `OBJ_SEAL`, `OBJ_RELEASE` (R70, R71, R74, R76, R77) -/

/-- `OBJ_SEAL`: it waits until the version is sealed (SEAL_COMPLETE). -/
def bodyObjSeal : Body := plain fun x d => do
  let e := x.e
  let o ← ownObj x (e.w32 0x20) d
  let v ← resolveRead o x.t (e.w32 0x20) 0x20
  checkKey o d
  let d ← trySeal e.ha v (some x.num) false d
  .ok (.wait d)

/-- The completion of an `OBJ_SEAL` whose version is sealed (R76). -/
def sealCpl (k : Cmd) (v : Version) : Cpl :=
  { Cpl.ok (leBytes 8 v.stored ++ leBytes 4 v.added) with
    data := if k.entry.trailer then [⟨k.entry.addr, v.content ++ v.prov⟩] else [] }

/-- What keeps a version from being released now (Table 2-5, R219, R243). -/
def Dev.releaseStop (d : Dev) (h v : Nat) (x : Version) : Option Cpl :=
  if x.st == .sealing then some (errC 0xFF true)
  else if x.mapped ≠ 0 then some (errS .busyMapped)
  else if d.redTarget h v then some (errC 4 true)
  else if d.runOutput h v then some (errC 0xFF true)
  else none

/-- A version released: an open one is discarded, its writes in flight refused (R71); a sealed one takes no new reference,
its claims end, and it ceases to exist once nothing that took it earlier still uses it (R70, R71, R163). -/
def releaseVersion (h v : Nat) (d : Dev) : Dev :=
  match d.ver? h v with
  | none => d
  | some x =>
    if x.st == .opened then
      let d := (refuseInFlight h v .invalidField d).updVer h v fun x => { x with
        st := .released, nearRes := 0, farRes := 0 }
      if d.referenced h v then d else dropVersion h v d
    else
      let d := d.updVer h v fun x => { x with st := .released }
      let d := endClaims (fun c => c.obj == h && c.ver == v) (errF 0x20) d
      let d := d.updTiers fun t => { t with pins := t.pins.filter fun p => !(p.obj == h && p.ver == v) }
      let d := evalScheds (releaseCopies d)
      if d.referenced h v then d else dropVersion h v d

/-- The versions of an object that can be released, ascending. -/
def Obj.releasable (o : Obj) : List (Nat × Version) := o.vers.filter fun p => p.2.st != .released

/-- `OBJ_RELEASE`. -/
def bodyObjRelease : Body := plain fun x d => do
  let e := x.e
  let o ← ownObj x (e.w32 0x20) d
  if e.fld 0x24 0 1 = 1 then
    need (e.w32 0x20 == 0) (errF 0x20)
    match o.releasable.findSome? fun p => d.releaseStop e.ha p.1 p.2 with
    | some c => .error c
    | none => okRes [] (o.releasable.foldl (fun d p => releaseVersion e.ha p.1 d) d)
  else
    let v ← resolveRead o x.t (e.w32 0x20) 0x20
    match (o.vers.get? v).bind (d.releaseStop e.ha v) with
    | some c => .error c
    | none => okRes [] (releaseVersion e.ha v d)

/-! ## `OBJ_QUERY` (R79, R128, R339) -/

/-- Code of a version's state (Table 2-9). -/
def VState.code : VState → Nat
  | .opened => 1 | .sealing => 2 | .sealed => 3 | .released => 4

/-- The object record. While a version is sealing its number stands in `open_version`: Table 2-9 says only that the field
is 0 where none is open (DESIGN CHOICE, log entry 76). -/
def objRecord (x : Ctx) (h : Nat) (o : Obj) (d : Dev) : Bytes :=
  let r := o.reserved
  leBytes 8 h ++ leBytes 4 (o.fmt + 2 ^ 16 * o.tr + 2 ^ 20 * o.tc + 2 ^ 24 * o.half) ++ leBytes 4 o.rows ++
    leBytes 4 o.cols ++ leBytes 4 ((o.latest x.t).getD 0) ++
    leBytes 4 (if o.tenant = x.t then o.openVer.getD 0 else 0) ++ leBytes 4 o.releasable.length ++
    leBytes 8 (d.farCharge o) ++ leBytes 8 r.2 ++ leBytes 8 r.1 ++ zeros 8

/-- The version record. -/
def verRecord (v : Version) : Bytes :=
  let digest (b : Bytes) : Bytes := if b.isEmpty then zeros 64 else b
  leBytes 1 (v.st.code + 128 * b2n v.damaged) ++ leBytes 1 (b2n (!v.staged) + 2 * b2n v.nd) ++ zeros 2 ++
    leBytes 4 v.base ++ leBytes 4 (if v.st == .sealed then v.added else v.tiles.length) ++ zeros 4 ++
    leBytes 8 v.stored ++ zeros 0x28 ++ digest v.content ++ digest v.prov

/-- As many whole producer entries as fit in a buffer. -/
def fitEntries : Nat → List Bytes → Bytes
  | _, [] => []
  | n, b :: l => if b.length ≤ n then b ++ fitEntries (n - b.length) l else []

/-- The provenance record: what is written, the full length. -/
def provRecord (x : Ctx) (v : Version) (buf : Nat) : Bytes × Nat :=
  let es := v.prods.map fun p => p.entry x.t
  let n := (es.map List.length).sum
  let head := leBytes 1 1 ++ leBytes 1 (b2n v.nd) ++ leBytes 1 es.length ++ zeros 1 ++ leBytes 4 n ++ zeros 56 ++
    v.content ++ v.prov
  (head ++ fitEntries (buf - 192) es, 192 + n)

/-- A version looked up by number. -/
def Obj.verOr (o : Obj) (v off : Nat) : Except Cpl Version :=
  match o.vers.get? v with
  | some x => .ok x
  | none => .error (errF off)

/-- `OBJ_QUERY`. The tile index that selector 0x02 takes too, whose use R79 does not say, is accepted at any value and
ignored (DESIGN CHOICE, log entry 76). -/
def bodyObjQuery : Body := plain fun x d => do
  let e := x.e
  let sel := e.b20
  let o ← objOf x (if sel = 2 ∨ sel = 4 then e.w32 0x24 else 0) d
  if sel = 1 then okData x [] (objRecord x e.ha o d) d
  else if sel = 2 then
    let v ← resolveRead o x.t (e.w32 0x24) 0x24
    let w ← o.verOr v 0x24
    okData x [] (verRecord w) d
  else if sel = 3 then
    match o.latest x.t with
    | none => .error (errS .notSealed)
    | some v =>
      need (decide (e.w32 0x28 < o.count)) (errF 0x28)
      okData x [] (codeTile o.fmt o.tr o.tc (d.tileAt e.ha v (e.w32 0x28)).1).1 d
  else
    let v ← resolveSealed o x.t (e.w32 0x24) 0x24
    let w ← o.verOr v 0x24
    need (decide (192 ≤ e.w32 0x28)) (errF 0x28)
    let (b, n) := provRecord x w (e.w32 0x28)
    okData x (leBytes 4 n ++ leBytes 4 w.prods.length) b d

/-! ## `OBJ_GRANT` (R81 to R83) -/

/-- Grants of all objects. -/
def Dev.grantCount (d : Dev) : Nat := (d.objs.objs.map fun p => p.2.grants.length).sum

/-- The grantee has lost versions: its claims on them go, its streams and runs that read them end (R83). A host-window
mapping of the grantee stays, since R83's steps list none, but its reads are poison from then on, since no tenant reads
another's object through a host window except by a grant (`windowRead`; DESIGN CHOICE, log entry 77). -/
def revoked (h g : Nat) (lost : List Nat) (d : Dev) : Dev :=
  let d := endClaims (fun c => c.tenant == g && c.obj == h && lost.contains c.ver) (errS .revoked) d
  let d := haltStreams (fun _ s => s.tenant == g && s.obj == h && lost.contains s.ver) .revoked d
  let d := endRuns (fun _ r => r.tenant == g &&
    r.args.any fun a => a.role == 1 && a.obj == h && lost.contains a.ver) .revoked 0 d
  evalScheds (sweepJobs d)

/-- `OBJ_GRANT`. A GRANT already in force for that grantee and version completes with `SUCCESS` and adds no second one: R82
is silent on it (DESIGN CHOICE, log entry 76). -/
def bodyObjGrant : Body := plain fun x d => do
  let e := x.e
  let v := e.w32 0x24
  let g := e.fld 0x22 0 10
  let o ← ownObj x v d
  need (g != o.tenant) (errF 0x22)
  need (d.defined g) (errF 0x22)
  let has := o.grants.any fun y => y.grantee == g && y.version == v
  if e.b20 = 0 then
    if v ≠ 0 then
      match o.vers.get? v with
      | none => .error (errF 0x24)
      | some w =>
        need (w.st != .released) (errF 0x24)
        need (w.st == .sealed) (errS (if w.damaged then .objectDamaged else .notSealed))
    if has then okRes [] d
    else
      need (decide (o.grants.length < 64 ∧ d.grantCount < 65536)) (errS .noResource)
      okRes [] (d.updObj e.ha fun o => { o with grants := o.grants ++ [⟨g, v⟩] })
  else
    need has (errF 0x24)
    let o' : Obj := { o with grants := o.grants.filter fun y => !(y.grantee == g && y.version == v) }
    let lost := (o.vers.filter fun p => o.readableBy g p.1 && !o'.readableBy g p.1).map (·.1)
    okRes [] (revoked e.ha g lost (d.updObj e.ha fun _ => o'))

/-! ## Meanings -/

/-- OBJ_CREATE. -/
def execObjCreate (c : Nat) (s : State) : Host.Outcome State Fault Refusal := onDev (startCmd 0x10 bodyObjCreate c) s
/-- OBJ_WRITE. -/
def execObjWrite (c : Nat) (s : State) : Host.Outcome State Fault Refusal := onDev (startCmd 0x11 bodyObjWrite c) s
/-- OBJ_READ. -/
def execObjRead (c : Nat) (s : State) : Host.Outcome State Fault Refusal := onDev (startCmd 0x12 bodyObjRead c) s
/-- OBJ_SEAL. -/
def execObjSeal (c : Nat) (s : State) : Host.Outcome State Fault Refusal := onDev (startCmd 0x13 bodyObjSeal c) s
/-- OBJ_RELEASE. -/
def execObjRelease (c : Nat) (s : State) : Host.Outcome State Fault Refusal :=
  onDev (startCmd 0x14 bodyObjRelease c) s
/-- OBJ_CLONE. -/
def execObjClone (c : Nat) (s : State) : Host.Outcome State Fault Refusal := onDev (startCmd 0x15 bodyObjClone c) s
/-- OBJ_QUERY. -/
def execObjQuery (c : Nat) (s : State) : Host.Outcome State Fault Refusal := onDev (startCmd 0x16 bodyObjQuery c) s
/-- OBJ_GRANT. -/
def execObjGrant (c : Nat) (s : State) : Host.Outcome State Fault Refusal := onDev (startCmd 0x1A bodyObjGrant c) s

end Sys2Proof.Machine
end

