-- ==== Sys2Proof/Machine/Place.lean ====
section
/-! DEFINITION. The DPA space in bring-up and recovery modes: raw access, pins, and the meaning of `PLACE`
(R144 to R148, Table 5-2). -/

namespace Sys2Proof.Machine

/-! ## The DPA space (Table 5-2, R145, R378) -/

/-- Bytes of the far tier's DPA space. -/
def Dev.farBytes (d : Dev) : Nat := ((List.range 4).map fun g => 8 * (d.group g).modGib * gib).sum

/-- Whether memory lies behind every byte of a range. -/
def Dev.hasMem (d : Dev) (a n : Nat) : Bool :=
  decide (a + n ≤ 6 * 2 ^ 36) || (decide (2 ^ 44 ≤ a) && decide (a + n ≤ 2 ^ 44 + d.farBytes))

/-- Whether a near-tier DPA lies in the metadata reserve of its stack. -/
def inReserve (a : Nat) : Bool := decide (a < 6 * 2 ^ 36) && decide (60 * gib ≤ a % 2 ^ 36)

/-- Group and stripe of a far-tier DPA (R150, R378). -/
def Dev.stripeOf (d : Dev) (a : Nat) : Nat × Nat :=
  let size (g : Nat) : Nat := 8 * (d.group g).modGib * gib
  let base (g : Nat) : Nat := ((List.range g).map size).sum
  let f := a - 2 ^ 44
  let g := (((List.range 4).filter fun g => decide (base g ≤ f) && size g != 0).getLast?).getD 0
  (g, (f - base g) / 32768)

/-- Whether a DPA lies in the ring of a near-tier queue pair. -/
def Dev.inRing (d : Dev) (a : Nat) : Bool :=
  d.q.qps.any fun p => match p.2.loc with
    | .near _ => decide (Config.ringBase p.1 ≤ a ∧ a < Config.ringBase p.1 + ringBytes p.2.log2Depth)
    | .host _ _ => false

/-- Bytes allocated on a near stack to what has no place the spec gives: open staged versions, near copies, extents, kernel
copies and saved state of its half. -/
def Dev.stackData (d : Dev) (s : Nat) : Nat :=
  d.nearUsed (stackHalf s)

/-- Whether a near-tier grain holds object data: which grains of a stack do is not laid out (log entry 5). -/
def Dev.nearHolds (d : Dev) (a : Nat) : Bool :=
  decide (a < 6 * 2 ^ 36) && d.stackData (a / 2 ^ 36) != 0 &&
    Config.nearTaken (a / 2 ^ 36) (d.stackData (a / 2 ^ 36)) (a % 2 ^ 36 / 4096)

/-- Data grain of a stripe that its grain `k` is; none for the parity grain (R150). -/
def Dev.dataGrain (d : Dev) (stripe k : Nat) : Option Nat :=
  (List.range d.dpar).find? fun i => d.grainAt stripe i == k

/-- A far-tier DPA's group, stripe, and the grain of the stripe. -/
def Dev.grainIn (d : Dev) (a : Nat) : Nat × Nat × Nat := let p := d.stripeOf a; (p.1, p.2, a / 4096 % 8)

/-- Whether a far-tier grain holds object data, live or dead, or the parity of a stripe in use (R147, R153). -/
def Dev.holdsData (d : Dev) (a : Nat) : Bool :=
  let (g, n, k) := d.grainIn a
  decide (2 ^ 44 ≤ a) && match (d.group g).stripes.get? n with
    | none => false
    | some s => match d.dataGrain n k with
      | some i => decide (16 * i < s.used)
      | none => true

/-- Whether a raw write may not touch a byte (R147). -/
def Dev.rawBarred (d : Dev) (a : Nat) : Bool := inReserve a || d.inRing a || d.holdsData a || d.nearHolds a

/-- Grain of a DPA. -/
def grainOf (a : Nat) : Nat := a / 4096

/-! ## What lies at a DPA (R59, R147, R150, R151, R153)

A byte is none where nothing fixes it: what the metadata reserve, the rings and the near tier hold at an address, the bytes
of an encrypted tile, the rest of a tile's last sector (log entry 5). -/

/-- 256 bytes of which the first are known. -/
def knownFirst (b : Bytes) : List (Option Byte) :=
  ((b.take 256).map some ++ List.replicate 256 none).take 256

/-- Sector `i` of pieces that follow one another in `b`, if one of them is it. -/
def sectorIn (i : Nat) : Bytes → List (Nat × Nat) → Option (List (Option Byte))
  | _, [] => none
  | b, p :: l =>
    if p.1 ≤ i ∧ i < p.1 + p.2 then some (knownFirst (b.drop (256 * (i - p.1)))) else sectorIn i (b.drop (256 * p.2)) l

/-- Data sector `i` of a stripe: a live tile's, a dead one's, or the zeros it was filled with. -/
def Dev.dataSector (d : Dev) (g n i : Nat) (s : Stripe) : List (Option Byte) :=
  let live := d.objs.stored.findSome? fun p =>
    if p.2.group = g then
      -- the pieces in other stripes only advance through the tile's bytes
      sectorIn i (d.plainBytes p.2) (p.2.places.map fun q => if q.1 = n then q.2 else (2 ^ 32, q.2.2))
    else none
  let dead := s.dead.findSome? fun q => sectorIn i q.bytes [(q.off, q.count)]
  (live.or dead).getD (if i < s.used then knownFirst [] else List.replicate 256 (some 0))

/-- Two sectors XORed byte by byte. -/
def xorSector (a b : List (Option Byte)) : List (Option Byte) :=
  (a.zip b).map fun p => p.1.bind fun x => p.2.map fun y => x ^^^ y

/-- The sector of a far-tier DPA that a written stripe holds: none where the grain's valid bit is 0 there. -/
def Dev.farSector (d : Dev) (a : Nat) : Option (List (Option Byte)) :=
  let (g, n, k) := d.grainIn a
  let j := a / 256 % 16
  match (d.group g).stripes.get? n with
  | none => none
  | some s =>
    if !s.written then none
    else match d.dataGrain n k with
      | some i => if 16 * i < s.used then some (d.dataSector g n (16 * i + j) s) else none
      | none =>
        if s.unknown then some (knownFirst [])
        else some ((List.range d.dpar).foldl (fun x i => xorSector x (d.dataSector g n (16 * i + j) s))
          (List.replicate 256 (some 0)))

/-- The 256 bytes of a sector of the DPA space. A grain whose valid bit is 0 reads as zeros (R153). -/
def Dev.dpaSector (d : Dev) (a : Nat) : List (Option Byte) :=
  let raw : List (Option Byte) := (fromTo a 256).map fun k =>
    some (if d.objs.rawGr.contains (grainOf k) then d.objs.raw.getD k 0 else 0)
  if 2 ^ 44 ≤ a then (d.farSector a).getD raw
  else if (fromTo a 256).any d.rawBarred then knownFirst []
  else raw

/-- Bytes read, each that nothing fixes a free one. -/
def fillFree : List (Option Byte) → Dev → Bytes × Dev
  | [], d => ([], d)
  | some b :: l, d =>
    let (x, d) := fillFree l d
    (b :: x, d)
  | none :: l, d =>
    let (v, d) := draw d
    let (x, d) := fillFree l d
    (BitVec.ofNat 8 v.toNat :: x, d)

/-- A raw read (R147): `n` bytes at `a`. -/
def rawRead (a n : Nat) (d : Dev) : Bytes × Dev :=
  let first := a / 256
  let all := (fromTo first ((a + n + 255) / 256 - first)).flatMap fun s => d.dpaSector (256 * s)
  fillFree ((all.drop (a % 256)).take n) d

/-- A byte put into a sparse store whose unlisted bytes are 0. -/
def putByte (k : Nat) (b : Byte) (m : Map Byte) : Map Byte := if b = 0 then Map.del k m else Map.set k b m

/-- Bytes put into a sparse store. -/
def putBytes : Nat → Bytes → Map Byte → Map Byte
  | _, [], m => m
  | a, b :: l, m => putBytes (a + 1) l (putByte a b m)

/-- Bytes of a sparse store. -/
def getBytes (m : Map Byte) (a n : Nat) : Bytes := (fromTo a n).map fun k => m.getD k 0

/-- A raw write: the bytes, and the valid bits of the grains it touches (R147). -/
def rawWrite (a : Nat) (b : Bytes) (d : Dev) : Dev :=
  d.updObjs fun s => { s with
    raw := putBytes a b s.raw
    rawGr := (List.range b.length).foldl (fun l k => insertNat (grainOf (a + k)) l) s.rawGr }

/-- Entering service mode clears the valid bits of every grain a raw write has set (R148). -/
def clearRaw (d : Dev) : Dev := d.updObjs fun s => { s with raw := [], rawGr := [] }

/-! ## Pins (R147) -/

/-- The sets a PIN names on the home half: stacks or groups; empty for any. -/
def pinSet (e : Entry) (near : Bool) (half : Nat) : Except Cpl (List Nat) :=
  let l := setBits 6 (e.fld 0x30 0 6)
  let ok := l.all fun k => if near then stackHalf k == half else decide (k < 4) && groupHalf k == half
  if ok then .ok l else .error (errF 0x30)

/-- A stored tile moved into a group of a set, if it lies in none of them; none where the group has no room. -/
def moveTile (half sid : Nat) (set : List Nat) (fixed : Bool) (d : Dev) : Option Dev :=
  match d.objs.stored.get? sid with
  | none => some d
  | some s =>
    let fix (d : Dev) : Dev := d.updStored sid fun s => { s with fixed := s.fixed || fixed }
    if set.isEmpty || set.contains s.group then some (fix d)
    else (d.pickGroup half set).bind fun g => (relocate g sid d).map fix

/-- PIN. -/
def pinTiles (x : Ctx) (o : Obj) (v : Nat) (d : Dev) : Except Cpl Res := do
  let e := x.e
  let first := e.w32 0x28
  let n := e.w32 0x2C
  let near := e.fld 0x21 0 1 == 0
  let fixed := e.fld 0x21 1 1 == 1
  let set ← pinSet e near o.half
  let sids := (fromTo first n).map (d.sidOf e.ha v)
  if near then
    let charge := (sids.map d.copySize).sum
    checkQuota o.tenant 0 charge 0 d
    let _ ← chooseHalf (d.absentBytes sids) 0 d [o.half]
    let p : Pin :=
      { obj := e.ha, ver := v, first := first, count := n, near := true, fixed := fixed, qos := e.qos, set := set
        charge := charge }
    okRes [] (holdRange e.qos e.ha v first n (d.pickStack o.half set)
      (d.updTiers fun t => { t with pins := t.pins ++ [p] }))
  else
    let p : Pin :=
      { obj := e.ha, ver := v, first := first, count := n, near := false, fixed := fixed, qos := e.qos, set := set
        charge := 0 }
    match sids.foldl (fun (a : Option Dev) s => a.bind (moveTile o.half s set fixed)) (some d) with
    | none => .error { Cpl.of .capacityShort with
        ext := some (.capacity o.half 0 0 (d.farCost ((sids.map d.sectors).sum))) }
    | some d => okRes [] (d.updTiers fun t => { t with pins := t.pins ++ [p] })

/-- What is left of a pin once a range is unpinned: the tiles before and after it. -/
def Dev.trimPin (d : Dev) (first n : Nat) (p : Pin) : List Pin :=
  let part (a b : Nat) : List Pin :=
    if a < b then
      [{ p with
        first := a, count := b - a
        charge := if p.near then ((fromTo a (b - a)).map fun i => d.copySize (d.sidOf p.obj p.ver i)).sum else 0 }]
    else []
  let last := p.first + p.count
  if overlaps p.first p.count first n then part p.first first ++ part (first + n) last else [p]

/-- UNPIN: a pin must cover the range; the pins of its tiles go, and a tile that no fixed pin holds may move again. -/
def unpinTiles (e : Entry) (v : Nat) (d : Dev) : Except Cpl Res :=
  let first := e.w32 0x28
  let n := e.w32 0x2C
  let mine (p : Pin) : Bool := p.obj == e.ha && p.ver == v
  if !(d.tiers.pins.any fun p => mine p && decide (p.first ≤ first ∧ first + n ≤ p.first + p.count)) then
    .error (errF 0x28)
  else
    let d := d.updTiers fun t => { t with
      pins := t.pins.flatMap fun p => if mine p then d.trimPin first n p else [p] }
    let held (i : Nat) : Bool := d.tiers.pins.any fun p =>
      mine p && p.fixed && decide (p.first ≤ i ∧ i < p.first + p.count)
    let d := (fromTo first n).foldl (fun d i =>
      if held i then d else d.updStored (d.sidOf e.ha v i) fun s => { s with fixed := false }) d
    okRes [] (evalScheds (releaseCopies d))

/-! ## `PLACE` (R146, R147) -/

/-- The range of a raw action checked. -/
def rawRange (e : Entry) (d : Dev) : Except Cpl Unit := do
  let a := e.w64 0x30
  let n := e.w32 0x38
  need (a % 64 == 0) (errF 0x30)
  need (n % 64 == 0 && decide (n ≤ 2 ^ 24)) (errF 0x38)
  need (d.hasMem a n) (errF 0x30)

/-- `PLACE`. -/
def bodyPlace : Body := withData
  (fun x d => do
    if x.e.b20 = 3 then
      checkQos x d
      rawRange x.e d
      need (!((fromTo (x.e.w64 0x30) (x.e.w32 0x38)).any d.rawBarred)) (errS .notPermitted)
      .ok (x.e.w32 0x38)
    else .ok 0)
  (fun x b d => do
    let e := x.e
    if e.b20 ≥ 2 then
      checkQos x d
      rawRange e d
      let a := e.w64 0x30
      if e.b20 = 2 then
        let (b, d) := rawRead a (e.w32 0x38) d
        okData x [] b d
      else okRes [] (rawWrite a b d)
    else
      let o ← objOf x (e.w32 0x24) d
      let v ← resolveSealed o x.t (e.w32 0x24) 0x24
      checkRange o (e.w32 0x28) (e.w32 0x2C) 0x28
      if e.b20 = 0 then pinTiles x o v d else unpinTiles e v d)

/-- PLACE. -/
def execPlaceCmd (c : Nat) (s : State) : Host.Outcome State Fault Refusal := onDev (startCmd 0x25 bodyPlace c) s

end Sys2Proof.Machine
end

