-- ==== Sys2Proof/Machine/QosCmds.lean ====
section
/-! DEFINITION. The commands of regulation, window boundaries and gate levels (R345 to R352, R355 to R360). -/

namespace Sys2Proof.Machine

/-! ## `QOS_RESERVE` (R345 to R348) -/

/-- A reservation entry as read (Table 12-4). -/
def qEntry (b : Bytes) : QEntry :=
  { resource := fld b 0 0 8, inst := fld b 1 0 8, guar := fld b 8 0 64, eff := fld b 8 0 64, inForce := fld b 8 0 64,
    budget := 0, deficit := 0, granted := 0, lastGrant := 0 }

/-- The first byte of an entry that is wrong (step 2 of R346): `seen` are the resources named before it. -/
def badEntry (t : Nat) (seen : List (Nat × Nat)) (b : Bytes) (d : Dev) : Option Nat :=
  let res := fld b 0 0 8
  let inst := fld b 1 0 8
  let g := fld b 8 0 64
  if res > 2 then some 0
  else if !resOk res inst then some 1
  else if fld b 2 0 48 ≠ 0 then some 2
  else if g = 0 ∨ g > 2 ^ 40 then some 8
  else if seen.contains (res, inst) then some 0
  else if res = 2 ∧ !((d.port (inst % 64)).bound && (d.port (inst % 64)).tenants.contains t) then some 1
  else none

/-- The entries of a reservation, checked in order. -/
def qEntries (t : Nat) (d : Dev) : Nat → List (Nat × Nat) → List Bytes → Except Cpl (List QEntry)
  | _, _, [] => .ok []
  | i, seen, b :: l =>
    match badEntry t seen b d with
    | some k => .error (errD (16 * i + k))
    | none => do
      let rest ← qEntries t d (i + 1) ((fld b 0 0 8, fld b 1 0 8) :: seen) l
      .ok (qEntry b :: rest)

/-- Admission of one entry (R347): by how many bytes per window it falls short (R348). -/
def Dev.shortBy (d : Dev) (mine : Nat) (w : Nat) (e : QEntry) : Nat :=
  let held := d.heldRate e.resource e.inst fun r _ => r != mine
  let want := Frac.add held (e.guar, w)
  let cap := d.derated e.resource e.inst
  if Frac.le want cap then 0
  else ceilDiv ((want.1 * cap.2 - cap.1 * want.2) * w) (want.2 * cap.2)

/-- Admission of a whole reservation, whose entries that share a capacity count together: the first entry whose capacity
falls short is named (R348). -/
def Dev.admission (d : Dev) (mine w : Nat) (es : List QEntry) : Except Cpl Unit :=
  let want (e : QEntry) : Nat := ((es.filter fun x => x.on e.resource e.inst).map (·.guar)).sum
  let short (e : QEntry) : Nat := d.shortBy mine w { e with guar := want e }
  match es.find? fun e => short e != 0 with
  | none => .ok ()
  | some e => .error { Cpl.of .admitFailed with ext := some (.admission e.resource e.inst (short e)) }

/-- Whether a live context carries a label of a regulator (R359). -/
def Dev.carries (d : Dev) (r : Nat) : Bool :=
  (d.strs.strs.any fun p => p.2.qos % 1024 == r) || (d.comp.runs.any fun p => p.2.qos % 1024 == r) ||
    (d.reds.reds.any fun p => p.2.ended.isNone && p.2.qos % 1024 == r) ||
    (d.tiers.scheds.any fun p => p.2.qos % 1024 == r) || (d.q.cmds.any fun p => p.2.entry.qos % 1024 == r) ||
    (d.cxl.exts.any fun p => p.2.qos % 1024 == r) || d.objs.groups.any fun p => p.2.label.map (· % 1024) == some r

/-- Whether an index may be assigned. -/
def Dev.regFree (d : Dev) (r : Nat) : Bool :=
  r != 0 && !d.qos.regs.has r && !(d.qos.retiring.contains r && d.carries r)

/-- Regulators a tenant may hold (R346): the regulation feature, none for td0. -/
def Dev.regLimit (d : Dev) : Nat := d.feat 0x06 0 16

/-- Steps 1 and 2 of R346 that need no entry: the index of a modify. -/
def reserveTarget (x : Ctx) (d : Dev) : Except Cpl (Option Nat) := do
  let e := x.e
  let t := e.fld 0x28 0 10
  let r := e.fld 0x22 0 10
  need (x.t == 0 || t == x.t) (errS .notPermitted)
  if e.fld 0x21 0 1 = 1 then
    match d.qos.regs.get? r with
    | none => .error (errF 0x22)
    | some g =>
      need (g.tenant == t) (errS .notPermitted)
      need (d.defined t) (errF 0x28)
      need (g.cls == e.fld 0x20 0 2) (errF 0x20)
      .ok (some r)
  else
    need (d.defined t) (errF 0x28)
    need (r == 0 || d.regFree r) (errF 0x22)
    .ok none

/-- The results of a reservation: the index and the label that names it. -/
def regRes (r cls : Nat) : Bytes := leBytes 2 r ++ leBytes 2 (1024 * cls + r)

/-- A regulator assigned or modified. -/
def reserve (x : Ctx) (target : Option Nat) (es : List QEntry) (d : Dev) : Except Cpl Res := do
  let e := x.e
  let t := e.fld 0x28 0 10
  let w := e.w16 0x24
  let cls := e.fld 0x20 0 2
  match target with
  | some r =>
    d.admission r w es
    okRes (regRes r cls) (d.updReg r fun g => { g with next := some (w, es) })
  | none =>
    let want := e.fld 0x22 0 10
    match (if want = 0 then (fromTo 1 1023).find? d.regFree else some want) with
    | none => .error (errS .noResource)
    | some r =>
      need (t == 0 || decide ((d.qos.regs.vals.filter (·.tenant == t)).length < d.regLimit)) (errS .noResource)
      d.admission 1024 w es
      let g : Reg :=
        { tenant := t, cls := cls, window := w, win := d.now / w
          ents := es.map fun y => { y with budget := y.guar }, cuts := [], next := none, lastMiss := 0, lastRec := none }
      okRes (regRes r cls) (requalify (d.updQos fun q => { q with
        regs := Map.set r g q.regs, retiring := q.retiring.filter (· != r) }))

/-- `QOS_RESERVE`. -/
def bodyQosReserve : Body := withData
  (fun x d => do
    checkQos x d
    let _ ← reserveTarget x d
    need (x.e.fld 0x20 0 2 != 0 || x.e.addr == 0) (errF 0x18)
    .ok (16 * x.e.fld 0x26 0 8))
  (fun x b d => do
    let target ← reserveTarget x d
    let es ← qEntries (x.e.fld 0x28 0 10) d 0 [] (chunks 16 (x.e.fld 0x26 0 8) b)
    reserve x target es d)

/-! ## `QOS_RELEASE` (R359) -/

/-- A regulator released: its index stays taken while a live context carries its label. -/
def releaseReg (r : Nat) (d : Dev) : Dev :=
  requalify (d.updQos fun q => { q with regs := Map.del r q.regs, retiring := insertNat r q.retiring })

/-- `QOS_RELEASE`. -/
def bodyQosRelease : Body := plain fun x d => do
  checkQos x d
  let r := x.e.w16 0x20
  match d.qos.regs.get? r with
  | none => .error (errF 0x20)
  | some g =>
    need (x.t == 0 || g.tenant == x.t) (errS .notPermitted)
    okRes [] (releaseReg r d)

/-! ## `QOS_QUERY` (R360) -/

/-- The regulator record (Tables 12-7, 12-8). -/
def regRecord (g : Reg) (d : Dev) : Bytes :=
  leBytes 1 (g.cls + 4 * b2n (g.ents.any fun e => decide (e.eff < e.guar)) +
    8 * b2n (!g.cuts.isEmpty)) ++ leBytes 1 g.ents.length ++ leBytes 2 g.tenant ++ leBytes 2 g.window ++
    zeros 2 ++ leBytes 8 (d.now / max 1 g.window) ++ leBytes 8 g.lastMiss ++ zeros 40 ++
    g.ents.flatMap fun e => leBytes 1 e.resource ++ leBytes 1 e.inst ++ zeros 6 ++ leBytes 8 e.guar ++
      leBytes 8 e.eff ++ leBytes 8 e.lastGrant

/-- The resource record (Table 12-9). -/
def resRecord (res inst : Nat) (d : Dev) : Bytes :=
  let n := (d.qos.regs.filter fun p => p.2.ents.any fun e => e.on res inst).length
  let cap := d.derated res inst
  let held := d.heldRate res inst fun _ _ => true
  leBytes 1 (b2n (d.isOver res inst)) ++ zeros 3 ++ leBytes 4 n ++ leBytes 8 (d.peak32 res inst * 2048) ++
    leBytes 8 (cap.1 * 65536 / cap.2) ++ leBytes 8 (ceilDiv (held.1 * 65536) held.2)

/-- `QOS_QUERY`. -/
def bodyQosQuery : Body := plain fun x d => do
  checkQos x d
  if x.e.b20 = 1 then
    let res := x.e.fld 0x22 0 8
    let inst := x.e.fld 0x23 0 8
    need (decide (res ≤ 2)) (errF 0x22)
    need (resOk res inst) (errF 0x23)
    okData x [] (resRecord res inst d) d
  else
    match d.qos.regs.get? (x.e.w16 0x22) with
    | some g =>
      need (x.t == 0 || g.tenant == x.t) (errS .notPermitted)
      okData x [] (regRecord g d) d
    | none => .error (if x.t = 0 then errF 0x22 else errS .notPermitted)

/-! ## Windows (R346, R349, R350, R357, R358) -/

/-- The tile's near copy that a coded read job reads, or a promotion writes. -/
def Dev.nearOf (d : Dev) (j : Job) : Option Stored :=
  if j.st = .coded then (d.objs.stored.get? j.sid).filter fun s => s.near != .absent else none

/-- Arrival ticks of the requests of a regulator that wait at a resource. -/
def Dev.arrivals (d : Dev) (r res inst : Nat) : List Nat :=
  let mine (q : Nat) : Bool := q % 1024 == r && d.label q != 0
  let home (h : Nat) : Bool := ((d.obj? h).map (·.half)).getD 0 == inst / 2
  let jobs (f : Job → Bool) : List Nat :=
    (d.strs.jobs.vals.filter fun j => mine j.qos && home j.obj && f j).map (·.since)
  if res = 2 then
    if inst < 128 then [] else ((d.port (inst % 64)).txq.filter fun m => mine m.qos).map (·.since)
  else if res = 1 then
    jobs fun j => (d.nearOf j).any fun s => if inst % 2 = 1 then s.near == .promoting else s.near != .promoting
  else if inst % 2 = 1 then
    (d.objs.codings.vals.filter fun c => mine (d.waiterLabel c.who) && home c.obj).filterMap (·.held)
  else jobs fun j => j.st == .far

/-- The end of a window of one regulator judged (R358), and its counters. A window is under a cut once its guarantee is
halved; while a cut is in force the regulator misses nothing (R357). -/
def judge (r : Nat) (g : Reg) (d : Dev) : Dev :=
  let d := bump 6 r 5 (b2n (g.cuts.any fun p => decide (p.2 ≤ 16))) (bump 6 r 0 1 d)
  if g.cls = 0 ∨ !g.cuts.isEmpty then d
  else g.ents.foldl (fun d e =>
    if e.granted < e.guar ∧ (d.arrivals r e.resource e.inst).any (· + allowance e.resource ≤ d.now)
    then missed r g e d else d) d

/-- An entry at the end of a window: what was granted is kept, an overdraft is the next window's deficit. -/
def QEntry.roll (e : QEntry) : QEntry :=
  { e with lastGrant := e.granted, granted := 0, deficit := (-e.budget).toNat }

/-- An entry at the start of a window. -/
def QEntry.refill (e : QEntry) : QEntry :=
  { e with inForce := e.eff, budget := (e.eff : Int) - e.deficit, deficit := 0 }

/-- An entry of a modify takes over what the one it replaces was granted and overdrew (R346, R350). -/
def QEntry.after (old : List QEntry) (e : QEntry) : QEntry :=
  match old.find? fun o => o.resource == e.resource && o.inst == e.inst with
  | some o => { e with lastGrant := o.lastGrant, deficit := o.deficit }
  | none => e

/-- WINDOW_BOUNDARY: a new window of a regulator has begun: a cut counts down, a modify takes effect. -/
def windowBoundary (r : Nat) (d : Dev) : Dev :=
  match d.qos.regs.get? r with
  | none => d
  | some g =>
    if d.now / max 1 g.window ≤ g.win then d
    else
      let d := judge r g d
      let d := requalify (d.updReg r fun g =>
        let old := g.ents.map QEntry.roll
        let cuts := (g.cuts.filter fun p => decide (1 < p.2)).map fun p => (p.1, p.2 - 1)
        match g.next with
        | some (w, es) => { g with window := w, ents := es.map (QEntry.after old), cuts := cuts, next := none }
        | none => { g with ents := old, cuts := cuts })
      d.updReg r fun g => { g with win := d.now / max 1 g.window, ents := g.ents.map QEntry.refill }

/-! ## Service at the tiers (R351, R352, R357) -/

/-- How a label's requests stand at a resource: none while Amber waits for its next window; 0 never gated; 1 over the floor
of Teal, or under a cut; 2 Slate, demoted Scarlet, or a regulator with no entry there (log entry 25). -/
def Dev.stand (d : Dev) (q res inst : Nat) : Option Nat :=
  match (d.qos.regs.get? (d.label q % 1024)).bind fun g =>
      (g.ents.find? fun e => e.resource == res && e.inst == inst).map fun e => (g, e) with
  | none => some 2
  | some (g, e) =>
    if e.budget > 0 then some (b2n (g.cutOn res inst != 0))
    else if g.cls = 2 then none
    else some (if g.cls = 1 then 1 else 2)

/-- Whether a label's requests are served at a resource where one of the controllers has gate levels (R351, R352). -/
def Dev.served (d : Dev) (q res inst : Nat) (ctrls : List Nat) : Bool :=
  let gate := (ctrls.map fun c => d.qos.gates.getD c 0).foldl max 0
  match d.stand q res inst with
  | none => false
  | some 0 => true
  | some 1 => decide (gate < 2)
  | some _ => decide (gate < 1)

/-- Whether a label's requests are held by a gate, its budget apart (R352). -/
def Dev.gated (d : Dev) (q res inst : Nat) (ctrls : List Nat) : Bool :=
  (d.stand q res inst).isSome && !d.served q res inst ctrls

/-- The pseudo-channels of a stack, numbered as their gates are. Near-tier data lies across them in pieces of 256 bytes
(R384): a request is held by the gate of any of its stack (log entry 25). -/
def stackGates (s : Nat) : List Nat := fromTo (32 + 64 * s) 64

/-- Key of the regulator last served at a unit of a resource, by level. -/
def turnKey (res unit level : Nat) : Nat := 1024 * res + 4 * unit + level

/-- Whether a request (its label, arrival tick and number) comes next at a unit of a resource among the others of its level:
round robin by regulator, those of one regulator in order of arrival (R352). -/
def Dev.turn (d : Dev) (res inst unit : Nat) (q since n : Nat) (others : List (Nat × Nat × Nat)) : Bool :=
  let level (q : Nat) : Option Nat := d.stand q res inst
  let last := d.qos.served.getD (turnKey res unit ((level q).getD 0)) 0
  let r := d.label q % 1024
  !(others.any fun o =>
    let m := d.label o.1 % 1024
    level o.1 == level q &&
      (if m = r then decide (o.2.1 < since ∨ (o.2.1 = since ∧ o.2.2 < n)) else roundBefore last m r))

/-- A regulator served at a unit of a resource: its bytes are granted, and the round goes on after it. -/
def serveAt (res inst unit q bytes : Nat) (d : Dev) : Dev :=
  let key := turnKey res unit ((d.stand q res inst).getD 0)
  let d := d.updQos fun x => { x with served := Map.set key (d.label q % 1024) x.served }
  grantBytes (d.label q) res inst bytes d

/-! ## Gate levels (R352) -/

/-- Gate level after a report: `r1`, `c1`, `r2`, `c2` raise and clear levels 1 and 2. -/
def gateLevel (cur level r1 c1 r2 c2 : Nat) : Nat :=
  if level ≥ r2 then 2
  else if cur = 2 ∧ level > c2 then 2
  else if cur = 0 then (if level ≥ r1 then 1 else 0)
  else if level > c1 then 1 else 0

/-- QUEUE_LEVEL_REPORT: a far channel (0 to 31), or pseudo-channel `p` of stack `s` (32 + 64 s + p), reports its
read-queue level. -/
def queueLevel (ctrl level : Nat) (d : Dev) : Dev :=
  if ctrl ≥ 32 + 384 then d
  else
    let o := if ctrl < 32 then 2 else 6
    let cur := d.qos.gates.getD ctrl 0
    let new := gateLevel cur level (d.feat 0x06 o 8) (d.feat 0x06 (o + 1) 8) (d.feat 0x06 (o + 2) 8)
      (d.feat 0x06 (o + 3) 8)
    let d := if ctrl < 32 then d.updCtrl ctrl fun c => { c with rq := level } else d
    let d := d.updQos fun q => { q with gates := if new = 0 then Map.del ctrl q.gates else Map.set ctrl new q.gates }
    let ident := if ctrl < 32 then 256 * (2 * chanHalf ctrl) else 1 + 256 * (2 * stackHalf ((ctrl - 32) / 64))
    if new > cur then trace 5 1 none ident [] d else if new < cur then trace 5 2 none ident [] d else d

/-! ## Meanings -/

/-- QOS_RESERVE. -/
def execQosReserve (c : Nat) (s : State) : Host.Outcome State Fault Refusal :=
  onDev (startCmd 0x70 bodyQosReserve c) s
/-- QOS_RELEASE. -/
def execQosRelease (c : Nat) (s : State) : Host.Outcome State Fault Refusal :=
  onDev (startCmd 0x71 bodyQosRelease c) s
/-- QOS_QUERY. -/
def execQosQuery (c : Nat) (s : State) : Host.Outcome State Fault Refusal := onDev (startCmd 0x72 bodyQosQuery c) s
/-- WINDOW_BOUNDARY. -/
def execWindowBoundary (reg : Nat) (s : State) : Host.Outcome State Fault Refusal := onDev (windowBoundary reg) s
/-- QUEUE_LEVEL_REPORT. -/
def execQueueLevelReport (ctrl level : Nat) (s : State) : Host.Outcome State Fault Refusal :=
  onDev (queueLevel ctrl level) s

end Sys2Proof.Machine
end

