-- ==== Sys2Proof/Machine/MemCtl.lean ====
section
/-! DEFINITION. The memory controllers: where a stripe's lines lie, lines issued, write drains, training results, refresh,
panic (13_memory_controllers.md). -/

namespace Sys2Proof.Machine

/-! ## Lines of a stripe (R150, R377 to R382) -/

/-- Line of a stripe, 0 to 127, that holds a data sector. -/
def Dev.lineAt (d : Dev) (stripe sector : Nat) : Nat := 16 * d.grainAt stripe (sector / 16) + sector % 16

/-- Channel and channel offset of a line of a stripe of group `g`. -/
def Dev.lineAddr (d : Dev) (g stripe line : Nat) : Nat × Nat :=
  let l := 128 * stripe + line
  if d.mem.order = 0 then (8 * g + (l % 8 + l / 16 % 8) % 8, l / 8 * 256)
  else if d.mem.order = 1 then (8 * g + l / 16 % 8, l / 128 * 4096 + l % 16 * 256)
  else
    let m := (d.group g).modGib * gib
    (8 * g + l * 256 / max 1 m, l * 256 % max 1 m)

/-- DPA of a line of a stripe. -/
def Dev.lineDpa (d : Dev) (g stripe line : Nat) : Nat :=
  2 ^ 44 + ((List.range g).map fun k => 8 * (d.group k).modGib * gib).sum + 32768 * stripe + 256 * line

/-- The lines, as stripe and line, that a stored tile takes, in log order. -/
def Dev.linesOf (d : Dev) (s : Stored) : List (Nat × Nat) :=
  s.places.flatMap fun p => (fromTo p.2.1 p.2.2).map fun k => (p.1, d.lineAt p.1 k)

/-- Lines of a stripe that are written when it closes: whole grains, zero-filled, and the parity grain (R151). -/
def Dev.linesWritten (d : Dev) (stripe : Nat) (s : Stripe) : List Nat :=
  let grains := (List.range (ceilDiv s.used 16)).map (d.grainAt stripe)
  let all := if d.mem.parity then stripe % 8 :: grains else grains
  all.flatMap fun g => fromTo (16 * g) 16

/-! ## Lines issued (R367, R369) -/

/-- The access of a line of a group's stripes for a label. -/
def Dev.lineAccess (d : Dev) (g label : Nat) (write : Bool) (p : Nat × Nat) : Access :=
  let (ch, o) := d.lineAddr g p.1 p.2
  { ctl := ch, bank := (d.bankRow ch o).1, row := (d.bankRow ch o).2, reg := d.label label % 1024, write := write }

/-- The lines that wait in a group's queues: of the reads in flight, and of the closed stripes not yet written. -/
def Dev.queuedLines (d : Dev) (g : Nat) : List (Nat × Nat) :=
  (d.strs.jobs.flatMap fun p => match d.objs.stored.get? p.2.sid with
    | some s => if p.2.st == .far && s.group == g then d.linesOf s else []
    | none => []) ++
  (d.group g).stripes.flatMap fun p =>
    if p.2.closed && !p.2.written then (d.linesWritten p.1 p.2).map fun l => (p.1, l) else []

/-- Lines of a group's stripes read or written for a label, while the others wait in the queues. -/
def issueLines (g label : Nat) (write : Bool) (ls : List (Nat × Nat)) (d : Dev) : Dev :=
  let more := (d.queuedLines g).filter fun p => !ls.contains p
  issueAll (more.map (d.lineAccess g label write)) (ls.map (d.lineAccess g label write)) d

/-- The lines read for lines of a group's stripes: a line on a channel that is retired or retrains is reconstructed from the
written lines at its position on the other channels (R150, R365, R394); none while one of those cannot be read. -/
def Dev.readLines (d : Dev) (g : Nat) (ls : List (Nat × Nat)) : Option (List (Nat × Nat)) :=
  let chan (p : Nat × Nat) : Nat := (d.lineAddr g p.1 p.2).1
  let down (p : Nat × Nat) : Bool := (d.ctrl (chan p)).retrain || (d.group g).lost.contains (chan p)
  let peers (p : Nat × Nat) : List (Nat × Nat) :=
    ((d.linesWritten p.1 ((d.group g).stripes.getD p.1 Stripe.fresh)).filter fun m => m % 16 == p.2 % 16 && m != p.2).map
      fun m => (p.1, m)
  ls.foldl (fun (a : Option (List (Nat × Nat))) p => a.bind fun l =>
    if !down p then some (l ++ [p])
    else if !d.mem.parity || (peers p).any fun q => (d.ctrl (chan q)).retrain then none
    else some (l ++ (peers p).filter fun q => !l.contains q)) (some [])

/-! ## Write drains (R368) -/

/-- Write entries a controller's queue holds. A far channel: lines of closed stripes not yet written. A stack: the sectors
of promotions that have been read, spread over its 64 pseudo-channels (R384; log entry 16). -/
def Dev.writeLevel (d : Dev) (n : Nat) : Nat :=
  if n < 32 then
    min 64 ((d.group (n / 8)).stripes.map fun p =>
      if p.2.closed && !p.2.written then
        ((d.linesWritten p.1 p.2).filter fun l => (d.lineAddr (n / 8) p.1 l).1 == n).length
      else 0).sum
  else
    min 32 (ceilDiv ((d.strs.jobs.vals.filterMap fun j =>
      (d.nearOf j).bind fun s => if s.near == .promoting && s.stack == n - 32 then some s.sectors else none)).sum 64)

/-- Whether a controller holds its writes: it is in panic, and no batch runs at the hold limit (R354). -/
def Dev.holdsWrites (d : Dev) (n : Nat) : Bool := d.qos.panic.getD n false && !d.qos.forced.getD n false

/-- A controller enters drain mode at the high watermark and leaves it at the low one (R368, Table 13-6); a drain that
begins under panic is suspended at once, and a batch at the hold limit ends at the low watermark (R354). -/
def drainCtrl (n : Nat) (d : Dev) : Dev :=
  let o := if n < 32 then 0 else 2
  let k := d.writeLevel n
  let c := d.ctrl n
  if !c.drain && decide (k ≥ d.feat 0x07 o 8) && d.feat 0x07 o 8 != 0 then
    let d := if d.holdsWrites n then d.updQos fun q => { q with drainHeld := Map.set n d.now q.drainHeld } else d
    traceCtl 4 n 0 (bumpCtl n 4 1 (d.updCtrl n fun c => { c with drain := true }))
  else if c.drain && decide (k ≤ d.feat 0x07 (o + 1) 8) then
    (d.updCtrl n fun c => { c with drain := false }).updQos fun q => { q with
      forced := Map.del n q.forced, drainHeld := Map.del n q.drainHeld }
  else d

/-- The channels of a group enter and leave drain mode. -/
def drainUpdate (g : Nat) (d : Dev) : Dev := (fromTo (8 * g) 8).foldl (fun d ch => drainCtrl ch d) d

/-! ## Training results (R362 to R366, R383) -/

/-- The longest of the passing runs at a Vref step, the one at lower delay of two equally long; (0, 0) for none. -/
def longestRun (l : List (Nat × Nat)) : Nat × Nat := l.foldl (fun a r => if a.2 < r.2 then r else a) (0, 0)

/-- The Vref step a sweep settles on, with its run: the step whose longest run is widest, the lower of two equally wide. -/
def sweepBest (s : Sweep) : Nat × Nat × Nat :=
  ((List.range s.length).zip s).foldl (fun (a : Nat × Nat × Nat) p =>
    if a.2.2 < (longestRun p.2).2 then (p.1, longestRun p.2) else a) (0, 0, 0)

/-- The width of a lane's eye, in steps of 1/64 UI. -/
def sweepWidth (s : Sweep) : Nat := (sweepBest s).2.2

/-- The setting chosen: the Vref step, and the delay at the midpoint of the run, rounded down. -/
def sweepCentre (s : Sweep) : Nat × Nat := ((sweepBest s).1, (sweepBest s).2.1 + ((sweepBest s).2.2 - 1) / 2)

/-- A byte of an eye width. -/
def eyeByte (n : Nat) : Byte := BitVec.ofNat 8 (min n 255)

/-- Whether a far channel's training passes: every lane's eyes are at least 16 steps wide, and the other steps passed. -/
def trainGood (r : TrainResult) : Bool :=
  r.ok && (List.range 20).all fun k => decide (16 ≤ sweepWidth (r.sweeps.getD k []))

/-- The eyes of a far channel's entry: read eyes of byte lanes 0 to 9, then write eyes. -/
def farEyes (r : TrainResult) : Bytes := (List.range 20).map fun k => eyeByte (sweepWidth (r.sweeps.getD k []))

/-- The eyes of a stack's entry: the narrower of the read and the write eye of channels 0 to 31. -/
def nearEyes (r : TrainResult) : Bytes :=
  (List.range 32).map fun k => eyeByte (min (sweepWidth (r.sweeps.getD k [])) (sweepWidth (r.sweeps.getD (32 + k) [])))

/-- The eyes of a controller's entry. -/
def eyesOf (n : Nat) (r : TrainResult) : Bytes := if n < 32 then farEyes r else nearEyes r

/-- Whether a controller's training passes: a stack passes where every channel works, spare lanes included. -/
def trainPasses (n : Nat) (r : TrainResult) : Bool := if n < 32 then trainGood r else r.ok

/-! ## Refresh, tracking, idle rows (R365, R369, R373) -/

/-- Number of a unit's controller. -/
def unitCtrl (u : MemUnit) : Nat :=
  match u with
  | .far ch => ch
  | .near s => 32 + s

/-- A controller that serves. -/
def Dev.serving (d : Dev) (n : Nat) : Bool := decide (n < 38) && (d.ctrl n).inServ && !(d.ctrl n).retired

/-- REFRESH_DUE: a bank's refresh is postponed while reads wait, within the standard's limit, else issued: it closes the
bank's row and begins its next refresh interval (R369, R373, R374). -/
def refreshDue (u : BankOf) (d : Dev) : Dev :=
  let n := unitCtrl u.unit
  let c := d.ctrl n
  let k := c.postponed.getD u.bank 0
  if !d.serving n || c.selfRef then d
  else if (c.rq > 0 || d.qos.panic.getD n false) && decide (k < Config.refreshLimit) then
    d.updCtrl n fun c => { c with postponed := Map.set u.bank (k + 1) c.postponed }
  else d.updCtrl n fun c => { c with
    rows := Map.del u.bank c.rows, acts := Map.del u.bank c.acts, track := Map.del u.bank c.track
    postponed := Map.del u.bank c.postponed }

/-- ROW_IDLE_CLOSE: 200 ns, 5 AO ticks, with no access to a bank close its open row, the predictor as it is (R369). -/
def rowIdleClose (u : BankOf) (d : Dev) : Dev :=
  let n := unitCtrl u.unit
  if d.serving n && decide ((d.ctrl n).accAt.getD u.bank 0 + 5 ≤ d.now) then
    d.updCtrl n fun c => { c with rows := Map.del u.bank c.rows }
  else d

/-- Each lane's delay moved by at most one step, up, down or not: which of them nothing constrains (log entry 5). -/
def moveDelays : List Int → Dev → List Int × Dev
  | [], d => ([], d)
  | x :: l, d =>
    let (v, d) := draw d
    let (r, d) := moveDelays l d
    ((x + (v.toNat % 3 : Nat) - 1) :: r, d)

/-- DQS_TRACKING: once in 2^20 AO ticks (R365). -/
def dqsTracking (ch : Nat) (d : Dev) : Dev :=
  if !(d.serving ch && decide (ch < 32)) || (d.ctrl ch).retrain || decide (d.now < (d.ctrl ch).dqsAt + 2 ^ 20) then d
  else
    let (l, d) := moveDelays ((d.ctrl ch).delays ++ List.replicate (10 - (d.ctrl ch).delays.length) 0) d
    d.updCtrl ch fun c => { c with delays := l, dqsAt := d.now }

/-! ## Panic (R354) -/

/-- Panic level, slack and hold limit of a controller (Table 12-6). -/
def panicRow (n : Nat) : Nat × Nat × Nat := if n < 32 then (8, 25, 64) else (16, 10, 32)

/-- Deadlines of the Scarlet reads that wait at a controller, one for each of their entries there. -/
def Dev.scarlet (d : Dev) (n : Nat) : List Nat :=
  d.strs.jobs.foldl (fun l p =>
    let j := p.2
    if d.clsOf j.qos ≠ 3 ∨ j.due = 0 then l
    else match d.objs.stored.get? j.sid with
      | none => l
      | some s =>
        let k :=
          if n < 32 then
            if j.st == .far && s.group == n / 8 then
              ((d.linesOf s).filter fun p => (d.lineAddr s.group p.1 p.2).1 == n).length
            else 0
          else if j.st == .coded && s.near != .absent && s.stack == n - 32 then s.sectors else 0
        l ++ List.replicate k j.due) []

/-- PANIC: a controller's panic raised or cleared (R354). -/
def panic (n : Nat) (d : Dev) : Dev :=
  if !d.serving n then d
  else
    let (level, slack, _) := panicRow n
    let l := d.scarlet n
    let urgent := l.any fun t => decide (t ≤ d.now + slack)
    let cur := d.qos.panic.getD n false
    if !cur && (decide (l.length ≥ level) || urgent) then
      let d := d.updQos fun q => { q with
        panic := Map.set n true q.panic
        drainHeld := if (d.ctrl n).drain then Map.set n d.now q.drainHeld else q.drainHeld }
      traceCtl 5 n 0 (bumpCtl n 16 1 d)
    else if cur && decide (2 * l.length < level) && !urgent then
      traceCtl 6 n 0 (d.updQos fun q => { q with
        panic := Map.del n q.panic, drainHeld := Map.del n q.drainHeld, forced := Map.del n q.forced })
    else d

/-- DRAIN_HOLD_LIMIT: a drain held to the hold limit runs one batch, until the queue is at the low watermark; panic then
resumes and holds the next drain (R354). -/
def drainHoldLimit (n : Nat) (d : Dev) : Dev :=
  match d.qos.drainHeld.get? n with
  | none => d
  | some t =>
    if t + (panicRow n).2.2 > d.now then d
    else drainCtrl n (bumpCtl n 18 1 (d.updQos fun q => { q with
      drainHeld := Map.del n q.drainHeld, forced := Map.set n true q.forced }))

/-! ## Meanings -/

/-- REFRESH_DUE. -/
def execRefreshDue (u : BankOf) (s : State) : Host.Outcome State Fault Refusal := onDev (refreshDue u) s
/-- ROW_IDLE_CLOSE. -/
def execRowIdleClose (u : BankOf) (s : State) : Host.Outcome State Fault Refusal := onDev (rowIdleClose u) s
/-- DQS_TRACKING. -/
def execDqsTracking (ch : Nat) (s : State) : Host.Outcome State Fault Refusal := onDev (dqsTracking ch) s
/-- PANIC. -/
def execPanic (ctrl : Nat) (s : State) : Host.Outcome State Fault Refusal := onDev (panic ctrl) s
/-- DRAIN_HOLD_LIMIT. -/
def execDrainHoldLimit (ctrl : Nat) (s : State) : Host.Outcome State Fault Refusal := onDev (drainHoldLimit ctrl) s

end Sys2Proof.Machine
end

