-- ==== Sys2Proof/Machine/Slices.lean ====
section
/-! DEFINITION. Slices: staging of their tiles, the start of a slice, preemption, traps, the end of a slice, and the
frame every instruction runs in (R247 to R254, R268 to R274, R293, R294). -/

namespace Sys2Proof.Machine

/-! ## Staging (R251) -/

/-- What asking for an input tile of a run gives. -/
inductive Staged where
  | present | waiting | damaged
deriving DecidableEq, Repr

/-- A tile of an input argument asked for by a core of a half: there already, being read, or damaged (R251, R245). -/
def stageTile (n a t half : Nat) (d : Dev) : Staged × Dev :=
  match d.run? n with
  | none => (.waiting, d)
  | some r =>
    if r.staged.contains (a, t) then (.present, d)
    else if r.jobs.any fun j => j.1 == a && j.2.1 == t then (.waiting, d)
    else
      match r.args[a]? with
      | none => (.waiting, d)
      | some x =>
        match askTile r.qos (r.deadline.getD 0) half x.obj x.ver t d with
        | (.ready _, d) => (.present, d.updRun n fun r => { r with staged := r.staged ++ [(a, t)] })
        | (.damaged, d) => (.damaged, d)
        | (.job j, d) => (.waiting, d.updRun n fun r => { r with jobs := r.jobs ++ [(a, t, j)] })

/-- A list of tiles asked for by a core of a half: damaged if one is, waiting if one is, else present. -/
def stageTiles (n half : Nat) : List (Nat × Nat) → Dev → Staged × Dev
  | [], d => (.present, d)
  | p :: l, d =>
    match stageTile n p.1 p.2 half d with
    | (.damaged, d) => (.damaged, d)
    | (.present, d) => stageTiles n half l d
    | (.waiting, d) =>
      match stageTiles n half l d with
      | (.damaged, d) => (.damaged, d)
      | (_, d) => (.waiting, d)

/-- The half whose cores stage the tiles of a run's next slices: that of its lowest core (log entry 75). -/
def Run.stageHalf (r : Run) : Nat := coreHalf (r.cores.headD 0)

/-- The slices of a run's phase whose tiles are staged: the next two for each of its cores (R251). -/
def Run.ahead (r : Run) : List Nat := fromTo r.nextIdx (min (2 * r.cores.length) (r.before (r.phase + 1) - r.nextIdx))

/-- The tiles of the slices ahead of a run asked for; a damaged one ends the run (R245, R251). -/
def stageAhead (n : Nat) (d : Dev) : Dev :=
  match d.run? n with
  | none => d
  | some r =>
    if r.ending then d
    else
      match stageTiles n r.stageHalf (r.ahead.flatMap (d.sliceTiles r)) d with
      | (.damaged, d) => endRun n .objectDamaged 0 d
      | (_, d) => d

/-- A read job has been expanded: the runs that waited for it have their tiles. -/
def runsGot (job : Nat) (d : Dev) : Dev :=
  d.updComp fun c => { c with runs := c.runs.mapVals fun _ r => { r with
    staged := r.staged ++ (r.jobs.filter (·.2.2 == job)).map fun j => (j.1, j.2.1)
    jobs := r.jobs.filter (·.2.2 != job) } }

/-- A read job has failed: the runs that waited for it end (R245). -/
def runsLost (job : Nat) (st : Status) (err : Nat) (d : Dev) : Dev :=
  endRuns (fun _ r => r.jobs.any (·.2.2 == job)) st err d

/-! ## Scheduling (R252) -/

/-- The class a run is served under: Scarlet, Amber, Teal, Slate are 3, 2, 1, 0 (Table 12-1, R359). -/
def Dev.runCls (d : Dev) (r : Run) : Nat := d.clsOf r.qos

/-- The quantum in AO ticks. -/
def Dev.quantum (d : Dev) : Nat := d.feat 0x04 0 32

/-- Class of work that has waited since a tick: after 64 quanta it counts as Teal at least. -/
def Dev.aged (d : Dev) (cls since : Nat) : Nat := if since + 64 * d.quantum ≤ d.now then max cls 1 else cls

/-- Cores in use. -/
def Dev.busyCores (d : Dev) : List Nat :=
  d.comp.runs.foldl (fun l r => r.2.slices.foldl (fun l s =>
    match s.2.st with
    | .running c => insertNat c l
    | .waiting c => insertNat c l
    | .saved _ => l) l) []

/-- Slices of the current phase of a run not yet started. -/
def Run.unstarted (r : Run) : Nat := r.before (r.phase + 1) - r.nextIdx

/-- What of a run waits for core `c`: the class its next such slice counts as, none if there is none. A preempted slice
resumes on its own cluster and before new slices (R252, R253). -/
def Dev.waiter (d : Dev) (r : Run) (c : Nat) : Option Nat :=
  if !r.cores.contains c || r.ending then none
  else
    match r.slices.find? fun s => s.2.st == .saved (coreCluster c) with
    | some s => some (d.aged (d.runCls r) s.2.since)
    | none =>
      if r.unstarted != 0 && (d.sliceTiles r r.nextIdx).all r.staged.contains then some (d.aged (d.runCls r) r.since)
      else none

/-- Whether run `m`, which waits for core `c`, goes before run `n` of a class and deadline: by class, among Scarlet runs
the earliest deadline first, otherwise round robin by run (R252). -/
def Dev.outranks (d : Dev) (m : Nat) (r : Run) (c n cls : Nat) (deadline : Option Nat) : Bool :=
  match d.waiter r c with
  | none => false
  | some k =>
    let due (x : Option Nat) : Nat := if k = 3 then x.getD 0 else 0
    if cls ≠ k then decide (cls < k)
    else if due r.deadline ≠ due deadline then decide (due r.deadline < due deadline)
    else roundBefore (d.cluster (coreCluster c)).lastRun m n

/-- Whether a self-test holds a core, by itself or with its cluster (R391). -/
def Dev.testHeld (d : Dev) (c : Nat) : Bool := d.comp.tests.any fun t => t.2 == c || t.2 == 128 + c / 8

/-- The core a slice of a run goes to: the lowest free one whose cluster runs, of one cluster for a saved slice, where
no other run goes first. -/
def Dev.freeCore (d : Dev) (n : Nat) (r : Run) (cls : Nat) (cluster : Option Nat) : Option Nat :=
  let busy := d.busyCores
  r.cores.find? fun c => !busy.contains c && d.clusterReady (coreCluster c) && d.coreLive c && !d.testHeld c &&
    (match cluster with
      | some k => coreCluster c == k
      | none => true) &&
    !(d.comp.runs.any fun p => p.1 != n && d.outranks p.1 p.2 c n cls r.deadline)

/-- A slice at its start: every register zero, scratch empty (R248, R268). -/
def Slice.fresh (r : Run) (h : Bytes) (i core now : Nat) : Slice :=
  let p := r.phaseOf i
  let gx := (r.grids.getD p (1, 1)).1
  let k := i - r.before p
  { st := .running core, phase := p, x := k % gx, y := k / gx, pc := hPhase h p 8 16,
    v := List.replicate 32 (List.replicate 64 0), s := List.replicate 16 0, p := List.replicate 8 0,
    t := List.replicate 8 (List.replicate 1024 0), scratch := [], bufs := [], started := now, core := core,
    since := now, holdFrom := none }

/-- A cluster has given a core to a run. -/
def gaveCore (n c : Nat) (d : Dev) : Dev := d.updCluster (coreCluster c) fun x => { x with lastRun := n }

/-- A saved slice resumes: on a core of its cluster, still waiting if its wait is registered. -/
def resumeSaved (n i cluster : Nat) (r : Run) (s : Slice) (d : Dev) : Dev :=
  match d.freeCore n r (d.aged (d.runCls r) s.since) (some cluster) with
  | none => wakeCluster cluster d
  | some c =>
    let waits := d.sync.waits.any fun w => w.2.who == .slice n i
    gaveCore n c
      (d.updSlice n i fun s => { s with st := if waits then .waiting c else .running c, core := c, since := d.now })

/-- SLICE_START: the next slice of a run starts once its mapped tiles are present, or a saved one resumes
(R251 to R253). -/
def sliceStart (n i : Nat) (d : Dev) : Dev :=
  match d.run? n with
  | none => d
  | some r =>
    match r.slices.get? i with
    | some s =>
      match s.st with
      | .saved k => resumeSaved n i k r s d
      | _ => d
    | none =>
      if i ≠ r.nextIdx ∨ r.unstarted = 0 ∨ r.ending then d
      else
        match stageTiles n r.stageHalf (d.sliceTiles r i) d with
        | (.damaged, d) => endRun n .objectDamaged 0 d
        | (.waiting, d) => stageAhead n d
        | (.present, d) =>
          match d.freeCore n r (d.aged (d.runCls r) r.since) none, d.kernel? r.kernel with
          | some c, some k =>
            if r.slices.any fun s => s.2.st == .saved (coreCluster c) then d
            else stageAhead n (gaveCore n c (d.updRun n fun r => { r with
              slices := Map.set i (Slice.fresh r k.header i c d.now) r.slices, nextIdx := r.nextIdx + 1 }))
          | _, _ => wakeCores r.cores d

/-- Core of a slice that holds one. -/
def Slice.onCore (s : Slice) : Option Nat :=
  match s.st with
  | .running c => some c
  | .waiting c => some c
  | .saved _ => none

/-- QUANTUM_EXPIRY: a slice that has run one quantum while one of the same or a higher class waits, or that a Scarlet
slice of a higher class waits behind, is preempted and saved (R252, R253). -/
def quantumExpiry (n i : Nat) (d : Dev) : Dev :=
  match d.run? n with
  | none => d
  | some r =>
    match (r.slices.get? i).bind fun s => s.onCore.map fun c => (s, c) with
    | none => d
    | some (s, c) =>
      let waits (f : Nat → Bool) : Bool := d.comp.runs.any fun p => p.1 != n && (match d.waiter p.2 c with
        | some k => f k
        | none => false)
      let ended := decide (s.since + d.quantum ≤ d.now) && waits fun k => decide (d.runCls r ≤ k)
      let pre := d.runCls r != 3 && waits (· == 3)
      if ended || pre then
        bump 9 (coreCluster c) 1 1 (d.updRun n fun r => { r with
          preempts := r.preempts + 1, coreTime := r.coreTime + (d.now - s.since)
          slices := Map.upd i (fun s => { s with st := .saved (coreCluster c), since := d.now }) r.slices })
      else d

/-! ## Traps (R293, R294) -/

/-- Trap codes (Table 9-14). -/
inductive Trap where
  | priv | role | bounds | align | window | rewrite | buffers | format | sync | atomic | pc | program | fetch | data
deriving DecidableEq, Repr

/-- The code. -/
def Trap.code : Trap → Nat
  | .priv => 0x01 | .role => 0x02 | .bounds => 0x03 | .align => 0x04 | .window => 0x05 | .rewrite => 0x06
  | .buffers => 0x07 | .format => 0x08 | .sync => 0x09 | .atomic => 0x0A | .pc => 0x0B | .program => 0x0C
  | .fetch => 0x10 | .data => 0x11

/-- A trap with what its record tells. -/
structure TrapInfo where
  trap : Trap
  info : Nat
  tile : Nat

/-- A trap that concerns no tile. -/
def Trap.plain (t : Trap) : TrapInfo := ⟨t, 0, 0xFFFFFFFF⟩

/-- TRAP_TAKEN: the run ends with `UNIT_FAULT` and a trap record, which names in `related` the record it follows from, 0
for none (R293, R294, R397). -/
def takeTrapOf (err n i : Nat) (r : Run) (s : Slice) (w : BitVec 64) (t : TrapInfo) (d : Dev) : Dev :=
  let rec0 : ErrRec := { ErrRec.mk0 1 0x0C with
    objValid := true, tenValid := true, block := 0, unit := coreUnit s.core, locator := r.kernel, tile := t.tile
    tenant := r.tenant, related := err
    detail := leBytes 1 t.trap.code ++ leBytes 1 s.phase ++ leBytes 2 s.pc ++ leBytes 4 i ++ leBytes 3 t.info ++
      leBytes 1 (wOp w) ++ leBytes 4 t.tile }
  let (id, d) := raiseRec rec0 d
  endRun n .unitFault id d

/-- The trap of an instruction itself. -/
def takeTrap (n i : Nat) (r : Run) (s : Slice) (w : BitVec 64) (t : TrapInfo) (d : Dev) : Dev := takeTrapOf 0 n i r s w t d

/-! ## The frame of an instruction (R271 to R274) -/

/-- What an instruction sees: run, slice index, their state, its word, its kernel's header. -/
structure ICtx where
  n : Nat
  i : Nat
  r : Run
  s : Slice
  w : BitVec 64
  h : Bytes

/-- The register a predicate field names; p0 reads as all ones (R268). -/
def Slice.pred (s : Slice) (k : Nat) : BitVec 64 := if k = 0 then BitVec.allOnes 64 else s.p.getD k 0

/-- The governing predicate after `pneg` (R272). -/
def ICtx.mask (x : ICtx) : BitVec 64 :=
  let m := x.s.pred (wPred x.w)
  if wNeg x.w then ~~~m else m

/-- Whether lane `k` is active. -/
def ICtx.lane (x : ICtx) (k : Nat) : Bool := x.mask.getLsbD k

/-- Whether no lane is active. -/
def ICtx.idle (x : ICtx) : Bool := x.mask == 0

/-- Scalar register `k`. -/
def Slice.sreg (s : Slice) (k : Nat) : BitVec 64 := s.s.getD k 0

/-- Vector register `k`. -/
def Slice.vreg (s : Slice) (k : Nat) : List (BitVec 32) := s.v.getD k (List.replicate 64 0)

/-- Tile register `k`. -/
def Slice.treg (s : Slice) (k : Nat) : List (BitVec 32) := s.t.getD k (List.replicate 1024 0)

/-- Sources a, b, c as scalars. -/
def ICtx.sa (x : ICtx) : BitVec 64 := x.s.sreg (wA x.w)
/-- Scalar b. -/
def ICtx.sb (x : ICtx) : BitVec 64 := x.s.sreg (wB x.w)
/-- Scalar c. -/
def ICtx.sc (x : ICtx) : BitVec 64 := x.s.sreg (wC x.w)
/-- Vector a. -/
def ICtx.va (x : ICtx) : List (BitVec 32) := x.s.vreg (wA x.w)
/-- Vector b. -/
def ICtx.vb (x : ICtx) : List (BitVec 32) := x.s.vreg (wB x.w)
/-- Vector c. -/
def ICtx.vc (x : ICtx) : List (BitVec 32) := x.s.vreg (wC x.w)
/-- The immediate. -/
def ICtx.imm (x : ICtx) : Nat := wImm x.w

/-- A scalar register written. -/
def Slice.setS (k : Nat) (v : BitVec 64) (s : Slice) : Slice := { s with s := s.s.set k v }

/-- A tile register written. -/
def Slice.setT (k : Nat) (v : List (BitVec 32)) (s : Slice) : Slice := { s with t := s.t.set k v }

/-- The active lanes of a vector register written; the others keep their values (R272). -/
def ICtx.setV (x : ICtx) (v : List (BitVec 32)) (s : Slice) : Slice :=
  let old := s.vreg (wD x.w)
  let new := (List.range 64).map fun k => if x.lane k then v.getD k 0 else old.getD k 0
  { s with v := s.v.set (wD x.w) new }

/-- The active lanes of a predicate register written; a write to p0 is discarded (R268, R272). -/
def ICtx.setP (x : ICtx) (v : BitVec 64) (s : Slice) : Slice :=
  let k := wD x.w
  if k = 0 then s
  else { s with p := s.p.set k ((s.p.getD k 0 &&& ~~~x.mask) ||| (v &&& x.mask)) }

/-- The running slice at the instruction with an opcode, and the word; or the trap of a slice past its last word; none
where the slice does not stand at such an instruction. -/
def Dev.fetch (d : Dev) (op n i : Nat) : Option (Except (Run × Slice) ICtx) :=
  match d.run? n with
  | none => none
  | some r =>
    match r.slices.get? i, d.kernel? r.kernel with
    | some s, some k =>
      match s.st with
      | .running _ =>
        match k.code[s.pc]? with
        | none => some (.error (r, s))
        | some w => if wOp w = op then some (.ok ⟨n, i, r, s, w, k.header⟩) else none
      | _ => none
    | _, _ => none

/-- An instruction runs in a slice: nothing where the slice does not stand at one with this opcode; execution past the
last word traps `PC` (R274); otherwise its effect, or its trap. -/
def instr (op n i : Nat) (f : ICtx → Dev → Except TrapInfo Dev) (d : Dev) : Dev :=
  match d.fetch op n i with
  | none => d
  | some (.error (r, s)) => takeTrap n i r s 0 Trap.pc.plain d
  | some (.ok x) =>
    match f x d with
    | .ok d => d
    | .error t => takeTrap n i x.r x.s x.w t d

/-- A slice goes on with the next word. -/
def ICtx.advance (x : ICtx) (f : Slice → Slice) (d : Dev) : Dev :=
  d.updSlice x.n x.i fun s => { f s with pc := s.pc + 1, holdFrom := none }

/-- An instruction that acts on the slice alone. -/
def pureInstr (op n i : Nat) (f : ICtx → Slice → Slice) (d : Dev) : Dev :=
  instr op n i (fun x d => .ok (x.advance (f x) d)) d

/-- One that executes wholly if lane 0 is active and otherwise does nothing (R272). -/
def scalarInstr (op n i : Nat) (f : ICtx → Slice → Slice) (d : Dev) : Dev :=
  pureInstr op n i (fun x s => if x.lane 0 then f x s else s) d

/-- One that writes the active lanes of `vd`. -/
def vectorInstr (op n i : Nat) (f : ICtx → List (BitVec 32)) (d : Dev) : Dev :=
  pureInstr op n i (fun x s => x.setV (f x) s) d

/-- A check of an instruction. -/
def trapIf (b : Bool) (t : TrapInfo) : Except TrapInfo Unit := if b then .error t else .ok ()

/-! ## Meanings -/

/-- QUANTUM_EXPIRY. -/
def execQuantumExpiry (run slice : Nat) (s : State) : Host.Outcome State Fault Refusal :=
  onDev (quantumExpiry run slice) s

end Sys2Proof.Machine
end

