-- ==== Sys2Proof/Machine/Recovery.lean ====
section
/-! DEFINITION. Recovery: thresholds, retirements, damaged tiles, reconstruction and rebuild, loss of a stack, sable mode,
the fatal state, retraining (R21, R24, R27, R28, R365, R371, R386 to R404). -/

namespace Sys2Proof.Machine

/-! ## Events and thresholds (R399, R400) -/

/-- Default thresholds of Table 14-6, by row. -/
def thresholds : List Nat := [8, 3, 64, 8, 1, 3, 8, 8, 8, 8, 2, 8, 4, 8]

/-- Whether a count reaches a threshold whose default is `base`, under the integrity feature, which holds each threshold
in halves of its default. -/
def Dev.reached (d : Dev) (row base n : Nat) : Bool := decide (2 * n ≥ base * d.feat 0x08 row 8)

/-- An event counted for a unit: how many its sliding window of 2^24 AO ticks holds. -/
def countEvent (row unit : Nat) (d : Dev) : Nat × Dev :=
  let l := (d.integ.events.filter fun e => decide (d.now ≤ e.tick + 2 ^ 24)) ++ [{ row := row, unit := unit, tick := d.now }]
  ((l.filter fun e => e.row == row && e.unit == unit).length, d.updInteg fun i => { i with events := l })

/-- A RETIRED record (Table 14-20). -/
def retiredRec (block inst sub unit row count : Nat) : ErrRec :=
  { ErrRec.mk0 2 0x07 with
    block := block, inst := inst, sub := sub, unit := unit
    detail := leBytes 1 block ++ leBytes 1 inst ++ leBytes 2 sub ++ leBytes 1 row ++ zeros 3 ++ leBytes 4 count }

/-- Corrected words counted for a unit (block and instance), not recorded one by one (R400). -/
def countCe (block inst n : Nat) (d : Dev) : Dev :=
  let k := 256 * block + inst
  d.updInteg fun i => { i with
    ce := Map.set k (i.ce.getD k 0 + n) i.ce
    ceStart := if i.ceStart.has k then i.ceStart else Map.set k d.now i.ceStart }

/-- CE_SUMMARY_WINDOW: each unit whose window of 2^20 AO ticks is over gives its count of corrections (R400). -/
def ceSummaryWindow (d : Dev) : Dev :=
  d.integ.ceStart.foldl (fun d p =>
    if p.2 + 2 ^ 20 > d.now then d
    else
      let n := d.integ.ce.getD p.1 0
      let d := d.updInteg fun i => { i with ce := Map.del p.1 i.ce, ceStart := Map.del p.1 i.ceStart }
      raise { ErrRec.mk0 1 0x01 with
        block := p.1 / 256, inst := p.1 % 256
        detail := leBytes 4 (min n 0xFFFFFFFF) ++ zeros 4 ++ leBytes 8 p.2 } d) d

/-! ## Training summary (R366) -/

/-- Index of the lane with the narrowest eye; each lane's eye is the narrower of read and write. -/
def narrowest (eyes : Bytes) : Nat :=
  let w (i : Nat) : Nat := min (eyes.getD i 0).toNat (eyes.getD (10 + i) 0).toNat
  (List.range 10).foldl (fun a i => if w i < w a then i else a) 0

/-- The training summary entry of a controller (Table 13-2). -/
def Dev.summaryOf (d : Dev) (n result : Nat) : Bytes :=
  let c := d.ctrl n
  let head := leBytes 1 (if n < 32 then 3 else 4) ++ leBytes 1 (if n < 32 then n else n - 32) ++ leBytes 1 result ++
    leBytes 1 (if n < 32 then c.rate else 0) ++ leBytes 2 c.sizeGib ++
    leBytes 1 ((if n < 32 then c.ranks % 16 else 0) + 16 * d.mem.order) ++ leBytes 1 (min 255 c.retrains) ++
    leBytes 8 d.now
  if n < 32 then
    head ++ (c.eyes ++ zeros 20).take 20 ++ leBytes 1 (narrowest c.eyes) ++ zeros 3 ++
      leBytes 4 ((c.sizeGib - (d.group (n / 8)).modGib) * 1024) ++ zeros 20
  else head ++ (c.eyes ++ zeros 32).take 32 ++ leBytes 1 c.repaired ++ zeros 15

/-- The summary entry of a controller written. -/
def writeSummary (n result : Nat) (d : Dev) : Dev :=
  d.updMgmt fun m => { m with flash := { m.flash with summary := Map.set n (d.summaryOf n result) m.flash.summary } }

/-- The entry rewritten after a retraining: its result stays. -/
def rewriteSummary (n : Nat) (d : Dev) : Dev :=
  writeSummary n (fld (d.mgmt.flash.summary.getD n []) 2 0 8) d

/-! ## Damaged tiles (R398) -/

/-- Versions of an object that share a storage ID, ascending. -/
def Obj.sharing (o : Obj) (sid : Nat) : List Nat :=
  (o.vers.filter fun p => p.2.tiles.any fun t => t.2.sid == sid).map (·.1)

/-- A sealed tile marked damaged: the mark, a record for the owner and one for each grantee of an affected version, its
near copy absent. `err` is the record it follows from, 0 for none, in which case it is the owner's. Answers the first
record's ID. -/
def markDamaged (sid err ch : Nat) (inj : Bool) (d : Dev) : Nat × Dev :=
  match d.objs.stored.get? sid with
  | none => (err, d)
  | some s =>
    if s.damaged then (err, d)
    else
      let d := d.updStored sid fun s => { s with damaged := true, near := .absent }
      match d.obj? s.obj with
      | none => (err, d)
      | some o =>
        let vs := o.sharing sid
        let first := vs.headD 0
        let r : ErrRec := { ErrRec.mk0 2 0x06 with
          objValid := true, tenValid := true, injected := inj, block := 3, inst := ch, locator := s.obj
          version := first, tile := s.tile, tenant := o.tenant, related := err
          detail := leBytes 4 vs.length ++ leBytes 4 first ++ leBytes 4 (vs.getLast?.getD 0) }
        let (id, d) := raiseRec r d
        let root := if err = 0 then id else err
        let others := o.grants.foldl (fun l g =>
          if (vs.any fun v => o.covers g.grantee v) && !l.contains g.grantee then l ++ [g.grantee] else l) []
        (root, others.foldl (fun d t => raise { r with
          tenant := t, related := root, version := (vs.find? fun v => o.covers t v).getD first } d) d)

/-- The tiles of a stream that wait for a read job, by request number and position. -/
def Stream.waitsOn (s : Stream) (n : Nat) : List (Nat × Nat) :=
  s.reqs.flatMap fun q => ((List.range q.tiles.length).filter fun k => q.tiles[k]? == some (.waiting n)).map fun k =>
    (q.num, k)

/-- The requests joined to a read job fail with a status (R195, R398): the streams halt, commands and runs end, a
promotion ends absent. -/
def failJob (n : Nat) (st : Status) (err : Nat) (d : Dev) : Dev :=
  let d := d.updStrs fun x => { x with jobs := Map.del n x.jobs }
  let d := d.strs.strs.foldl (fun d p =>
    match p.2.waitsOn n with
    | [] => d
    | bad => haltStream p.1 st err bad d) d
  settleClaims (evalScheds (windowSettled n true (runsLost n st err (cmdsLost n st err d))))

/-! ## Where sectors lie, and moving them (R392, R394) -/

/-- Whether a stored tile has a sector on a channel that is retired. -/
def Dev.onLost (d : Dev) (s : Stored) : Bool :=
  let lost := (d.group s.group).lost
  !lost.isEmpty && (d.linesOf s).any fun p => lost.contains (d.lineAddr s.group p.1 p.2).1

/-- Whether a stored tile can no longer be read: a sector of it lies on a retired channel and its stripe has no parity,
unknown parity, or a second retired channel (R393, R394, R396). -/
def Dev.unreadable (d : Dev) (s : Stored) : Bool :=
  d.onLost s && (!d.mem.parity || decide ((d.group s.group).lost.length ≥ 2) ||
    s.places.any fun p => ((d.group s.group).stripes.getD p.1 Stripe.fresh).unknown)

/-- The parity groups that a far-tier pin keeps a stored tile in, none for any (R147, R151). -/
def Dev.farSet (d : Dev) (sid : Nat) : List Nat :=
  ((d.tiers.pins.find? fun p => !p.near && !p.set.isEmpty &&
    ((fromTo p.first p.count).any fun i => d.sidOf p.obj p.ver i == sid)).map (·.set)).getD []

/-- A stored tile written again through the segment writer of its half, within the set of its pin; a completion that waits
for its stripes waits for the new ones (R151, R392, R394). None where the writer has no room. -/
def moveStored (sid : Nat) (d : Dev) : Option Dev :=
  match d.objs.stored.get? sid with
  | none => some d
  | some s => (d.pickGroup (groupHalf s.group) (d.farSet sid)).bind fun g => relocate g sid d

/-- DPA of the first sector of a stored tile. -/
def Dev.firstDpa (d : Dev) (sid : Nat) : Nat :=
  match (d.objs.stored.get? sid).bind fun s => s.places.head?.map fun p => (s.group, p) with
  | some (g, p) => d.lineDpa g p.1 (d.lineAt p.1 p.2.1)
  | none => 0

/-- A reconstructed tile relocated, with its record (R392). -/
def rebuiltTile (sid ch err : Nat) (inj : Bool) (d : Dev) : Dev :=
  let d := (moveStored sid d).getD d
  let tenant := ((d.objs.stored.get? sid).bind fun s => d.obj? s.obj).map (·.tenant)
  raise { ErrRec.mk0 1 0x05 with
    tenValid := tenant.isSome, tenant := tenant.getD 0, injected := inj, block := 3, inst := ch, related := err
    detail := leBytes 8 (d.firstDpa sid) ++ leBytes 4 (d.sectors sid) } d

/-! ## Retired channels and rebuild (R394 to R396) -/

/-- Live sectors of a group. -/
def Dev.groupSectors (d : Dev) (g : Nat) : Nat := ((d.objs.stored.filter fun p => p.2.group == g).map (·.2.sectors)).sum

/-- The next tile of a group that rebuild takes: the lowest storage ID. -/
def Dev.nextRebuild (d : Dev) (g : Nat) : Option (Nat × Stored) :=
  d.objs.stored.find? fun p => p.2.group == g && !p.2.places.isEmpty

/-- A rebuild that has copied everything: the group is out of service (R394). -/
def endRebuild (g : Nat) (d : Dev) : Dev :=
  d.updGroup g fun x => { x with st := .out, stripes := [], cur := none, label := none }

/-- A far channel retired (R394): its group leaves service, its open stripe is abandoned and the tiles that wait in it go
to the other group of the half. -/
def retireChannel (ch row count : Nat) (d : Dev) : Dev :=
  if (d.ctrl ch).retired then d
  else
    let g := ch / 8
    let d := raise (retiredRec 3 ch 0 0 row count) d
    let d := d.updCtrl ch fun c => { c with retired := true, inServ := false, retrain := false, wantRe := false }
    let open' := (d.group g).cur
    let d := d.updGroup g fun x => { x with
      lost := insertNat ch x.lost, cur := none, st := if x.st = .inService then .rebuilding else x.st }
    let waits := (d.objs.acks.filter fun a => a.stripes.any fun p => p.1 == g && some p.2 == open').map (·.sid)
    let d := waits.foldl (fun d sid => (moveStored sid d).getD d) d
    let d := if (d.nextRebuild g).isNone && (d.group g).st == .rebuilding then endRebuild g d else d
    requalify (writeSummary ch 2 d)

/-- Whether sectors may be moved from a group to another under a label: its regulator lets the reads and the writes be issued
(R351, R352, R354). -/
def Dev.moverFree (d : Dev) (q src dst : Nat) : Bool :=
  let half := groupHalf src
  let writes := fromTo (8 * dst) 8
  d.served q 0 (2 * half) (fromTo (8 * src) 8) && d.served q 0 (2 * half + 1) writes && !writes.any d.holdsWrites

/-- REBUILD_TILE: the next tile of a group copied into the other group, as its label lets it, or marked damaged; with none
left the group is out of service; with no free stripe rebuild pauses (R394, R395). -/
def rebuildTile (g : Nat) (d : Dev) : Dev :=
  if (d.group g).st ≠ .rebuilding ∨ (d.group g).selfRef then d
  else
    match d.nextRebuild g with
    | none => endRebuild g d
    | some (sid, s) =>
      let half := groupHalf g
      let label := (d.group g).label.getD 0
      if d.unreadable s then
        let (_, d) := markDamaged sid 0 ((d.group g).lost.headD 0) false d
        settleClaims (dropPlaces s (d.updStored sid fun s => { s with places := [] }))
      else if !d.moverFree label g ((d.pickGroup half []).getD g) then d
      else
        match moveStored sid d with
        | none =>
          raise { ErrRec.mk0 1 0x15 with
            block := 8, detail := leBytes 1 g ++ zeros 7 ++ leBytes 8 (d.groupSectors g) }
            (d.updGroup g fun x => { x with st := .paused })
        | some d =>
          let n := 256 * s.sectors
          let d := grantBytes (d.label label) 0 (2 * half + 1) n (grantBytes (d.label label) 0 (2 * half) n d)
          if (d.nextRebuild g).isNone then endRebuild g d else d

/-- REBUILD_RESUME: a paused rebuild goes on once the other group of the half has a free stripe. -/
def rebuildResume (g : Nat) (d : Dev) : Dev :=
  if (d.group g).st == .paused && (match d.pickGroup (groupHalf g) [] with
      | some o => decide ((d.group o).free > 0) || (d.candidate o).isSome
      | none => false) then d.updGroup g fun x => { x with st := .rebuilding }
  else d

/-! ## Loss of a near stack (R402, R403) -/

/-- Open versions a stack holds, as handle and version. -/
def Dev.openOn (d : Dev) (s : Nat) : List (Nat × Nat) :=
  d.objs.objs.flatMap fun p => p.2.vers.filterMap fun v =>
    let busy := v.2.st == .opened || (v.2.st == .sealing && v.2.staged &&
      d.objs.codings.any fun c => c.2.obj == p.1 && c.2.ver == v.1)
    if busy && !v.2.damaged && v.2.stack == s then some (p.1, v.1) else none

/-- An open version made open and damaged: its seal, its writes, its reductions and its runs end (Table 2-5, R232). -/
def damageOpen (h v : Nat) (d : Dev) : Dev :=
  let seal0 := (d.ver? h v).bind (·.sealCmd)
  let d := refuseInFlight h v .objectDamaged d
  let d := d.updVer h v fun x => { x with st := .opened, damaged := true, sealCmd := none }
  let d := match seal0 with
    | some n => finishCmd n (errS .objectDamaged) d
    | none => d
  let d := d.reds.reds.foldl (fun d p => if p.2.obj = h ∧ p.2.ver = v then loseRed p.1 .objectDamaged d else d) d
  endRuns (fun _ r => r.args.any fun a => a.role == 2 && a.obj == h && a.ver == v) .objectDamaged 0 d

/-- A queue pair stopped with its record (R88): cause 1 a refused doorbell, 2 its ring lost, 3 its ring read timed out, 4
its port unbound or its tenant removed there. A queue pair already stopped raises no further record: R88 says only that a
refused write is counted and stops the queue pair (DESIGN CHOICE, log entry 74). -/
def stopQp (qp cause doorbell err : Nat) (d : Dev) : Dev :=
  match d.qp? qp with
  | none => d
  | some q =>
    if q.stopped then d
    else
      let (b, i) := match q.loc with
        | .host fn _ => (2, fn / 256)
        | .near p => (1, p)
      raise { ErrRec.mk0 1 0x11 with
        tenValid := true, tenant := q.tenant, block := b, inst := i, related := err
        detail := leBytes 2 qp ++ leBytes 1 cause ++ zeros 5 ++ leBytes 8 doorbell }
        (let d := d.updQp qp fun q => { q with stopped := true }
         match q.loc with
         | .host fn _ => setCause (fn / 256 * 256) 5 d
         | .near _ => d)

/-- A kernel's copy on a half is bad: it is restored from the other half's to a stack in service, or is gone, and the runs
and batches that need it end (R236): no weight tile fails, so the streams of batches go on (R266). -/
def kernelCopyLost (h half : Nat) (d : Dev) : Dev :=
  match d.kernel? h with
  | none => d
  | some k =>
    let other := !d.pwr.sable && (k.copies.getD (1 - half) none).isSome
    let place : Option Nat := if other then d.stackOn half [] else none
    let d := d.updComp fun c => { c with kernels := Map.upd h (fun k => { k with copies := k.copies.set half place }) c.kernels }
    if place.isSome then d
    else d.comp.runs.foldl (fun d p =>
      if p.2.kernel == h && p.2.cores.any fun c => coreHalf c == half then endRunAs false p.1 .objectDamaged 0 d else d) d

/-- The kernel copies on a lost stack are bad. -/
def kernelCopies (s : Nat) (d : Dev) : Dev :=
  d.comp.kernels.foldl (fun d p =>
    if p.2.copies.getD (stackHalf s) none == some s then kernelCopyLost p.1 (stackHalf s) d else d) d

/-- The stack that a new firmware copy goes to, when one of a half is missing: one of that half in service, else another
(R491). -/
def Dev.copyPlace (d : Dev) (half : Nat) : Option Nat :=
  let ok (s : Nat) : Bool := d.serving (32 + s) && !d.mgmt.copies.contains s
  ((fromTo (3 * half) 3).find? ok).or ((List.range 6).find? ok)

/-- A lost firmware copy written again from the surviving one (R491). -/
def restoreCopies (d : Dev) : Dev :=
  match d.mgmt.copies with
  | [s] =>
    match d.copyPlace (1 - stackHalf s) with
    | some t => d.updMgmt fun m => { m with copies := insertNat t m.copies }
    | none => d
  | _ => d

/-- A near stack lost (R403): causes 1 training, 2 checker self-test, 3 pseudo-channel threshold, 4 lane with no spare, 5
power good; `chan` the pseudo-channel or channel concerned, 0xFF for none. -/
def stackLost (s cause chan : Nat) (d : Dev) : Dev :=
  if d.tiers.lostNear.contains s then d
  else
    let half := stackHalf s
    let opens := d.openOn s
    let (id, d) := raiseRec { ErrRec.mk0 2 0x09 with
      block := 4, inst := s
      detail := leBytes 1 s ++ leBytes 1 cause ++ leBytes 1 chan ++ zeros 1 ++ leBytes 4 opens.length } d
    let d := d.updTiers fun t => { t with lostNear := insertNat s t.lostNear }
    let d := d.updCtrl (32 + s) fun c => { c with retired := true, inServ := false, retrain := false, wantRe := false }
    let d := restoreCopies (d.updMgmt fun m => { m with copies := m.copies.filter (· != s) })
    let d := opens.foldl (fun d p => damageOpen p.1 p.2 d) d
    let near (sid : Nat) : Bool := match d.objs.stored.get? sid with
      | some x => x.near != .absent && x.stack == s
      | none => false
    let reread (j : Job) : Job := if near j.sid && j.st == .coded then { j with st := .far } else j
    let d := d.updStrs fun x => { x with jobs := x.jobs.mapVals fun _ j => reread j }
    let gone (t : Stored) : Stored := if t.near != .absent && t.stack == s then { t with near := .absent } else t
    let d := d.updObjs fun x => { x with stored := x.stored.mapVals fun _ t => gone t }
    let covered (g n : Nat) (t : Stripe) : Bool := t.written && stackFor 4 (g * 2 ^ 32 + n) half == s
    let blind (g n : Nat) (t : Stripe) : Stripe := { t with unknown := t.unknown || (d.mem.parity && covered g n t) }
    let d := [2 * half, 2 * half + 1].foldl (fun d g => d.updGroup g fun x => { x with
      stripes := (Map.keep (fun n t => !(covered g n t && t.live == 0)) x.stripes).mapVals (blind g) }) d
    let d := d.strs.strs.foldl (fun d p =>
      if p.2.st = .parked ∧ stackFor 1 p.1 p.2.half = s then haltStream p.1 .unitFault id [] d else d) d
    let d := endRuns (fun n r => r.slices.any fun i => match i.2.st with
      | .saved c => clusterHalf c == half && stackFor 2 (n * 2 ^ 32 + i.1) half == s
      | _ => false) .unitFault id d
    let poisoned (h : Nat) (e : Extent) : Extent := if e.half = half then
      { e with poison := (List.range (e.length / 64)).foldl (fun l k =>
          if stackFor 3 (h * 2 ^ 20 + k / 32768) half = s then insertNat k l else l) e.poison } else e
    let d := { d with cxl := { d.cxl with exts := d.cxl.exts.mapVals poisoned } }
    let d := d.q.qps.foldl (fun d p => match p.2.loc with
      | .near _ => if Config.ringBase p.1 / 2 ^ 36 = s then
          (stopQp p.1 2 0 id d).updQp p.1 fun q => { q with ring := [] } else d
      | .host _ _ => d) d
    let d := kernelCopies s d
    requalify (evalScheds (writeSummary (32 + s) 2 (promoteHeld d)))

/-- The record of an uncorrectable word in a near stack, about a tenant (R397). -/
def nearRec (s t : Nat) : ErrRec :=
  { ErrRec.mk0 1 0x02 with block := 4, inst := s, tenValid := true, tenant := t }

/-- An uncorrectable burst counted for a pseudo-channel of a near stack, and the stack lost at the threshold (row 3 of
Table 14-6). Which of its 64 pseudo-channels holds what no rule places nothing constrains (log entry 13). -/
def countNear (s : Nat) (d : Dev) : Dev :=
  let (v, d) := draw d
  let pc := v.toNat % 64
  let (n, d) := countEvent 3 (64 * s + pc) d
  if d.reached 3 8 n then stackLost s 3 pc d else d

/-- A restored stream context whose words are uncorrectable: recorded and counted, and the stream halts (Table 14-4,
R203). -/
def contextFault (id : Nat) (s : Stream) (d : Dev) : Dev :=
  let k := stackFor 1 id s.half
  let (n, d) := raiseRec (nearRec k s.tenant) d
  countNear k (haltStream id .unitFault n [] d)

/-! ## Clusters and cores (R27, R28, Table 14-6) -/

/-- Unit reference of a cluster (Table 1-4). -/
def clusterUnit (pd : Nat) : Nat := 2 * 2 ^ 28 + clusterDie pd * 2 ^ 26 + (pd - 2) % 4 * 2 ^ 24

/-- Expansions that a retired cluster was to do go to another core of its half. -/
def rehomeJobs (pd : Nat) (d : Dev) : Dev :=
  let f (j : Job) : Job := if coreCluster j.core = pd then { j with core := d.expandCore j.half } else j
  d.updStrs fun x => { x with jobs := x.jobs.mapVals fun _ j => f j }

/-- A cluster retired (R28): its domain goes off, its tile-cache slice leaves every partition, and the work on it ends. -/
def retireCluster (pd row count : Nat) (d : Dev) : Dev :=
  if (d.cluster pd).retired then d
  else
    let (id, d) := raiseRec (retiredRec 0 0 0 (clusterUnit pd) row count) d
    let d := (d.updCluster pd fun c => { c with retired := true, clock := false, pllWait := false }).setDomain pd .off
    let d := redsLoseCluster pd id d
    let d := rehomeJobs pd d
    let onIt (r : Run) : Bool := r.slices.any fun i => match i.2.st with
      | .running c => coreCluster c == pd
      | .waiting c => coreCluster c == pd
      | .saved k => k == pd
    let staged (r : Run) : Bool := match r.by' with
      | .batch b => (d.batch? b).any fun x => x.cluster == pd && x.blocks != 0
      | .cmd _ => false
    let d := endRuns (fun _ r => onIt r || staged r) .unitFault id d
    let d := endRuns (fun _ r => r.cores.all fun c => coreCluster c == pd) .unitFault id d
    let without (r : Run) : Run := if (r.cores.any fun c => coreCluster c == pd) then
      { r with cores := r.cores.filter (fun c => coreCluster c != pd), degraded := true } else r
    requalify (d.updComp fun c => { c with runs := c.runs.mapVals fun _ r => without r })

/-- A fault of a core classed permanent: its spare is substituted, or its cluster retired (R27, R28). -/
def coreFailed (core row count : Nat) (d : Dev) : Dev :=
  let pd := coreCluster core
  if (d.cluster pd).spareUsed then retireCluster pd row count d
  else raise (retiredRec 0 0 0 (coreUnit core) row count) (d.updCluster pd fun c => { c with spareUsed := true })

/-- A coding or data fault counted for a core (row 10 of Table 14-6). -/
def coreFault (core : Nat) (d : Dev) : Dev :=
  let (n, d) := countEvent 10 core d
  if d.reached 10 2 n then coreFailed core 10 n d else d

/-- A slice whose words are uncorrectable (R245, R293, R294, Table 14-4). On a core, it traps `FETCH` or `DATA`, which
counts for the core, and after `FETCH` the kernel's copy is restored; saved state that cannot be read ends the run. -/
def sliceFault (n i : Nat) (t : Trap) (d : Dev) : Dev :=
  match d.run? n with
  | none => d
  | some r =>
    match r.slices.get? i with
    | none => d
    | some s =>
      match s.st with
      | .saved c =>
        let k := stackFor 2 (n * 2 ^ 32 + i) (clusterHalf c)
        let (id, d) := raiseRec (nearRec k r.tenant) d
        countNear k (endRun n .unitFault id d)
      | _ =>
        let w := match (d.kernel? r.kernel).bind fun k => k.code[s.pc]? with
          | some w => if t = .fetch then 0 else w
          | none => 0
        let (id, d) := raiseRec { ErrRec.mk0 1 0x02 with
          block := 0, unit := coreUnit s.core, tenValid := true, tenant := r.tenant } d
        let d := coreFault s.core (takeTrapOf id n i r s w t.plain d)
        if t = .fetch then kernelCopyLost r.kernel (coreHalf s.core) d else d

/-- An uncorrectable error in the accumulators of a slot, that of the tile at an index of a reduction's range: recorded and
counted for the cluster (row 11 of Table 14-6); a tile that holds the slot is damaged, and settles (R231, R399). -/
def accumulatorFault (id i : Nat) (d : Dev) : Dev :=
  match d.red? id with
  | none => d
  | some r =>
    let n := ((d.obj? r.obj).map Obj.n).getD 16384
    match r.ended, (r.slotsOf n i).head? with
    | none, some pd =>
      let (err, d) := raiseRec { ErrRec.mk0 1 0x02 with block := 0, unit := clusterUnit pd } d
      let d := if (d.redNow id r).held.contains i then settleRed id (damageRedTile id i err d) else d
      let (n, d) := countEvent 11 pd d
      if d.reached 11 8 n then retireCluster pd 11 n d else d
    | _, _ => d

/-! ## Sable mode (R21, R24) -/

/-- Commands that wait for work on the other half end with `PATH_LOST`. -/
def pathLostCmds (d : Dev) : Dev :=
  d.q.cmds.foldl (fun d p =>
    let k := p.2
    let away : Bool := match d.obj? k.entry.ha with
      | some o => o.half != k.half
      | none => false
    let own := [0x11, 0x12, 0x13, 0x20].contains k.entry.op
    if k.phase == .waiting && own && away then
      let unSeal (v : Version) : Version := if v.sealCmd = some p.1 then { v with sealCmd := none } else v
      let unWait (c : Claim) : Claim := if c.waiter = some p.1 then { c with waiter := none } else c
      let d := d.updObj k.entry.ha fun o => { o with vers := o.vers.mapVals fun _ v => unSeal v }
      let d := d.updTiers fun t => { t with claims := t.claims.mapVals fun _ c => unWait c }
      finishCmd p.1 (errS .pathLost) d
    else d) d

/-- The first tile a stream has not answered, by request number and position. -/
def Stream.firstOpen (s : Stream) : List (Nat × Nat) :=
  (s.reqs.findSome? fun q =>
    if q.refused.isSome || q.late.isSome then none
    else (q.tiles.findIdx? fun t => !t.over).map fun k => (q.num, k)).toList

/-- Read jobs go on for the consumers that are left: those of the home half. -/
def homeJobs (d : Dev) : Dev :=
  let f (j : Job) : Job :=
    let home := ((d.obj? j.obj).map (·.half)).getD j.half
    if j.half = home then { j with away := false, cross := 0 }
    else { j with half := home, core := d.expandCore home, away := false, cross := 0 }
  d.updStrs fun x => { x with jobs := x.jobs.mapVals fun _ j => f j }

/-- Window reads that wait across a lost bridge are answered with poison (R480). -/
def cutWindows (d : Dev) : Dev :=
  let cut (w : WinRead) : Bool := match (d.cxl.maps.get? w.map).bind fun m => d.obj? m.obj with
    | some o => o.half != hostHalf w.port
    | none => true
  let dead := d.cxl.winReads.filter cut
  let d := d.updCxl fun c => { c with winReads := c.winReads.filter fun w => !cut w }
  reapMaps (dead.foldl (fun d w => poisonWin w.port w.off d) d)

/-- Entry into sable mode; the causes of BRIDGE_LOST are those of Table 14-20. -/
def bridgeLost (cause count : Nat) (d : Dev) : Dev :=
  if d.pwr.sable then d
  else
    let (id, d) := raiseRec { ErrRec.mk0 2 0x08 with
      block := 5, detail := leBytes 1 cause ++ zeros 3 ++ leBytes 4 count } d
    let d := d.updPwr fun p => { p with sable := true, bridgeUp := false }
    let homeOf (h : Nat) (dflt : Nat) : Nat := ((d.obj? h).map (·.half)).getD dflt
    let d := d.strs.strs.foldl (fun d p =>
      if decide (p.2.kind ≤ 1) && p.2.busy && homeOf p.2.obj p.2.half != p.2.half then
        haltStream p.1 .pathLost id p.2.firstOpen d
      else d) d
    let d := d.reds.reds.foldl (fun d p =>
      let home := homeOf p.2.obj 0
      if p.2.ended.isNone && p.2.sources.any (fun x => (x.stream.bind d.str?).any fun t => t.half != home) then
        loseRed p.1 .pathLost d
      else d) d
    let d := endRuns (fun _ r => (r.args.any fun a => homeOf a.obj r.half != r.half) ||
      r.cores.any fun c => coreHalf c != r.half) .pathLost id d
    requalify (evalScheds (homeJobs (sweepJobs (cutWindows (pathLostCmds (sableHosts d))))))

/-! ## The fatal state (R401) -/

/-- A fault of class fatal: causes of Table 14-20. -/
def fatal (cause which : Nat) (d : Dev) : Dev :=
  if d.pwr.fatal then d
  else
    let d := raise { ErrRec.mk0 3 0x13 with block := 7, detail := leBytes 1 cause ++ leBytes 1 which } d
    let d := d.updPwr fun p => { p with fatal := true }
    let d := (List.range 56).foldl (fun d p =>
      if (d.port p).st = .disabled then d
      else emit (.txOff p) (d.updPort p fun x => { x with
        st := .disabled, since := d.now, locked := 0, txq := [], ingress := [], replay := [], rxPart := [], keep := false
        quietReq := false, downSince := if x.everActive then x.downSince.or (some d.now) else none })) d
    let d := d.updComp fun c => { c with runs := [], batches := [] }
    let d := d.updStrs fun x => { x with jobs := [] }
    let d := d.updObjs fun x => { x with codings := [], acks := [] }
    d.q.cmds.foldl (fun d p =>
      let near : Bool := match p.2.origin with
        | .queue qp _ => (match (d.qp? qp).map (·.loc) with
          | some (QLoc.near _) => true
          | _ => false)
        | _ => false
      if near || !fatalKept p.2.entry then finishCmd p.1 (errS .deviceError) d else d) d

/-- The bridge's events (row 7): uncorrectable words (cause 1) or failed retrainings (cause 2). -/
def bridgeEvent (cause : Nat) (d : Dev) : Dev :=
  let (n, d) := countEvent 7 cause d
  if d.reached 7 (if cause = 1 then 8 else 3) n then bridgeLost cause n d else d

/-- A retraining of the bridge (link 0), of the link of a compute die (1 to 4 for cd0 to cd3), or of a link among the
link, memory and management dies (5) ends: a failure counts towards rows 7, 8 and 9 of Table 14-6. -/
def bridgeRetrained (link : Nat) (ok : Bool) (d : Dev) : Dev :=
  let r : ErrRec :=
    { ErrRec.mk0 1 0x0B with block := if link = 0 then 5 else 6, detail := zeros 2 ++ leBytes 1 (b2n !ok) }
  if link > 5 ∨ (link = 0 ∧ (d.pwr.sable ∨ !d.pwr.bridgeUp)) then d
  else if ok then raise r d
  else if link = 0 then bridgeEvent 2 (raise r d)
  else
    let row := if link = 5 then 9 else 8
    let (n, d) := countEvent row link (raise r d)
    if !d.reached row 3 n then d
    else if link = 5 then fatal 5 9 d
    else (fromTo (2 + 4 * (link - 1)) 4).foldl (fun d pd => retireCluster pd 8 n d) d

/-! ## Retraining (R365, R371, R372) -/

/-- Controllers that share one retraining at a time: the channels of a group, a stack alone. -/
def retrainPeers (n : Nat) : List Nat := if n < 32 then fromTo (8 * (n / 8)) 8 else [n]

/-- A retraining begins. -/
def beginRetrain (n : Nat) (d : Dev) : Dev :=
  traceCtl 1 n 0 (bumpCtl n 10 1 (d.updCtrl n fun c => { c with
    retrain := true, wantRe := false, ceLanes := [], alerts := [] }))

/-- A trigger: the retraining begins, waits for another of its group, or is deferred while the group rebuilds. -/
def wantRetrain (n : Nat) (d : Dev) : Dev :=
  if !d.serving n || (d.ctrl n).retrain then d
  else if decide (n < 32) && ((d.group (n / 8)).st != .inService || !(d.group (n / 8)).lost.isEmpty) then
    bumpCtl n 11 1 (d.updCtrl n fun c => { c with wantRe := true })
  else if (retrainPeers n).any fun m => (d.ctrl m).retrain then d.updCtrl n fun c => { c with wantRe := true }
  else beginRetrain n d

/-- The next waiting retraining of a group begins. -/
def nextRetrain (n : Nat) (d : Dev) : Dev :=
  match (retrainPeers n).find? fun m => (d.ctrl m).wantRe && d.serving m with
  | some m => wantRetrain m (d.updCtrl m fun c => { c with wantRe := false })
  | none => d

/-- Corrected errors of a byte lane: counted for the unit, and 16 within 2^20 AO ticks trigger a retraining (R365). -/
def laneCorrected (ch lane n : Nat) (d : Dev) : Dev :=
  let d := if ch < 32 then countCe 3 ch n d else countCe 4 (ch - 32) n d
  let old := ((d.ctrl ch).ceLanes.getD lane []).filter fun t => decide (d.now ≤ t + 2 ^ 20)
  let l := (old ++ List.replicate (min n 16) d.now)
  let d := d.updCtrl ch fun c => { c with ceLanes := Map.set lane (l.drop (l.length - 16)) c.ceLanes }
  if l.length ≥ 16 then wantRetrain ch d else d

/-- A retraining record (Table 14-20): lanes, result. -/
def retrainRec (n lanes result : Nat) : ErrRec :=
  { ErrRec.mk0 1 0x0B with
    block := if n < 32 then 3 else 4, inst := if n < 32 then n else n - 32
    detail := leBytes 2 lanes ++ leBytes 1 result }

/-- RETRAINING_DONE: success rewrites the summary and lets the next retraining of the group begin; a failure is retried
at once until the threshold of Table 14-6; a near channel that cannot be repaired loses its stack (R365, R399,
Table 13-6). -/
def retrainingDone (n : Nat) (r : TrainResult) (d : Dev) : Dev :=
  if !(d.serving n && (d.ctrl n).retrain) then d
  else
    let lanes := if n < 32 then 0x3FF else 0xFFFF
    let d := traceCtl 2 n 0 d
    if trainPasses n r then
      let d := d.updCtrl n fun c => { c with
        retrain := false, failRow := 0, retrains := c.retrains + 1, eyes := eyesOf n r, centres := r.sweeps.map sweepCentre
        repaired := r.repaired, delays := [] }
      nextRetrain n (rewriteSummary n (raise (retrainRec n lanes 0) d))
    else
      let d := rewriteSummary n (raise (retrainRec n lanes 1) (d.updCtrl n fun c => { c with
        failRow := c.failRow + 1, retrains := c.retrains + 1 }))
      if n ≥ 32 then stackLost (n - 32) 4 0xFF d
      else if d.reached 1 3 (d.ctrl n).failRow then nextRetrain n (retireChannel n 1 (d.ctrl n).failRow d)
      else beginRetrain n d

/-- PARITY_ALERT: the subchannel's buffered commands are replayed (Table 13-3). Which subchannel, and how many commands
the alert window covers, nothing constrains but the buffer (log entry 5). -/
def parityAlert (n : Nat) (inj exempt : Bool) (d : Dev) : Dev :=
  if !d.serving n then d
  else
    let (v, d) := draw d
    let sub := if n < 32 then v.toNat % 2 else v.toNat % 32
    let chan := if n < 32 then 0 else sub
    let k := v.toNat / 2 ^ 8 % (((d.ctrl n).retry.filter fun p => retryChan n p.1 == chan).length + 1)
    let d := traceCtl 3 n 0 (bumpCtl n 7 k (bumpCtl n 6 1 d))
    let d := raise { ErrRec.mk0 1 0x0A with
      injected := inj, block := if n < 32 then 3 else 4, inst := if n < 32 then n else n - 32, sub := sub
      detail := leBytes 1 sub ++ zeros 3 ++ leBytes 4 k } d
    let recent := ((d.ctrl n).alerts.filter fun t => decide (d.now ≤ t + 2 ^ 16)) ++ [d.now]
    let d := d.updCtrl n fun c => { c with
      rows := Map.keep (fun b _ => retryChan n b != chan) c.rows, alerts := recent }
    let (cnt, d) := if exempt then (0, d) else countEvent 2 n d
    if decide (n < 32) && decide (cnt > 0) && d.reached 2 64 cnt then retireChannel n 2 cnt d
    else if recent.length ≥ 4 then wantRetrain n d else d

/-! ## Meanings -/

/-- PARITY_ALERT. -/
def execParityAlert (u : MemUnit) (s : State) : Host.Outcome State Fault Refusal :=
  onDev (parityAlert (unitCtrl u) false false) s
/-- RETRAINING_DONE. -/
def execRetrainingDone (u : MemUnit) (res : TrainResult) (s : State) : Host.Outcome State Fault Refusal :=
  onDev (retrainingDone (unitCtrl u) res) s
/-- REBUILD_TILE. -/
def execRebuildTile (g : Nat) (s : State) : Host.Outcome State Fault Refusal := onDev (rebuildTile g) s
/-- REBUILD_RESUME. -/
def execRebuildResume (g : Nat) (s : State) : Host.Outcome State Fault Refusal := onDev (rebuildResume g) s
/-- Whether a group has traffic other than reclaim: a read job on it, or a stripe to be written. -/
def Dev.groupBusy (d : Dev) (g : Nat) : Bool :=
  (d.strs.jobs.any fun p => p.2.st == .far && ((d.objs.stored.get? p.2.sid).map (·.group)) == some g) ||
    (d.group g).stripes.any fun p => p.2.closed && !p.2.written

/-- Whether reclaim runs in a group: fewer than 1/32 of its stripes are free, or it has no other traffic (R154). -/
def Dev.reclaims (d : Dev) (g : Nat) : Bool :=
  decide (32 * (d.group g).free < (d.group g).total) || !d.groupBusy g

/-- RECLAIM_STRIPE: a candidate stripe's live sectors are copied in the Slate class, and it is freed (R154). -/
def execReclaimStripe (g st : Nat) (s : State) : Host.Outcome State Fault Refusal :=
  onDev (fun d => if d.candidate g = some st ∧ d.reclaims g ∧ !(d.group g).selfRef ∧ d.moverFree 0 g g then
    let n := ((d.objs.stored.filter fun p => p.2.inStripe g st).map fun p => p.2.sectors).sum
    let half := groupHalf g
    let d := reclaimStripe g st d
    drainUpdate g (grantBytes 0 0 (2 * half + 1) (d.farCost n) (grantBytes 0 0 (2 * half) (256 * n) d))
  else d) s
/-- REDUCE_TILE_SETTLE: the tile at an index of a reduction's range settles, or its slot has an uncorrectable error. -/
def execReduceTileSettle (red : Nat) (slot : SlotRead) (s : State) : Host.Outcome State Fault Refusal :=
  onDev (if slot.ok then reduceTileSettle red slot.tile else accumulatorFault red slot.tile) s
/-- SLICE_START: the slice starts, resumes or goes on; `go.words` says whether what it needs could be read. -/
def execSliceStart (run : Nat) (go : SliceGo) (s : State) : Host.Outcome State Fault Refusal :=
  onDev (match go.words with
    | .good => sliceStart run go.slice
    | .fetch => fun d => sliceFault run go.slice .fetch (sliceStart run go.slice d)
    | .data => fun d => sliceFault run go.slice .data d) s
/-- STREAM_CONTEXT_RESTORED: a parked context is back, or its words could not be read. -/
def execStreamContextRestored (read : ContextRead) (s : State) : Host.Outcome State Fault Refusal :=
  onDev (contextRestored read.stream (if read.ok then fun _ d => d else contextFault read.stream)) s
/-- CE_SUMMARY_WINDOW. -/
def execCeSummaryWindow (s : State) : Host.Outcome State Fault Refusal := onDev ceSummaryWindow s
/-- BRIDGE_RETRAINING_DONE. -/
def execBridgeRetrainingDone (link : Nat) (ok : Bool) (s : State) : Host.Outcome State Fault Refusal :=
  onDev (bridgeRetrained link ok) s

end Sys2Proof.Machine
end

