-- ==== Sys2Proof/Machine/Events.lean ====
section
/-! DEFINITION. Events of the codec and the tiers: tiles coded, stripes written, seals completed, sectors read, tiles
expanded, promotions ended (R70, R117, R118, R129 to R131, R150 to R154, R165, R192, R194, R334, R351, R352, R354, R370,
R392, R393). -/

namespace Sys2Proof.Machine

/-! ## Injected faults (R408) -/

/-- Whether an injection's DPA lies in a line of a stored tile. -/
def Dev.inTile (d : Dev) (s : Stored) (dpa : Nat) : Bool :=
  (d.linesOf s).any fun p => d.lineDpa s.group p.1 p.2 == dpa / 256 * 256

/-- An injection used once: a word error stays in memory, any other ends with its last use. -/
def useInject (i : Nat) (d : Dev) : Dev :=
  d.updInteg fun x => { x with injects :=
    (x.injects.modify i fun j => { j with left := j.left - 1 }).filter fun j => j.left != 0 || j.target == 0 }

/-- The injection of a target that a test picks, with its position. -/
def Dev.inject? (d : Dev) (f : Inject → Bool) : Option (Nat × Inject) :=
  ((List.range d.integ.injects.length).zip d.integ.injects).find? fun p => f p.2

/-- What a far-tier read meets once injected faults are in it: the result, and whether it is injected and exempt. -/
def injectedRead (s : Stored) (res : FarResult) (d : Dev) : FarResult × Bool × Bool × Dev :=
  match d.inject? fun j => decide (j.target ≤ 1) && d.inTile s j.dpa with
  | none => (res, false, false, d)
  | some (i, j) =>
    let line := (d.linesOf s).find? fun p => d.lineDpa s.group p.1 p.2 == j.dpa / 256 * 256
    let ch := match line with
      | some p => (d.lineAddr s.group p.1 p.2).1
      | none => 8 * s.group
    let r : FarResult :=
      if j.target = 1 then .uncorrectable ch 0 true false
      else if j.nbits ≥ 3 then .uncorrectable ch j.nbits false false
      else .corrected ch (5 * (j.dpa / 64 % 2)) 1
    (r, true, j.exempt, useInject i d)

/-- Word errors injected into words that no longer hold anything are gone: what is stored there next is written. -/
def clearInjects (s : Stored) (d : Dev) : Dev :=
  d.updInteg fun x => { x with injects := x.injects.filter fun j => !(j.target == 0 && d.inTile s j.dpa) }

/-! ## Coding (R117, R130) -/

/-- A tile durable: what waited for it goes on (R152). The tiles of an `OBJ_WRITE` are taken when it completes (R68). -/
def durable (a : PendAck) (d : Dev) : Dev :=
  match a.who with
  | .wrAck id _ _ _ => pumpAcks id d
  | .cmd n =>
    if d.cmdTiles n then d
    else
      match (d.cmd? n).bind (·.ends) with
      | some c => endWrite n c d
      | none => d
  | .seal _ _ => landTile a d
  | .red _ _ => landTile a d
  | .run _ _ => landTile a d

/-- Another logical core of a half than the one a unit names: the next live one, around (DESIGN CHOICE, log entry 75: R130
and R131 say only that it is another). -/
def Dev.otherCore (d : Dev) (half unit : Nat) : Nat :=
  let live := (fromTo (64 * half) 64).filter d.coreLive
  let c := coreOf unit
  match live.find? (c < ·) with
  | some x => x
  | none => (live.find? (· != c)).getD c

/-- A CROSS_PARITY record with its syndromes. -/
def crossRec (unit tenant lane row col : Nat) (inj : Bool) : ErrRec :=
  { ErrRec.mk0 1 0x04 with
    tenValid := true, tenant := tenant, injected := inj, block := 0, unit := unit
    detail := leBytes 8 lane ++ leBytes 1 row ++ leBytes 1 col }

/-- A coding check failed: a record, the tile coded again on another core of the home half, the core's faults counted. -/
def codingFailed (n : Nat) (c : Coding) (o : Obj) (inj exempt : Bool) (d : Dev) : Dev :=
  let (v, d) := draw d
  let (w, d) := draw d
  let d := raise (crossRec c.unit o.tenant v.toNat (w.toNat % 256) (w.toNat / 256 % 256) inj) d
  let d := if exempt then d else coreFault (coreOf c.unit) d
  let unit := coreUnit (d.otherCore o.half c.unit)
  d.updObjs fun s => { s with codings := Map.upd n (fun c => { c with unit := unit, tries := c.tries + 1 }) s.codings }

/-- The far-tier bytes a coded tile takes, parity among them. -/
def Dev.codedCost (d : Dev) (c : Coding) (o : Obj) : Nat := d.farCost (sectorsOf (storedLen o.fmt o.tr o.tc c.data))

/-- The channels of a half that its segment writer writes to. -/
def Dev.writeChans (d : Dev) (half : Nat) : List Nat :=
  match d.pickGroup half [] with
  | some g => fromTo (8 * g) 8
  | none => []

/-- Whether the regulator of a coded tile lets it go to the segment writer of its half (R351, R352). -/
def Dev.writerFree (d : Dev) (q half : Nat) : Bool := d.served q 0 (2 * half + 1) (d.writeChans half)

/-- Whether it is the turn of a coded tile at the segment writer among those that wait there. -/
def Dev.writerTurn (d : Dev) (n : Nat) (c : Coding) (half : Nat) : Bool :=
  let there (x : Coding) : Bool := ((d.obj? x.obj).map (·.half)) == some half
  let rivals := d.objs.codings.filterMap fun p => p.2.held.bind fun t =>
    if there p.2 && d.writerFree (d.waiterLabel p.2.who) half then some (d.waiterLabel p.2.who, t, p.1) else none
  d.turn 0 (2 * half + 1) (4 + half) (d.waiterLabel c.who) (c.held.getD d.now) n rivals

/-- A coded tile waits for its regulator or for a free stripe. -/
def holdCoding (n : Nat) (d : Dev) : Dev :=
  d.updObjs fun s => { s with codings := Map.upd n (fun c => { c with held := some (c.held.getD d.now) }) s.codings }

/-- A coded tile goes to the segment writer, whose bytes its label is charged (R343); it waits for its regulator, and while
no stripe is free (R151, R154, R351, R352). -/
def codingPassed (n : Nat) (c : Coding) (o : Obj) (d : Dev) : Dev :=
  let wait : Bool := match d.ver? c.obj c.ver with
    | some v => !v.staged
    | none => false
  let q := d.waiterLabel c.who
  let cost := d.codedCost c o
  if cost ≠ 0 ∧ !(d.writerFree q o.half && d.writerTurn n c o.half) then holdCoding n d
  else
  match d.store c.obj c.tile o c.data wait with
  | none => holdCoding n d
  | some (sid, stripes, d) =>
    let d := if cost = 0 then d else serveAt 0 (2 * o.half + 1) (4 + o.half) q cost d
    let a : PendAck :=
      { who := c.who, obj := c.obj, ver := c.ver, tile := c.tile, data := c.data, sid := sid, prod := c.prod
        stripes := stripes }
    let d := d.updObjs fun s => { s with codings := Map.del n s.codings, acks := s.acks ++ [a] }
    let d := if stripes.isEmpty then durable a d else d
    let d := match c.who with
      | .seal h v => sealClose h v d
      | _ => d
    stripes.foldl (fun d p => drainUpdate p.1 d) d

/-- CODING_DONE. A tile whose check has passed goes on to the segment writer. -/
def codingDone (n : Nat) (ok : Bool) (d : Dev) : Dev :=
  match d.objs.codings.get? n with
  | none => d
  | some c =>
    match d.obj? c.obj with
    | none => d.updObjs fun s => { s with codings := Map.del n s.codings }
    | some o =>
      if c.held.isSome then codingPassed n c o d
      else
      match d.inject? fun j => j.target == 4 && j.unit == c.unit with
      | some (i, j) => codingFailed n c o true j.exempt (useInject i d)
      | none => if ok then codingPassed n c o d else codingFailed n c o false false d

/-- The coded tiles that wait at the segment writers try again, oldest jobs first. -/
def retryCodings (d : Dev) : Dev :=
  d.objs.codings.foldl (fun d p => if p.2.held.isSome then codingDone p.1 true d else d) d

/-! ## Stripes (R151, R152) -/

/-- SEAL_AS_WRITTEN_WAIT_EXPIRY: the open stripes of a half in which a seal-as-written tile has waited 250 AO ticks are
closed. -/
def sawExpiry (half : Nat) (d : Dev) : Dev :=
  [2 * half, 2 * half + 1].foldl (fun d g =>
    match (d.group g).cur with
    | none => d
    | some n =>
      match (d.group g).stripes.get? n with
      | none => d
      | some s => if s.waitSaw && decide (s.since + 250 ≤ d.now) then drainUpdate g (closeStripes [(g, n)] d) else d) d

/-- A closed stripe and its parity written; every tile all of whose stripes are written is durable. -/
def writeStripe (g n : Nat) (d : Dev) : Dev :=
  match (d.group g).stripes.get? n with
  | none => d
  | some s =>
    let here := d.objs.acks.filter fun a => a.stripes.contains (g, n)
    let d := if s.written then d
      else issueLines g 0 true ((d.linesWritten n s).map fun l => (n, l)) d
    let d := d.updGroup g fun x => { x with
      lastReq := d.now
      stripes := if s.live = 0 then Map.del n x.stripes
        else Map.upd n (fun t => { t with written := true, waitSaw := false }) x.stripes }
    let d := d.updObjs fun x => { x with
      acks := x.acks.map fun a => { a with stripes := a.stripes.filter (· != (g, n)) } }
    let done := here.filterMap fun a =>
      let b := { a with stripes := a.stripes.filter (· != (g, n)) }
      if b.stripes.isEmpty then some b else none
    drainUpdate g (done.foldl (fun d a => if d.objs.acks.contains a then durable a d else d) d)

/-- Whether a group's stripes can be written: it is not in self-refresh, and no channel of it retrains (R365). -/
def Dev.canWrite (d : Dev) (g : Nat) : Bool :=
  !(d.group g).selfRef && !((fromTo (8 * g) 8).any fun ch => (d.ctrl ch).retrain)

/-- STRIPE_WRITE_DONE: a closed stripe is written, where no channel of its group holds its writes for Scarlet reads
(R354). -/
def stripeWriteDone (g n : Nat) (d : Dev) : Dev :=
  match (d.group g).stripes.get? n with
  | none => d
  | some s => if s.closed && d.canWrite g && !((fromTo (8 * g) 8).any d.holdsWrites) then writeStripe g n d else d

/-! ## Reads of the far tier (R192, R334, R351, R352, R354, R365, R370, R392, R393, R397) -/

/-- Whether an uncorrectable line of a stored tile on a channel can be reconstructed: parity is on and known there, and
no written line at its position lies on another retired channel (R393). -/
def Dev.canRebuild (d : Dev) (s : Stored) (ch : Nat) : Bool :=
  match (d.linesOf s).find? fun p => (d.lineAddr s.group p.1 p.2).1 == ch with
  | none => d.mem.parity
  | some (st, l) =>
    let t := (d.group s.group).stripes.getD st Stripe.fresh
    let lost := (d.group s.group).lost.filter (· != ch)
    let peers := (d.linesWritten st t).filter fun m => m % 16 == l % 16
    d.mem.parity && !t.unknown && !(peers.any fun m => lost.contains (d.lineAddr s.group st m).1)

/-- The line tag of a DPA (R387): the XOR of the five bytes of bits [39:0] of DPA >> 6. -/
def lineTagOf (dpa : Nat) : Nat :=
  let a := dpa / 64
  (List.range 5).foldl (fun x k => Nat.xor x (a / 2 ^ (8 * k) % 256)) 0

/-- The record of an injected error found uncorrectable at a controller. -/
def injectRec (n : Nat) (j : Inject) (tag : Nat) : ErrRec :=
  { ErrRec.mk0 1 (if j.target = 1 then 0x03 else 0x02) with
    dpaValid := true, injected := true, block := if n < 32 then 3 else 4, inst := if n < 32 then n else n - 32
    locator := j.dpa
    detail := if j.target = 1 then leBytes 1 (lineTagOf j.dpa) ++ leBytes 1 tag else leBytes 1 j.nbits }

/-- The channels of a group that lines lie on. -/
def Dev.chansOf (d : Dev) (g : Nat) (ls : List (Nat × Nat)) : List Nat :=
  (fromTo (8 * g) 8).filter fun ch => ls.any fun p => (d.lineAddr g p.1 p.2).1 == ch

/-- The stripes among lines that are closed and not yet written: their lines wait in the write queues (R370). -/
def Dev.queuedStripes (d : Dev) (g : Nat) (ls : List (Nat × Nat)) : List Nat :=
  ls.foldl (fun a p =>
    match (d.group g).stripes.get? p.1 with
    | some s => if s.closed && !s.written then insertNat p.1 a else a
    | none => a) []

/-- The lines a read of a stored tile reads, none while it must wait: its group is in self-refresh, a line that it needs
lies on a channel that retrains and cannot be reconstructed (R365, R396), or one it must see written first cannot be
written. -/
def Dev.farLines (d : Dev) (s : Stored) : Option (List (Nat × Nat)) :=
  if (d.group s.group).selfRef then none
  else if d.unreadable s then some (d.linesOf s)
  else (d.readLines s.group (d.linesOf s)).filter fun ls => (d.queuedStripes s.group ls).isEmpty || d.canWrite s.group

/-- A read held behind the writes of the lines it reads: they are written first, even under panic (R370). -/
def writeFirst (g : Nat) (ls : List (Nat × Nat)) (d : Dev) : Dev :=
  let ns := d.queuedStripes g ls
  let d := ls.foldl (fun d p => if ns.contains p.1 then bumpCtl (d.lineAddr g p.1 p.2).1 5 1 d else d) d
  ns.foldl (fun d n => writeStripe g n d) d

/-- An uncorrectable burst met by a read of a stored tile: the tile is reconstructed and relocated, and `got` follows, or
`lost` does, given the record and the channel. -/
def farUncorrectable (sid : Nat) (s : Stored) (ch bits : Nat) (tag second inj exempt : Bool) (got : Dev → Dev)
    (lost : Nat → Nat → Bool → Dev → Dev) (d : Dev) : Dev :=
  let dpa := match (d.linesOf s).find? fun p => (d.lineAddr s.group p.1 p.2).1 == ch with
    | some p => d.lineDpa s.group p.1 p.2
    | none => d.firstDpa sid
  let (v, d) := draw d
  let (id, d) := raiseRec { ErrRec.mk0 1 (if tag then 0x03 else 0x02) with
    dpaValid := true, injected := inj, block := 3, inst := ch, locator := dpa
    detail := if tag then leBytes 1 (lineTagOf dpa) ++ leBytes 1 v.toNat else leBytes 1 bits } d
  let ok := !second && d.canRebuild s ch
  let d := if ok then got (rebuiltTile sid ch id inj (clearInjects s d)) else lost id ch inj d
  if exempt || (bits == 0xFF && !tag) then d
  else
    let (cnt, d) := countEvent 0 ch d
    if d.reached 0 8 cnt then retireChannel ch 0 cnt d else d

/-- The lines of a stored tile read from the far tier under a label: `got` follows where they, or what they reconstruct to,
are here, `lost` where the tile cannot be read. -/
def farRead (sid : Nat) (s : Stored) (q : Nat) (ls : List (Nat × Nat)) (res : FarResult) (got : Dev → Dev)
    (lost : Nat → Nat → Bool → Dev → Dev) (d : Dev) : Dev :=
  let d := issueLines s.group q false ls (writeFirst s.group ls d)
  let d := d.updGroup s.group fun g => { g with lastReq := d.now }
  let d := serveAt 0 (2 * groupHalf s.group) s.group q (256 * ls.length) d
  let d := (d.chansOf s.group ls).foldl (fun d ch =>
    match d.inject? fun j => j.target == 2 && j.inst == ch with
    | some (i, x) => parityAlert ch true x.exempt (useInject i d)
    | none => d) d
  if d.unreadable s then lost 0 ((d.group s.group).lost.headD 0) false d
  else
    let (r, inj, exempt, d) := injectedRead s res d
    match r with
    | .ok => got d
    | .corrected ch lane k => got (if exempt then countCe 3 ch k d else laneCorrected ch lane k d)
    | .uncorrectable ch bits tag second => farUncorrectable sid s ch bits tag second inj exempt got lost d

/-- A read job whose tile cannot be read: the tile is damaged, every joined request fails (R398). -/
def jobLost (n sid err ch : Nat) (inj : Bool) (d : Dev) : Dev :=
  let (id, d) := markDamaged sid err ch inj d
  failJob n .poisoned id d

/-- The sectors of a read job are here; those of a promotion wait to be written to its stack (R368). -/
def jobRead (n sid : Nat) (d : Dev) : Dev :=
  let d := jobCoded n d
  match d.objs.stored.get? sid with
  | some s => if s.near == .promoting then drainCtrl (32 + s.stack) d else d
  | none => d

/-- Whether reads of a label wait at controllers in panic for the Scarlet reads there (R354). -/
def Dev.panicWaits (d : Dev) (q : Nat) (ctrls : List Nat) : Bool :=
  d.clsOf q != 3 && ctrls.any fun c => d.qos.panic.getD c false && !(d.scarlet c).isEmpty

/-- Whether a far read of a label may be issued to channels of a half. -/
def Dev.farFree (d : Dev) (q half : Nat) (chans : List Nat) : Bool :=
  d.served q 0 (2 * half) chans && !d.panicWaits q chans

/-- The read jobs that may be issued to a group, as label, arrival and number. -/
def Dev.farRivals (d : Dev) (g : Nat) : List (Nat × Nat × Nat) :=
  d.strs.jobs.filterMap fun p =>
    match d.objs.stored.get? p.2.sid with
    | none => none
    | some s =>
      if p.2.st != .far || s.group != g then none
      else (d.farLines s).bind fun ls =>
        if d.farFree p.2.qos (groupHalf g) (d.chansOf g ls) then some (p.2.qos, p.2.since, p.1) else none

/-- FAR_TIER_READ_DONE: a read job's sectors return, where its regulator lets it be issued and its turn has come. -/
def farTierReadDone (n : Nat) (res : FarResult) (d : Dev) : Dev :=
  match d.strs.jobs.get? n with
  | none => d
  | some j =>
    match d.objs.stored.get? j.sid with
    | none => d
    | some s =>
      if j.st ≠ .far then d
      else
        match d.farLines s with
        | none => d
        | some ls =>
          let half := groupHalf s.group
          if d.farFree j.qos half (d.chansOf s.group ls) &&
              d.turn 0 (2 * half) s.group j.qos j.since n (d.farRivals s.group) then
            farRead j.sid s j.qos ls res (jobRead n j.sid) (jobLost n j.sid) d
          else d

/-! ## Seals and releases (R70, R334) -/

/-- Whether an injected error stands in an entry of a thing in a near stack (R384). -/
def nearErr (s : Nat) (ident : List Nat) (bytes : Nat) (j : Inject) : Bool :=
  decide (j.target ≤ 1) && decide (j.dpa / 2 ^ 36 = s) &&
    (nearAddrs ident bytes).any fun a => a == j.dpa % 2 ^ 36 / 256 * 256

/-- Whether an injected error is one that the word code cannot correct (R386, R387). -/
def Inject.hard (j : Inject) : Bool := j.target == 1 || decide (3 ≤ j.nbits)

/-- The uncorrectable error that a read of a near copy meets. -/
def Dev.copyErr (d : Dev) (sid : Nat) (s : Stored) : Option (Nat × Inject) :=
  d.inject? fun j => j.hard && nearErr s.stack [0, sid] (256 * s.sectors) j

/-- Corrected injected errors that a read of a near copy meets, counted for the stack. -/
def copyFixed (sid : Nat) (s : Stored) (d : Dev) : Dev :=
  match d.inject? fun j => !j.hard && nearErr s.stack [0, sid] (256 * s.sectors) j with
  | none => d
  | some (i, j) =>
    let d := useInject i d
    if j.exempt then countCe 4 s.stack 1 d else laneCorrected (32 + s.stack) (16 * (j.dpa / 512 % 32)) 1 d

/-- A near copy discarded: what read it reads the far tier, and it is promoted again while it is held (Table 5-7). -/
def dropCopy (sid : Nat) (d : Dev) : Dev :=
  let back (j : Job) : Job := if j.sid == sid && j.st == .coded then { j with st := .far, tries := 0 } else j
  let d := d.updStrs fun x => { x with jobs := x.jobs.mapVals fun _ j => back j }
  evalScheds (promoteHeld (d.updStored sid fun s => { s with near := .absent }))

/-- A near copy with an uncorrectable word, injected or not: recorded, counted, discarded (R397). Which word, where it is
not injected, nothing constrains (log entry 13). -/
def copyFault (sid : Nat) (s : Stored) (d : Dev) : Dev :=
  let tenant := (((d.obj? s.obj).map (·.tenant)).getD 0)
  match d.copyErr sid s with
  | none =>
    let d := raise (nearRec s.stack tenant) d
    countNear s.stack (dropCopy sid d)
  | some (i, j) =>
    let pc := j.dpa / 256 % 64
    let (v, d) := draw (useInject i d)
    let d := raise { injectRec (32 + s.stack) j v.toNat with tenValid := true, tenant := tenant } d
    let d := dropCopy sid d
    if j.exempt then d
    else
      let (c, d) := countEvent 3 (64 * s.stack + pc) d
      if d.reached 3 8 c then stackLost s.stack 3 pc d else d

/-- A near copy read: its entries at its stack, its bytes charged to a label. -/
def readNear (sid : Nat) (s : Stored) (q : Nat) (d : Dev) : Dev :=
  serveAt 1 (2 * stackHalf s.stack) s.stack q (256 * s.sectors)
    (nearAccess s.stack [0, sid] (256 * s.sectors) q false (copyFixed sid s (d.nearUse s.stack)))

/-- Whether a stored tile has a near copy to read (R167). -/
def Stored.nearHere (s : Stored) : Bool := s.near == .present || s.near == .releasing

/-- The stored tiles a version being sealed inherits from its base. -/
def Dev.inherited (d : Dev) (h v : Nat) : List (Nat × Stored) :=
  match d.obj? h, d.ver? h v with
  | some o, some x =>
    (((o.vers.get? x.base).map (·.tiles)).getD []).filterMap fun p =>
      if x.tiles.has p.1 then none else (d.objs.stored.get? p.2.sid).map fun s => (p.2.sid, s)
  | _, _ => []

/-- Whether the seal of a version waits to read an inherited tile for its leaf: its lines cannot be read yet, or the
regulator of the seal holds it. -/
def Dev.sealWaits (d : Dev) (h v : Nat) : Bool :=
  let q := d.waiterLabel (.seal h v)
  (d.inherited h v).any fun p =>
    if p.2.damaged then false
    else if p.2.nearHere then
      (d.ctrl (32 + p.2.stack)).retrain || !d.served q 1 (2 * stackHalf p.2.stack) (stackGates p.2.stack)
    else match d.farLines p.2 with
      | none => true
      | some ls => !d.farFree q (groupHalf p.2.group) (d.chansOf p.2.group ls)

/-- An inherited tile read at seal, from its near copy where present and otherwise from the far tier (R334); one that
cannot be read is marked damaged. -/
def readLeaf (q sid : Nat) (d : Dev) : Dev :=
  match d.objs.stored.get? sid with
  | none => d
  | some s =>
    let bad := s.nearHere && (d.copyErr sid s).isSome
    let d := if bad then copyFault sid s d else d
    if s.damaged then d
    else if s.nearHere && !bad then readNear sid s q d
    else match d.farLines s with
      | none => d
      | some ls => farRead sid s q ls .ok (fun d => d) (fun err ch inj d => (markDamaged sid err ch inj d).2) d

/-- A seal that cannot form its leaves ends with `OBJECT_DAMAGED`: the version is open again, its staged tiles staged, and
what sealed it is told (DESIGN CHOICE, log entry 75). -/
def sealFailed (h v : Nat) (x : Version) (d : Dev) : Dev :=
  let back (e : TileEnt) : TileEnt := if x.staged then { e with sid := 0 } else e
  let d := sweep h (d.updVer h v fun x => { x with
    st := .opened, sealCmd := none, tiles := x.tiles.mapVals fun _ e => back e })
  let d := match x.sealCmd.bind fun n => (d.cmd? n).map fun k => (n, k) with
    | none => d
    | some (n, k) => finishCmd n { k.ends.getD (Cpl.ok []) with status := .objectDamaged } d
  d.comp.runs.foldl (fun d p =>
    if p.2.ending && ((p.2.outs[p.2.sealIx]?).map fun a => a.obj == h && a.ver == v).getD false then
      completeRun p.1 .objectDamaged d else d) d

/-- SEAL_COMPLETE: every tile of a sealing version is durable with parity and its leaves are formed; it becomes sealed, its
seal completes, and what waited for it goes on. -/
def sealComplete (h v : Nat) (d : Dev) : Dev :=
  match d.ver? h v with
  | none => d
  | some x =>
    if x.st ≠ .sealing || d.sealBusy h v || d.sealWaits h v then d
    else
      let q := d.waiterLabel (.seal h v)
      let d := (d.inherited h v).foldl (fun d p => readLeaf q p.1 d) d
      if d.anyDamaged h v then sealFailed h v x d
      else
        let d := sealVersion h v d
        let d := match x.sealCmd.bind fun n => (d.cmd? n).map fun k => (n, k) with
          | none => d
          | some (n, k) =>
            match k.ends, d.ver? h v with
            | some c, _ => finishCmd n c d
            | none, some y => finishCmd n (sealCpl k y) d
            | none, none => d
        runSealed h v d

/-- LAST_REFERENCE_END: a released version that nothing uses any more ceases to exist. -/
def lastReferenceEnd (h v : Nat) (d : Dev) : Dev :=
  match d.ver? h v with
  | none => d
  | some x => if x.st == .released && !d.referenced h v then dropVersion h v d else d

/-! ## Expansion (R118, R131, R192, R194) -/

/-- Tiles of streams that wait for a read job become ready, each converted to its stream's layout. -/
def streamsGot (n : Nat) (b : Bytes) (d : Dev) : Dev :=
  d.strs.strs.foldl (fun d p =>
    if !(p.2.reqs.any fun q => q.tiles.any (· == .waiting n)) then d
    else
      match d.obj? p.2.obj with
      | none => d
      | some o =>
        (p.2.reqs.flatMap (·.tiles)).foldl (fun d t =>
          if t ≠ .waiting n then d
          else
            let (x, d) := convFor p.1 p.2.tenant o (p.2.lay o) b d
            let put (q : Req) : Req := match q.tiles.findIdx? (· == .waiting n) with
              | some k => { q with tiles := q.tiles.set k (.ready x) }
              | none => q
            d.updStr p.1 fun s =>
              match s.reqs.findIdx? fun q => q.tiles.any (· == .waiting n) with
              | some i => { s with reqs := s.reqs.modify i put }
              | none => s) d) d

/-- The distinct layouts in which the readers of a read job wait for its tile: one codec pass each (R118, R194). -/
def Dev.passLays (d : Dev) (n : Nat) : List Nat :=
  let strs := d.strs.strs.filterMap fun p =>
    if p.2.reqs.any fun q => q.tiles.any (· == .waiting n) then (d.obj? p.2.obj).map p.2.lay else none
  let cmds := (d.q.cmds.filter fun c => c.2.jobs.any (·.2 == n)).map fun c => c.2.entry.w32 0x2C
  let runs := d.comp.runs.flatMap fun r => (r.2.jobs.filter (·.2.2 == n)).filterMap fun x =>
    (r.2.args[x.1]?).bind fun a => (d.obj? a.obj).map (argLay a)
  let wins := (d.cxl.winReads.filter fun w => w.jobs.contains n).filterMap fun w =>
    ((d.cxl.maps.get? w.map).bind fun m => d.obj? m.obj).map (·.canonLayout)
  (strs ++ cmds ++ runs ++ wins).foldl (fun l x => insertNat x l) []

/-- The near copy that a read job's first pass reads. -/
def Dev.nearRead (d : Dev) (j : Job) : Option Stored :=
  if j.tries = 0 then (d.nearOf j).filter Stored.nearHere else none

/-- Whether a near read of a label may be issued to a stack. -/
def Dev.nearFree (d : Dev) (q stack : Nat) : Bool :=
  !(d.ctrl (32 + stack)).retrain && d.served q 1 (2 * stackHalf stack) (stackGates stack) &&
    !d.panicWaits q [32 + stack]

/-- Whether a read job that reads a near copy may do so now; one that reads none goes on (R351, R352, R354). -/
def Dev.nearGoes (d : Dev) (n : Nat) (j : Job) : Bool :=
  match d.nearRead j with
  | none => true
  | some s =>
    let rivals := d.strs.jobs.filterMap fun p =>
      match d.nearRead p.2 with
      | some t => if t.stack == s.stack && d.nearFree p.2.qos t.stack then some (p.2.qos, p.2.since, p.1) else none
      | none => none
    d.nearFree j.qos s.stack && d.turn 1 (2 * stackHalf s.stack) s.stack j.qos j.since n rivals

/-- A tile expanded: its readers get it. -/
def expanded (n : Nat) (j : Job) (d : Dev) : Dev :=
  let d := d.updStrs fun x => { x with jobs := Map.upd n (fun j => { j with tries := 0 }) x.jobs }
  sweepJobs (windowSettled n false (runsGot n (cmdsGot n (streamsGot n j.data d))))

/-- A stored copy whose expansion has failed twice, an uncorrectable read of that copy: a near copy is promoted again;
whether a far copy can be rebuilt nothing here constrains (log entry 5), and a rebuilt one is expanded anew. -/
def expansionLost (n : Nat) (j : Job) (err : Nat) (d : Dev) : Dev :=
  match d.objs.stored.get? j.sid with
  | none => failJob n .poisoned err d
  | some s =>
    if s.nearHere then
      let d := d.updStored j.sid fun s => { s with near := if d.heldBy j.sid then .promoting else .absent }
      d.updStrs fun x => { x with jobs := Map.upd n (fun j => { j with
        st := .far, tries := 0, promo := d.heldBy j.sid }) x.jobs }
    else
      let (v, d) := draw d
      if v.toNat % 2 = 1 && d.mem.parity && !d.onLost s then
        let d := rebuiltTile j.sid (8 * s.group) err false (clearInjects s d)
        d.updStrs fun x => { x with jobs := Map.upd n (fun j => { j with tries := 0 }) x.jobs }
      else jobLost n j.sid err (8 * s.group) false d

/-- A pass whose check has failed: a record for its core, then another core's pass, or the copy is lost (R131). -/
def expansionFailed (n : Nat) (j : Job) (tenant : Nat) (d : Dev) : Dev :=
  let unit := coreUnit j.core
  let (x, d) := draw d
  let (y, d) := draw d
  let (id, d) := raiseRec (crossRec unit tenant x.toNat (y.toNat % 256) (y.toNat / 256 % 256) false) d
  if j.tries = 0 then
    let other := d.otherCore (coreHalf j.core) unit
    d.updStrs fun s => { s with jobs := Map.upd n (fun j => { j with tries := 1, core := other }) s.jobs }
  else expansionLost n j id d

/-- EXPANSION_DONE: the codec passes over a read job's tile, one for each layout asked for, end with its cross-parity check
(R118, R131). It waits for the bridge (R20), and a near copy for its regulator. A near copy that cannot be read is
discarded; a tile that the tile cache has lost is expanded again (R397). -/
def expansionDone (n : Nat) (r : Checked) (d : Dev) : Dev :=
  match d.strs.jobs.get? n with
  | none => d
  | some j =>
    let lays := d.passLays n
    if j.st ≠ .coded ∨ j.cross ≠ 0 ∨ lays.isEmpty ∨ !d.nearGoes n j then d
    else
      let tenant := ((d.obj? j.obj).map (·.tenant)).getD 0
      let near := d.nearRead j
      let bad : Bool := match near with
        | some s => r == .copyBad || (d.copyErr j.sid s).isSome
        | none => false
      let d := match near with
        | some s => readNear j.sid s j.qos d
        | none => d
      if bad then near.elim d fun s => copyFault j.sid s d
      else
      let d := bump 9 (coreCluster j.core) 3 lays.length d
      match r with
      | .clean => expanded n j d
      | .mended w b =>
        let words := ceilDiv j.data.length 8
        if words ≤ w then expansionFailed n j tenant d
        else
          let k := isqrt words
          let k := if k * k < words then k + 1 else k
          expanded n j (countCe 0 0 1 (raise
            (crossRec (coreUnit j.core) tenant (2 ^ (b % 64)) (w / max 1 k + 1) (w % max 1 k + 1) false) d))
      | .failed => expansionFailed n j tenant d
      | .copyBad => expanded n j d
      | .cacheBad =>
        let pd := coreCluster j.core
        let d := raise { ErrRec.mk0 1 0x02 with block := 0, unit := clusterUnit pd, tenValid := true, tenant := tenant } d
        let (c, d) := countEvent 11 pd d
        if d.reached 11 8 c then retireCluster pd 11 c d else d

/-! ## Near copies (Table 5-7) -/

/-- Whether a promotion's sectors may be written to its stack under a label: the stack does not retrain or hold its writes,
and the label's regulator lets it (R351, R352, R354). -/
def Dev.nearWritable (d : Dev) (q stack : Nat) : Bool :=
  !(d.ctrl (32 + stack)).retrain && !d.holdsWrites (32 + stack) &&
    d.served q 1 (2 * stackHalf stack + 1) (stackGates stack)

/-- The promotions whose sectors may be written to a stack, as label, arrival and number. -/
def Dev.nearWriters (d : Dev) (stack : Nat) : List (Nat × Nat × Nat) :=
  d.strs.jobs.filterMap fun p =>
    match d.nearOf p.2 with
    | some t => if t.near == .promoting && t.stack == stack && d.nearWritable p.2.qos stack then
        some (p.2.qos, p.2.since, p.1) else none
    | none => none

/-- PROMOTION_DONE: the sectors of a promotion, once read, are written to the near tier under its label. The promotions of
an encrypted tenant wait while its key is not loaded (R420). -/
def promotionDone (h v tile : Nat) (d : Dev) : Dev :=
  let sid := d.sidOf h v tile
  match d.objs.stored.get? sid, d.obj? h, (d.joinable sid).bind fun n => (d.strs.jobs.get? n).map fun j => (n, j) with
  | some s, some o, some (n, j) =>
    let inst := 2 * stackHalf s.stack + 1
    if s.near ≠ .promoting || j.st != .coded || d.keyless o.tenant || !d.nearWritable j.qos s.stack ||
        !d.turn 1 inst (6 + s.stack) j.qos j.since n (d.nearWriters s.stack) then d
    else
      let d := serveAt 1 inst (6 + s.stack) j.qos (256 * s.sectors) (nearAccess s.stack [0, sid] (256 * s.sectors) j.qos true d)
      let d := d.updStored sid fun s => { s with near := if d.heldBy sid then .present else .releasing }
      let d := d.updStrs fun x => { x with jobs := Map.upd n (fun j => { j with promo := false }) x.jobs }
      drainCtrl (32 + s.stack) (settleClaims (sweepJobs (d.nearUse s.stack)))
  | _, _, _ => d

/-- RELEASING_COPY_FREED: a releasing copy with no read in flight returns to absent, its space free. -/
def releasingCopyFreed (h v tile : Nat) (d : Dev) : Dev :=
  let sid := d.sidOf h v tile
  match d.objs.stored.get? sid with
  | some s =>
    if s.near == .releasing && (d.jobOf sid).isNone then
      evalScheds (d.updStored sid fun s => { s with near := .absent })
    else d
  | none => d

/-! ## Meanings -/

/-- CODING_DONE. -/
def execCodingDone (job : Nat) (ok : Bool) (s : State) : Host.Outcome State Fault Refusal := onDev (codingDone job ok) s
/-- SEAL_AS_WRITTEN_WAIT_EXPIRY. -/
def execSealAsWrittenWaitExpiry (half : Nat) (s : State) : Host.Outcome State Fault Refusal := onDev (sawExpiry half) s
/-- STRIPE_WRITE_DONE. -/
def execStripeWriteDone (g n : Nat) (s : State) : Host.Outcome State Fault Refusal := onDev (stripeWriteDone g n) s
/-- SEAL_COMPLETE. -/
def execSealComplete (h v : Nat) (s : State) : Host.Outcome State Fault Refusal := onDev (sealComplete h v) s
/-- LAST_REFERENCE_END. -/
def execLastReferenceEnd (h v : Nat) (s : State) : Host.Outcome State Fault Refusal := onDev (lastReferenceEnd h v) s
/-- FAR_TIER_READ_DONE. -/
def execFarTierReadDone (job : Nat) (res : FarResult) (s : State) : Host.Outcome State Fault Refusal :=
  onDev (farTierReadDone job res) s
/-- EXPANSION_DONE. -/
def execExpansionDone (job : Nat) (res : Checked) (s : State) : Host.Outcome State Fault Refusal :=
  onDev (expansionDone job res) s
/-- PROMOTION_DONE. -/
def execPromotionDone (h v tile : Nat) (s : State) : Host.Outcome State Fault Refusal := onDev (promotionDone h v tile) s
/-- RELEASING_COPY_FREED. -/
def execReleasingCopyFreed (h v tile : Nat) (s : State) : Host.Outcome State Fault Refusal :=
  onDev (releasingCopyFreed h v tile) s

end Sys2Proof.Machine
end

