-- ==== Sys2Proof/Machine/Integrity.lean ====
section
/-! DEFINITION. The commands of integrity: scrub, retirement, error log, rebuild, clearing of poison, injection, trace
export, evacuation, tenant keys (14_integrity.md). -/

namespace Sys2Proof.Machine

/-! ## `SCRUB_RANGE` (R405) -/

/-- Base of a parity group in the far tier's DPA space. -/
def Dev.groupBase (d : Dev) (g : Nat) : Nat :=
  2 ^ 44 + ((List.range g).map fun k => 8 * (d.group k).modGib * gib).sum

/-- Whether a DPA range overlaps a live partial-array self-refresh claim (R375, R531). -/
def Dev.pasrOverlap (d : Dev) (a n : Nat) : Bool :=
  (List.range 4).any fun g =>
    let m := (d.group g).modGib * gib
    (setBits 8 (d.pwr.pasr.getD g 0)).any fun k => overlaps a n (d.groupBase g + k * m) m

/-- Words of the written far-tier grains of a range that a scrub reads: lines on a retired channel are passed over. -/
def Dev.scrubWords (d : Dev) (a n : Nat) : Nat :=
  ((List.range 4).map fun g =>
    let x := d.group g
    (x.stripes.map fun p =>
      if !p.2.written then 0
      else 32 * ((d.linesWritten p.1 p.2).filter fun l =>
        let at' := d.lineDpa g p.1 l
        decide (a ≤ at' ∧ at' < a + n) && !x.lost.contains (d.lineAddr g p.1 l).1).length).sum).sum

/-- What a scrub has found: corrected words, uncorrectable words, their DPAs. -/
structure Scrub where
  corrected : Nat
  bad       : Nat
  dpas      : List Nat

/-- A word found corrected. -/
def Scrub.fixed (r : Scrub) : Scrub := { r with corrected := r.corrected + 1 }

/-- Words found uncorrectable from a DPA on: one, or the eight of a burst whose line tag is wrong. -/
def Scrub.lost (r : Scrub) (j : Inject) : Scrub :=
  let n := if j.target = 1 then 8 else 1
  { r with bad := r.bad + n, dpas := r.dpas ++ (List.range n).map fun k => j.dpa / 8 * 8 + 8 * k }

/-- Whether a scrub reads a far-tier DPA: its grain is valid, its channel not retired. -/
def Dev.scrubReads (d : Dev) (a : Nat) : Bool :=
  let (g, n, _) := d.grainIn a
  let l := (a - d.lineDpa g n 0) / 256
  (d.objs.rawGr.contains (a / 4096) || match (d.group g).stripes.get? n with
    | some s => s.written && (d.linesWritten n s).contains l
    | none => false) && !(d.group g).lost.contains (d.lineAddr g n l).1

/-- An injected error a scrub meets in the far tier: a stored tile with a double-bit correction is relocated, one with an
uncorrectable word is reconstructed and relocated (R392, R405). -/
def scrubFar (r : Scrub) (j : Inject) (d : Dev) : Scrub × Dev :=
  let (g, n, _) := d.grainIn j.dpa
  let ch := (d.lineAddr g n ((j.dpa - d.lineDpa g n 0) / 256)).1
  let tile := d.objs.stored.find? fun p => d.inTile p.2 j.dpa
  if !d.scrubReads j.dpa then (r, d)
  else if j.target = 0 ∧ j.nbits < 3 then
    let d := if j.exempt then countCe 3 ch 1 d else laneCorrected ch (5 * (j.dpa / 64 % 2)) 1 d
    let d := match j.nbits, tile with
      | 2, some (sid, s) => (moveStored sid (clearInjects s d)).getD d
      | _, _ => d
    (r.fixed, d)
  else
    let (v, d) := draw d
    let (id, d) := raiseRec (injectRec ch j v.toNat) d
    let d := match tile with
      | some (sid, s) =>
        if d.canRebuild s ch then rebuiltTile sid ch id true (clearInjects s d)
        else settleClaims (markDamaged sid id ch true d).2
      | none => d
    let d := if j.exempt then d
      else
        let (c, d) := countEvent 0 ch d
        if d.reached 0 8 c then retireChannel ch 0 c d else d
    (r.lost j, d)

/-- What an uncorrectable word of the near tier does to what lies there: a near copy is discarded, a staged tile is damaged, a
line of an extent is poisoned (Table 14-4). -/
def nearDamage (s : Nat) (j : Inject) (d : Dev) : Dev :=
  let d := d.objs.stored.foldl (fun d p =>
    if p.2.nearHere && p.2.stack == s && nearErr s [0, p.1] (256 * p.2.sectors) j then dropCopy p.1 d else d) d
  let hit (h v : Nat) (e : Nat × TileEnt) : TileEnt :=
    if e.2.sid == 0 && nearErr s [1, h, v, e.1] e.2.data.length j then { e.2 with dmg := true } else e.2
  let d := d.objs.objs.foldl (fun d p => p.2.vers.foldl (fun d v =>
    if v.2.staged && v.2.stack == s && v.2.st == .opened then
      d.updVer p.1 v.1 fun x => { x with tiles := v.2.tiles.map fun e => (e.1, hit p.1 v.1 e) }
    else d) d) d
  d.cxl.exts.foldl (fun d p =>
    let bad := (List.range (p.2.length / 64)).filter fun n =>
      stackFor 3 (p.1 * 2 ^ 20 + n / 32768) p.2.half == s && n % 4 == j.dpa / 64 % 4 && nearErr s [2, p.1, n / 4] 64 j
    if p.2.writable then d.updExt p.1 fun e => bad.foldl (fun e n => e.put n [] true) e else d) d

/-- An injected error a scrub meets in the near tier: a corrected word is written back, which ends its error (R389). Whether
its grain is valid nothing constrains but what the device has placed there (log entry 13). -/
def scrubNear (r : Scrub) (j : Inject) (d : Dev) : Scrub × Dev :=
  let s := j.dpa / 2 ^ 36
  let pc := j.dpa / 256 % 64
  if !d.serving (32 + s) || !(d.nearHolds j.dpa || d.inRing j.dpa || d.objs.rawGr.contains (j.dpa / 4096)) then (r, d)
  else if j.target = 0 ∧ j.nbits < 3 then
    let d := d.updInteg fun x => { x with injects := x.injects.filter (· != j) }
    (r.fixed, if j.exempt then countCe 4 s 1 d else laneCorrected (32 + s) (16 * (pc / 2)) 1 d)
  else
    let (v, d) := draw d
    let d := nearDamage s j (raise (injectRec (32 + s) j v.toNat) d)
    let d := if j.exempt then d
      else
        let (c, d) := countEvent 3 (64 * s + pc) d
        if d.reached 3 8 c then stackLost s 3 pc d else d
    (r.lost j, d)

/-- An injected error a scrub meets (R405). -/
def scrubHit (r : Scrub) (j : Inject) (d : Dev) : Scrub × Dev :=
  if j.dpa < 2 ^ 44 then scrubNear r j d else scrubFar r j d

/-- `SCRUB_RANGE`: one pass over the range. Errors lie only where they have been injected (log entry 17); how many valid
words a near-tier range holds nothing here constrains (log entry 5). -/
def bodyScrubRange : Body := plain fun x d => do
  let a := x.e.w64 0x20
  let n := x.e.w64 0x28
  checkQos x d
  need (a % 4096 == 0) (errF 0x20)
  need (n != 0 && n % 4096 == 0) (errF 0x28)
  need (d.hasMem a n) (errF 0x20)
  need (!d.pasrOverlap a n) (errC 5 true)
  let (v, d) := draw d
  let words := if a < 2 ^ 44 then v.toNat % (n / 8 + 1) else d.scrubWords a n
  let hits := d.integ.injects.filter fun j => decide (j.target ≤ 1 ∧ a ≤ j.dpa ∧ j.dpa < a + n)
  let (r, d) := hits.foldl (fun s j => scrubHit s.1 j s.2) (({ corrected := 0, bad := 0, dpas := [] } : Scrub), d)
  let first := ((r.dpas.foldl (fun l k => insertNat k l) []).take 16)
  okData x [] (leBytes 8 words ++ leBytes 8 r.corrected ++ leBytes 8 r.bad ++ leBytes 1 first.length ++ zeros 7 ++
    (List.range 16).flatMap fun k => leBytes 8 (first.getD k 0)) d

/-! ## `RETIRE` (R406) -/

/-- Stripes of a group that an entry names in the far tier (Table 13-4), a bank's rows those of its rank: stripe `n` holds
channel offsets 4,096 `n` to 4,096 `n` + 4,095 of every channel. -/
def Dev.farStripes (d : Dev) (dpa scope count : Nat) : Nat × List Nat :=
  let (g, st) := d.stripeOf dpa
  let l := (dpa - d.lineDpa g st 0) / 256
  let (ch, o) := d.lineAddr g st l
  let (b, row) := d.bankRow ch o
  let per := (d.group g).modGib * gib / 2 ^ 19 / max 1 (d.ctrl ch).ranks
  let rows := if scope = 2 then fromTo (b / 32 * per) per else fromTo row count
  if scope = 0 then
    (g, ((List.range count).map fun k => (d.stripeOf (dpa / 4096 * 4096 + 4096 * k)).2).foldl (fun l x => insertNat x l) [])
  else (g, rows.flatMap fun r => fromTo (128 * r + 4 * (b % 32)) 4)

/-- Grains an entry names in the near tier (R384): a row of a pseudo-channel touches four grains. -/
def nearGrains (dpa scope count : Nat) : List Nat :=
  if scope = 0 then fromTo (dpa / 4096) count
  else
    let s := dpa / 2 ^ 36
    let n := dpa % 2 ^ 36
    let pc := n / 256 % 64
    let o := n / 2 ^ 14 * 256 + n % 256
    let bank := o / 1024 % 16
    let rows := if scope = 2 then fromTo 0 65536 else fromTo (o / 2 ^ 14) count
    (rows.flatMap fun r => (List.range 4).map fun k =>
      let chunk := (r * 2 ^ 14 + bank * 1024) / 256 + k
      (s * 2 ^ 36 + chunk * 2 ^ 14 + pc * 256) / 4096).foldl (fun l x => insertNat x l) []

/-- A stripe emptied and kept out of use: none where the writer has no room for its live sectors. Completions that wait
for it wait for the new stripes. -/
def retireStripe (g n : Nat) (d : Dev) : Option Dev :=
  let d := (closeStripes [(g, n)] d).updGroup g fun x => { x with retired := insertNat n x.retired }
  if (d.group g).stripes.has n then
    let d' := reclaimStripe g n d
    if (d'.group g).stripes.has n then none else some d'
  else some d

/-- ADD in the far tier. -/
def retireFar (e : Entry) (d : Dev) : Except Cpl (Nat × Nat × Dev) :=
  let (g, all) := d.farStripes (e.w64 0x28) (e.fld 0x21 0 8) (e.w32 0x30)
  let new := all.filter fun n => !(d.group g).retired.contains n
  let live := (new.map fun n => ((d.group g).stripes.getD n Stripe.fresh).live).sum
  match new.foldl (fun (a : Option Dev) n => a.bind (retireStripe g n)) (some d) with
  | none => .error { Cpl.of .capacityShort with ext := some (.capacity (groupHalf g) 0 0 (d.farCost live)) }
  | some d =>
    let lost := new.length * 32768 * 255 / 256
    .ok (8 * new.length, 256 * live,
      d.updTiers fun t => { t with retFar := t.retFar.modify (groupHalf g) (· + lost) })

/-- ADD in the near tier. How many bytes are moved nothing here constrains (log entry 5). -/
def retireNear (e : Entry) (d : Dev) : Except Cpl (Nat × Nat × Dev) :=
  let dpa := e.w64 0x28
  let half := stackHalf (dpa / 2 ^ 36)
  let old := d.mgmt.flash.retire.flatMap fun r => if r.dpa < 2 ^ 44 then nearGrains r.dpa r.scope r.count else []
  let new := (nearGrains dpa (e.fld 0x21 0 8) (e.w32 0x30)).filter fun k => !old.contains k
  let n := 4096 * new.length
  if d.nearUsed half + n > d.nearCap half then
    .error { Cpl.of .capacityShort with ext := some (.capacity half 0 (d.nearUsed half + n - d.nearCap half) 0) }
  else
    let (v, d) := draw d
    .ok (new.length, v.toNat % (n + 1),
      d.updTiers fun t => { t with retNear := t.retNear.modify half (· + n) })

/-- An entry of the retirement list as LIST and `ERRLOG_READ` write it. -/
def RetireEntry.bytes (r : RetireEntry) : Bytes :=
  leBytes 8 r.dpa ++ leBytes 1 r.scope ++ zeros 3 ++ leBytes 4 r.count

/-- The last byte an ADD names. -/
def Dev.retireEnd (d : Dev) (dpa scope count : Nat) : Nat :=
  if scope = 0 then dpa / 4096 * 4096 + 4096 * count
  else if scope = 2 then dpa + 1
  else if dpa < 2 ^ 44 then dpa + (count - 1) * 2 ^ 20 + 1
  else
    let (g, st) := d.stripeOf dpa
    d.lineDpa g (st + 128 * (count - 1)) 127 + 1

/-- `RETIRE`. -/
def bodyRetire : Body := plain fun x d => do
  let e := x.e
  let dpa := e.w64 0x28
  let set (f : List RetireEntry → List RetireEntry) (d : Dev) : Dev :=
    d.updMgmt fun m => { m with flash := { m.flash with retire := f m.flash.retire } }
  checkQos x d
  if e.b20 = 1 then
    okData x (leBytes 4 d.mgmt.flash.retire.length) (d.mgmt.flash.retire.flatMap RetireEntry.bytes) d
  else if e.b20 = 2 then
    need (d.pwr.mode != .service) (errS .notReady)
    okRes [] (set (fun _ => []) d)
  else
    let scope := e.fld 0x21 0 8
    need (d.hasMem dpa 1 && !inReserve dpa) (errF 0x28)
    need (d.hasMem dpa (d.retireEnd dpa scope (e.w32 0x30) - dpa)) (errF 0x30)
    need (decide (d.mgmt.flash.retire.length < 4096)) (errS .noResource)
    let (n, b, d) ← if dpa < 2 ^ 44 then retireNear e d else retireFar e d
    okRes (leBytes 8 n ++ leBytes 8 b) (set (· ++ [⟨dpa, scope, e.w32 0x30⟩]) d)

/-! ## `ERRLOG_READ` (R112, R413) -/

/-- Whether a tenant may read a record. -/
def ErrRec.seenBy (r : ErrRec) (t : Nat) : Bool := t == 0 || (r.tenValid && r.tenant == t)

/-- Steps in sequence from the newest ID to another; IDs run from 1 to 2^32 − 1 and then from 1 again. -/
def idAfter (newest id : Nat) : Nat := (id + (2 ^ 32 - 1) - newest) % (2 ^ 32 - 1)

/-- The records a read starts from, in ring order. -/
def Dev.logFrom (d : Dev) (first : Nat) : List ErrRec :=
  let log := d.integ.log
  let newest := (log.getLast?.map (·.id)).getD 0
  if log.any (·.id == first) then log.dropWhile (·.id != first)
  else if first ≠ 0 ∧ 0 < idAfter newest first ∧ idAfter newest first ≤ 2 ^ 31 then []
  else log

/-- `ERRLOG_READ`. -/
def bodyErrlogRead : Body := plain fun x d => do
  let e := x.e
  checkQos x d
  need (e.b20 == 0 || x.t == 0) (errS .notPermitted)
  let log := d.integ.log
  let tail := leBytes 4 ((log.head?.map (·.id)).getD 0) ++ leBytes 4 ((log.getLast?.map (·.id)).getD 0)
  let l : List Bytes :=
    if e.b20 = 0 then
      ((d.logFrom (e.w32 0x24)).filter fun r => r.seenBy x.t).map fun r => r.bytes x.t
    else if e.b20 = 1 then d.mgmt.flash.summary.vals
    else d.mgmt.flash.retire.map fun r => r.bytes ++ zeros 48
  let l := l.take (e.w16 0x28)
  okData x (leBytes 2 l.length ++ zeros 2 ++ tail) l.flatten d

/-! ## `REBUILD` (R395) -/

/-- Code of a group's state. -/
def GroupState.code : GroupState → Nat
  | .inService => 0 | .rebuilding => 1 | .paused => 2 | .out => 3

/-- RETRY_TILE: whether a damaged tile that may still be read now reads nothing constrains (log entry 5). -/
def retryTile (x : Ctx) (d : Dev) : Except Cpl Res := do
  let e := x.e
  let o ← objOf x (e.w32 0x24) d
  let v ← resolveSealed o x.t (e.w32 0x24) 0x24
  need (decide (e.w32 0x28 < o.count)) (errF 0x28)
  let sid := d.sidOf e.ha v (e.w32 0x28)
  match d.objs.stored.get? sid with
  | none => .error (errF 0x28)
  | some s =>
    need s.damaged (errF 0x28)
    let (r, d) := draw d
    if s.places.isEmpty || d.unreadable s || r.toNat % 2 = 0 then
      .ok (.done (errS .objectDamaged) d)
    else
      let d := d.updStored sid fun s => { s with damaged := false }
      okRes [] (evalScheds ((moveStored sid d).getD d))

/-- `REBUILD`. -/
def bodyRebuild : Body := plain fun x d => do
  let e := x.e
  let g := e.fld 0x21 0 2
  if e.b20 = 2 then retryTile x d
  else
    checkQos x d
    let st := (d.group g).st
    if e.b20 = 0 then
      let left := if st == .rebuilding || st == .paused then d.groupSectors g else 0
      okRes (leBytes 8 left ++ leBytes 1 st.code) d
    else
      need (st == .rebuilding || st == .paused) (errF 0x21)
      okRes [] (d.updGroup g fun x => { x with label := some e.qos })

/-! ## `POISON_CLEAR` of a tiled object (R407) -/

/-- Damaged tiles of a range of a version. -/
def Dev.damagedIn (d : Dev) (h v first n : Nat) : List Nat :=
  (fromTo first n).filter fun i => (d.tileAt h v i).2.1

/-- The damaged tiles of a range of an open version replaced with zeros, as tile writes of its external producer. -/
def clearTiles (x : Ctx) (d : Dev) : Except Cpl Res := do
  let e := x.e
  let o ← ownObj x (e.w32 0x20) d
  let v ← resolveRead o x.t (e.w32 0x20) 0x20
  checkRange o (e.w32 0x24) (e.w32 0x28) 0x24
  checkKey o d
  let w ← match o.vers.get? v with
    | some w => .ok w
    | none => .error (errF 0x20)
  need (w.st == .opened) (errS .alreadySealed)
  need (!w.damaged) (errS .objectDamaged)
  let l := d.damagedIn e.ha v (e.w32 0x24) (e.w32 0x28)
  if l.isEmpty then okRes (leBytes 8 0) d
  else
    match w.external with
    | none => .error (errS .noResource)
    | some (prod, w) =>
      okRes (leBytes 8 l.length) (l.foldl (fun d i =>
        putTile e.ha v i { data := o.zeroTile, sid := 0, dmg := false, prod := prod } d) (d.updVer e.ha v fun _ => w))

/-! ## `DIAG_INJECT` (R408) -/

/-- `DIAG_INJECT`. -/
def bodyDiagInject : Body := plain fun x d => do
  let e := x.e
  let t := e.b20
  checkQos x d
  if t = 4 then
    let _ ← checkUnit x.t 0x2C (e.w32 0x2C) d
    need (unitLevel (e.w32 0x2C) == 1) (errF 0x2C)
  if t ≤ 1 then need (d.hasMem (e.w64 0x30) 1) (errF 0x30)
  let j : Inject :=
    { target := t, nbits := e.fld 0x21 0 2, exempt := e.fld 0x21 2 1 == 1, inst := e.fld 0x22 0 8, left := e.w32 0x24
      unit := e.w32 0x2C, dpa := e.w64 0x30 }
  okRes [] (d.updInteg fun i => { i with injects := i.injects ++ [j] })

/-! ## Trace export (R409 to R411) -/

/-- CRC-64 of R426: polynomial 0x42F0_E1EB_A9EA_3693, all ones before and after, no reflection. -/
def crc64 (b : Bytes) : BitVec 64 :=
  let bit (c : BitVec 64) : BitVec 64 := if c.msb then (c <<< 1) ^^^ 0x42F0E1EBA9EA3693#64 else c <<< 1
  let byte (c : BitVec 64) (x : Byte) : BitVec 64 :=
    bit (bit (bit (bit (bit (bit (bit (bit (c ^^^ (x.setWidth 64 <<< 56)))))))))
  ~~~(b.foldl byte (BitVec.allOnes 64))

/-- Lanes of the pairs that are not retired. -/
def Port.liveLanes (p : Port) : Nat := maskOf ((List.range 8).filter fun k => !bitOf p.retPairs (k / 2))

/-- A port enters a link state; the link-loss timer runs outside ACTIVE and QUIET once the link has been ACTIVE
(R443). -/
def setLink (port : Nat) (st : LinkState) (d : Dev) : Dev :=
  d.updPort port fun p => { p with
    st := st, since := d.now
    downSince := if st = .active ∨ st = .quiet ∨ !p.everActive then none else p.downSince.or (some d.now) }

/-- A port trains from DETECT: the training pattern on every lane not retired (Table 15-1). -/
def toDetect (port : Nat) (d : Dev) : Dev :=
  requalify (emit (.pattern port (d.port port).liveLanes) (setLink port .detect d))

/-- A port whose group is on leaves DISABLED, unless it is retired, its lanes are held by the trace export, or the fatal
state keeps the transmitters off (Table 15-1, R401). -/
def trainPort (port : Nat) (d : Dev) : Dev :=
  if (d.port port).st ≠ .disabled ∨ (d.port port).retired ∨ (port = 55 ∧ d.integ.trace.enabled) ∨ d.pwr.fatal then d
  else toDetect port d

/-- The export ended after the frame in progress; yl55's lanes are free to train (R409, Table 15-1). -/
def endTrace (d : Dev) : Dev :=
  let d := d.updInteg fun i => { i with trace :=
    { i.trace with enabled := false, sending := false, clock := false, buf := [] } }
  if d.domain 25 = .on then trainPort 55 d else d

/-- ENABLE. -/
def traceEnable (x : Ctx) (preset : Bool) (d : Dev) : Except Cpl Dev := do
  let e := x.e
  let t := d.integ.trace
  need (!t.enabled && !(d.port 55).bound && !presetHolds x 1 d) (errC 1 true)
  need (!(e.fld 0x21 0 1 == 1 && (d.feat 0x03 0 8 == 1 || presetHolds x 3 d))) (errC 3 true)
  need (e.fld 0x24 0 8 != 0) (errF 0x24)
  need (e.fld 0x21 2 1 == 0 || d.defined (e.fld 0x22 0 10)) (errF 0x22)
  let d := d.updInteg fun i => { i with trace :=
    { t with
      enabled := true, sending := false, preset := preset, clock := e.fld 0x21 0 1 == 1
      narrow := e.fld 0x21 1 1 == 1, filter := e.fld 0x21 2 1 == 1, tenant := e.fld 0x22 0 10
      sources := e.fld 0x24 0 8, buf := [], sent := 0, dropped := 0, dropNew := 0 } }
  let d := if (d.port 55).st = .disabled then d else requalify (emit (.txOff 55) (setLink 55 .disabled d))
  let d := if d.domain 25 == .off then d.setDomain 25 .switchingOn else d
  .ok (emit .tracePattern d)

/-- `TRACE_CTL`. -/
def bodyTraceCtl : Body := plain fun x d => do
  checkQos x d
  let res (d : Dev) : Bytes := leBytes 8 d.integ.trace.sent ++ leBytes 8 d.integ.trace.dropped
  if x.e.b20 = 2 then okRes (res d) d
  else if x.e.b20 = 1 then
    need d.integ.trace.enabled (errF 0x20)
    okRes (res d) (endTrace d)
  else
    let preset : Bool := match x.cmd.origin with
      | .preset _ => true
      | _ => false
    let d ← traceEnable x preset d
    okRes (res d) d

/-- TRACE_PATTERN_END: the training pattern is over, frames follow. -/
def tracePatternEnd (d : Dev) : Dev :=
  if d.integ.trace.enabled && !d.integ.trace.sending && d.domain 25 == .on then
    d.updInteg fun i => { i with trace := { i.trace with sending := true } }
  else d

/-- A trace frame (Table 14-17). -/
def Trace.frame (t : Trace) : Bytes :=
  let l := t.buf.take 7
  let body := leBytes 2 0x5458 ++ leBytes 1 l.length ++ zeros 1 ++ leBytes 4 t.seqNo.toNat ++
    leBytes 4 (min t.dropNew 0xFFFFFFFF) ++ zeros 4 ++ (l.flatten ++ zeros 224).take 224 ++ zeros 8
  body ++ leBytes 8 (crc64 body).toNat

/-- TRACE_FRAME: the next frame leaves, idle where no record waits. -/
def traceFrame (d : Dev) : Dev :=
  let t := d.integ.trace
  if t.enabled && t.sending && d.domain 25 == .on then
    emit (.frame t.frame) (d.updInteg fun i => { i with trace := { t with
      buf := t.buf.drop 7, seqNo := t.seqNo + 1, sent := t.sent + 1, dropNew := 0 } })
  else d

/-- LOG_FLUSH: the records held in SRAM are written to the flash ring, and so are correlation records (R413, R517). -/
def logFlush (d : Dev) : Dev :=
  let d := d.updInteg fun i => { i with log := i.log.map fun r => { r with flushed := true } }
  d.updMgmt fun m => { m with flash := { m.flash with corr := m.flash.corr.map fun c => { c with flushed := true } } }

/-! ## `EVACUATE` (R414 to R416) -/

/-- Sealed versions in the order of R414: object key (tenant, number), handle, version. -/
def Dev.evacList (d : Dev) (f : Nat → Obj → Bool) : List (Nat × Nat × Nat) :=
  let objs : Map Nat := d.objs.objs.foldl (fun m p => if f p.1 p.2 then Map.set (p.2.tenant * 2 ^ 48 + p.2.num) p.1 m else m) []
  objs.flatMap fun p =>
    match d.obj? p.2 with
    | none => []
    | some o => (o.vers.filter fun v => v.2.st == .sealed).map fun v => (p.1, p.2, v.1)

/-- A version's record (Table 14-14, R415), and how many of its tiles are damaged. -/
def Dev.evacRecord (d : Dev) (h v : Nat) (o : Obj) (x : Version) : Bytes × Nat :=
  let bad := (List.range o.count).filter fun i =>
    let (_, dmg, sid) := d.tileAt h v i
    dmg || (match d.objs.stored.get? sid with
      | some s => d.unreadable s
      | none => false)
  let tiles := (List.range o.count).flatMap fun i => if bad.contains i then o.zeroTile else (d.tileAt h v i).1
  let list := pad8 (bad.flatMap (leBytes 4))
  let head := leBytes 4 (256 + tiles.length + list.length) ++ leBytes 4 v ++ leBytes 8 h ++
    leBytes 4 (o.typ + 2 ^ 8 * o.fmt + 2 ^ 16 * o.tr + 2 ^ 20 * o.tc) ++ leBytes 4 o.rows ++ leBytes 4 o.cols ++
    leBytes 4 o.count ++ leBytes 4 (b2n x.nd) ++ leBytes 4 bad.length ++ zeros 24 ++
    x.content ++ x.prov ++ zeros 64
  (head ++ tiles ++ list, bad.length)

/-- What an evacuation has done so far. -/
structure Evac where
  data  : Bytes
  vers  : Nat
  path  : Nat
  keys  : Nat
  tiles : Nat
  dmg   : Nat

/-- Versions written until one does not fit; what is left then. -/
def evacAll (d : Dev) (half room : Nat) : List (Nat × Nat × Nat) → Evac → Evac × Option (Nat × Nat)
  | [], r => (r, none)
  | (k, h, v) :: l, r =>
    match d.obj? h, d.ver? h v with
    | some o, some x =>
      if d.keyless o.tenant then evacAll d half room l { r with keys := r.keys + 1 }
      else if d.pwr.sable && o.half != half then evacAll d half room l { r with path := r.path + 1 }
      else
        let (b, bad) := d.evacRecord h v o x
        if r.data.length + b.length > room then (r, some (k, v))
        else evacAll d half room l { r with
          data := r.data ++ b, vers := r.vers + 1, tiles := r.tiles + bad, dmg := r.dmg + b2n (bad != 0) }
    | _, _ => evacAll d half room l r

/-- `EVACUATE`. In object scope a grantee gets the versions its grants cover (R83). A cursor is the number of a place the
device has kept, so it names a version exactly (log entry 18). -/
def bodyEvacuate : Body := plain fun x d => do
  let e := x.e
  if e.b20 = 2 then
    let _ ← checkHandle x 8 e.ha 0 d
  checkQos x d
  need (e.b20 != 1 || d.defined (e.fld 0x22 0 10)) (errF 0x22)
  need (decide (64 ≤ e.w64 0x28)) (errF 0x28)
  let cur := e.w64 0x30
  let from' ← if cur = 0 then .ok (0, 0) else match d.integ.cursors[cur - 1]? with
    | some p => .ok p
    | none => .error (errF 0x30)
  let all := d.evacList fun h o =>
    e.b20 == 0 || (e.b20 == 1 && o.tenant == e.fld 0x22 0 10) || (e.b20 == 2 && h == e.ha)
  let seen (p : Nat × Nat × Nat) : Bool := e.b20 != 2 || (match d.obj? p.2.1 with
    | some o => o.tenant == x.t || o.covers x.t p.2.2
    | none => false)
  let todo := (all.filter seen).filter fun p => decide (p.1 > from'.1) || (p.1 == from'.1 && decide (p.2.2 ≥ from'.2))
  let (r, rest) := evacAll d x.half (e.w64 0x28 - 64) todo
    { data := [], vers := 0, path := 0, keys := 0, tiles := 0, dmg := 0 }
  let (next, d) : Nat × Dev := match rest with
    | none => (0, d)
    | some p => (d.integ.cursors.length + 1, d.updInteg fun i => { i with cursors := i.cursors ++ [p] })
  let sum := leBytes 8 r.data.length ++ leBytes 8 next ++ leBytes 4 r.vers ++ leBytes 4 r.path ++ leBytes 4 r.keys ++
    leBytes 4 r.tiles ++ leBytes 4 r.dmg ++ zeros 28
  let st : Status := if r.path ≠ 0 then .pathLost else if r.tiles ≠ 0 then .objectDamaged else .success
  .ok (.done { Cpl.ok (leBytes 8 r.data.length ++ leBytes 8 next) with
    status := st, data := [⟨e.addr, r.data ++ sum⟩] } d)

/-! ## `KEY_SET` (R418 to R420) -/

/-- The check value of a key, 16 bytes: its function nothing constrains (log entry 6). -/
def keyCheck (k : Bytes) : Bytes := leBytes 16 (Config.keyCheck k).toNat

/-- Whether a tenant holds any object, kernels and extents included. -/
def Dev.holdsObject (d : Dev) (t : Nat) : Bool :=
  (d.objs.objs.any fun p => p.2.tenant == t) || (d.comp.kernels.any fun p => p.2.tenant == t) ||
    d.cxl.exts.any fun p => p.2.tenant == t

/-- `KEY_SET`. -/
def bodyKeySet : Body := withData
  (fun x d => do
    checkQos x d
    if x.e.b20 = 0 then
      match d.integ.keys.get? x.t with
      | some k => need k.key.isNone (errC 0xFF true)
      | none => need (d.charge x.t 1 == 0 && d.charge x.t 2 == 0) (errC 0xFF true)
      .ok 64
    else .ok 0)
  (fun x b d => do
    let set (s : Option KeySlot) (d : Dev) : Dev := d.updInteg fun i => { i with
      keys := match s with
        | some k => Map.set x.t k i.keys
        | none => Map.del x.t i.keys }
    if x.e.b20 = 0 then
      match d.integ.keys.get? x.t with
      | some k => need (k.check == keyCheck b) (errS .integrityFail)
      | none => .ok ()
      okRes [] (set (some { key := some b, check := keyCheck b }) d.useSecurity)
    else if x.e.b20 = 1 then
      match d.integ.keys.get? x.t with
      | some k => okRes [] (set (some { k with key := none }) d)
      | none => okRes [] d
    else
      need (!d.holdsObject x.t) (errC 0xFF true)
      okRes [] (set none d))

/-! ## Meanings -/

/-- SCRUB_RANGE. -/
def execScrubRange (c : Nat) (s : State) : Host.Outcome State Fault Refusal := onDev (startCmd 0x80 bodyScrubRange c) s
/-- RETIRE. -/
def execRetire (c : Nat) (s : State) : Host.Outcome State Fault Refusal := onDev (startCmd 0x81 bodyRetire c) s
/-- ERRLOG_READ. -/
def execErrlogRead (c : Nat) (s : State) : Host.Outcome State Fault Refusal := onDev (startCmd 0x82 bodyErrlogRead c) s
/-- REBUILD. -/
def execRebuild (c : Nat) (s : State) : Host.Outcome State Fault Refusal := onDev (startCmd 0x83 bodyRebuild c) s
/-- DIAG_INJECT. -/
def execDiagInject (c : Nat) (s : State) : Host.Outcome State Fault Refusal := onDev (startCmd 0xF0 bodyDiagInject c) s
/-- TRACE_CTL. -/
def execTraceCtl (c : Nat) (s : State) : Host.Outcome State Fault Refusal := onDev (startCmd 0xF1 bodyTraceCtl c) s
/-- TRACE_PATTERN_END. -/
def execTracePatternEnd (s : State) : Host.Outcome State Fault Refusal := onDev tracePatternEnd s
/-- TRACE_FRAME. -/
def execTraceFrame (s : State) : Host.Outcome State Fault Refusal := onDev traceFrame s
/-- LOG_FLUSH. -/
def execLogFlush (s : State) : Host.Outcome State Fault Refusal := onDev logFlush s
/-- EVACUATE. -/
def execEvacuate (c : Nat) (s : State) : Host.Outcome State Fault Refusal := onDev (startCmd 0x19 bodyEvacuate c) s
/-- KEY_SET. -/
def execKeySet (c : Nat) (s : State) : Host.Outcome State Fault Refusal := onDev (startCmd 0xA6 bodyKeySet c) s

end Sys2Proof.Machine
end

