-- ==== Sys2Proof/Machine/Link.lean ====
section
/-! DEFINITION. The bulk ports: flits as they are built and resent, link states, training, loss, retirement, `PORT_BIND`
(R421 to R426, R429 to R433, R438 to R448). -/

namespace Sys2Proof.Machine

/-! ## Flits sent (R425, R426, R429, R430) -/

/-- A flit: type, `seq`, `ack`, message starts, credits, payload. -/
def flitOf (typ seq ack : Nat) (starts credit : List Nat) (payload : Bytes) : Bytes :=
  let body := leBytes 2 seq ++ leBytes 2 ack ++ leBytes 1 typ ++ leBytes 1 starts.length ++ zeros 2 ++
    ((List.range 4).flatMap fun k => leBytes 1 (starts.getD k 0xFF)) ++
    ((List.range 4).flatMap fun k => leBytes 1 (credit.getD k 0)) ++ (payload ++ zeros 232).take 232
  body ++ leBytes 8 (crc64 body).toNat

/-- The `ack` a port reports: the last payload flit it has accepted in order. -/
def Port.ackNow (p : Port) : Nat := (p.expected + 65535) % 65536

/-- A flit that carries no message and no credit, with a payload. -/
def sendCtl (port typ : Nat) (payload : Bytes) (d : Dev) : Dev :=
  let p := d.port port
  emit (.flit port (flitOf typ p.nextSeq p.ackNow [] [] payload)) d

/-- A NAK, unless one is outstanding (R429). -/
def sendNak (port : Nat) (d : Dev) : Dev :=
  if (d.port port).nakOut then d
  else sendCtl port 2 [] (bump 4 port 5 1 (d.updPort port fun p => { p with nakOut := true }))

/-- Eight ASCII characters and a tail: the label of a key derivation (R500). -/
def label (t : String) (b : Bytes) : Bytes := ascii t ++ b

/-- `device_secret` (R500). -/
def deviceSecret : Bytes := shake256 (label "SPX1/uds" (leBytes 64 Config.pufSecret.toNat))

/-- `id_private` of a device secret (R500). -/
def idPrivate (secret : Bytes) : Bytes := (shake256 (label "SPX1/devid" secret)).take 57

/-- `id_key_digest`: SHAKE256 of the identity public key (Table 16-11). -/
def idKeyDigest : Bytes := shake256 (leBytes 57 (Config.ed448Public (idPrivate deviceSecret)).toNat)

/-- The link value (Table 16-11): bits [54:0] of the first 7 bytes of `id_key_digest`, with bit 55 set. -/
def linkValue : Nat := leNat (idKeyDigest.take 7) % 2 ^ 55 + 2 ^ 55

/-- The device's `link_id` on a port (R424). -/
def linkId (port : Nat) : Nat := linkValue * 256 + port

/-- An ident flit (Table 15-2). -/
def sendIdent (port : Nat) (d : Dev) : Dev :=
  sendCtl port 3 (leBytes 8 (linkId port) ++ leBytes 1 1 ++ leBytes 1 (1 + 2 * b2n (d.port port).keep)) d

/-- Entry into RETRAIN: replay buffer, sequence numbers and credits are kept (Table 15-1). -/
def toRetrain (port : Nat) (d : Dev) : Dev :=
  if (d.port port).st ≠ .active then d
  else
    let d := bump 4 port 8 1 (d.updPort port fun p => { p with
      keep := true, resends := 0, uncorr := [], quietReq := false })
    emit (.pattern port (d.port port).liveLanes) (setLink port .retrain d)

/-- Flits up to an `ack` are freed (R430). -/
def takeAck (port ack : Nat) (d : Dev) : Dev :=
  let p := d.port port
  let left := p.replay.dropWhile fun f => decide ((ack + 65536 - f.1) % 65536 < 32768)
  if left.length = p.replay.length then d
  else d.updPort port fun p => { p with replay := left, resends := 0 }

/-- Every unacknowledged flit sent again in its order, unchanged; the eighth resend of the same oldest flit sends the port
to RETRAIN (R430, R431). -/
def resend (port : Nat) (d : Dev) : Dev :=
  let p := d.port port
  if p.replay.isEmpty then d
  else
    let n := p.replay.length
    let d := p.replay.foldl (fun d f => emit (.flit port f.2) d) d
    let d := bump 4 port 0 n (bump 4 port 6 1 (bump 4 port 7 n d))
    let d := trace 7 2 none port (leBytes 1 p.st.code ++ leBytes 1 p.width ++ zeros 2 ++ leBytes 4 n) d
    let d := d.updPort port fun p => { p with resends := p.resends + 1 }
    if p.resends + 1 ≥ 8 then toRetrain port d else d

/-! ## Credits (R433) -/

/-- What the device advertises, C0 to C3. -/
def ourCredits : List Nat := [1024, 8192, 1024, 256]

/-- Credits of one class returned: capped at the partner's advertisement, an excess counted and recorded. -/
def addCredit (port c n : Nat) (d : Dev) : Dev :=
  let p := d.port port
  let hold := p.credits.getD c 0
  let cap := p.adv.getD c 0
  if hold + n ≤ cap then d.updPort port fun p => { p with credits := p.credits.set c (hold + n) }
  else
    let d := d.updPort port fun p => { p with credits := p.credits.set c cap }
    raise { ErrRec.mk0 1 0x19 with
      block := 1, inst := port, detail := leBytes 1 3 ++ leBytes 1 port ++ leBytes 1 c } (bump 4 port 13 1 d)

/-- Credits of the four classes returned. -/
def addCredits (port : Nat) (l : List Nat) (d : Dev) : Dev :=
  (List.range 4).foldl (fun d c => if l.getD c 0 = 0 then d else addCredit port c (l.getD c 0) d) d

/-- A `CREDIT` message taken (Table 15-5). -/
def takeCredit (port : Nat) (m : Bytes) (d : Dev) : Dev :=
  let l := (List.range 4).map fun c => fld m (4 + 4 * c) 0 32
  if fld m 1 0 1 = 1 then d.updPort port fun p => { p with adv := l, credits := l, initRx := true }
  else addCredits port l d

/-- The `CREDIT` with the device's full advertisement, first of the messages that wait. -/
def sendInit (port : Nat) (d : Dev) : Dev :=
  let b := leBytes 1 0x0B ++ leBytes 1 1 ++ zeros 2 ++ (ourCredits.flatMap fun n => leBytes 4 n) ++ zeros 4
  let m : TxMsg := { cls := 4, data := b, qos := 0, due := 0, tenant := 0, since := d.now, after := .none }
  d.updPort port fun p => { p with txq := m :: p.txq }

/-! ## Unbinding, loss, retirement (R441, R443, R445) -/

/-- The near-tier queue pairs of a port for tenants that pass a test are stopped, their completions discarded, their
command-channel reads ended (R441). -/
def cutQps (port : Nat) (gone : Nat → Bool) (d : Dev) : Dev :=
  let hit := (d.q.qps.filter fun p => p.2.loc == .near port && gone p.2.tenant).map (·.1)
  let d := hit.foldl (fun d q => (stopQp q 4 0 0 d).updQp q fun q => { q with discard := true }) d
  let mine (n : Nat) : Bool := match d.cmd? n with
    | some c => hit.any c.ofQp
    | none => true
  let ended := (d.port port).reads.filter fun r => mine r.2.cmd
  ended.foldl (fun d r => finishCmd r.2.cmd (errS .aborted)
    (pumpCmdReads port (d.updPort port fun p => { p with reads := Map.del r.1 p.reads }))) d

/-- Tenants of a port lose it: what waits to be sent for them goes, their streams halt, their queue pairs stop. -/
def cutPort (port : Nat) (gone : Nat → Bool) (cause : Status) (d : Dev) : Dev :=
  let d := d.updPort port fun p => { p with txq := p.txq.filter fun m => m.cls == 4 || !gone m.tenant }
  cutQps port gone (haltStreams (fun _ s => s.port == port && gone s.tenant) cause (reapPort port d))

/-- A port unbound (R441). -/
def unbindPort (port : Nat) (d : Dev) : Dev :=
  cutPort port (fun _ => true) .aborted (d.updPort port fun p => { p with
    bound := false, tenants := [], expectedId := 0, idFail := false })

/-- A link lost (R443): replay buffer and unsent messages discarded, the loss recorded, the port unbound. -/
def linkLost (port : Nat) (d : Dev) : Dev :=
  let lanes := (d.port port).lanes
  let d := d.updPort port fun p => { p with
    replay := [], txq := [], ingress := [], rxPart := [], rxSkip := false, keep := false, width := 3, lanes := 0
    locked := 0, everActive := false, downSince := none }
  let d := raise { ErrRec.mk0 1 0x0B with
    block := 1, inst := port, detail := leBytes 2 lanes ++ leBytes 1 3 ++ leBytes 1 3 } (reapPort port d)
  requalify (if (d.port port).bound then unbindPort port d else d)

/-- LINK_LOSS: the link-loss timer has run out. -/
def linkLoss (port : Nat) (d : Dev) : Dev :=
  match (d.port port).downSince with
  | some t => if t + 2 ^ d.feat 0x09 0 8 ≤ d.now then linkLost port d else d
  | none => d

/-- A port retired (R445): `row` of Table 14-6, or 0xFF. Its binding stays on record. -/
def retirePort (port sub row count : Nat) (d : Dev) : Dev :=
  if (d.port port).retired then d
  else
    let d := raise (retiredRec 1 port sub 0 row count) d
    let d := emit (.txOff port) ((setLink port .disabled d).updPort port fun p => { p with
      retired := true, width := 3, lanes := 0, locked := 0, txq := [], ingress := [], replay := [], rxPart := []
      keep := false, everActive := false, downSince := none, quietReq := false })
    requalify (cutQps port (fun _ => true) (haltStreams (fun _ s => s.port == port) .unitFault (reapPort port d)))

/-! ## Training (R422 to R424, R432, R439, R444) -/

/-- The width a mask of usable pairs gives under `max_width`, and its lanes (R422). -/
def chooseWidth (pairs maxW : Nat) : Option (Nat × Nat) :=
  if maxW = 0 ∧ pairs % 16 = 15 then some (0, 0xFF)
  else if maxW ≤ 1 ∧ pairs % 4 = 3 then some (1, 0x0F)
  else if maxW ≤ 1 ∧ pairs / 4 % 4 = 3 then some (1, 0xF0)
  else ((List.range 4).find? (bitOf pairs)).map fun i => (2, 3 * 4 ^ i)

/-- Pairs of which both lanes are in a mask and that are not retired. -/
def Port.pairsOf (p : Port) (lanes : Nat) : Nat :=
  maskOf ((List.range 4).filter fun i => bitOf lanes (2 * i) && bitOf lanes (2 * i + 1) && !bitOf p.retPairs i)

/-- A failed training counted on lanes: the third within the window retires the lane's pair, and a port without pairs is
retired (R423, Table 14-6, R445). -/
def countFailed (port lanes : Nat) (d : Dev) : Dev :=
  let d := raise { ErrRec.mk0 1 0x0B with
    block := 1, inst := port, detail := leBytes 2 lanes ++ leBytes 1 1 ++ leBytes 1 3 } d
  (setBits 8 lanes).foldl (fun d k =>
    if bitOf (d.port port).retPairs (k / 2) then d
    else
      let (n, d) := countEvent 5 (8 * port + k) d
      if !d.reached 5 3 n then d
      else
        let d := raise (retiredRec 1 port (k / 2) 0 5 n) d
        let d := d.updPort port fun p => { p with retPairs := p.retPairs ||| 2 ^ (k / 2) }
        if (d.port port).retPairs = 15 then retirePort port 0 5 n d else d) d

/-- A training failed on lanes: counted, and the port goes back to DETECT. -/
def trainingFailed (port lanes : Nat) (d : Dev) : Dev :=
  let d := countFailed port lanes d
  if (d.port port).retired then d else toDetect port d

/-- LINK_DETECT_LOCK. -/
def linkDetectLock (port lanes : Nat) (d : Dev) : Dev :=
  let p := d.port port
  if p.st = .detect ∧ p.pairsOf lanes ≠ 0 then
    (setLink port .equalise d).updPort port fun p => { p with refclk := true }
  else d

/-- EQUALISATION_COMPLETE: the lanes that pass here and the partner's mask of passing pairs give the width; a retraining
that settles is recorded, and a narrower one counted (R422, R423, R444). -/
def equalised (port lanes theirs : Nat) (d : Dev) : Dev :=
  let p := d.port port
  if p.st ≠ .equalise ∧ p.st ≠ .retrain then d
  else
    let pairs := p.pairsOf lanes &&& theirs
    match chooseWidth pairs p.maxWidth with
    | none => trainingFailed port (p.liveLanes &&& (255 - lanes % 256)) d
    | some (w, ls) =>
      let again := p.everActive
      let narrower := again && decide (w > p.width)
      let d := (setLink port .align d).updPort port fun p => { p with width := w, lanes := ls, locked := pairs }
      let d := if again then
          raise { ErrRec.mk0 1 0x0B with
            block := 1, inst := port
            detail := leBytes 2 ls ++ leBytes 1 (if narrower then 2 else 0) ++ leBytes 1 w } d
        else d
      requalify (bump 4 port 9 (b2n narrower) d)

/-- CODEWORD_LOCK. -/
def codewordLock (port : Nat) (d : Dev) : Dev :=
  if (d.port port).st = .align then sendIdent port (setLink port .ident d) else d

/-- ALIGN_TIMEOUT: no lock within 4,096 AO ticks; `locked` are the lanes that have lock. -/
def alignTimeout (port locked : Nat) (d : Dev) : Dev :=
  let p := d.port port
  if p.st = .align ∧ p.since + 4096 ≤ d.now then trainingFailed port (p.lanes &&& (255 - locked % 256)) d else d

/-- LOSS_OF_SIGNAL. A quiet link sends nothing by agreement (R446), so its silence is no loss. -/
def lossOfSignal (port : Nat) (d : Dev) : Dev :=
  let p := d.port port
  if p.st = .disabled ∨ p.st = .detect ∨ p.st = .quiet then d
  else toDetect port (d.updPort port fun p => { p with
    keep := p.keep || p.st == .active, quietReq := false, uncorr := [] })

/-- The partner's `link_id` held against the one bound (R439). -/
def judgeId (port : Nat) (d : Dev) : Dev :=
  let p := d.port port
  let bad := p.bound && p.expectedId != 0 && p.recvId != 0 && p.recvId != p.expectedId
  let d := d.updPort port fun p => { p with idFail := bad }
  if bad then
    raise { ErrRec.mk0 1 0x19 with
      block := 1, inst := port, detail := leBytes 1 2 ++ leBytes 1 port ++ zeros 6 ++ leBytes 8 p.recvId } d
  else d

/-- IDENT_EXCHANGE with the partner's block: the link resumes, or an old link ends and a new one starts, or training
starts again (R424, R432, R433, R439). -/
def identExchange (port : Nat) (b : Bytes) (d : Dev) : Dev :=
  let p := d.port port
  let id := fld b 0 0 64
  if p.st ≠ .ident then d
  else if fld b 8 0 8 ≠ 1 then
    toDetect port (raise { ErrRec.mk0 1 0x0B with
      block := 1, inst := port, detail := leBytes 2 p.lanes ++ leBytes 1 4 ++ leBytes 1 p.width } d)
  else
    let resume := p.keep && fld b 9 1 1 == 1 && id == p.recvId
    let w := p.width
    let ls := p.lanes
    let lk := p.locked
    let d := if p.keep && !resume then
        (linkLost port d).updPort port fun p => { p with width := w, lanes := ls, locked := lk }
      else d
    let d := (setLink port .active d).updPort port fun p => { p with
      recvId := id, upSince := d.now, everActive := true, downSince := none, keep := false, nakOut := false
      resends := 0, uncorr := [], lastMsg := d.now }
    let d := judgeId port d
    if resume then requalify (sendNak port d)
    else
      requalify (sendInit port (d.updPort port fun p => { p with
        expected := 0, nextSeq := 0, replay := [], rxPart := [], rxSkip := false, credits := [0, 0, 0, 0]
        adv := [0, 0, 0, 0], initRx := false, owed := [0, 0, 0, 0] }))

/-! ## Quiet and port groups (R446, R447) -/

/-- A quiet request, whatever the quiet time (R446, R530). -/
def askQuiet (port : Nat) (d : Dev) : Dev :=
  let p := d.port port
  if p.st = .active ∧ !p.quietReq ∧ p.txq.isEmpty ∧ p.replay.isEmpty ∧ p.rxPart.isEmpty then
    sendCtl port 4 [1] (d.updPort port fun p => { p with quietReq := true })
  else d

/-- QUIET_TIME_EXPIRY: no message in either direction for the quiet time; a time of 0 never expires (Table 19-5). -/
def quietTimeExpiry (port : Nat) (d : Dev) : Dev :=
  if d.pwr.policy.ylQuiet ≠ 0 ∧ (d.port port).lastMsg + d.pwr.policy.ylQuiet ≤ d.now then askQuiet port d else d

/-- The partner's agreement to quiet: both sides stop transmitting. -/
def quietAgreed (port : Nat) (d : Dev) : Dev :=
  let p := d.port port
  if p.st = .active ∧ p.quietReq then
    let d := bump 4 port 15 1 (d.updPort port fun p => { p with quietReq := false, keep := true })
    emit (.txOff port) (setLink port .quiet d)
  else d

/-- LINK_WAKE: a quiet link realigns, its equalisation kept. -/
def linkWake (port : Nat) (d : Dev) : Dev :=
  if (d.port port).st = .quiet then emit (.pattern port (d.port port).lanes) (setLink port .align d) else d

/-- The ports of a group that may train leave DISABLED (Table 15-1): the trace export holds yl55's lanes, and the fatal
state holds every port down (R401). -/
def trainGroup (g : Nat) (d : Dev) : Dev :=
  (fromTo (14 * g) 14).foldl (fun d p => trainPort p d) d

/-- POWER_GROUP_ON: a group that is switching on, or is on, is on, and its ports train (R447). -/
def powerGroupOn (g : Nat) (d : Dev) : Dev :=
  if g ≥ 4 ∨ d.domain (22 + g) = .off then d
  else trainGroup g (d.setDomain (22 + g) .on)

/-- A port's group is switched on where it is off. -/
def wantGroup (port : Nat) (d : Dev) : Dev :=
  if d.domain (portPd port) = .off then d.setDomain (portPd port) .switchingOn else d

/-! ## `PORT_BIND` (R438, R441) -/

/-- The port record (Table 15-9). -/
def Port.record (p : Port) : Bytes :=
  let up := p.st == .align || p.st == .ident || p.st == .active || p.st == .quiet
  leBytes 1 (p.st.code + 16 * b2n p.bound + 32 * b2n p.idFail + 64 * b2n p.retired) ++
    leBytes 1 ((if up then p.width else 3) + 4 * (p.locked &&& (15 - p.retPairs % 16))) ++
    leBytes 2 p.tenants.length ++ zeros 4 ++ leBytes 8 p.recvId ++ leBytes 8 p.expectedId ++ leBytes 8 p.upSince ++
    zeros 32

/-- Checks of `PORT_BIND` that need no mask. -/
def bindChecks (x : Ctx) (d : Dev) : Except Cpl Unit := do
  checkQos x d
  let a := x.e.b20
  let p := d.port (x.e.fld 0x21 0 8)
  need (a == 3 || !p.retired) (errS .unitFault)
  need (!(a == 0 && p.bound)) (errC 0xFF true)
  need (!((a == 1 || a == 2) && !p.bound)) (errF 0x21)

/-- The port after BIND, as far as the binding goes. -/
def bindPort (port maxW partner : Nat) (ts : List Nat) (d : Dev) : Dev :=
  let d := d.updPort port fun p => { p with
    bound := true, tenants := ts, maxWidth := maxW, expectedId := partner, idFail := false }
  let d := if (d.port port).st = .active then judgeId port d else d
  let d := wantGroup port d
  if (d.port port).st = .disabled ∧ d.domain (portPd port) = .on ∧ !d.pwr.fatal then toDetect port d else d

/-- `PORT_BIND`. -/
def bodyPortBind : Body := withData
  (fun x d => do
    bindChecks x d
    .ok (if x.e.b20 = 0 ∨ x.e.b20 = 2 then 128 else 0))
  (fun x b d => do
    let a := x.e.b20
    let port := x.e.fld 0x21 0 8
    if a = 3 then okData x [] (d.port port).record d
    else if a = 1 then okRes [] (unbindPort port d)
    else
      let ts := setBits 1024 (leNat b)
      need (!ts.isEmpty) (errD 0)
      need (ts.all d.defined) (errD (((ts.find? fun t => !d.defined t).getD 0) / 8))
      if a = 0 then
        need (!(port == 55 && (d.integ.trace.enabled || presetHolds x 1 d))) (errC 1 true)
        okRes [] (bindPort port (x.e.fld 0x22 0 2) (x.e.w64 0x28) ts d)
      else
        let old := (d.port port).tenants
        let gone (t : Nat) : Bool := old.contains t && !ts.contains t
        let d := d.updPort port fun p => { p with tenants := ts }
        okRes [] (if old.any gone then cutPort port gone .aborted d else d))

/-! ## Meanings -/

/-- REPLAY_TIMEOUT: flits unacknowledged for 2,048 flit times are resent from the oldest. -/
def execReplayTimeout (port : Nat) (s : State) : Host.Outcome State Fault Refusal :=
  onDev (fun d => if (d.port port).st = .active then resend port d else d) s
/-- NAK_OUTSTANDING_EXPIRY. -/
def execNakOutstandingExpiry (port : Nat) (s : State) : Host.Outcome State Fault Refusal :=
  onDev (fun d => d.updPort port fun p => { p with nakOut := false }) s
/-- ACK_SEND_DUE: an idle flit carries the current `ack`. -/
def execAckSendDue (port : Nat) (s : State) : Host.Outcome State Fault Refusal :=
  onDev (fun d => if (d.port port).st = .active then sendCtl port 1 [] d else d) s
/-- QUIET_TIME_EXPIRY. -/
def execQuietTimeExpiry (port : Nat) (s : State) : Host.Outcome State Fault Refusal :=
  onDev (quietTimeExpiry port) s
/-- LINK_WAKE. -/
def execLinkWake (port : Nat) (s : State) : Host.Outcome State Fault Refusal := onDev (linkWake port) s
/-- LINK_DETECT_LOCK. -/
def execLinkDetectLock (port : Nat) (lanes : BitVec 8) (s : State) : Host.Outcome State Fault Refusal :=
  onDev (linkDetectLock port lanes.toNat) s
/-- EQUALISATION_COMPLETE. -/
def execEqualisationComplete (port : Nat) (lanes : BitVec 8) (theirs : BitVec 4) (s : State) :
    Host.Outcome State Fault Refusal := onDev (equalised port lanes.toNat theirs.toNat) s
/-- CODEWORD_LOCK. -/
def execCodewordLock (port : Nat) (s : State) : Host.Outcome State Fault Refusal := onDev (codewordLock port) s
/-- ALIGN_TIMEOUT. -/
def execAlignTimeout (port : Nat) (locked : BitVec 8) (s : State) : Host.Outcome State Fault Refusal :=
  onDev (alignTimeout port locked.toNat) s
/-- LOSS_OF_SIGNAL. -/
def execLossOfSignal (port : Nat) (s : State) : Host.Outcome State Fault Refusal := onDev (lossOfSignal port) s
/-- POWER_GROUP_ON. -/
def execPowerGroupOn (group : Nat) (s : State) : Host.Outcome State Fault Refusal := onDev (powerGroupOn group) s
/-- LINK_LOSS. -/
def execLinkLoss (port : Nat) (s : State) : Host.Outcome State Fault Refusal := onPort (linkLoss port) s
/-- PARTNER_ENTERS_TRAINING. -/
def execPartnerEntersTraining (port : Nat) (s : State) : Host.Outcome State Fault Refusal := onDev (toRetrain port) s
/-- `PORT_BIND`. -/
def execPortBind (c : Nat) (s : State) : Host.Outcome State Fault Refusal := onDev (startCmd 0x07 bodyPortBind c) s

end Sys2Proof.Machine
end

