-- ==== Sys2Proof/Machine/Windows.lean ====
section
/-! DEFINITION. The window commands and the HDM decoder of a host port (R473, R475, R476, R479, R481, R487, R488,
R407). -/

namespace Sys2Proof.Machine

/-- Window-space limit (R472). -/
def windowLimit : Nat := 32 * 2 ^ 40

/-! ## `SHARE_GROUP_SET` (R475) -/

/-- `SHARE_GROUP_SET`. -/
def bodyShareGroupSet : Body := plain fun x d => do
  checkQos x d
  let g := x.e.fld 0x21 0 8
  if x.e.b20 = 0 then
    need (!d.cxl.groups.has g) (errC 0xFF true)
    okRes [] (d.updCxl fun c => { c with groups := Map.set g (x.e.w16 0x22) c.groups })
  else
    need (d.cxl.groups.has g) (errF 0x21)
    need (!(d.cxl.exts.any fun p => p.2.target == 0x10 + g)) (errC 0xFF true)
    okRes [] (d.updCxl fun c => { c with groups := Map.del g c.groups })

/-! ## `EXTENT_ASSIGN` (R476, R477) -/

/-- Whether a label is the shared background label or a regulator of a tenant (R341). -/
def Dev.labelOf (d : Dev) (t l : Nat) : Bool :=
  l == 0 || (match d.qos.regs.get? (l % 1024) with
    | some r => r.tenant == t && r.cls == l / 1024 && l % 1024 != 0
    | none => false)

/-- Whether an extent has a window space in common with a list of hosts and overlaps a range there. -/
def Dev.extOverlaps (d : Dev) (hosts : List Nat) (off len : Nat) (e : Extent) : Bool :=
  (d.targetHosts e.target).any hosts.contains && overlaps e.offset e.length off len

/-- `EXTENT_ASSIGN`. -/
def bodyExtentAssign : Body := plain fun x d => do
  let e := x.e
  let writable := e.b20 == 0
  let target := e.fld 0x21 0 8
  let t := e.fld 0x22 0 10
  let q := e.fld 0x24 0 12
  let off := e.w64 0x28
  let len := e.w64 0x30
  checkQos x d
  need (d.defined t) (errF 0x22)
  need (decide (target < 4) || d.cxl.groups.has (target - 0x10)) (errF 0x21)
  need (off % 2 ^ 21 == 0) (errF 0x28)
  need (len % 2 ^ 21 == 0 && len != 0) (errF 0x30)
  need (decide (off + len ≤ windowLimit)) (errF 0x28)
  need (d.labelOf t q) (errF 0x24)
  let hosts := d.targetHosts target
  match d.cxl.exts.find? fun p => d.extOverlaps hosts off len p.2 with
  | some p => .error (errC 0xFF (p.2.tenant == x.t))
  | none => .ok ()
  need (decide (d.cxl.exts.length < 4096)) (errS .noResource)
  needObject d
  let half ← if writable then do
      let halves ← halvesFor x.half (e.fld 0x26 0 8) d
      checkQuota t 0 len 0 d
      chooseHalf len 0 d halves
    else .ok (hostHalf target)
  let (n, d) := takeNum t d
  let h := mkHandle t 6 n
  let ext : Extent :=
    { writable := writable, target := target, tenant := t, qos := q, half := half, offset := off, length := len,
      serial := if writable then d.integ.serial.getD half 0 else 0, lines := [], poison := [], revoker := none,
      lostIn := 0, hostLost := false }
  let d := d.updCxl fun c => { c with exts := Map.set h ext c.exts }
  let d := if writable then
      addNear t half len (d.updInteg fun i => { i with serial := i.serial.modify half (· + 1) })
    else d
  okRes (leBytes 8 h) d

/-! ## `EXTENT_REVOKE` (R488) -/

/-- `EXTENT_REVOKE`: the fence is set at the take; the rest follows once every holder has answered. -/
def bodyExtentRevoke : Body := plain fun x d => do
  let h := x.e.ha
  let e ← checkExtent x 8 h d
  checkQos x d
  need e.revoker.isNone (errC 0xFF (e.tenant == x.t))
  let d := d.updExt h fun e => { e with revoker := some x.num }
  .ok (.wait (askDir h 0 (if e.writable then e.length / 64 else 0) (.revoke x.num) d))

/-! ## `OBJ_MAP_HOST`, `OBJ_UNMAP_HOST` (R479, R481) -/

/-- The window extent that handle B names, of the tenant and of the port of the issuing function. -/
def windowOf (x : Ctx) (d : Dev) : Except Cpl Extent :=
  match d.ext? x.e.hb with
  | some w =>
    if !w.writable && w.tenant == x.t && w.revoker.isNone && (x.fn? d).map (· / 256) == some w.target then .ok w
    else .error (errS .notPermitted)
  | none => .error (errS .notPermitted)

/-- `OBJ_MAP_HOST`. -/
def bodyObjMapHost : Body := plain fun x d => do
  let e := x.e
  let o ← checkHandle x 8 e.ha (e.w32 0x20) d
  let _ ← checkExtent x 0x10 e.hb d
  checkQos x d
  checkPath x.half o.half d
  let w ← windowOf x d
  let v ← resolveSealed o x.t (e.w32 0x20) 0x20
  checkKey o d
  let off := e.w64 0x28
  let len := roundUp (o.count * o.canon) 4096
  need (off % 4096 == 0 && decide (off + len ≤ w.length)) (errF 0x28)
  match d.cxl.maps.find? fun p => p.2.ext == e.hb && overlaps p.2.offset p.2.length off len with
  | some p => .error (errC 0xFF (p.2.tenant == x.t))
  | none => .ok ()
  need (decide (d.cxl.maps.length < 65536)) (errS .noResource)
  let id := d.cxl.maps.firstFree 0
  let m : Mapping := { ext := e.hb, obj := e.ha, ver := v, offset := off, length := len, tenant := x.t, closer := none }
  let d := d.updCxl fun c => { c with maps := Map.set id m c.maps }
  okRes (leBytes 4 id ++ leBytes 4 v ++ leBytes 8 len) (d.updVer e.ha v fun v => { v with mapped := v.mapped + 1 })

/-- `OBJ_UNMAP_HOST`: the mapping takes no new read, and is gone once those in flight are answered. -/
def bodyObjUnmapHost : Body := plain fun x d => do
  checkQos x d
  let id := x.e.w32 0x20
  match d.cxl.maps.get? id with
  | none => .error (errF 0x20)
  | some m =>
    need (m.tenant == x.t) (errS .notPermitted)
    need m.closer.isNone (errF 0x20)
    .ok (.wait (reapMaps (d.updCxl fun c => { c with
      maps := Map.upd id (fun m => { m with closer := some x.num }) c.maps })))

/-! ## `HOST_LOSS_ACK` (R487) -/

/-- The ranges of an event: runs of poisoned lines of one extent (first key, lines), or 2 MiB regions. -/
def lossRuns : List Nat → List (Nat × Nat) → List (Nat × Nat)
  | [], acc => acc.reverse
  | k :: l, acc =>
    match acc with
    | (a, n) :: acc' => if k = a + n then lossRuns l ((a, n + 1) :: acc') else lossRuns l ((k, 1) :: acc)
    | [] => lossRuns l [(k, 1)]

/-- The aligned 2 MiB regions of an event with the poisoned lines in each. -/
def lossRegions (keys : List Nat) : List (Nat × Nat) :=
  let l := keys.foldl (fun l k => insertNat (k / 32768) l) []
  l.map fun r => (r * 32768, (keys.filter fun k => k / 32768 == r).length)

/-- Ranges of an event: those listed, and whether they are regions. -/
def LossEvent.ranges (e : LossEvent) : List (Nat × Nat) × Bool :=
  let r := lossRuns e.lines []
  if r.length > 65536 then (lossRegions e.lines, true) else (r, false)

/-- A 24-byte range entry. -/
def rangeEntry (regions : Bool) (r : Nat × Nat) : Bytes :=
  leBytes 8 (r.1 / 2 ^ 32) ++ leBytes 8 (64 * (r.1 % 2 ^ 32)) ++
    leBytes 4 (if regions then 2 ^ 21 else 64 * r.2) ++ leBytes 4 r.2

/-- `HOST_LOSS_ACK`. -/
def bodyHostLossAck : Body := plain fun x d => do
  checkQos x d
  let id := x.e.w32 0x24
  match d.cxl.events.get? id with
  | none => .error (errF 0x24)
  | some ev =>
    if x.e.b20 = 1 then okRes [] (d.updCxl fun c => { c with events := Map.del id c.events })
    else
      let (all, regions) := ev.ranges
      let l := (all.drop (x.e.w32 0x28)).take (x.e.w32 0x2C)
      okData x (leBytes 4 all.length ++ leBytes 4 l.length ++ leBytes 1 (b2n regions)) (l.flatMap (rangeEntry regions)) d

/-! ## `POISON_CLEAR` (R407) -/

/-- Zeros written over a range of a writable extent. -/
def clearExtent (x : Ctx) (d : Dev) : Except Cpl Res := do
  let h := x.e.ha
  let e ← checkExtent x 8 h d
  checkQos x d
  let off := x.e.w64 0x28
  let len := x.e.w64 0x30
  need e.writable (errF 8)
  need e.revoker.isNone (errS .revoked)
  checkPath x.half e.half d
  need (off % 64 == 0) (errF 0x28)
  need (len % 64 == 0) (errF 0x30)
  need (decide (off + len ≤ e.length)) (errF 0x28)
  need (!d.keyless e.tenant) (errS .notReady)
  .ok (.wait (askDir h (off / 64) (len / 64) (.clear x.num) d))

/-- `POISON_CLEAR`. -/
def bodyPoisonClear : Body := plain fun x d => if isExtent x.e.ha then clearExtent x d else clearTiles x d

/-! ## The HDM decoder (R472, R473) -/

/-- Whether a commit is refused (R473). -/
def commitRefused (h : Hdm) (port : Nat) (d : Dev) : Bool :=
  let c := h.ctrl.toNat
  let size := h.sizeHigh.toNat * 2 ^ 32 + h.sizeLow.toNat
  bits c 4 4 != 0 || bitOf c 12 || !bitOf c 13 || decide (size = 0 ∨ size > windowLimit) ||
    d.pwr.mode != .service || d.cxl.events.any fun p => p.2.port == port

/-- The decoder's registers are read-only: committed with `lock_on_commit` (Table 17-1). -/
def Hdm.locked (h : Hdm) : Bool := bitOf h.ctrl.toNat 8 && bitOf h.ctrl.toNat 10

/-- The control register written: bits [9:0], 12 and 13 take the value; `commit` from 0 to 1 requests a commit, from 1
to 0 decommits (R473). -/
def hdmCtrl (h : Hdm) (port : Nat) (v : BitVec 32) (d : Dev) : Hdm :=
  if h.locked then h
  else
    let old := h.ctrl
    let h := { h with ctrl := (old &&& 0xC00#32) ||| (v &&& 0x33FF#32) }
    if !bitOf old.toNat 9 && bitOf v.toNat 9 then
      if commitRefused h port d then { h with ctrl := (h.ctrl &&& 0xFFFFFBFF#32) ||| 0x800#32 }
      else { h with ctrl := (h.ctrl &&& 0xFFFFF7FF#32) ||| 0x400#32 }
    else if bitOf old.toNat 9 && !bitOf v.toNat 9 then { h with ctrl := h.ctrl &&& 0xFFFFFBFF#32 }
    else h

/-- A dword of the decoder written, by its offset in the capability (Table 17-1). -/
def hdmWrite (h : Hdm) (port off : Nat) (v : BitVec 32) (d : Dev) : Hdm :=
  if off = 0x20 then hdmCtrl h port v d
  else if h.locked then h
  else if off = 0x10 then { h with baseLow := v &&& 0xF0000000#32 }
  else if off = 0x14 then { h with baseHigh := v }
  else if off = 0x18 then { h with sizeLow := v &&& 0xF0000000#32 }
  else if off = 0x1C then { h with sizeHigh := v }
  else h

/-- A decoder replaced. -/
def State.setHdm (s : State) (port : Nat) (h : Hdm) : State := { s with hdm := s.hdm.set port h }

/-! ## Meanings -/

/-- Whether a port's PF answers writes to its HDM decoder: its link up, in D0, no FLR, its power and its data path there. -/
def State.hdmReach (s : State) (port : Nat) : Bool :=
  (s.dev.hport port).linkUp && !(s.dev.fn (256 * port)).d3hot && !(s.dev.fn (256 * port)).flr && !s.dev.pwr.retention &&
    !s.dev.pwr.bscan

/-- HDM_COMMIT: `commit` goes from 0 to 1. -/
def execHdmCommit (port : Nat) (ctrl : BitVec 32) (s : State) : Host.Outcome State Fault Refusal :=
  if s.hdmReach port && bitOf ctrl.toNat 9 && !bitOf (s.hdmOf port).ctrl.toNat 9 then
    .next (s.setHdm port (hdmCtrl (s.hdmOf port) port ctrl s.dev))
  else .next s
/-- HDM_DECOMMIT: `commit` goes from 1 to 0. -/
def execHdmDecommit (port : Nat) (ctrl : BitVec 32) (s : State) : Host.Outcome State Fault Refusal :=
  if s.hdmReach port && !bitOf ctrl.toNat 9 && bitOf (s.hdmOf port).ctrl.toNat 9 then
    .next (s.setHdm port (hdmCtrl (s.hdmOf port) port ctrl s.dev))
  else .next s
/-- `SHARE_GROUP_SET`. -/
def execShareGroupSet (c : Nat) (s : State) : Host.Outcome State Fault Refusal :=
  onDev (startCmd 0x93 bodyShareGroupSet c) s
/-- `EXTENT_ASSIGN`. -/
def execExtentAssign (c : Nat) (s : State) : Host.Outcome State Fault Refusal :=
  onDev (startCmd 0x90 bodyExtentAssign c) s
/-- `EXTENT_REVOKE`. -/
def execExtentRevoke (c : Nat) (s : State) : Host.Outcome State Fault Refusal :=
  onDev (startCmd 0x91 bodyExtentRevoke c) s
/-- `HOST_LOSS_ACK`. -/
def execHostLossAck (c : Nat) (s : State) : Host.Outcome State Fault Refusal :=
  onDev (startCmd 0x92 bodyHostLossAck c) s
/-- `OBJ_MAP_HOST`. -/
def execObjMapHost (c : Nat) (s : State) : Host.Outcome State Fault Refusal :=
  onDev (startCmd 0x17 bodyObjMapHost c) s
/-- `OBJ_UNMAP_HOST`. -/
def execObjUnmapHost (c : Nat) (s : State) : Host.Outcome State Fault Refusal :=
  onDev (startCmd 0x18 bodyObjUnmapHost c) s
/-- `POISON_CLEAR`. -/
def execPoisonClear (c : Nat) (s : State) : Host.Outcome State Fault Refusal :=
  onDev (startCmd 0x84 bodyPoisonClear c) s

end Sys2Proof.Machine
end

