-- ==== Sys2Proof/Machine/Host.lean ====
section
/-! DEFINITION. The host endpoint: submission entries taken, doorbells, the registers of BAR0, queue pairs created and
deleted, tenants, `IDENTIFY`, `STATS_READ`, FLR and the other resets of functions, D-states (R84 to R106, R114, R115,
R449 to R470). -/

namespace Sys2Proof.Machine

/-! ## Taking entries (R89, R91, R92) -/

/-- Whether a queue pair may take an entry: not stopped, not being deleted, its function able to read over a link that is
up, an entry there, and a completion slot to reserve. A near-tier completion slot is free once its `CPL` is sent. -/
def Dev.mayTake (d : Dev) (q : QP) : Bool :=
  let used := match q.loc with
    | .host _ _ => q.cqUsed + q.reserved
    | .near _ => q.reserved
  let up := match q.loc with
    | .host fn _ => (d.fn fn).mayWrite && (d.hport (fn / 256)).linkUp
    | .near _ => true
  let here := match q.loc with
    | .host _ _ => q.sqTail != q.sqHead
    | .near _ => q.ring.has q.sqHead
  !q.stopped && q.deleter.isNone && !q.discard && up && here && decide (used < 2 ^ q.log2Depth)

/-- The queue pair whose turn it is (R89): the one served last while its weight's share lasts, then the next with an
entry to take in rising order of IDs, the lowest after the highest. The order of the round is a DESIGN CHOICE (log entry
48). -/
def Dev.qpTurn (d : Dev) : Option Nat :=
  let may (n : Nat) : Bool := (d.qp? n).any d.mayTake
  if d.q.rrLeft ≠ 0 && may d.q.rrQp then some d.q.rrQp
  else
    match d.q.qps.find? fun p => decide (d.q.rrQp < p.1) && d.mayTake p.2 with
    | some p => some p.1
    | none => (d.q.qps.find? fun p => d.mayTake p.2).map (·.1)

/-- A queue pair has given an entry: one of its share is gone, or its turn has begun. -/
def qpServed (qp weight : Nat) (d : Dev) : Dev :=
  let left := if d.q.rrQp = qp ∧ d.q.rrLeft ≠ 0 then d.q.rrLeft - 1 else weight - 1
  { d with q := { d.q with rrQp := qp, rrLeft := left } }

/-- A command taken from a queue pair's slot. -/
def addCmd (qp slot : Nat) (q : QP) (e : Entry) (d : Dev) : Dev :=
  let half := match q.loc with
    | .host fn _ => hostHalf (fn / 256)
    | .near p => portHalf p
  let tag := e.fld 2 0 16
  let dup := d.q.cmds.any fun p => p.2.ofQp qp && p.2.tag == tag
  let c : Cmd :=
    { origin := .queue qp slot, entry := e, tenant := q.tenant, half := half, started := !e.ordered, dup := dup,
      phase := .taken, tick := d.now, input := [], ends := none, jobs := [], tiles := [] }
  let d := trace 1 1 (some q.tenant) (qp + 2 ^ 16 * tag)
    (leBytes 1 e.op ++ leBytes 1 0 ++ leBytes 2 e.qos ++ zeros 4 ++ leBytes 8 e.ha) d
  { d with q := { d.q with cmds := Map.set d.q.nextCmd c d.q.cmds, nextCmd := d.q.nextCmd + 1 } }

/-- The stack that holds the ring of a near-tier queue pair is reached (R85, R528). -/
def ringUse (qp : Nat) (write : Bool) (d : Dev) : Dev :=
  let s := Config.ringBase qp / 2 ^ 36
  if s < 6 then nearAccess s [3, qp] 64 0 write (d.nearUse s) else d

/-- SUBMISSION_ENTRY_TAKE: the entry at the next slot of the queue pair whose turn it is, read by DMA from host memory or
standing in the near-tier ring. An opcode of no row of Table 3-5 ends at once (R105). -/
def takeEntry (qp : Nat) (entry : Entry) (d : Dev) : Dev :=
  match d.qp? qp with
  | none => d
  | some q =>
    if d.qpTurn ≠ some qp then d
    else
      let slot := q.sqHead
      let e := match q.loc with
        | .host _ _ => entry
        | .near _ => q.ring.getD slot 0
      let d := match q.loc with
        | .host fn _ => bump 5 (fn / 256) 0 64 d
        | .near _ => ringUse qp false d
      let n := d.q.nextCmd
      let d := addCmd qp slot q e (bump 2 qp 0 1 <| qpServed qp q.weight (d.updQp qp fun q => { q with
        sqHead := (slot + 1) % 2 ^ q.log2Depth, reserved := q.reserved + 1, ring := Map.del slot q.ring }))
      if (opRow e.op).isNone then finishCmd n (errS .invalidOpcode) d else d

/-- ORDERED_COMMAND_START (R92). -/
def orderedStart (n : Nat) (d : Dev) : Dev :=
  match d.cmd? n with
  | some c => if !c.started && fencePassed n c d then d.updCmd n fun c => { c with started := true } else d
  | none => d

/-- COALESCE_TIMER_EXPIRY (R93). -/
def coalesceExpiry (qp : Nat) (d : Dev) : Dev :=
  match d.qp? qp with
  | some q =>
    if q.unsig ≠ 0 ∧ q.coalTicks ≠ 0 ∧ !q.admin ∧ q.unsigTick + q.coalTicks ≤ d.now then raiseVector qp d else d
  | none => d

/-! ## Doorbells (R87, R88) -/

/-- One half of a doorbell write judged and taken: none where R88 refuses it. With the ring full, a `cq_head` equal to
the write position returns every slot. -/
def doorHalf (tail : Bool) (v : Nat) (q : QP) : Option QP :=
  let depth := 2 ^ q.log2Depth
  let ix := v % 2 ^ 16
  if v / 2 ^ 16 ≠ 0 ∨ ix ≥ depth then none
  else if tail then
    let more := (ix + depth - q.sqTail) % depth
    if (q.sqTail + depth - q.sqHead) % depth + more > depth - 1 then none else some { q with sqTail := ix }
  else
    let step := (ix + depth - q.cqHead) % depth
    let freed := if step = 0 ∧ q.cqUsed = depth then depth else step
    if freed > q.cqUsed then none else some { q with cqHead := ix, cqUsed := q.cqUsed - freed }

/-- The halves of a doorbell write, in the order taken: whether it is the tail's, and its 32 bits. -/
def dbHalves : DbWrite → List (Bool × Nat)
  | .tail v => [(true, v.toNat)]
  | .head v => [(false, v.toNat)]
  | .both v => [(true, v.toNat % 2 ^ 32), (false, v.toNat / 2 ^ 32)]

/-- A refused value as its record holds it: a 4-byte write in its own half. -/
def dbValue : DbWrite → Nat
  | .tail v => v.toNat
  | .head v => v.toNat * 2 ^ 32
  | .both v => v.toNat

/-- Whether a function answers memory accesses: in D0, no FLR in progress (R460, R465). -/
def Fn.answers (f : Fn) : Bool := !f.d3hot && !f.flr

/-- The queue pair at a doorbell index of a function. -/
def Dev.qpAt (d : Dev) (fn db : Nat) : Option (Nat × QP) := d.q.qps.find? fun p => p.2.loc == .host fn db

/-- DOORBELL_WRITE: taken whole or refused whole (R88). -/
def doorbell (fn ix : Nat) (w : DbWrite) (d : Dev) : Dev :=
  if !(d.fn fn).answers then d
  else
    match d.qpAt fn ix with
    | none => bump 5 (fn / 256) 6 1 d
    | some (qp, q) =>
      if q.deleter.isSome then bump 2 qp 5 1 d
      else
        match (dbHalves w).foldlM (fun q h => doorHalf h.1 h.2 q) q with
        | none => stopQp qp 1 (dbValue w) 0 (bump 2 qp 5 1 d)
        | some q' =>
          (d.updQp qp fun _ => q').updFn fn fun f => { f with
            dbSq := Map.set ix q'.sqTail f.dbSq, dbCq := Map.set ix q'.cqHead f.dbCq }

/-! ## Ends of commands (R104, R464) -/

/-- A command waits for no parked context and no mapping any more. -/
def unwait (n : Nat) (d : Dev) : Dev :=
  let d := d.updStrs fun x => { x with strs := x.strs.mapVals fun _ s => { s with
    held := s.held.filter fun t => t != .cmd n } }
  d.updCxl fun c => { c with maps := c.maps.mapVals fun _ m => { m with
    closer := if m.closer = some n then none else m.closer } }

/-- The work of a command ended as the abort command of its group would end it (R104). -/
def abortWork (n : Nat) (d : Dev) : Dev :=
  match d.cmd? n with
  | none => d
  | some c =>
    let d := unwait n d
    let op := c.entry.op
    if op = 0x51 then endRuns (fun _ r => r.by' == .cmd n) .aborted 0 d
    else if op = 0x41 then
      match d.reds.reds.find? fun p => p.2.finish == some n with
      | some (id, r) => freeRed id (if r.ended.isSome then d else closeRed id .aborted d)
      | none => d
    else if op = 0x30 then
      match d.strs.strs.find? fun p => p.2.openCmd == some n with
      | some (id, s) =>
        let d := d.updStrs fun x => { x with strs := Map.del id x.strs }
        let free (q : RedSource) : RedSource := if q.stream = some id then { q with stream := none } else q
        if s.kind = 2 then d.updRed s.binding fun r => { r with sources := r.sources.map free } else d
      | none => d
    else if op = 0x31 then
      match d.strs.strs.find? fun p => p.2.closeCmd == some n with
      | some (id, _) => (endWork id Status.aborted.code Status.aborted.code [] d).updStr id fun s => { s with
          closeCmd := none }
      | none => d
    else if op = 0x68 then
      d.sync.waits.foldl (fun d p => if p.2.who = .cmd n then dropWait p.1 d else d) d
    else if op = 0x20 then endClaims (fun c => c.waiter == some n) (errS .aborted) d
    else if op = 0x84 then
      pumpCxl (d.updCxl fun c => { c with reqs := c.reqs.filter fun r => r.work != .clear n })
    else
      dropWrites (fun w => w == .cmd n) d

/-- A taken command that has not ended is ended with `ABORTED`. -/
def abortCmd (n : Nat) (d : Dev) : Dev := sweepJobs (finishCmd n (errS .aborted) (abortWork n d))

/-- Every command of a queue pair that has not ended is aborted. -/
def abortQp (qp : Nat) (d : Dev) : Dev :=
  d.q.cmds.foldl (fun d p => if p.2.ofQp qp && p.2.phase != .held then abortCmd p.1 d else d) d

/-! ## `QP_CREATE`, `QP_DELETE` (R84, R102 to R104) -/

/-- Whether the issuer may act on a queue pair of a function or tenant (R103). -/
def checkQpOwner (x : Ctx) (loc : QLoc) (t : Nat) (d : Dev) : Except Cpl Unit := do
  match loc, x.fn? d with
  | .host fn _, some f => need (fn / 256 == f / 256) (errS .notPermitted)
  | _, _ => .ok ()
  need (x.t == 0 || x.t == t) (errS .notPermitted)

/-- A queue pair just created: both indices 0, `phase` 1 (R103). -/
def QP.fresh (loc : QLoc) (admin : Bool) (tenant log2 weight vector count ticks sq cq ext : Nat) : QP :=
  { loc := loc, admin := admin, tenant := tenant, log2Depth := log2, weight := weight, vector := vector,
    coalCount := count, coalTicks := ticks, sqBase := sq, cqBase := cq, extBase := ext, sqTail := 0, sqHead := 0,
    cqHead := 0, cqPos := 0, phase := true, reserved := 0, cqUsed := 0, unsig := 0, unsigTick := 0, irqWait := false
    stopped := false, discard := false, deleter := none, ring := [] }

/-- Queue pairs of a function or of a YL port. -/
def Dev.qpsOf (d : Dev) (loc : QLoc) : Nat :=
  (d.q.qps.filter fun p => match p.2.loc, loc with
    | .host a _, .host b _ => a == b
    | .near a, .near b => a == b
    | _, _ => false).length

/-- The limits of R84. -/
def checkQpRoom (loc : QLoc) (d : Dev) : Except Cpl Unit :=
  need (decide (d.q.qps.length < 32768 ∧ d.qpsOf loc < 8192)) (errS .noResource)

/-- A queue pair added under the lowest free ID. -/
def addQp (q : QP) (d : Dev) : Nat × Dev :=
  let id := d.q.qps.firstFree 0
  (id, { d with q := { d.q with qps := Map.set id q d.q.qps } })

/-- `QP_CREATE`. -/
def bodyQpCreate : Body := plain fun x d => do
  let e := x.e
  checkQos x d
  let owner := e.w16 0x22
  let mk (loc : QLoc) (t vec sq cq : Nat) : QP :=
    QP.fresh loc false t (e.fld 0x28 0 5) (e.fld 0x29 0 8) vec (e.w16 0x2C) (e.w16 0x2E) sq cq (e.w64 0x38)
  if e.b20 = 0 then
    let loc : QLoc := .host owner (e.w16 0x24)
    let t ← match (d.fn owner).bound with
      | some t => .ok t
      | none => .error (errS .notPermitted)
    checkQpOwner x loc t d
    need (d.qpAt owner (e.w16 0x24)).isNone (errC 0xFF (t == x.t))
    checkQpRoom loc d
    need (e.addr % 4096 == 0) (errF 0x18)
    need (e.w64 0x30 % 4096 == 0) (errF 0x30)
    let (id, d) := addQp (mk loc t (e.fld 0x2A 0 11) e.addr (e.w64 0x30)) d
    okRes (leBytes 2 id) (d.updFn owner fun f => { f with
      dbSq := Map.set (e.w16 0x24) 0 f.dbSq, dbCq := Map.set (e.w16 0x24) 0 f.dbCq })
  else
    let t := e.fld 0x26 0 10
    let p := d.port owner
    checkQpOwner x (.near owner) t d
    checkQpRoom (.near owner) d
    let n := ringBytes (e.fld 0x28 0 5)
    checkQuota t 0 n 0 d
    need (p.bound && p.tenants.contains t) (errF 0x26)
    let _ ← chooseHalf n 0 d [portHalf owner]
    let (id, d) := addQp (mk (.near owner) t 0 0 0) d
    okRes (leBytes 2 id) (addNear t (portHalf owner) n d)

/-- `QP_DELETE`. -/
def bodyQpDelete : Body := plain fun x d => do
  checkQos x d
  let qp := x.e.w16 0x20
  let q ← match d.qp? qp with
    | some q => .ok q
    | none => .error (errF 0x20)
  checkQpOwner x q.loc q.tenant d
  need (!q.admin) (errF 0x20)
  need q.deleter.isNone (errC 0xFF true)
  let d := d.updQp qp fun q => { q with deleter := some x.num }
  .ok (.wait (reapQps (if x.e.fld 0x22 0 1 = 1 then abortQp qp d else d)))

/-! ## `TENANT_SET` (R450, R451) -/

/-- Whether a function has a live queue pair. -/
def Dev.fnBusy (d : Dev) (fn : Nat) : Bool := d.qpsOf (.host fn 0) != 0

/-- A stream closed at once: its port has lost its tenant, so that messages that wait for its context are dropped; commands
that wait for it end with `ABORTED`. -/
def closeStream (id : Nat) (s : Stream) (d : Dev) : Dev :=
  let d := d.updStr id fun s => { s with st := .closing, hw := true, restoring := false, held := [], openCmd := none }
  let d := (s.openCmd.toList).foldl (fun d n => finishCmd n (errS .aborted) d) d
  let d := s.held.foldl (fun d t => match t with
    | .msg _ _ => msgDropped s.port d
    | .cmd n => finishCmd n (errS .aborted) d) d
  let d := endWork id Status.aborted.code Status.aborted.code [] (dropParts id s d)
  pumpIngress s.port (writeOver (heldKey id) (streamClosed id d))

/-- The streams of a tenant closed as `STREAM_CLOSE` with `abort` closes them. -/
def closeStreams (t : Nat) (d : Dev) : Dev :=
  d.strs.strs.foldl (fun d p => if p.2.tenant = t then closeStream p.1 p.2 d else d) d

/-- Reductions of a tenant ended as `REDUCE_ABORT` ends them. -/
def abortReds (t : Nat) (d : Dev) : Dev :=
  d.reds.reds.foldl (fun d p =>
    if p.2.tenant = t then
      match p.2.finish with
      | some n => abortCmd n d
      | none => freeRed p.1 (if p.2.ended.isSome then d else closeRed p.1 .aborted d)
    else d) d

/-- Kernels, expert-binding sets and unit groups of a tenant ended; kernels are objects (R49). -/
def dropKernels (t : Nat) (d : Dev) : Dev :=
  let d := d.comp.kernels.foldl (fun d p =>
    if p.2.tenant = t then
      let copy := roundUp (256 + 8 * p.2.code.length) 4096
      let d := ([0, 1].zip p.2.copies).foldl (fun d c => if c.2.isSome then subNearH c.1 copy d else d)
        (subNearT t p.2.charge d)
      d.updComp fun c => { c with kernels := Map.del p.1 c.kernels }
    else d) d
  d.updComp fun c => { c with
    sets := Map.keep (fun _ s => s.tenant != t) c.sets, groups := Map.keep (fun _ g => g.1 != t) c.groups }

/-- What a tenant's grants let it read is taken from it (R83). -/
def dropGrants (t : Nat) (d : Dev) : Dev :=
  d.objs.objs.foldl (fun d p =>
    if p.2.grants.any fun g => g.grantee == t then
      let lost := (p.2.vers.filter fun v => p.2.covers t v.1).map (·.1)
      revoked p.1 t lost (d.updObj p.1 fun o => { o with grants := o.grants.filter fun g => g.grantee != t })
    else d) d

/-- R323: waits of a tenant end, its flags, counters and herds are free. -/
def dropSync (t : Nat) (d : Dev) : Dev :=
  let d := d.sync.waits.foldl (fun d p =>
    if p.2.tenant = t then
      match p.2.who with
      | .cmd n => finishCmd n (errS .aborted) (dropWait p.1 d)
      | .slice _ _ => dropWait p.1 d
    else d) d
  let gone := (d.sync.counters.filter fun p => p.2.tenant == t).map (·.1)
  d.updSync fun s => { s with
    flags := Map.keep (fun _ f => f.tenant != t) s.flags
    counters := Map.keep (fun _ c => c.tenant != t) s.counters
    freed := s.freed ++ gone
    herds := Map.keep (fun _ h => h.tenant != t) s.herds }

/-- REMOVE: the objects released, and the device without the tenant. -/
def removeTenant (t : Nat) (d : Dev) : Nat × Dev :=
  let d := endRuns (fun _ r => r.tenant == t) .aborted 0 d
  let d := closeStreams t (abortReds t d)
  let d := d.tiers.scheds.foldl (fun d p => if p.2.tenant = t then dropSched p.1 d else d) d
  let d := endClaims (fun c => c.tenant == t) (errS .aborted) d
  let d := dropGrants t (evalScheds d)
  let mine := (d.objs.objs.filter fun p => p.2.tenant == t && p.2.lives)
  let n := mine.length + (d.comp.kernels.filter fun p => p.2.tenant == t).length
  let d := mine.foldl (fun d p => p.2.releasable.foldl (fun d v => releaseVersion p.1 v.1 d) d) d
  let d := dropSync t (dropKernels t d)
  let d := d.qos.regs.foldl (fun d p => if p.2.tenant = t then releaseReg p.1 d else d) d
  let d := d.updInteg fun i => { i with keys := Map.del t i.keys }
  let d := d.updTiers fun x => { x with limits := Map.keep (fun k _ => k / 3 != t) x.limits }
  (n, evalScheds { d with q := { d.q with tenants := d.q.tenants.filter (· != t) } })

/-- Whether a tenant is still bound, in a port's set, or mapped to a host (R451). -/
def Dev.tenantHeld (d : Dev) (t : Nat) : Bool :=
  (d.q.fns.any fun p => p.2.bound == some t) || (d.ports.any fun p => p.2.tenants.contains t) ||
    d.cxl.maps.any fun p => p.2.tenant == t || ((d.obj? p.2.obj).map (·.tenant)) == some t

/-- `TENANT_SET`. -/
def bodyTenantSet : Body := plain fun x d => do
  let a := x.e.b20
  let t := x.e.fld 0x22 0 10
  let fn := x.e.w16 0x24
  checkQos x d
  if a = 0 then
    need (!d.defined t) (errC 0xFF false)
    okRes [] { d with q := { d.q with tenants := insertNat t d.q.tenants } }
  else if a = 1 then
    need (t != 0 && d.defined t) (errF 0x22)
    need (!d.tenantHeld t) (errC 0xFF false)
    let (n, d) := removeTenant t d
    okRes (leBytes 8 n) d
  else
    need (decide (fn < 1024)) (errF 0x24)
    if a = 2 then
      need (d.defined t) (errF 0x22)
      need (!d.fnBusy fn) (errC 0xFF false)
      okRes [] (d.updFn fn fun f => { f with bound := some t })
    else
      need (d.fn fn).bound.isSome (errF 0x24)
      need (!d.fnBusy fn) (errC 0xFF false)
      okRes [] (d.updFn fn fun f => { f with bound := none })

/-! ## `NOP`, `STATS_READ`, `IDENTIFY` (R106, R114, R115, R459) -/

/-- `NOP`. -/
def bodyNop : Body := plain fun x d => do
  checkQos x d
  okRes [] d

/-- Lengths of the counter catalogues (Table 3-11). -/
def catalogues : List Nat := [30, 30, 8, 20, 17, 21, 6, 19, 19, 4]

/-- Whether an instance of a scope names something (R115). -/
def Dev.statThere (d : Dev) (scope i : Nat) : Bool :=
  match scope with
  | 0 => i == 0
  | 1 => decide (i < 1024) && d.defined i
  | 2 => (d.qp? i).isSome
  | 3 => (d.str? i).any fun s => s.st != .opening
  | 4 => decide (i < 56)
  | 5 => decide (i < 4)
  | 6 => d.qos.regs.has i
  | 7 => decide (i < 32)
  | 8 => decide (i < 6)
  | _ => decide (2 ≤ i ∧ i ≤ 17)

/-- Whether a tenant may read an instance of a scope (R115). -/
def Dev.statMine (d : Dev) (t scope i : Nat) : Bool :=
  t == 0 || (match scope with
    | 1 => i == t
    | 2 => (d.qp? i).any fun q => q.tenant == t
    | 3 => (d.str? i).any fun s => s.tenant == t
    | 4 => (d.port i).tenants.contains t
    | 6 => (d.qos.regs.get? i).any fun r => r.tenant == t
    | _ => false)

/-- `STATS_READ`. -/
def bodyStatsRead : Body := plain fun x d => do
  let e := x.e
  let scope := e.b20
  let i := e.w32 0x24
  let first := e.w16 0x28
  let n := e.w16 0x2A
  checkQos x d
  need (x.t == 0 || !([0, 7, 8, 9].contains scope)) (errS .notPermitted)
  need (d.statThere scope i) (errF 0x24)
  need (d.statMine x.t scope i) (errS .notPermitted)
  need (decide (first + n ≤ catalogues.getD scope 0)) (errF 0x28)
  let keys := (fromTo first n).map (cntKey scope i)
  let ovf := (List.range n).filter fun k => d.cnt.ovf.contains (keys.getD k 0)
  let out := leBytes 8 d.now ++ leBytes 2 n ++ leBytes 1 scope ++ zeros 5 ++
    ((fromTo first n).flatMap fun k => leBytes 8 (d.count scope i k)) ++ leBytes 32 (maskOf ovf)
  let d := if e.fld 0x21 0 1 = 1 then
    { d with cnt := { d.cnt with ovf := d.cnt.ovf.filter fun k => !keys.contains k } } else d
  okData x [] out d

/-- `ID_REV` (Table 16-5): the stepping, and the versions in the running image's header. -/
def Dev.idRev (d : Dev) : Nat := Config.stepping + 256 * fld d.mgmt.running 0xC 8 24

/-- The device page (Table 16-11). -/
def Dev.devicePage (d : Dev) : Bytes :=
  let mask (n : Nat) (f : Nat → Bool) : Nat := maskOf ((List.range n).filter f)
  let up (k : Nat) : Bool := (d.ctrl k).inServ && !(d.ctrl k).retired
  let chans := (List.range 32).filter up
  let live := allClusters.filter fun c => !(d.cluster c).retired
  (ascii "SPX-9640" ++ zeros 16).take 16 ++ leBytes 4 d.idRev ++ leBytes 7 linkValue ++ zeros 5 ++
    leBytes 4 (mask 32 up) ++ leBytes 1 (mask 6 fun s => up (32 + s)) ++
    leBytes 1 (chans.foldl (fun r k => max r (d.ctrl k).rate) 0) ++
    leBytes 2 (chans.foldl (fun m k => if m = 0 then (d.ctrl k).sizeGib else min m (d.ctrl k).sizeGib) 0) ++
    leBytes 2 (maskOf (live.map (· - 2))) ++
    leBytes 2 ((List.range 128).filter d.coreLive).length ++ zeros 4 ++
    leBytes 8 (d.nearCap 0 + d.nearCap 1) ++ leBytes 8 (d.farCap 0 + d.farCap 1) ++
    leBytes 8 (mask 56 fun p => (d.port p).st == .active) ++
    leBytes 1 (mask 4 fun n => (d.hport n).linkUp) ++ zeros 55 ++ idKeyDigest

/-- The function page. A command that comes through no function names function 0 (DESIGN CHOICE, log entry 21). -/
def Dev.functionPage (d : Dev) (x : Ctx) : Bytes :=
  let fn := (x.fn? d).getD 0
  let loc : QLoc := match x.qp?.bind d.qp? with
    | some q => q.loc
    | none => .host 0 0
  leBytes 2 fn ++ leBytes 2 (x.t + 2 ^ 15) ++ leBytes 4 8192 ++ leBytes 2 2048 ++ zeros 2 ++ leBytes 4 (d.qpsOf loc)

/-- The library page. -/
def libraryPage : Bytes :=
  leBytes 2 libIds.length ++ zeros 6 ++ libIds.flatMap fun i =>
    leBytes 2 i ++ zeros 6 ++ hDigest (libBinary i)

/-- A cost-table entry (Table 8-12). A library kernel's block takes one matrix cycle per 32 elements of its weights, on
eight cores at 0.94 GHz; another kernel's time is the mean of its last batches. -/
def Dev.costEntry (d : Dev) (t expert : Nat) (b : Binding) : Bytes :=
  let ws := b.weights.filterMap fun a => (d.obj? a.obj).bind fun o =>
    (if b.follow && a.ver == 0 then o.latest t else some a.ver).map fun v => (a.obj, o, v)
  let tiles := ws.flatMap fun w => (List.range w.2.1.count).map fun i => (w.1, w.2.2, i)
  let sids := (tiles.map fun p => d.sidOf p.1 p.2.1 p.2.2).filter (· != 0)
  let len (l : List Nat) : Nat := (l.map fun s => ((d.objs.stored.get? s).map (·.len)).getD 0).sum
  let near := sids.filter fun s => ((d.objs.stored.get? s).map fun x => x.near == .present).getD false
  let cycles := (ws.map fun w => w.2.1.count * w.2.1.n / 32).sum
  let ns := match d.kernel? b.kernel with
    | some k => if k.lib ≠ 0 then cycles * 100 / (8 * 94)
      else if b.times.isEmpty then 0 else b.times.sum / b.times.length
    | none => 0
  leBytes 2 expert ++ zeros 2 ++ leBytes 4 ns ++ leBytes 8 (len sids) ++
    leBytes 8 (ws.map fun w => w.2.1.count * w.2.1.canon).sum ++ leBytes 8 (len near)

/-- The cost-table page. -/
def Dev.costPage (d : Dev) (x : Ctx) : Except Cpl Bytes :=
  let id := x.e.w32 0x24
  match d.comp.sets.get? id with
  | none => .error (errF 0x24)
  | some s =>
    if s.tenant ≠ x.t then .error (errS .notPermitted)
    else
      let all := s.binds.filter fun p => decide (x.e.w16 0x28 ≤ p.1)
      let l := all.take 127
      let next := match all.drop 127 with
        | p :: _ => p.1
        | [] => 0xFFFF
      .ok (leBytes 2 l.length ++ leBytes 2 next ++ leBytes 4 id ++ zeros 24 ++
        l.flatMap fun p => d.costEntry s.tenant p.1 p.2)

/-- `IDENTIFY`. -/
def bodyIdentify : Body := plain fun x d => do
  checkQos x d
  let page := x.e.b20
  let b ← if page = 0 then .ok d.devicePage
    else if page = 1 then .ok (d.functionPage x)
    else if page = 2 then .ok libraryPage
    else d.costPage x
  okData x (leBytes 4 b.length) ((b ++ zeros 4096).take 4096) d

/-! ## BAR0 (R454 to R457) -/

/-- IRQ_CAUSE_WRITE: ones clear causes (RW1C). -/
def irqCause (fn : Nat) (v : BitVec 32) (d : Dev) : Dev :=
  if fn % 256 ≠ 0 ∨ !(d.fn fn).answers then d
  else d.updFn fn fun f => { f with irqCause := f.irqCause &&& ~~~v }

/-- IRQ_MASK_WRITE: unmasking a cause that is set sends the vector. -/
def irqMask (fn : Nat) (v : BitVec 32) (d : Dev) : Dev :=
  if fn % 256 ≠ 0 ∨ !(d.fn fn).answers then d
  else
    let f := d.fn fn
    let new := v &&& 0x7F#32
    let d := d.updFn fn fun f => { f with irqMask := new }
    if f.irqCause &&& f.irqMask &&& ~~~new = 0 then d else sendMsix fn (f.irqVec.toNat % 2048) [] d

/-- Whether `AQ_SQ_BASE` to `vector` take writes (R456). -/
def Fn.aqOpen (f : Fn) : Bool := !bitOf f.aqCtrl.toNat 0 && !f.aqReady

/-- `AQ_CTRL` written: its fields where they take writes, then `enable` (R456). An enable while the device holds 32,768
queue pairs (R84) sets `fault` as well: R456 names only the depth and the binding (DESIGN CHOICE, log entry 74). -/
def aqCtrlWrite (fn : Nat) (v : BitVec 32) (d : Dev) : Dev :=
  if fn % 256 ≠ 0 ∨ !(d.fn fn).answers then d
  else
    let f := d.fn fn
    let was := bitOf f.aqCtrl.toNat 0
    let now := bitOf v.toNat 0
    let fields := (if f.aqOpen then v else f.aqCtrl) &&& 0x07FF1F00#32
    let d := d.updFn fn fun f => { f with aqCtrl := fields ||| (v &&& 1#32) }
    if !was && now then
      let log2 := bits fields.toNat 8 5
      match f.bound with
      | some t =>
        if 4 ≤ log2 ∧ log2 ≤ 16 ∧ !f.aqReady ∧ d.q.qps.length < 32768 then
          let (_, d) := addQp (QP.fresh (.host fn 0) true t log2 255 (bits fields.toNat 16 11) 1 0
            f.aqSq.toNat f.aqCq.toNat f.aqExt.toNat) d
          d.updFn fn fun f => { f with
            aqReady := true, aqFault := false, dbSq := Map.set 0 0 f.dbSq, dbCq := Map.set 0 0 f.dbCq }
        else d.updFn fn fun f => { f with aqFault := true }
      | none => d.updFn fn fun f => { f with aqFault := true }
    else if was && !now then
      let d := d.updFn fn fun f => { f with aqFault := false }
      match d.qpAt fn 0 with
      | some (qp, _) => reapQps (abortQp qp (d.updQp qp fun q => { q with deleter := some 0 }))
      | none => d
    else d

/-- A dword of the MSI-X table written. A vector unmasked while pending sends its message, as PCIe has it. -/
def msixWrite (fn off : Nat) (v : Nat) (d : Dev) : Dev :=
  let vec := off / 16
  let v := if off % 16 = 12 then v % 2 else if off % 16 = 0 then v / 4 * 4 else v
  let d := d.updFn fn fun f => { f with msix := Map.set off v f.msix }
  if off % 16 = 12 ∧ v = 0 ∧ (d.fn fn).pba.contains vec then
    let mine (q : QP) : Bool := q.irqWait && q.vector == vec && (match q.loc with
      | .host f _ => f == fn
      | .near _ => false)
    let qps := (d.q.qps.filter fun p => mine p.2).map (·.1)
    sendMsix fn vec qps ((d.updFn fn fun f => { f with pba := f.pba.filter (· != vec) }).updQps qps
      fun q => { q with irqWait := false })
  else d

/-- A 64-bit register with its low or high half, or both, written; `low` are its reserved low bits. -/
def half64 (r : BitVec 64) (hi : Bool) (size : Nat) (v : BitVec 64) (low : Nat) : BitVec 64 :=
  let x := if size = 8 then v.toNat
    else if hi then r.toNat % 2 ^ 32 + (v.toNat % 2 ^ 32) * 2 ^ 32
    else r.toNat / 2 ^ 32 * 2 ^ 32 + v.toNat % 2 ^ 32
  BitVec.ofNat 64 (x / 2 ^ low * 2 ^ low)

/-- A dword of BAR0 written, at an offset that is no 64-bit register (Table 16-4). -/
def bar0Dword (fn off v : Nat) (d : Dev) : Dev :=
  let pf := fn % 256 == 0
  if 0x100000 ≤ off ∧ off < 0x110000 then
    let q := (off - 0x100000) / 8
    doorbell fn q (if off % 8 = 0 then .tail (BitVec.ofNat 32 v) else .head (BitVec.ofNat 32 v)) d
  else if 0x800000 ≤ off ∧ off < 0x808000 then msixWrite fn (off - 0x800000) v d
  else if !pf then d
  else if off = 0x2000 then irqCause fn (BitVec.ofNat 32 v) d
  else if off = 0x2004 then irqMask fn (BitVec.ofNat 32 v) d
  else if off = 0x2008 then d.updFn fn fun f => { f with irqVec := BitVec.ofNat 32 (v % 2048) }
  else if off = 0x10018 then aqCtrlWrite fn (BitVec.ofNat 32 v) d
  else d

/-- A write to BAR0: a size R454 does not accept is dropped and counted. -/
def bar0Write (fn off size : Nat) (v : BitVec 64) (d : Dev) : Dev :=
  if !(d.fn fn).answers then d
  else if !((size = 4 ∧ off % 4 = 0) ∨ (size = 8 ∧ off % 8 = 0)) then bump 5 (fn / 256) 6 1 d
  else
    let pf := fn % 256 == 0
    let aq (b : Nat) : Bool := pf && decide (off / 8 * 8 = b)
    if aq 0x10000 || aq 0x10008 || aq 0x10010 then
      if !(d.fn fn).aqOpen then d
      else d.updFn fn fun f =>
        if aq 0x10000 then { f with aqSq := half64 f.aqSq (off % 8 == 4) size v 12 }
        else if aq 0x10008 then { f with aqCq := half64 f.aqCq (off % 8 == 4) size v 12 }
        else { f with aqExt := half64 f.aqExt (off % 8 == 4) size v 6 }
    else if size = 4 then bar0Dword fn off (v.toNat % 2 ^ 32) d
    else if 0x100000 ≤ off ∧ off < 0x110000 then doorbell fn ((off - 0x100000) / 8) (.both v) d
    else bar0Dword fn (off + 4) (v.toNat / 2 ^ 32) (bar0Dword fn off (v.toNat % 2 ^ 32) d)

/-- A dword of BAR0 as it reads; none where the access is an Unsupported Request (R454 to R457, R460, R465). No read
changes state (R12). -/
def Dev.bar0Read (d : Dev) (fn off : Nat) : Option (BitVec 32) :=
  let f := d.fn fn
  let r (n : Nat) : Option (BitVec 32) := some (BitVec.ofNat 32 n)
  let half (x : Nat) : Option (BitVec 32) := r (if off % 8 = 0 then x else x / 2 ^ 32)
  if !f.answers || !(d.hport (fn / 256)).linkUp then none
  else if 0x100000 ≤ off ∧ off < 0x110000 then
    let q := (off - 0x100000) / 8
    r (if off % 8 = 0 then f.dbSq.getD q 0 else f.dbCq.getD q 0)
  else if 0x800000 ≤ off ∧ off < 0x808000 then
    r (f.msix.getD (off - 0x800000) (if off % 16 = 12 then 1 else 0))
  else if 0x808000 ≤ off ∧ off < 0x808100 then
    let base := 8 * (off - 0x808000)
    r (maskOf ((List.range 32).filter fun k => f.pba.contains (base + k)))
  else if fn % 256 ≠ 0 then r 0
  else if off = 0 then r 0x96407E55
  else if off = 4 then r d.idRev
  else if off = 8 then r (fn / 256 + (match f.bound with
    | some t => 2 ^ 16 * t + 2 ^ 31
    | none => 0))
  else if off = 0x1000 then some d.gst
  else if off / 8 * 8 = 0x1008 then half d.now
  else if off = 0x1010 then r (((d.integ.log.reverse.find? fun e => match f.bound with
    | some t => e.seenBy t
    | none => false).map (·.id)).getD 0)
  else if off = 0x2000 then some f.irqCause
  else if off = 0x2004 then some f.irqMask
  else if off = 0x2008 then some f.irqVec
  else if off / 8 * 8 = 0x10000 then half f.aqSq.toNat
  else if off / 8 * 8 = 0x10008 then half f.aqCq.toNat
  else if off / 8 * 8 = 0x10010 then half f.aqExt.toNat
  else if off = 0x10018 then some f.aqCtrl
  else if off = 0x1001C then
    let stopped := (d.qpAt fn 0).any fun q => q.2.stopped
    r (b2n f.aqReady + 2 * b2n stopped + 4 * b2n f.aqFault)
  else r 0

/-! ## The resource directory (R458, Tables 16-9 and 16-10) -/

/-- A directory entry. -/
def dirEntry (typ space ix param off len stride count : Nat) : Bytes :=
  leBytes 1 typ ++ leBytes 1 space ++ leBytes 2 ix ++ leBytes 4 param ++ leBytes 8 off ++ leBytes 8 len ++
    leBytes 4 stride ++ leBytes 4 count

/-- The entries, in the order of their types (DESIGN CHOICE, log entry 22). -/
def dirEntries : List Bytes :=
  let dvsec (ix id off : Nat) : Bytes := dirEntry 9 0 ix (0x1E98 + 2 ^ 16 * id) off 0 0 0
  [dirEntry 1 1 0 0 0 12 0 0, dirEntry 2 1 0 0 0x1000 0x14 0 0, dirEntry 3 1 0 0 0x2000 12 0 0,
   dirEntry 4 1 0 0 0x10000 0x20 0 0, dirEntry 5 1 0 0 0x100000 0x10000 8 8192,
   dirEntry 5 3 1 0 0x100000 0x10000 8 8192, dirEntry 6 1 0 0 0x800000 0x8000 16 2048,
   dirEntry 6 3 1 0 0x800000 0x8000 16 2048, dirEntry 7 1 0 0 0x808000 256 0 2048,
   dirEntry 7 3 1 0 0x808000 256 0 2048, dirEntry 8 1 0 16 0 32768 0 8192,
   dvsec 0 0 0x300, dvsec 1 5 0x340, dvsec 2 7 0x360, dvsec 3 8 0x380,
   dirEntry 0xA 2 0 0 0 0x10000 0 0, dirEntry 0xB 2 0 0 0x10000 0x10000 0 0, dirEntry 0xC 4 0 3 0 0 0 0,
   dirEntry 0xD 4 0 0 0 windowLimit 0 0]

/-- The resource directory. -/
def Dev.directory (d : Dev) : Bytes :=
  ascii "SPXRDIR1" ++ leBytes 2 1 ++ leBytes 2 dirEntries.length ++ leBytes 2 32 ++ zeros 2 ++ leBytes 4 d.idRev ++
    zeros 44 ++ dirEntries.flatten

/-- A byte of a PF's expansion ROM window, where it answers: ROM Enable and Memory Space Enable are both 1 (R458). -/
def Dev.romRead (d : Dev) (fn off : Nat) : Option Byte :=
  let f := d.fn fn
  if fn % 256 = 0 ∧ off < 2 ^ 24 ∧ f.answers ∧ (d.hport (fn / 256)).linkUp ∧ bitOf (f.cfg.getD 0x30 0) 0 ∧
      bitOf (f.cfg.getD 0x04 0) 1 then
    some (if 0x10000 ≤ off then d.directory.getD (off - 0x10000) (Config.romWindow off) else Config.romWindow off)
  else none

/-! ## Resets of functions (R463 to R465) -/

/-- A timed-out or abandoned read's tag. -/
def quarAll (f : Fn) : List Nat := f.reads.keys.foldl (fun l t => insertNat t l) f.quar

/-- A function with reset values: its binding, its quarantined tags and its sticky AER bits stay (Table 16-12). -/
def Fn.resetOf (f : Fn) (pf : Bool) : Fn :=
  { Fn.reset pf with
    bound := f.bound, quar := quarAll f, aer := f.aer, lateTick := f.lateTick, lateCount := f.lateCount }

/-- Functions of a port that hold anything. -/
def Dev.portFns (d : Dev) (port : Nat) : List Nat :=
  let l := (d.q.fns.keys.filter fun f => f / 256 == port)
  d.q.qps.foldl (fun l p => match p.2.loc with
    | .host f _ => if f / 256 = port then insertNat f l else l
    | .near _ => l) (insertNat (256 * port) l)

/-- Functions reset: their queue pairs deleted, their commands ended without completions, their streams halted, their
runs ended (Table 16-12). -/
def resetFns (fns : List Nat) (d : Dev) : Dev :=
  let ofFn (q : QP) : Bool := match q.loc with
    | .host f _ => fns.contains f
    | .near _ => false
  let qps := (d.q.qps.filter fun p => ofFn p.2).map (·.1)
  let d := qps.foldl (fun d q => d.updQp q fun q => { q with discard := true }) d
  let d := haltStreams (fun _ s => s.opener.any fns.contains) .aborted d
  let d := endRuns (fun _ r => r.fn.any fns.contains) .aborted 0 d
  let d := d.q.cmds.foldl (fun d p => if qps.any p.2.ofQp then abortCmd p.1 d else d) d
  let d := qps.foldl (fun d q => d.removeQp q) (reapQps d)
  fns.foldl (fun d fn => d.updFn fn fun f => f.resetOf (fn % 256 == 0)) d

/-- FLR: a PF's resets its VFs too (R464). -/
def flrStart (fn : Nat) (d : Dev) : Dev :=
  if (d.fn fn).flr then d
  else
    let d := resetFns (if fn % 256 = 0 then d.portFns (fn / 256) else [fn]) (bump 5 (fn / 256) 5 1 d)
    d.updFn fn fun f => { f with flr := true }

/-- A fundamental reset of a port's functions, with the loss of its host (R463). -/
def portReset (port cause : Nat) (d : Dev) : Dev :=
  let d := resetFns (d.portFns port) d
  loseHost port cause true (fun _ => true) (d.updHport port fun h => { h with linkUp := false, narrow := false })

/-! ## Bus mastering and D-states (R460, R466) -/

/-- What was held for a function is written, in order. -/
def flushHeld (fn : Nat) (d : Dev) : Dev :=
  if !(d.fn fn).mayWrite then d
  else
    let l := (d.fn fn).held
    l.foldl (fun d h => match h with
      | .cpl n c => finishCmd n c d
      | .irq v qps => sendMsix fn v qps d) (d.updFn fn fun f => { f with held := [] })

/-- BUS_MASTER_ENABLE_SET. -/
def bmeSet (fn : Nat) (d : Dev) : Dev := flushHeld fn (d.updFn fn fun f => { f with bme := true })

/-- D0_RETURN: the function keeps its state and writes what was held. -/
def d0Return (fn : Nat) (d : Dev) : Dev :=
  if (d.fn fn).d3hot then flushHeld fn (d.updFn fn fun f => { f with d3hot := false }) else d

/-! ## ATS (R470) -/

/-- Whether two byte ranges meet. -/
def rangesMeet (a b : Nat × Nat) : Bool := overlaps a.1 a.2 b.1 b.2

/-- Whether a function has a read outstanding in a range. -/
def Fn.reading (f : Fn) (r : Nat × Nat) : Bool := f.reads.any fun p => rangesMeet (p.2.addr, p.2.len) r

/-- Invalidations whose reads have all been completed or timed out are answered. -/
def reapInval (fn : Nat) (d : Dev) : Dev :=
  let f := d.fn fn
  let done := f.inval.filter fun r => !f.reading r
  done.foldl (fun d _ => emit (.atsDone fn) d) (d.updFn fn fun f => { f with inval := f.inval.filter f.reading })

/-- ATS_INVALIDATION: translations of the range go; it completes once no request issued with them is left. -/
def atsInvalidate (fn addr len : Nat) (d : Dev) : Dev :=
  reapInval fn (d.updFn fn fun f => { f with
    atc := f.atc.filter fun r => !rangesMeet r (addr, len), inval := f.inval ++ [(addr, len)] })

/-! ## Meanings -/

/-- NOP. -/
def execNop (c : Nat) (s : State) : Host.Outcome State Fault Refusal := onDev (startCmd 0x00 bodyNop c) s
/-- IDENTIFY. -/
def execIdentify (c : Nat) (s : State) : Host.Outcome State Fault Refusal := onDev (startCmd 0x01 bodyIdentify c) s
/-- QP_CREATE. -/
def execQpCreate (c : Nat) (s : State) : Host.Outcome State Fault Refusal := onDev (startCmd 0x04 bodyQpCreate c) s
/-- QP_DELETE. -/
def execQpDelete (c : Nat) (s : State) : Host.Outcome State Fault Refusal := onDev (startCmd 0x05 bodyQpDelete c) s
/-- TENANT_SET. -/
def execTenantSet (c : Nat) (s : State) : Host.Outcome State Fault Refusal := onDev (startCmd 0x06 bodyTenantSet c) s
/-- STATS_READ. -/
def execStatsRead (c : Nat) (s : State) : Host.Outcome State Fault Refusal := onDev (startCmd 0x09 bodyStatsRead c) s
/-- ORDERED_COMMAND_START. -/
def execOrderedCommandStart (c : Nat) (s : State) : Host.Outcome State Fault Refusal := onDev (orderedStart c) s
/-- SUBMISSION_ENTRY_TAKE. -/
def execSubmissionEntryTake (qp : Nat) (entry : Entry) (s : State) : Host.Outcome State Fault Refusal :=
  onDev (takeEntry qp entry) s
/-- COALESCE_TIMER_EXPIRY. -/
def execCoalesceTimerExpiry (qp : Nat) (s : State) : Host.Outcome State Fault Refusal := onDev (coalesceExpiry qp) s
/-- DOORBELL_WRITE. -/
def execDoorbellWrite (fn q : Nat) (w : DbWrite) (s : State) : Host.Outcome State Fault Refusal :=
  onHost fn (doorbell fn q w) s
/-- IRQ_CAUSE_WRITE. -/
def execIrqCauseWrite (fn : Nat) (v : BitVec 32) (s : State) : Host.Outcome State Fault Refusal :=
  onHost fn (irqCause fn v) s
/-- IRQ_MASK_WRITE. -/
def execIrqMaskWrite (fn : Nat) (v : BitVec 32) (s : State) : Host.Outcome State Fault Refusal :=
  onHost fn (irqMask fn v) s
/-- AQ_ENABLE: `AQ_CTRL` written with `enable` going from 0 to 1. -/
def execAqEnable (fn : Nat) (v : BitVec 32) (s : State) : Host.Outcome State Fault Refusal :=
  onHost fn (fun d => if bitOf v.toNat 0 && !bitOf (d.fn fn).aqCtrl.toNat 0 then aqCtrlWrite fn v d else d) s
/-- AQ_DISABLE: `AQ_CTRL` written with `enable` going from 1 to 0. -/
def execAqDisable (fn : Nat) (v : BitVec 32) (s : State) : Host.Outcome State Fault Refusal :=
  onHost fn (fun d => if !bitOf v.toNat 0 && bitOf (d.fn fn).aqCtrl.toNat 0 then aqCtrlWrite fn v d else d) s
/-- FLR. -/
def execFlr (fn : Nat) (s : State) : Host.Outcome State Fault Refusal := onHost fn (flrStart fn) s
/-- FLR_COMPLETE. -/
def execFlrComplete (fn : Nat) (s : State) : Host.Outcome State Fault Refusal :=
  onDev (fun d => d.updFn fn fun f => { f with flr := false }) s
/-- BUS_MASTER_ENABLE_SET. -/
def execBusMasterEnableSet (fn : Nat) (s : State) : Host.Outcome State Fault Refusal := onHost fn (bmeSet fn) s
/-- D3HOT_ENTRY. -/
def execD3hotEntry (fn : Nat) (s : State) : Host.Outcome State Fault Refusal :=
  onHost fn (fun d => d.updFn fn fun f => { f with d3hot := true }) s
/-- D0_RETURN. -/
def execD0Return (fn : Nat) (s : State) : Host.Outcome State Fault Refusal := onHost fn (d0Return fn) s
/-- TAG_QUARANTINE_END. -/
def execTagQuarantineEnd (fn tag : Nat) (s : State) : Host.Outcome State Fault Refusal :=
  onDev (fun d => d.updFn fn fun f => { f with quar := f.quar.filter (· != tag) }) s
/-- ATS_INVALIDATION. -/
def execAtsInvalidation (fn addr len : Nat) (s : State) : Host.Outcome State Fault Refusal :=
  onHost fn (atsInvalidate fn addr len) s
/-- HOT_RESET. -/
def execHotReset (port : Nat) (s : State) : Host.Outcome State Fault Refusal :=
  if (s.dev.hport port).linkUp && !s.dev.pwr.bscan then onPort (portReset port 2) (s.setHdm port Hdm.reset) else .next s
/-- LINK_DOWN: an unplanned loss of the link. -/
def execLinkDown (port : Nat) (s : State) : Host.Outcome State Fault Refusal :=
  if (s.dev.hport port).linkUp && !s.dev.pwr.bscan then onPort (portReset port 1) (s.setHdm port Hdm.reset) else .next s
/-- ASPM_L1_ENTRY: the device requests L1 and the link enters it. -/
def execAspmL1Entry (port : Nat) (s : State) : Host.Outcome State Fault Refusal :=
  onDev (fun d => if (d.hport port).linkUp then emit (.l1Request port) (bump 5 port 7 1 d) else d) s
/-- L0P_NARROW. -/
def execL0pNarrow (port : Nat) (s : State) : Host.Outcome State Fault Refusal :=
  onDev (fun d => if (d.hport port).linkUp && !(d.hport port).narrow then
    emit (.hostWidth port 4) (d.updHport port fun h => { h with narrow := true }) else d) s
/-- L0P_RESTORE. -/
def execL0pRestore (port : Nat) (s : State) : Host.Outcome State Fault Refusal :=
  onDev (fun d => if (d.hport port).narrow then
    emit (.hostWidth port 16) (d.updHport port fun h => { h with narrow := false }) else d) s

end Sys2Proof.Machine
end

