-- ==== Sys2Proof/Machine/Trust.lean ====
section
/-! DEFINITION. Management, firmware and trust: features, sensors, attestation, firmware staging and commit, preset images,
the owner, time correlation (R495 to R517). -/

namespace Sys2Proof.Machine

/-! ## Features (R509, R510, Table 18-11) -/

/-- Whether `v` lies from `a` to `b`. -/
def inRange (a b v : Nat) : Bool := decide (a ≤ v ∧ v ≤ b)

/-- Whether the bytes of a value from `n` on are zero; the table names the `n` before. -/
def restZero (n : Nat) (v : Bytes) : Option Nat :=
  ((List.range 24).drop n).find? fun k => v.getD k 0 != 0

/-- Fields of a feature's value: offset, bytes, lowest and highest value. -/
def featFields (id : Nat) : List (Nat × Nat × Nat × Nat) :=
  if id = 0x01 then (List.range 4).map fun k => (k, 1, 0, 100)
  else if id = 0x02 then [(0, 1, 0, 15)]
  else if id = 0x03 then [(0, 1, 0, 1), (1, 1, 80, 110)]
  else if id = 0x04 then [(0, 4, 125, 125000)]
  else if id = 0x05 then [(0, 4, 0, 0xFFFFFFFF), (4, 4, 0, 0xFFFFFFFF), (8, 2, 0, 65535)]
  else if id = 0x06 then (0, 2, 1, 1023) :: (fromTo 2 8).map fun k => (k, 1, 0, 255)
  else if id = 0x07 then [(0, 1, 4, 60), (1, 1, 4, 60), (2, 1, 2, 30), (3, 1, 2, 30), (4, 2, 16, 1024)]
  else if id = 0x08 then (List.range 14).map fun k => (k, 1, 1, 8)
  else if id = 0x09 then [(0, 1, 14, 26)]
  else if id = 0x0A then [(0, 4, 2500, 2500000)]
  else if id = 0x10 ∨ id = 0x11 then [(0, 1, 0, 2)]
  else if id = 0x12 then [(0, 1, 0, 1)]
  else [(0, 2, 0, 65535), (2, 2, 0, 65535)]

/-- Offset within a feature's value of the first byte that is not allowed (R510, R47): clear levels lie below raise levels
(R352), low watermarks below high ones (R368). -/
def featBad (id : Nat) (v : Bytes) : Option Nat :=
  let fs := featFields id
  match fs.find? fun f => !inRange f.2.2.1 f.2.2.2 (fld v f.1 0 (8 * f.2.1)) with
  | some f => some f.1
  | none =>
    let pairs := if id = 0x06 then [2, 4, 6, 8] else if id = 0x07 then [0, 2] else []
    if id = 0x01 ∧ fld v 0 0 8 + fld v 1 0 8 + fld v 2 0 8 + fld v 3 0 8 ≠ 100 then some 0
    else if let some k := pairs.find? fun k => decide (fld v k 0 8 ≤ fld v (k + 1) 0 8) then some (k + 1)
    else restZero (fs.foldl (fun n f => max n (f.1 + f.2.1)) 0) v

/-- Whether a feature is set by the preset image only. -/
def presetOnly (id : Nat) : Bool := decide (0x10 ≤ id)

/-- Units of 256 KiB a region of one cluster slice holds now, the most of any cluster; of a region shared by a half, its
bytes spread over the half's clusters (R47). -/
def Dev.unitsHeld (d : Dev) (region : Nat) : Nat :=
  let per (half bytes : Nat) : Nat := ceilDiv bytes (262144 * max 1 (d.liveClusters half).length)
  if region = 0 then allClusters.foldl (fun m c => max m (d.redUnits c)) 0
  else if region = 1 then max (per 0 (d.stagingUsed 0)) (per 1 (d.stagingUsed 1))
  else if region = 2 then max (per 0 (d.scratchUsed 0)) (per 1 (d.scratchUsed 1))
  else
    let blocks (c : Nat) : Nat := ((d.comp.batches.vals.filter (·.cluster == c)).map (·.blocks)).sum
    allClusters.foldl (fun m c => max m (ceilDiv (blocks c) 64)) 0

/-- Whether a new split would shrink a region below the units it holds (R47). -/
def Dev.splitShrinks (d : Dev) (new : List Nat) : Bool :=
  (List.range 4).any fun r =>
    decide (tcUnits new r < tcUnits d.tiers.split r ∧ tcUnits new r < d.unitsHeld r)

/-- THERM_ALERT on GP[4] (R497): low from the moment a die reads the threshold, released once every die reads at least
3 °C below. -/
def alertUpdate (d : Dev) : Dev :=
  let dies := (List.range 15).filterMap fun i => (d.mgmt.sensors.get? i).map (·.value)
  let at' : Int := (d.feat 0x03 1 8 : Int) * 1000
  let on := if d.feat 0x03 0 8 ≠ 1 then false
    else if dies.any fun v => decide (v ≥ at') then true
    else if dies.all fun v => decide (v ≤ at' - 3000) then false
    else d.pwr.thermAlert
  d.updPwr fun p => { p with thermAlert := on }

/-- What a change of a feature changes besides its value. -/
def featApply (id : Nat) (d : Dev) : Dev :=
  if id = 0x01 then
    d.updTiers fun t => { t with split := (List.range 4).map fun k => fld (d.featureLayer 1).1 k 0 8 }
  else if id = 0x03 then alertUpdate d
  else d

/-- `GET_FEATURE`. -/
def bodyGetFeature : Body := plain fun x d => do
  checkQos x d
  need (featureDefault x.e.b20).isSome (errF 0x20)
  let (v, layer) := d.featureLayer x.e.b20
  okData x [] (v ++ leBytes 1 layer ++ zeros 7) d

/-- `SET_FEATURE`. -/
def bodySetFeature : Body := plain fun x d => do
  let id := x.e.b20
  let v := (x.e.bytes.drop 0x28).take 24
  checkQos x d
  need ((featureDefault id).isSome && !presetOnly id) (errF 0x20)
  match featBad id v with
  | some k => .error (errF (0x28 + k))
  | none => .ok ()
  need (!(id == 0x01 && d.splitShrinks ((List.range 4).map fun k => fld v k 0 8))) (errC 0 true)
  need (!(id == 0x03 && fld v 0 0 8 == 1 && (d.integ.trace.clock || presetHolds x 3 d))) (errC 3 true)
  okRes [] (featApply id (d.updMgmt fun m => { m with features := Map.set id v m.features }))

/-! ## Sensors (R495, R496) -/

/-- Unit of a sensor (Table 18-3), none where Table 18-2 lists no such ID. -/
def sensorUnit (id : Nat) : Option Nat :=
  if id ≤ 0x0E then some 1
  else if inRange 0x10 0x1F id then some 2
  else if inRange 0x20 0x2F id then some 3
  else if inRange 0x30 0x4F id then some 1
  else if inRange 0x50 0x87 id then some 5
  else if id = 0x90 then some 4
  else none

/-- Whether what a sensor measures is powered off, retired, or a port that is not ACTIVE: a compute die without its
uncore, a stack without its domain, a rail that is not auxiliary while `MAIN_PWR_EN` is low. -/
def Dev.sensorOff (d : Dev) (id : Nat) : Bool :=
  if inRange 4 7 id then d.domain (18 + (id - 4)) != .on
  else if inRange 9 0xE id then d.domain (32 + (id - 9)) != .on || d.tiers.lostNear.contains (id - 9)
  else if inRange 0x10 0x2F id then !d.pwr.mainPwrEn && !([0, 1, 13, 14, 15].contains (id % 16))
  else if inRange 0x30 0x4F id then (d.ctrl (id - 0x30)).retired
  else if inRange 0x50 0x87 id then (d.port (id - 0x50)).st != .active
  else false

/-- Status of a sensor record. -/
def Dev.sensorStatus (d : Dev) (id : Nat) : Nat :=
  if (sensorUnit id).isNone || (inRange 0x30 0x4F id && !(d.ctrl (id - 0x30)).present) then 1
  else if d.mgmt.sensorBad.contains id then 2
  else if d.sensorOff id then 3 else 0

/-- A sensor record (Table 18-3). -/
def Dev.sensorRecord (d : Dev) (id : Nat) : Bytes :=
  let st := d.sensorStatus id
  let s : Sample := (d.mgmt.sensors.get? id).getD ⟨0, 0⟩
  let v : Nat := if st = 0 then (s.value % 2 ^ 32).toNat else 0
  leBytes 2 id ++ leBytes 1 ((sensorUnit id).getD 0) ++ leBytes 1 st ++ leBytes 4 v ++ leBytes 8 s.tick

/-- `SENSOR_READ`. -/
def bodySensorRead : Body := plain fun x d => do
  let n := x.e.w16 0x22
  checkQos x d
  okData x (leBytes 2 n) ((fromTo (x.e.w16 0x20) n).flatMap d.sensorRecord) d

/-! ## Measured start and attestation (R500 to R502) -/

/-- Private key of the alias (R500), from `device_secret` and slots 1 to 4. -/
def aliasPrivate (secret : Bytes) (slots : List Bytes) : Bytes :=
  (shake256 (label "SPX1/alias" (secret ++ (slots.take 4).flatten))).take 57

/-- Attestation report (Table 18-7). -/
def Dev.report (d : Dev) (nonce : Bytes) : Bytes :=
  let body := ascii "SPXATT01" ++ leBytes 1 1 ++ leBytes 1 8 ++ leBytes 2 d.pwr.mode.code ++ leBytes 4 d.idRev ++
    leBytes 8 d.now ++ zeros 8 ++ nonce ++ idKeyDigest ++ leBytes 57 (Config.ed448Public d.mgmt.aliasKey).toNat ++
    zeros 7 ++ ((List.range 8).map fun k => d.mgmt.slots.getD k (zeros 64)).flatten
  body ++ leBytes 114 (Config.ed448Sign d.mgmt.aliasKey (shake256 body)).toNat ++ zeros 14

/-- `ATTEST`. -/
def bodyAttest : Body := plain fun x d => do
  checkQos x d
  okData x (leBytes 4 832) (d.report ((x.e.bytes.drop 0x20).take 32)) d.useSecurity

/-! ## Flash records in two copies (R498) -/

/-- Of two copies, each with its sequence number where it is valid, which holds the newest contents: `false` A. -/
def newerCopy (a b : Option Nat) : Option Bool :=
  match a, b with
  | some x, some y => some (decide (y > x))
  | some _, none => some false
  | none, some _ => some true
  | none, none => none

/-- Whether a write goes to copy B: it goes to the copy that does not hold the newest valid contents. -/
def writesB (a b : Option Nat) : Bool := newerCopy a b == some false

/-- `min_svn` (R505). -/
def Flash.minSvn (f : Flash) : Nat × Nat :=
  match newerCopy (f.svnA.map (·.1)) (f.svnB.map (·.1)) with
  | some true => f.svnB.getD (0, 0)
  | some false => f.svnA.getD (0, 0)
  | none => (0, 0)

/-- The security record written with a new `min_svn`, which never falls. -/
def Flash.raiseSvn (svn : Nat) (f : Flash) : Flash :=
  let (seq, old) := f.minSvn
  let r := some (seq + 1, max old svn)
  if svn ≤ old then f
  else if writesB (f.svnA.map (·.1)) (f.svnB.map (·.1)) then { f with svnB := r } else { f with svnA := r }

/-- The owner record in force: the key enrolled, if any, and `owner_seq`. -/
def Flash.owner (f : Flash) : Owner :=
  match newerCopy (f.ownerA.map (·.seq)) (f.ownerB.map (·.seq)) with
  | some true => f.ownerB.getD ⟨none, 0⟩
  | some false => f.ownerA.getD ⟨none, 0⟩
  | none => ⟨none, 0⟩

/-- The owner record written. -/
def Flash.setOwner (key : Option Bytes) (f : Flash) : Flash :=
  let r := some { key := key, seq := f.owner.seq + 1 : Owner }
  if writesB (f.ownerA.map (·.seq)) (f.ownerB.map (·.seq)) then { f with ownerB := r } else { f with ownerA := r }

/-! ## Firmware images (R504 to R508) -/

/-- R504 but for the `svn` check: signer, signature, payload digest. -/
def imageOk (b : Bytes) : Bool :=
  let len := fld b 8 0 32
  let key := (b.drop 0x60).take 57
  let digest := shake256 key
  let known := digest == leBytes 64 Config.romKeys.1.toNat || digest == leBytes 64 Config.romKeys.2.toNat
  let sig := (b.drop 0xA0).take 114
  let payload := (b.take len).drop 0x200
  known && inRange 0x200 b.length len && Config.ed448Verify key (shake256 (b.take 0xA0)) sig &&
    (b.drop 0x20).take 64 == shake256 payload

/-- `svn` of an image. -/
def imageSvn (b : Bytes) : Nat := fld b 0x10 0 32

/-- Who stages firmware through a command. -/
def Ctx.stager (x : Ctx) : Stager :=
  match x.cmd.origin with
  | .queue qp _ => .queue qp
  | .mgmt b => .mgmt b
  | .preset _ => .mgmt 0

/-- The staged image: its blocks in order, erased flash where none has been staged. -/
def Staging.image (s : Staging) : Bytes :=
  (List.range (s.len / 4096)).flatMap fun k =>
    (s.blocks.getD k (List.replicate 4096 0xFF)).take 4096

/-- Whether every 4 KiB block has been staged. -/
def Staging.full (s : Staging) : Bool := (List.range (s.len / 4096)).all fun k => s.blocks.has k

/-- The staging session changed; in ROM recovery the flash slot holds what has been staged (R508). -/
def setStaging (o : Option Staging) (d : Dev) : Dev :=
  d.updMgmt fun m =>
    let m := { m with staging := o }
    match o with
    | some s => if m.romRec then { m with flash := { m.flash with image := s.image } } else m
    | none => m

/-- A session begins (R506). -/
def stageBegin (who : Stager) (len : Nat) (d : Dev) : Except Cpl Dev := do
  need d.mgmt.staging.isNone (errC 0xFF true)
  need (decide (len ≤ 16777216) && len % 4096 == 0) (errF 0x28)
  .ok ((setStaging (some { owner := who, len := len, blocks := [], last := d.now }) d).updMgmt fun m =>
    { m with romErased := m.romErased || m.romRec })

/-- The session of a source, or `CONFLICT`. -/
def stageOf (who : Stager) (d : Dev) : Except Cpl Staging :=
  match d.mgmt.staging with
  | some s => if s.owner = who then .ok s else .error (errC 0xFF true)
  | none => .error (errC 0xFF true)

/-- Whether a chunk may be staged: none, or the offset of the entry's field that is wrong. -/
def chunkBad (s : Staging) (off len : Nat) : Option Nat :=
  if off % 4096 ≠ 0 then some 0x28
  else if len = 0 ∨ len > 1048576 ∨ (len % 4096 ≠ 0 ∧ off + len ≠ s.len) ∨ off + len > s.len then some 0x30
  else none

/-- A chunk staged. -/
def stageData (s : Staging) (off : Nat) (b : Bytes) (d : Dev) : Dev :=
  let blocks := (List.range (ceilDiv b.length 4096)).foldl (fun m k =>
    Map.set (off / 4096 + k) ((b.drop (4096 * k)).take 4096) m) s.blocks
  setStaging (some { s with blocks := blocks, last := d.now }) d

/-- `FW_STAGE`. -/
def bodyFwStage : Body := withData
  (fun x d => do
    checkQos x d
    if x.e.b20 = 1 then
      let s ← stageOf x.stager d
      match chunkBad s (x.e.w64 0x28) (x.e.w32 0x30) with
      | some off => .error (errF off)
      | none => .ok (x.e.w32 0x30)
    else .ok 0)
  (fun x b d => do
    if x.e.b20 = 0 then
      let d ← stageBegin x.stager (x.e.w64 0x28) d
      okRes [] d
    else
      let s ← stageOf x.stager d
      if x.e.b20 = 1 then okRes [] (stageData s (x.e.w64 0x28) b d)
      else okRes [] (setStaging none d))

/-- Results of a commit: the revision in `ID_REV` layout, and `svn`. -/
def commitRes (b : Bytes) : Bytes := leBytes 4 (Config.stepping + 256 * fld b 0xC 8 24) ++ leBytes 4 (imageSvn b)

/-- The slot as a verified image leaves it: `min_svn` raised if the image asks for it (R505). -/
def Flash.committed (b : Bytes) (f : Flash) : Flash :=
  let f := { f with image := b }
  if fld b 0x14 0 1 = 1 then f.raiseSvn (imageSvn b) else f

/-- The checks of `FW_COMMIT` up to the claim of the flash: the image, or how the command ends and whether its session
is discarded. -/
def commitChecks (who : Stager) (d : Dev) : Except (Cpl × Bool) Bytes := do
  let fail {α : Type} (c : Cpl) (drop : Bool) : Except (Cpl × Bool) α := .error (c, drop)
  let s ← match stageOf who d with
    | .ok s => .ok s
    | .error c => fail c false
  if !s.full then fail (errF 0) false
  else if !imageOk s.image then fail (errS .integrityFail) true
  else if imageSvn s.image < d.mgmt.flash.minSvn.2 then fail (errS .notPermitted) false
  else if d.mgmt.flashOp.isSome then fail (errC 6 true) false
  else .ok s.image

/-- The slot erased and its programming begun. -/
def beginProgram (who : FlashBy) (b : Bytes) (d : Dev) : Dev :=
  d.updMgmt fun m => { m with flashOp := some (.image who b), flash := { m.flash with image := [] } }

/-- `FW_COMMIT`. In ROM recovery the slot is verified as programmed (R508). -/
def bodyFwCommit : Body := plain fun x d => do
  checkQos x d
  let d := d.useSecurity
  match commitChecks x.stager d with
  | .error (c, drop) => .ok (.done c (if drop then setStaging none d else d))
  | .ok b =>
    if d.mgmt.romRec then
      okRes (commitRes b) ((setStaging none d).updMgmt fun m => { m with flash := m.flash.committed b })
    else .ok (.wait (beginProgram (.cmd x.num) b d))

/-- FW_STAGING_TIMEOUT. -/
def stagingTimeout (d : Dev) : Dev :=
  match d.mgmt.staging with
  | some s => if s.last + 2 ^ 30 ≤ d.now then setStaging none d else d
  | none => d

/-! ## Preset images (R511 to R514) -/

/-- An entry of a preset image. -/
inductive PresetEnt where
  | feature (id : Nat) (value : Bytes)
  | command (sqe : Entry) (data : Bytes)
deriving DecidableEq, Repr

/-- Opcodes a preset image may hold: `TENANT_SET`, `PORT_BIND`, `QUOTA_SET`, `QOS_RESERVE`, `SHARE_GROUP_SET`,
`EXTENT_ASSIGN`, `POWER_POLICY`, `TRACE_CTL`. -/
def presetOps : List Nat := [0x06, 0x07, 0x26, 0x70, 0x93, 0x90, 0xB0, 0xF1]

/-- The entries of a preset image from an offset on, none where the format is not sound. -/
def presetFrom (img : Bytes) : Nat → Nat → Option (List PresetEnt)
  | 0, off => if off + 120 = img.length then some [] else none
  | k + 1, off =>
    let typ := fld img off 0 8
    let len := fld img off 16 16
    let n := fld img off 32 32
    if off + 8 > img.length then none
    else if fld img off 8 8 ≠ 0 then none
    else if typ = 1 then
      if len ≠ 32 ∨ n ≥ 256 then none
      else (presetFrom img k (off + 32)).map (.feature n ((img.drop (off + 8)).take 24) :: ·)
    else if typ = 2 then
      let sqe := Entry.ofBytes ((img.drop (off + 8)).take 64)
      let pad := (img.drop (off + 72 + n)).take (roundUp n 8 - n)
      if len ≠ 72 + roundUp n 8 ∨ sqe.addr ≠ 0 ∨ !presetOps.contains sqe.op ∨ pad.any (· != 0) then none
      else (presetFrom img k (off + len)).map (.command sqe ((img.drop (off + 72)).take n) :: ·)
    else none

/-- The entries of an image whose format is sound (R511). -/
def presetEntries (img : Bytes) : Option (List PresetEnt) :=
  if img.take 8 ≠ ascii "SPXPRST1" ∨ fld img 8 0 32 ≠ img.length ∨ img.length % 8 ≠ 0 ∨ img.length > 262144 ∨
      fld img 0xE 0 16 ≠ 1 ∨ fld img 0x18 0 64 ≠ 0 ∨ (img.drop (img.length - 6)).any (· != 0) then none
  else presetFrom img (fld img 0xC 0 16) 0x60

/-- Sequence number of an image. -/
def presetSeq (img : Bytes) : Nat := fld img 0x10 0 64

/-- Signature and binding of an image, against an owner key. -/
def presetSigned (key img : Bytes) : Bool :=
  let bind := (img.drop 0x20).take 64
  let n := img.length - 120
  Config.ed448Verify key (shake256 (img.take n)) ((img.drop n).take 114) &&
    (bind.all (· == 0) || bind == idKeyDigest)

/-- Whether a copy is valid (R512). -/
def presetValid (key : Option Bytes) (img : Bytes) : Bool :=
  match key with
  | some k => (presetEntries img).isSome && presetSigned k img
  | none => false

/-- Sequence number of a copy that is valid. -/
def Flash.validSeq (f : Flash) (copy : Option Bytes) : Option Nat :=
  match copy with
  | some img => if presetValid f.owner.key img then some (presetSeq img) else none
  | none => none

/-- The newest valid copy. -/
def Flash.newestPreset (f : Flash) : Option Bytes :=
  match newerCopy (f.validSeq f.presetA) (f.validSeq f.presetB) with
  | some true => f.presetB
  | some false => f.presetA
  | none => none

/-- `PRESET_READ`. -/
def bodyPresetRead : Body := plain fun x d => do
  checkQos x d
  let img := if x.e.b20 = 0 then d.mgmt.preset else d.mgmt.flash.newestPreset.getD []
  okData x (leBytes 4 img.length ++ zeros 4 ++ leBytes 8 (if img.isEmpty then 0 else presetSeq img)) img d

/-- `PRESET_WRITE`. -/
def bodyPresetWrite : Body := withData
  (fun x d => do
    checkQos x d
    need d.mgmt.flash.owner.key.isSome (errS .notPermitted)
    need (inRange 1 262144 (x.e.w32 0x28)) (errF 0x28)
    .ok (x.e.w32 0x28))
  (fun x b d => do
    let f := d.mgmt.flash
    let newest := (f.newestPreset.map presetSeq).getD 0
    need (presetEntries b).isSome (errD 0)
    need (f.newestPreset.isNone || decide (presetSeq b > newest)) (errD 0x10)
    need (presetSigned (f.owner.key.getD []) b) (errS .integrityFail)
    need d.mgmt.flashOp.isNone (errC 6 true)
    .ok (.wait (d.useSecurity.updMgmt fun m => { m with flashOp := some (.preset x.num b) })))

/-! ## The owner (R515) -/

/-- What the old key signs. -/
def ownerMessage (seq : Nat) (key : Bytes) : Bytes :=
  shake256 (label "SPX1/owner" (idKeyDigest ++ leBytes 8 (seq + 1) ++ key))

/-- `OWNER_ENROL`. -/
def bodyOwnerEnrol : Body := withData
  (fun x d => do
    let a := x.e.b20
    checkQos x d
    need (!(a == 0 && d.mgmt.flash.owner.key.isSome)) (errC 0xFF true)
    need (a == 0 || d.mgmt.flash.owner.key.isSome) (errS .notPermitted)
    .ok (if a = 0 then 57 else if a = 1 then 178 else 114))
  (fun x b d => do
    let a := x.e.b20
    let o := d.mgmt.flash.owner
    let new := if a = 2 then zeros 57 else b.take 57
    let sig := if a = 1 then b.drop 64 else b
    need (a != 1 || ((b.drop 57).take 7).all (· == 0)) (errD 57)
    need (a == 0 || Config.ed448Verify (o.key.getD []) (ownerMessage o.seq new) sig) (errS .integrityFail)
    need d.mgmt.flashOp.isNone (errC 6 true)
    .ok (.wait (d.useSecurity.updMgmt fun m => { m with
      flashOp := some (.owner x.num (if a = 2 then none else some new) (a == 2)) })))

/-! ## Flash operations that finish (R498, R507, R513, R515) -/

/-- The preset image written to the copy that does not hold the newest valid one. -/
def Flash.putPreset (img : Bytes) (f : Flash) : Flash :=
  if writesB (f.validSeq f.presetA) (f.validSeq f.presetB) then { f with presetB := some img }
  else { f with presetA := some img }

/-- The flash contents after an operation that succeeded. -/
def Flash.apply (op : FlashOp) (f : Flash) : Flash :=
  match op with
  | .image _ b => f.committed b
  | .preset _ b => f.putPreset b
  | .owner _ key erase =>
    let f := f.setOwner key
    if erase then { f with presetA := none, presetB := none } else f

/-- The copy an interrupted operation was writing is lost: the slot, the older preset copy, the older owner record. -/
def Flash.broken (op : FlashOp) (f : Flash) : Flash :=
  match op with
  | .image _ _ => { f with image := [] }
  | .preset _ _ =>
    if writesB (f.validSeq f.presetA) (f.validSeq f.presetB) then { f with presetB := none }
    else { f with presetA := none }
  | .owner _ _ _ =>
    if writesB (f.ownerA.map (·.seq)) (f.ownerB.map (·.seq)) then { f with ownerB := none } else { f with ownerA := none }

/-- Who waits for a flash operation, and its results. -/
def Dev.flashEnd (d : Dev) (op : FlashOp) : FlashBy × Bytes :=
  match op with
  | .image who b => (who, commitRes b)
  | .preset n _ => (.cmd n, [])
  | .owner n _ _ => (.cmd n, leBytes 8 (d.mgmt.flash.owner.seq + 1))

/-! ## Time correlation (R516, R517) -/

/-- A correlation record (Table 18-13). -/
def Corr.bytes (c : Corr) : Bytes :=
  leBytes 8 c.tick ++ leBytes 8 c.time ++ leBytes 4 c.clock ++ leBytes 4 c.unc ++ leBytes 4 c.seq ++
    leBytes 2 c.tenant ++ leBytes 1 c.source ++ zeros 1

/-- Where a command came from, as a correlation record holds it. -/
def Ctx.source (x : Ctx) (d : Dev) : Nat :=
  match x.qp?.bind d.qp? with
  | some q =>
    match q.loc with
    | .host fn _ => fn / 256
    | .near _ => 4
  | none => 5

/-- The records a read starts from. -/
def Dev.corrFrom (d : Dev) (first : Nat) : List Corr :=
  let l := d.mgmt.flash.corr
  let newest := (l.getLast?.map (·.seq)).getD 0
  if l.any (·.seq == first) then l.dropWhile (·.seq != first)
  else if first ≠ 0 ∧ 0 < idAfter newest first ∧ idAfter newest first ≤ 2 ^ 31 then []
  else l

/-- `TIME_CORRELATE`. -/
def bodyTimeCorrelate : Body := plain fun x d => do
  let e := x.e
  checkQos x d
  if e.b20 = 0 then
    let seq := nextErrId d.mgmt.corrSeq
    let c : Corr :=
      { tick := x.cmd.tick, time := e.w64 0x28, clock := e.w32 0x30, unc := e.w32 0x34, seq := seq, tenant := x.t,
        source := x.source d, flushed := false }
    let l := d.mgmt.flash.corr ++ [c]
    okRes (leBytes 8 c.tick ++ leBytes 4 seq) (d.updMgmt fun m => { m with
      corrSeq := seq, flash := { m.flash with corr := l.drop (l.length - 2048) } })
  else
    let l := ((d.corrFrom (e.w32 0x24)).filter fun c => x.t == 0 || c.tenant == x.t).take (e.w16 0x28)
    okData x (leBytes 2 l.length) (l.flatMap Corr.bytes) d

/-! ## Test access (R550) -/

/-- DEBUG_UNLOCK: an unlock that the enrolled owner signed. -/
def debugUnlock (b : Bytes) (d : Dev) : Dev :=
  match d.mgmt.flash.owner.key with
  | some k => if Config.unlockOk k b then d.updPwr fun p => { p with jtagOpen := true } else d
  | none => d

/-! ## Meanings -/

/-- GET_FEATURE. -/
def execGetFeature (c : Nat) (s : State) : Host.Outcome State Fault Refusal := onDev (startCmd 0x02 bodyGetFeature c) s
/-- SET_FEATURE. -/
def execSetFeature (c : Nat) (s : State) : Host.Outcome State Fault Refusal := onDev (startCmd 0x03 bodySetFeature c) s
/-- ATTEST. -/
def execAttest (c : Nat) (s : State) : Host.Outcome State Fault Refusal := onDev (startCmd 0xA0 bodyAttest c) s
/-- FW_STAGE. -/
def execFwStage (c : Nat) (s : State) : Host.Outcome State Fault Refusal := onDev (startCmd 0xA1 bodyFwStage c) s
/-- FW_COMMIT. -/
def execFwCommit (c : Nat) (s : State) : Host.Outcome State Fault Refusal := onDev (startCmd 0xA2 bodyFwCommit c) s
/-- PRESET_READ. -/
def execPresetRead (c : Nat) (s : State) : Host.Outcome State Fault Refusal := onDev (startCmd 0xA3 bodyPresetRead c) s
/-- PRESET_WRITE. -/
def execPresetWrite (c : Nat) (s : State) : Host.Outcome State Fault Refusal :=
  onDev (startCmd 0xA4 bodyPresetWrite c) s
/-- OWNER_ENROL. -/
def execOwnerEnrol (c : Nat) (s : State) : Host.Outcome State Fault Refusal := onDev (startCmd 0xA5 bodyOwnerEnrol c) s
/-- TIME_CORRELATE. -/
def execTimeCorrelate (c : Nat) (s : State) : Host.Outcome State Fault Refusal :=
  onDev (startCmd 0xA7 bodyTimeCorrelate c) s
/-- SENSOR_READ. -/
def execSensorRead (c : Nat) (s : State) : Host.Outcome State Fault Refusal := onDev (startCmd 0xA8 bodySensorRead c) s
/-- FW_STAGING_TIMEOUT. -/
def execFwStagingTimeout (s : State) : Host.Outcome State Fault Refusal := onMgmt stagingTimeout s
/-- BOUNDARY_SCAN: the data path stops until `DEV_RST_N`. -/
def execBoundaryScan (_ : Bytes) (s : State) : Host.Outcome State Fault Refusal :=
  onMgmt (fun d => d.updPwr fun p => { p with bscan := true }) s
/-- DEBUG_UNLOCK. -/
def execDebugUnlock (data : Bytes) (s : State) : Host.Outcome State Fault Refusal := onMgmt (debugUnlock data) s

end Sys2Proof.Machine
end

