-- ==== Sys2Proof/Machine/Start.lean ====
section
/-! DEFINITION. Start-up and device-wide resets: AO power, `DEV_RST_N`, measured start, training of the tiers and the
bridge, checker self-test at start (R362, R363, R366, R377, R383, R390, R406, R499 to R501, R508, R512, R518 to R527). -/

namespace Sys2Proof.Machine

/-! ## What each reset keeps (R525, R527, Table 19-4) -/

/-- The level of a host port's pin and the presence of its reference clock, with everything else of the port reset. -/
def HPort.pins (h : HPort) : HPort := { HPort.reset with perst := h.perst, refclk := h.refclk }

/-- What a flash operation in progress has destroyed. -/
def Flash.interrupted (m : Mgmt) : Flash :=
  match m.flashOp with
  | some op => m.flash.broken op
  | none => m.flash

/-- The device after a recognised `DEV_RST_N`: pd0, flash, the log, the AO tick, the `THERM_TRIP_N` latch and the JTAG
unlock are kept; everything else starts afresh, and nothing that ends writes a completion. -/
def deviceReset (d : Dev) : Dev :=
  let d := (List.range 56).foldl (fun d p => if (d.port p).st = .disabled then d else emit (.txOff p) d) d
  let p := d.pwr
  let m := d.mgmt
  { Dev.reset with
    out := d.out
    freeN := d.freeN
    integ := { Integ.reset with log := d.integ.log, lastId := d.integ.lastId }
    mgmt := { Mgmt.reset with
      flash := Flash.interrupted m, corrSeq := m.corrSeq, devSecret := m.devSecret, idKey := m.idKey }
    q := { Queues.reset with ports := d.q.ports.mapVals fun _ h => h.pins }
    pwr := { Power.reset with
      aoGood := p.aoGood, aoClock := p.aoClock, tick := p.tick, devRstN := p.devRstN, rstLow := p.rstLow
      thermTrip := p.thermTrip, recoveryN := p.recoveryN, jtagOpen := p.jtagOpen
      domains := [(0, .on), (1, .on)] } }

/-- Loss of AO power: everything but flash, and the levels at the pins, is gone. -/
def powerLoss (d : Dev) : Dev :=
  let log := d.integ.log.filter (·.flushed)
  let corr := d.mgmt.flash.corr.filter (·.flushed)
  let lastId := (log.getLast?.map (·.id)).getD 0
  { Dev.reset with
    out := d.out
    freeN := d.freeN
    integ := { Integ.reset with log := log, lastId := lastId }
    mgmt := { Mgmt.reset with
      flash := { Flash.interrupted d.mgmt with corr := corr }, corrSeq := (corr.getLast?.map (·.seq)).getD 0 }
    q := { Queues.reset with ports := d.q.ports.mapVals fun _ h => h.pins }
    pwr := { Power.reset with
      aoGood := false, mainPwrEn := false, domains := [], devRstN := d.pwr.devRstN, recoveryN := d.pwr.recoveryN } }

/-- AO_POWER_GOOD: pd0 runs, the tick counter starts at 0, `MAIN_PWR_EN` rises (R36, R546). -/
def powerGood (d : Dev) : Dev :=
  if d.pwr.aoGood then d
  else d.updPwr fun p => { p with aoGood := true, aoClock := true, tick := 0, mainPwrEn := true, domains := [(0, .on)] }

/-- A sample of `DEV_RST_N` at an AO tick: the sixteenth low sample in a row is a reset (R525). -/
def resetSample (level : Bool) (d : Dev) : Dev :=
  if level then d.updPwr fun p => { p with devRstN := true, rstLow := 0 }
  else
    let n := d.pwr.rstLow + 1
    let d := d.updPwr fun p => { p with devRstN := false, rstLow := min n 16 }
    if n = 16 ∧ d.pwr.aoGood then deviceReset d else d

/-! ## Measured start (R499 to R501, R508, R512) -/

/-- A CONFIG record (Table 14-20). -/
def configRec (cause value entry status : Nat) : ErrRec :=
  { ErrRec.mk0 1 0x14 with
    block := 7
    detail := leBytes 1 cause ++ leBytes 1 value ++ zeros 2 ++ leBytes 2 entry ++ leBytes 1 status }

/-- Whether the image in the slot may run (R504). -/
def Flash.bootable (f : Flash) : Bool := imageOk f.image && decide (f.minSvn.2 ≤ imageSvn f.image)

/-- Slots 1 to 4 (Table 18-6). -/
def Dev.romSlots (d : Dev) (mode : Nat) : List Bytes :=
  let f := d.mgmt.flash
  [leBytes 64 Config.romDigest.toNat, shake256 f.image,
   leBytes 64 (Config.securityDigest mode d.pwr.recoveryN d.pwr.jtagOpen f.minSvn.2).toNat,
   match f.owner.key with
   | some k => shake256 k
   | none => zeros 64]

/-- Slots 5 to 8. -/
def Dev.fwSlots (d : Dev) (preset : Bytes) : List Bytes :=
  let digests := libIds.flatMap fun i => hDigest (libBinary i)
  [if preset.isEmpty then zeros 64 else shake256 preset, shake256 digests,
   shake256 (d.mgmt.flash.retire.flatMap RetireEntry.bytes), zeros 64]

/-- The copy whose `seq` is higher, `true` B, valid or not. -/
def Flash.higherPreset (f : Flash) : Option Bool := newerCopy (f.presetA.map presetSeq) (f.presetB.map presetSeq)

/-- The feature entries of a preset image applied in order; one that fails leaves a record. -/
def presetFeatures : Nat → List PresetEnt → Dev → Dev
  | _, [], d => d
  | ix, .feature id v :: l, d =>
    let bad := (featureDefault id).isNone || (featBad id v).isSome
    presetFeatures (ix + 1) l (if bad then raise (configRec 3 0 ix Status.invalidField.code) d
      else d.updMgmt fun m => { m with presetFeat := Map.set id v m.presetFeat })
  | ix, .command _ _ :: l, d => presetFeatures (ix + 1) l d

/-- The claims of Table 1-8 that the command entries will make (R45): yl55 for a binding or for the trace export, GP[4]
for the trace clock. -/
def presetClaims (l : List PresetEnt) : List (Nat × Bool) :=
  l.flatMap fun e => match e with
    | .command s _ =>
      if s.op = 0x07 ∧ s.b20 = 0 ∧ s.fld 0x21 0 8 = 55 then [(1, true)]
      else if s.op = 0xF1 ∧ s.b20 = 0 then (1, false) :: (if s.fld 0x21 0 1 = 1 then [(3, false)] else [])
      else []
    | .feature _ _ => []

/-- PRESET_APPLY: the preset image chosen, a copy found invalid recorded, its features applied (R512). -/
def presetApply (d : Dev) : Dev :=
  let f := d.mgmt.flash
  let img := f.newestPreset.getD []
  let bad := match f.higherPreset with
    | some b => (f.validSeq (if b then f.presetB else f.presetA)).isNone
    | none => false
  let copy := b2n (f.higherPreset == some true)
  let d := if bad && !img.isEmpty then raise (configRec 2 copy 0 0) d else d
  let l := (presetEntries img).getD []
  let d := d.updMgmt fun m => { m with preset := img, presetFeat := [], claims := presetClaims l }
  featApply 1 (presetFeatures 0 l d)

/-- A MGMT_RESTART record. -/
def restartRec (cause source : Nat) : ErrRec :=
  { ErrRec.mk0 1 0x12 with block := 7, detail := leBytes 1 cause ++ leBytes 1 source }

/-- The keys and slots 1 to 4 that the ROM fills (R500, R501); `device_secret` comes from the PUF on the first start
after AO power good, and from its register afterwards (R526). -/
def romFills (mode : Nat) (d : Dev) : Dev :=
  let secret := if d.mgmt.devSecret.isEmpty then deviceSecret else d.mgmt.devSecret
  let slots := d.romSlots mode
  (d.updMgmt fun m => { m with
    devSecret := secret, idKey := idPrivate secret, slots := slots ++ List.replicate 4 (zeros 64)
    aliasKey := aliasPrivate secret slots, mpRunning := true }).updInteg fun i => { i with
      devKey := leBytes 64 (Config.deviceKey secret).toNat }

/-- Measured start: ROM recovery, or the image in the slot runs. -/
def measuredStart (d : Dev) : Dev :=
  if !d.pwr.recoveryN || !d.mgmt.flash.bootable then
    let d := raise (restartRec (if d.pwr.recoveryN then 2 else 3) 2) (romFills 2 d)
    (d.updMgmt fun m => { m with romRec := true, running := [] }).updPwr fun p => { p with mode := .recovery, step := 3 }
  else
    let d := presetApply (romFills 0 d)
    let slots := d.mgmt.slots.take 4 ++ d.fwSlots d.mgmt.preset
    (d.updMgmt fun m => { m with slots := slots, running := m.flash.image.take 512 }).updPwr fun p =>
      { p with mode := .bringUp, step := 4 }

/-! ## The start (R519, Table 19-1) -/

/-- Domains that begin to switch on. -/
def switchOn (l : List Nat) (d : Dev) : Dev :=
  l.foldl (fun d pd => if d.domain pd = .off then d.setDomain pd .switchingOn else d) d

/-- The map order and parity of the preset image, applied while no far-tier grain is valid (R377, R150). -/
def tierSetup (d : Dev) : Dev :=
  if d.objs.stored.isEmpty && d.objs.rawGr.isEmpty then
    { d with mem := { d.mem with order := d.feat 0x11 0 8, parity := d.feat 0x12 0 8 == 1 } }
  else raise (configRec 1 d.mem.order 0 0) d

/-- DEVICE_START: steps 1 to 4. -/
def deviceStart (inp : StartInput) (d : Dev) : Dev :=
  if !(d.pwr.aoGood && d.pwr.aoClock && d.pwr.devRstN && !d.pwr.thermTrip && d.pwr.step == 0) then d
  else
    let d := d.updPwr fun p => { p with recoveryN := inp.recoveryN, mainPwrEn := true }
    let d := [0, 1, 26, 27].foldl (fun d pd => d.setDomain pd .on) d
    let d := measuredStart d
    if d.mgmt.romRec then d else switchOn (fromTo 22 4 ++ fromTo 32 6) (tierSetup d)

/-! ### Step 5: the near tier (R383) -/

/-- The two firmware copies of a start: in ns0 and ns3, or where they find room (R491). -/
def placeCopies (d : Dev) : Dev :=
  [0, 1].foldl (fun d half => match d.copyPlace half with
    | some s => d.updMgmt fun m => { m with copies := insertNat s m.copies }
    | none => d) d

/-- Sizes in use of the parity groups: the smallest module of each (R149). -/
def groupSizes (d : Dev) : Dev :=
  [0, 1, 2, 3].foldl (fun d g =>
    let l := ((fromTo (8 * g) 8).filter fun c => (d.ctrl c).present && !(d.ctrl c).retired).map fun c => (d.ctrl c).sizeGib
    let m := l.foldl (fun a x => if a = 0 then x else min a x) 0
    d.updGroup g fun x => { x with modGib := m }) d

/-- The start goes on once a step's units are all trained, lost or retired (Table 19-1). -/
def startProgress (d : Dev) : Dev :=
  let d := if d.pwr.step = 4 ∧ (List.range 6).all (fun s => (d.ctrl (32 + s)).trained || d.tiers.lostNear.contains s) then
      switchOn (fromTo 28 4) (placeCopies (d.updPwr fun p => { p with step := 5 }))
    else d
  if d.pwr.step = 5 ∧ (List.range 32).all (fun c => (d.ctrl c).trained || (d.ctrl c).retired) then
    let sized := groupSizes (d.updPwr fun p => { p with step := 6 })
    let d := (List.range 32).foldl (fun d c =>
      if (d.ctrl c).trained then writeSummary c (fld (d.mgmt.flash.summary.getD c []) 2 0 8) d else d) sized
    requalify (switchOn (fromTo 2 20 ++ [38, 39]) d)
  else d

/-- NEAR_TIER_TRAINING_DONE: a stack is in service, or is lost. -/
def nearTrained (s : Nat) (r : TrainResult) (d : Dev) : Dev :=
  if s ≥ 6 ∨ d.pwr.step ≠ 4 ∨ d.domain (32 + s) ≠ .on ∨ (d.ctrl (32 + s)).trained ∨ (d.ctrl (32 + s)).retired then d
  else
    let d := d.updCtrl (32 + s) fun c => { c with
      trained := r.ok, inServ := r.ok, sizeGib := 64, eyes := nearEyes r, centres := r.sweeps.map sweepCentre
      repaired := r.repaired, lastReq := d.now }
    startProgress (if r.ok then requalify (writeSummary (32 + s) 0 d) else stackLost s 1 0xFF d)

/-! ### Step 6: the far tier (R362 to R364) -/

/-- Every channel of a group trains at a rate. -/
def groupRate (g rate : Nat) (lowered : Bool) (d : Dev) : Dev :=
  (fromTo (8 * g) 8).foldl (fun d c =>
    if (d.ctrl c).retired || !(d.ctrl c).present then d
    else d.updCtrl c fun x => { x with
      rate := rate, trained := false, inServ := false, lowered := x.lowered || lowered }) d

/-- FAR_CHANNEL_TRAINING_DONE: the channel has trained at the rate of its group, or its module is absent, or the group
trains again at the next lower rate, or the channel is retired. A module that allows a lower rate only brings its group
down to it. -/
def farTrained (ch : Nat) (r : TrainResult) (d : Dev) : Dev :=
  let g := ch / 8
  let c := d.ctrl ch
  let rate := max c.rate (d.feat 0x10 0 8)
  if ch ≥ 32 ∨ d.pwr.step ≠ 5 ∨ d.domain (28 + g) ≠ .on ∨ c.trained ∨ c.retired then d
  else if !r.present then
    let d := d.updCtrl ch fun c => { c with present := false, trained := true, inServ := false }
    startProgress (writeSummary ch 3 (d.updGroup g fun x => { x with lost := insertNat ch x.lost, st := .out }))
  else if r.rate < rate ∨ r.rate > 2 then d
  else
    let d := if r.rate > rate then groupRate g r.rate false d else d
    let d := d.updCtrl ch fun c => { c with sizeGib := r.sizeGib, ranks := r.ranks, eyes := farEyes r }
    if trainGood r then
      let d := d.updCtrl ch fun c => { c with
        trained := true, inServ := true, rate := r.rate, centres := r.sweeps.map sweepCentre, lastReq := d.now }
      startProgress (requalify (writeSummary ch (b2n c.lowered) d))
    else if r.rate < 2 then groupRate g (r.rate + 1) true d
    else startProgress (retireChannel ch 0xFF 0 d)

/-! ### Steps 7 and 8: the bridge, checker self-test, the retirement list (R26, R390, R406) -/

/-- A far-tier entry of the retirement list applied: its stripes are retired, the half's capacity falls. -/
def applyFar (e : RetireEntry) (d : Dev) : Dev :=
  let (g, all) := d.farStripes e.dpa e.scope e.count
  let new := all.filter fun n => !(d.group g).retired.contains n
  let lost := new.length * 32768 * 255 / 256
  (d.updGroup g fun x => { x with retired := new.foldl (fun l n => insertNat n l) x.retired }).updTiers fun t =>
    { t with retFar := t.retFar.modify (groupHalf g) (· + lost) }

/-- The retirement list applied at a start (R406). -/
def applyRetired (d : Dev) : Dev :=
  let l := d.mgmt.flash.retire
  let d := (l.filter fun e => decide (e.dpa ≥ 2 ^ 44)).foldl (fun d e => applyFar e d) d
  [0, 1].foldl (fun d half =>
    let grains := ((l.filter fun e => decide (e.dpa < 2 ^ 44 ∧ stackHalf (e.dpa / 2 ^ 36) = half)).flatMap fun e =>
      nearGrains e.dpa e.scope e.count).foldl (fun a k => insertNat k a) []
    d.updTiers fun t => { t with retNear := t.retNear.set half (4096 * grains.length) }) d

/-- What a failing checker leads to (Table 14-2): 1 spare, 2 cluster retired, 3 channel retired, 4 stack lost, 5 port
retired, 6 sable mode, 7 recovery mode. -/
def testAction (block unit : Nat) (d : Dev) : Nat :=
  if block = 0 then (if unit < 128 ∧ !(d.cluster (coreCluster unit)).spareUsed then 1 else 7)
  else if block = 1 then 5
  else if block = 3 then 3
  else if block = 4 then 4
  else if block = 5 then 6
  else 7

/-- The action taken on a unit. -/
def testAct (action unit : Nat) (d : Dev) : Dev :=
  if action = 1 then coreFailed unit 0xFF 0 d
  else if action = 2 then retireCluster (if unit < 128 then coreCluster unit else 2 + (unit - 128)) 0xFF 0 d
  else if action = 3 then retireChannel unit 0xFF 0 d
  else if action = 4 then stackLost unit 2 0xFF d
  else if action = 5 then retirePort unit 0 0xFF 0 d
  else if action = 6 then bridgeLost 4 0 d
  else d

/-- A SELF_TEST record. -/
def selfTestRec (cls block unit tested failed action : Nat) : ErrRec :=
  { ErrRec.mk0 cls 0x10 with
    block := block
    inst := if block = 0 then 0 else unit
    unit := if block ≠ 0 then 0 else if unit < 128 then coreUnit unit else clusterUnit (2 + (unit - 128))
    detail := leBytes 4 tested ++ leBytes 4 failed ++ leBytes 1 action }

/-- A unit that failed at start: recovery mode, with a record of class fatal, where Table 14-2 does not absorb it. How
many checkers were tested nothing constrains (log entry 5). -/
def startFailure (f : Nat × Nat) (d : Dev) : Dev :=
  let a := testAction f.1 f.2 d
  let (v, d) := draw d
  let d := raise (selfTestRec (if a = 7 then 3 else 1) f.1 f.2 (1 + v.toNat % 2 ^ 31) 1 a) d
  if a = 7 then d.updPwr fun p => { p with mode := .recovery } else testAct a f.2 d

/-- BRIDGE_TRAINING_DONE: the bridge is up, or the device is in sable mode; the units whose checkers failed are acted on;
valid bits are clear, the retirement list is applied. -/
def bridgeTrained (ok : Bool) (fails : List (Nat × Nat)) (d : Dev) : Dev :=
  if d.pwr.step ≠ 6 ∨ (d.domain 39 ≠ .on ∧ !d.pwr.sable) then d
  else
    let d := d.updPwr fun p => { p with step := 8, bridgeUp := ok && !p.sable }
    let d := if ok then d else bridgeLost 3 0 d
    applyRetired (fails.foldl (fun d f => startFailure f d) d)

/-! ## Meanings -/

/-- AO_POWER_GOOD. -/
def execAoPowerGood (s : State) : Host.Outcome State Fault Refusal := onMgmt powerGood s
/-- AO_POWER_LOSS: the HDM decoders are lost with the rest. -/
def execAoPowerLoss (s : State) : Host.Outcome State Fault Refusal :=
  onMgmt powerLoss { s with hdm := State.reset.hdm }
/-- DEV_RST_N. -/
def execDevRstN (level : Bool) (s : State) : Host.Outcome State Fault Refusal :=
  onMgmt (resetSample level)
    (if !level && s.dev.pwr.rstLow == 15 && s.dev.pwr.aoGood then { s with hdm := State.reset.hdm } else s)
/-- DEVICE_START. -/
def execDeviceStart (inp : StartInput) (s : State) : Host.Outcome State Fault Refusal := onMgmt (deviceStart inp) s
/-- NEAR_TIER_TRAINING_DONE. -/
def execNearTierTrainingDone (stack : Nat) (res : TrainResult) (s : State) : Host.Outcome State Fault Refusal :=
  onMgmt (nearTrained stack res) s
/-- FAR_CHANNEL_TRAINING_DONE. -/
def execFarChannelTrainingDone (ch : Nat) (res : TrainResult) (s : State) : Host.Outcome State Fault Refusal :=
  onMgmt (farTrained ch res) s
/-- BRIDGE_TRAINING_DONE. -/
def execBridgeTrainingDone (ok : Bool) (fails : List (Nat × Nat)) (s : State) : Host.Outcome State Fault Refusal :=
  onMgmt (bridgeTrained ok fails) s

end Sys2Proof.Machine
end

