-- ==== Sys2Proof/Machine/Power.lean ====
section
/-! DEFINITION. Power: thermal steps and trip, rails, clocks and regulators, power domains, idle behaviour, self-refresh,
D3cold retention, host links, `POWER_POLICY`, `PASR_SET`, `IDLE_ENTER`, `SELF_TEST` (R4 to R7, R37, R40, R41, R373,
R375, R376, R391, R460, R463, R495, R497, R520, R523, R524, R528 to R535, R544, R546, R547). -/

namespace Sys2Proof.Machine

/-- `ALERT_N` (Table 21-3), true high: low in the fatal state, and while `ERROR` stands on a PF bound to td0. -/
def Dev.alertN (d : Dev) : Bool :=
  !d.pwr.fatal && [0, 256, 512, 768].all fun fn =>
    (d.fn fn).bound != some 0 || !bitOf (d.fn fn).irqCause.toNat 1

/-! ## Thermal steps (R495, R532, R547) -/

/-- Sensors of the dies whose readings set a half's step: ld, md, two cd, mg, three ns (Table 18-2). -/
def halfDies (h : Nat) : List Nat := [h, 2 + h, 4 + 2 * h, 5 + 2 * h, 8] ++ fromTo (9 + 3 * h) 3

/-- Latest reading of a sensor. -/
def Dev.reading (d : Dev) (id : Nat) : Int := ((d.mgmt.sensors.get? id).map (·.value)).getD 0

/-- Threshold of a step, m°C. -/
def stepAt (n : Nat) : Int := if n ≤ 1 then 95000 else 100000

/-- The regulator of a die asked for the voltage of a step, over `VR_I3C`: PMBus VOUT_COMMAND, the voltage free (log
entry 5). -/
def askVoltage (die step : Nat) (d : Dev) : Dev :=
  let (v, d) := draw d
  let d := emit (.i3c 0 (0x40 + die) (leBytes 1 0x21 ++ leBytes 2 (v.toNat % 2 ^ 16))) d
  d.updPwr fun p => { p with
    vrPending := p.vrPending.set die (some step), vrTimer := p.vrTimer.set die p.tick.toNat }

/-- The regulators of a half's dies asked for the voltage of its step. -/
def askHalf (h : Nat) (d : Dev) : Dev :=
  [2 * h, 2 * h + 1].foldl (fun d die => askVoltage die (d.pwr.thermStep.getD h 0) d) d

/-- Since when a half may return a step: every die of it has read at least 3 °C below the step's threshold. -/
def coolUpdate (h : Nat) (d : Dev) : Dev :=
  let n := d.pwr.thermStep.getD h 0
  let cool := n != 0 && (halfDies h).all fun i => decide (d.reading i ≤ stepAt n - 3000)
  d.updPwr fun p => { p with
    dieCool := p.dieCool.set h (if cool then ((p.dieCool.getD h none).or (some p.tick.toNat)) else none) }

/-- A half's step after a die reading: raised at once, never lowered here. -/
def thermalUpdate (h : Nat) (d : Dev) : Dev :=
  let hot (n : Nat) : Bool := (halfDies h).any fun i => decide (d.reading i ≥ stepAt n)
  let target := if hot 2 then 2 else if hot 1 then 1 else 0
  if target > d.pwr.thermStep.getD h 0 then
    askHalf h (d.updPwr fun p => { p with thermStep := p.thermStep.set h target, dieCool := p.dieCool.set h none })
  else coolUpdate h d

/-- Refresh doubled above 85 °C and normal again at or below 83 °C (R373, R383). -/
def refreshRate (n : Nat) (v : Int) (d : Dev) : Dev :=
  let c := d.ctrl n
  let x2 := if v > 85000 then true else if v ≤ 83000 then false else c.refX2
  if x2 = c.refX2 then d else requalify (d.updCtrl n fun c => { c with refX2 := x2 })

/-- SENSOR_SAMPLE: a sensor whose unit is there and on. -/
def sensorSample (id : Nat) (v : Int) (d : Dev) : Dev :=
  if d.sensorStatus id ≠ 0 then d
  else
    let d := d.updMgmt fun m => { m with sensors := Map.set id ⟨v, d.now⟩ m.sensors }
    let d := if id ≤ 14 then
        alertUpdate ([0, 1].foldl (fun d h => if (halfDies h).contains id then thermalUpdate h d else d) d)
      else d
    if inRange 9 14 id then refreshRate (32 + (id - 9)) v d
    else if inRange 0x30 0x4F id then refreshRate (id - 0x30) v d
    else d

/-- THERMAL_STEP_RETURN: a half cool for 2^18 AO ticks returns one step; its clocks rise once its regulators answer. -/
def stepReturn (h : Nat) (d : Dev) : Dev :=
  match d.pwr.dieCool.getD h none with
  | some t =>
    let n := d.pwr.thermStep.getD h 0
    if n = 0 ∨ t + 2 ^ 18 > d.now then d
    else
      let d := d.updPwr fun p => { p with thermStep := p.thermStep.set h (n - 1), dieCool := p.dieCool.set h none }
      coolUpdate h (askHalf h d)
  | none => d

/-- REGULATOR_POWER_GOOD of a VDD_CD rail (rail 2 is die 0's). -/
def regulatorGood (rail : Nat) (d : Dev) : Dev :=
  let die := rail - 2
  if !inRange 2 5 rail then d
  else
    match d.pwr.vrPending.getD die none with
    | some n => d.updPwr fun p => { p with
        vddStep := p.vddStep.set die n, vrPending := p.vrPending.set die none
        vrForced := p.vrForced.filter (· != die) }
    | none => d

/-- VR_TIMEOUT: no answer within 1 ms: the rail keeps its voltage, the die runs at step 2. -/
def vrTimeout (rail : Nat) (d : Dev) : Dev :=
  let die := rail - 2
  if !inRange 2 5 rail || (d.pwr.vrPending.getD die none).isNone || decide (d.pwr.vrTimer.getD die 0 + 25000 > d.now)
  then d
  else
    raise (retiredRec 0 0 0 (3 * 2 ^ 28 + die * 2 ^ 26) 0xFF 0) (d.updPwr fun p => { p with
      vrPending := p.vrPending.set die none, vrForced := insertNat die p.vrForced })

/-! ## Trip, rails, clocks (R533, R544, R546) -/

/-- A FATAL record. -/
def fatalRec (cause which related : Nat) : ErrRec :=
  { ErrRec.mk0 3 0x13 with block := 7, detail := leBytes 1 cause ++ leBytes 1 which, related := related }

/-- The fatal state entered for a cause; a further cause leaves its record. -/
def fatalAgain (cause which : Nat) (d : Dev) : Dev :=
  if d.pwr.fatal then raise (fatalRec cause which 0) d else fatal cause which d

/-- THERMAL_TRIP. -/
def thermalTrip (d : Dev) : Dev :=
  if d.pwr.thermTrip then d
  else
    let stop (c : Cluster) : Cluster := { c with clock := false, pllWait := false }
    fatalAgain 1 0 (d.updPwr fun p => { p with thermTrip := true, clusters := p.clusters.mapVals fun _ c => stop c })

/-- The record of the thermal trip. -/
def Dev.tripRec (d : Dev) : Option ErrRec := d.integ.log.reverse.find? fun r => r.kind == 0x13 && fld r.detail 0 0 8 == 1

/-- RAIL_FAULT: a rail but VDD_AO and VIO_AO out of tolerance. Rail faults after a trip leave no record; one that comes
with the trip names the trip's record. In retention the auxiliary rails are watched (R534). -/
def railFault (rail : Nat) (d : Dev) : Dev :=
  if !inRange 2 15 rail then d
  else
    let d := d.updPwr fun p => { p with rails := insertNat rail p.rails }
    if d.pwr.retention then
      if inRange 13 15 rail then d.updPwr fun p => { p with auxLost := true } else d
    else if !d.pwr.mainPwrEn then d
    else if d.pwr.thermTrip then
      match d.tripRec with
      | some r => if r.tick = d.now then raise (fatalRec 2 rail r.id) d else d
      | none => d
    else fatalAgain 2 rail d

/-- AO_CLOCK_LOSS: the tick counter holds. -/
def aoClockLoss (d : Dev) : Dev :=
  if !d.pwr.aoClock then d else fatalAgain 3 0 (d.updPwr fun p => { p with aoClock := false })

/-- A YL reference clock lost: its seven ports leave ACTIVE, and can send nothing until it is back. -/
def ylClockLost (k : Nat) (d : Dev) : Dev :=
  requalify ((fromTo (7 * k) 7).foldl (fun d port =>
    let p := d.port port
    let d := d.updPort port fun p => { p with refclk := false }
    if p.st = .disabled ∨ p.st = .detect ∨ p.st = .quiet then d
    else setLink port .detect (d.updPort port fun p => { p with
      keep := p.keep || p.st == .active, quietReq := false, uncorr := [] })) d)

/-- REFCLK_LOSS: clocks 0 to 3 are `PCIE_REFCLK`, 4 to 11 `YL_REFCLK`. -/
def refclkLoss (clk : Nat) (d : Dev) : Dev :=
  if clk < 4 then
    let up := (d.hport clk).linkUp
    let d := d.updHport clk fun h => { h with refclk := false }
    if up then portReset clk 1 d else d
  else if clk < 12 then ylClockLost (clk - 4) d
  else d

/-! ## Clusters' clocks (R37) -/

/-- Whether a slice holds a core of a cluster. -/
def Dev.clusterBusy (d : Dev) (pd : Nat) : Bool := d.busyCores.any fun c => coreCluster c == pd

/-- A cluster's clock stopped. -/
def stopClock (pd : Nat) (d : Dev) : Dev :=
  d.updCluster pd fun c => { c with clock := false, pllWait := false, idleSince := some d.now }

/-- CLUSTER_IDLE_HOLD_EXPIRY. -/
def idleHoldExpiry (pd : Nat) (d : Dev) : Dev :=
  let c := d.cluster pd
  match c.idleSince with
  | some t =>
    if c.clock && !d.clusterBusy pd && !d.clockKept pd && decide (t + d.pwr.policy.idleHold ≤ d.now) then stopClock pd d
    else d
  | none => d

/-- PLL_LOCK: the clock runs. -/
def pllLock (pd : Nat) (d : Dev) : Dev :=
  if (d.cluster pd).pllWait && d.domain pd == .on && !(d.cluster pd).retired && !d.pwr.thermTrip then
    d.updCluster pd fun c => { c with clock := true, pllWait := false, idleSince := some d.now }
  else d

/-! ## Self-refresh (R376, R528, R531) -/

/-- Stripes of a segment. -/
def Dev.inSegment (d : Dev) (g k n : Nat) : Bool :=
  let m := (d.group g).modGib * 32768
  decide (k * m ≤ n ∧ n < (k + 1) * m)

/-- Whether every grain of a segment has valid bit 0. -/
def Dev.segmentEmpty (d : Dev) (g k : Nat) : Bool :=
  !((d.group g).stripes.any fun p => p.2.written && d.inSegment g k p.1) &&
    !(d.objs.rawGr.any fun r => decide (2 ^ 44 ≤ r * 4096) && (d.stripeOf (r * 4096)).1 == g &&
      d.inSegment g k (d.stripeOf (r * 4096)).2)

/-- Claimed segments of a group whose grains are all invalid. -/
def Dev.emptySegments (d : Dev) (g : Nat) : Nat :=
  maskOf ((setBits 8 (d.pwr.pasr.getD g 0)).filter (d.segmentEmpty g))

/-- A group and its channels in self-refresh or out of it, with the segments masked. -/
def setFarSr (g : Nat) (on : Bool) (mask : Nat) (d : Dev) : Dev :=
  let d := (fromTo (8 * g) 8).foldl (fun d c => d.updCtrl c fun x => { x with selfRef := on }) d
  (d.updGroup g fun x => { x with selfRef := on }).updPwr fun p => { p with pasrMask := Map.set g mask p.pasrMask }

/-- Whether a group is idle: on, not in self-refresh, nothing to read, write, copy or retrain. -/
def Dev.groupIdle (d : Dev) (g : Nat) : Bool :=
  decide (g < 4) && d.domain (28 + g) == .on && !(d.group g).selfRef && (d.group g).st != .rebuilding &&
    ((d.group g).stripes.all fun p => !p.2.closed || p.2.written) &&
    ((fromTo (8 * g) 8).all fun c => !(d.ctrl c).retrain) &&
    !(d.strs.jobs.any fun j => j.2.st == .far && ((d.objs.stored.get? j.2.sid).any fun s => s.group == g))

/-- An idle group enters self-refresh. -/
def enterFarSr (g : Nat) (d : Dev) : Dev := setFarSr g true (d.emptySegments g) d

/-- FAR_SELF_REFRESH_IDLE. -/
def farSrIdle (ch : Nat) (d : Dev) : Dev :=
  let g := ch / 8
  let hold := d.pwr.policy.farSr
  if d.groupIdle g && hold != 0 && decide ((d.group g).lastReq + hold ≤ d.now) then enterFarSr g d else d

/-- Whether a near stack is idle. -/
def Dev.stackIdle (d : Dev) (s : Nat) : Bool :=
  decide (s < 6) && d.domain (32 + s) == .on && d.serving (32 + s) && !(d.ctrl (32 + s)).selfRef &&
    !(d.ctrl (32 + s)).retrain &&
    !(d.objs.stored.any fun p => p.2.stack == s &&
      (p.2.near == .promoting || (p.2.near != .absent && (d.jobOf p.1).isSome)))

/-- A near stack in self-refresh. -/
def enterNearSr (s : Nat) (d : Dev) : Dev := d.updCtrl (32 + s) fun c => { c with selfRef := true }

/-- NEAR_SELF_REFRESH_IDLE. -/
def nearSrIdle (s : Nat) (d : Dev) : Dev :=
  let hold := d.pwr.policy.nearSr
  if d.stackIdle s && hold != 0 && decide ((d.ctrl (32 + s)).lastReq + hold ≤ d.now) then enterNearSr s d else d

/-- SELF_REFRESH_EXIT: the domain is on again, every mask lifted. -/
def srExit (u : MemUnit) (d : Dev) : Dev :=
  match u with
  | .far ch =>
    let g := ch / 8
    if (d.group g).selfRef then
      (setFarSr g false 0 (d.setDomain (28 + g) .on)).updGroup g fun x => { x with lastReq := d.now }
    else d
  | .near s => if (d.ctrl (32 + s)).selfRef then d.nearUse s else d

/-! ## Power domains (R40, R41, R523, R528, Table 1-7) -/

/-- Whether a cluster holds context: slices, reduction slots, expert staging, a live run's windows and tiles, staged
tiles. -/
def Dev.clusterHolds (d : Dev) (pd : Nat) : Bool :=
  d.clusterBusy pd || d.redUnits pd != 0 || (d.comp.batches.any fun b => b.2.cluster == pd && b.2.blocks != 0) ||
    (d.comp.runs.any fun r => r.2.cores.any fun c => coreCluster c == pd) ||
    d.stagingUsed (clusterHalf pd) != 0

/-- Whether a cluster may be power-gated, the idle hold time aside. -/
def Dev.clusterOffOk (d : Dev) (pd : Nat) : Bool :=
  (d.cluster pd).retired ||
    (!(d.cluster pd).clock && !(d.cluster pd).pllWait && !d.clusterHolds pd && d.pwr.policy.gate)

/-- Whether a port group may be off: no port bound or trained, and the trace export not on its lanes. -/
def Dev.groupOffOk (d : Dev) (g : Nat) : Bool :=
  d.pwr.policy.groupOff && !(g == 3 && d.integ.trace.enabled) && (fromTo (14 * g) 14).all fun p =>
    !(d.port p).bound && !([LinkState.align, .ident, .active, .retrain, .quiet].contains (d.port p).st)

/-- Whether no grain of a near stack is valid: nothing of its half is allocated, no raw write lies there, no firmware copy
(Table 1-7, R153, R491). -/
def Dev.noGrain (d : Dev) (s : Nat) : Bool :=
  d.stackData s == 0 && !d.mgmt.copies.contains s && !(d.objs.rawGr.any fun g => g / 2 ^ 24 == s) &&
    !(d.objs.objs.any fun p => p.2.half == stackHalf s) && !(d.strs.strs.any fun p => !p.2.hw && p.2.half == stackHalf s)

/-- Whether the device may switch a domain off (Table 1-7); in retention the rest is off already. -/
def Dev.mayOff (d : Dev) (pd : Nat) : Bool :=
  if d.domain pd != .on then false
  else if inRange 2 17 pd then d.clusterOffOk pd && (match (d.cluster pd).idleSince with
    | some t => (d.cluster pd).retired || decide (t + d.pwr.policy.idleHold ≤ d.now)
    | none => true)
  else if inRange 18 21 pd then (fromTo (2 + 4 * (pd - 18)) 4).all fun c => d.domain c == .off
  else if inRange 22 25 pd then d.groupOffOk (pd - 22)
  else if inRange 26 27 pd then !(d.hport (2 * (pd - 26))).linkUp && !(d.hport (2 * (pd - 26) + 1)).linkUp
  else if inRange 28 31 pd then (d.group (pd - 28)).selfRef
  else if inRange 32 37 pd then (d.ctrl pd).selfRef || d.noGrain (pd - 32)
  else if pd = 38 then true
  else pd == 39 && d.pwr.sable

/-- A domain switched off. The ports of a group stop sending. -/
def domainOff (pd : Nat) (d : Dev) : Dev :=
  let d := if inRange 22 25 pd then
      (fromTo (14 * (pd - 22)) 14).foldl (fun d p =>
        if (d.port p).st = .disabled then d else emit (.txOff p) (setLink p .disabled d)) d
    else d
  d.setDomain pd .off

/-- DOMAIN_SWITCH_OFF. -/
def switchOff (pd : Nat) (d : Dev) : Dev := if d.mayOff pd then domainOff pd d else d

/-- Whether a run has work that waits for a cluster. -/
def Dev.clusterWanted (d : Dev) (pd : Nat) : Bool :=
  d.comp.runs.any fun r => (fromTo (8 * (pd - 2)) 8).any fun c => (d.waiter r.2 c).isSome

/-- DOMAIN_POWER_GOOD: a cluster after its die's uncore (R41). -/
def powerGoodOf (pd : Nat) (d : Dev) : Dev :=
  if d.domain pd ≠ .switchingOn ∨ (inRange 2 17 pd && d.domain (18 + clusterDie pd) != .on) then d
  else
    let d := d.setDomain pd .on
    if inRange 2 17 pd then
      let d := d.updCluster pd fun c => { c with idleSince := some d.now }
      if d.clusterWanted pd then wakeCluster pd d else d
    else if inRange 22 25 pd then trainGroup (pd - 22) d
    else d

/-- DOMAIN_POWER_GOOD_TIMEOUT (Table 19-3). -/
def powerGoodTimeout (pd : Nat) (d : Dev) : Dev :=
  if d.domain pd ≠ .switchingOn then d
  else
    let d := d.setDomain pd .off
    let mgRec (block inst : Nat) (d : Dev) : Dev := raise (retiredRec block inst 0 0 0xFF 0) d
    let d :=
      if pd = 1 then mgRec 7 0 (d.updMgmt fun m => { m with mpRunning := false })
      else if inRange 2 17 pd then retireCluster pd 0xFF 0 d
      else if inRange 18 21 pd then
        (fromTo (2 + 4 * (pd - 18)) 4).foldl (fun d c => retireCluster c 0xFF 0 d) d
      else if inRange 22 25 pd then (fromTo (14 * (pd - 22)) 14).foldl (fun d p => retirePort p 0 0xFF 0 d) d
      else if inRange 26 27 pd then mgRec 2 (2 * (pd - 26)) d
      else if inRange 28 31 pd then (fromTo (8 * (pd - 28)) 8).foldl (fun d c => retireChannel c 0xFF 0 d) d
      else if inRange 32 37 pd then stackLost (pd - 32) 5 0xFF d
      else if pd = 38 then mgRec 7 0 (d.updPwr fun p => { p with mode := .recovery })
      else if pd = 39 then bridgeLost 5 0 d
      else d
    startProgress d

/-! ## Host links and attachment (R4 to R6, R520) -/

/-- What the host's configuration keeps through D3cold: `PME_En`. -/
def keepPme (port : Nat) (cfg : Nat) (d : Dev) : Dev :=
  if bitOf cfg 8 then d.updFn (256 * port) fun f => { f with cfg := Map.set 0x44 0x100 f.cfg } else d

/-- Enabled functions of a port: its PF, and its VFs while VF Enable is set. -/
def Dev.enabledFns (d : Dev) (port : Nat) : List Nat :=
  let f := d.fn (256 * port)
  fromTo (256 * port) (1 + if bitOf (f.cfg.getD 0x160 0) 0 then min 255 (f.cfg.getD 0x168 0 % 2 ^ 16) else 0)

/-- Whether `PERST_N` of a port begins retention (R460). -/
def Dev.retains (d : Dev) (port : Nat) : Bool :=
  d.pwr.trained == [port] && !d.pwr.multiHost && d.pwr.aoGood && !d.pwr.retention && decide (d.pwr.step ≥ 8) &&
    (d.enabledFns port).all fun fn => (d.fn fn).d3hot

/-- Every slice on a core preempted and saved (R253). -/
def saveSlices (d : Dev) : Dev :=
  let cores := d.busyCores
  let d := cores.foldl (fun d c => bump 9 (coreCluster c) 1 1 d) d
  let save (s : Slice) : Slice := match s.onCore with
    | some c => { s with st := .saved (coreCluster c), since := d.now }
    | none => s
  let saveRun (r : Run) : Run := { r with
    preempts := r.preempts + (r.slices.filter fun s => s.2.onCore.isSome).length
    slices := r.slices.mapVals fun _ s => save s }
  d.updComp fun c => { c with runs := c.runs.mapVals fun _ r => saveRun r }

/-- Every open stripe closed and written with its parity (R151). -/
def writeStripes (d : Dev) : Dev :=
  [0, 1, 2, 3].foldl (fun d g =>
    let d := match (d.group g).cur with
      | some n => closeStripes [(g, n)] d
      | none => d
    let l := ((d.group g).stripes.filter fun p => p.2.closed && !p.2.written).map (·.1)
    l.foldl (fun d n => writeStripe g n d) d) d

/-- Every YL port DISABLED, its link-loss timer running. -/
def disablePorts (d : Dev) : Dev :=
  (List.range 56).foldl (fun d p =>
    if (d.port p).st = .disabled then d
    else emit (.txOff p) (setLink p .disabled (d.updPort p fun x => { x with
      keep := x.keep || x.st == .active, quietReq := false }))) d

/-- Whether management traffic is pending: a command of the management path that has not completed (Table 1-7, R494). -/
def Dev.mgmtPending (d : Dev) : Bool :=
  d.q.cmds.any fun p => match p.2.origin with
    | .mgmt _ => true
    | _ => false

/-- RETENTION_ENTRY. pd1 stays on while management traffic is pending (Table 1-7). -/
def enterRetention (port : Nat) (d : Dev) : Dev :=
  let busy := d.mgmtPending
  let d := logFlush (disablePorts (writeStripes (saveSlices d)))
  let d := [0, 1, 2, 3].foldl (fun d g => enterFarSr g d) d
  let d := (List.range 6).foldl (fun d s => enterNearSr s d) d
  let d := d.updMgmt fun m => { m with mpRunning := busy }
  let stop (c : Cluster) : Cluster := { c with clock := false, pllWait := false, idleSince := none }
  let d := d.updHport port fun h => { h with d3cold := true }
  d.updPwr fun p => { p with
    retention := true, retPort := port, auxLost := false, pd1Awake := busy, mainPwrEn := false, bridgeUp := false
    domains := if busy then [(0, .on), (1, .on)] else [(0, .on)], clusters := p.clusters.mapVals fun _ c => stop c }

/-- Whether `PERST_N` of a port ends retention, or the second port's link does (R6). -/
def Dev.retentionOk (d : Dev) : Bool := !d.pwr.auxLost

/-- RETENTION_EXIT with every auxiliary rail good: self-refresh left, domains on, ports training; the firmware runs from
a copy (R535). -/
def leaveRetention (d : Dev) : Dev :=
  let on := [0, 1] ++ ((fromTo 2 16).filter fun c => !(d.cluster c).retired) ++ fromTo 18 21 ++
    (if d.pwr.sable then [] else [39])
  let d := d.updPwr fun p => { p with
    retention := false, mainPwrEn := true, pd1Awake := false, bridgeUp := !p.sable
    domains := on.foldl (fun m k => Map.set k .on m) p.domains }
  let d := [0, 1, 2, 3].foldl (fun d g => setFarSr g false 0 d) d
  let d := (List.range 6).foldl (fun d s => d.updCtrl (32 + s) fun c => { c with selfRef := false }) d
  let d := d.updMgmt fun m => { m with mpRunning := true }
  [0, 1, 2, 3].foldl (fun d g => trainGroup g d) d

/-- RETENTION_EXIT: with an auxiliary rail lost the device starts as after `DEV_RST_N` (R534). -/
def exitRetention (d : Dev) : Dev :=
  if d.retentionOk then leaveRetention d else deviceReset (raise (configRec 4 0 0 0) d)

/-- PERST_N_ASSERT (R463, R460). -/
def perstAssert (port : Nat) (d : Dev) : Dev :=
  if port ≥ 4 ∨ !(d.hport port).perst then d
  else
    let keeps := d.retains port
    let pme := (d.fn (256 * port)).cfg.getD 0x44 0
    let d := d.updHport port fun h => { h with perst := false }
    let d := if (d.hport port).linkUp then portReset port 2 d else resetFns (d.portFns port) d
    if keeps then enterRetention port (keepPme port pme d) else d

/-- PERST_N_DEASSERT (R520, R460). -/
def perstDeassert (port : Nat) (d : Dev) : Dev :=
  if port ≥ 4 ∨ (d.hport port).perst then d
  else
    let d := d.updHport port fun h => { h with perst := true, wakeN := true, d3cold := false }
    let d := d.updFn (256 * port) fun f => if d.pwr.retention then { f with cfg := Map.del 0x44 f.cfg } else f
    if d.pwr.retention ∧ d.pwr.retPort = port then exitRetention d
    else if d.pwr.step = 0 then d
    else switchOn [26 + port / 2] d

/-- Whether a host link may come up: `PERST_N` high, its complex on, the device started, and in ROM recovery only hp0
(R508). -/
def Dev.linkMayRise (d : Dev) (port : Nat) : Bool :=
  decide (port < 4) && (d.hport port).perst && !(d.hport port).linkUp && d.domain (26 + port / 2) == .on &&
    d.pwr.step != 0 && (!d.mgmt.romRec || port == 0)

/-- HOST_LINK_UP: a second port makes the attachment multi-host, after retention has ended (R5, R6). -/
def hostLinkUp (port : Nat) (d : Dev) : Dev :=
  if !d.linkMayRise port then d
  else if d.pwr.retention && !d.retentionOk then exitRetention d
  else
    let d := if d.pwr.retention then exitRetention d else d
    let d := d.updHport port fun h => { h with linkUp := true, narrow := false, refclk := true }
    let trained := insertNat port d.pwr.trained
    d.updPwr fun p => { p with trained := trained, multiHost := p.multiHost || decide (trained.length ≥ 2) }

/-- PD1_IDLE_OFF: the management processor, woken in retention, goes off again (R535). -/
def pd1IdleOff (d : Dev) : Dev :=
  if d.pwr.retention && d.pwr.pd1Awake && decide (d.mgmt.mgmtTick + 2 ^ 25 ≤ d.now) then
    let d := (d.updPwr fun p => { p with pd1Awake := false }).updMgmt fun m => { m with mpRunning := false }
    let stks := d.mgmt.copies.filter fun s => d.domain (32 + s) == .on
    stks.foldl (fun d s => (enterNearSr s d).setDomain (32 + s) .off) (d.setDomain 1 .off)
  else d

/-! ## `POWER_POLICY`, `PASR_SET`, `IDLE_ENTER` (R529 to R531) -/

/-- The policy as `POWER_POLICY` lays it out. -/
def Policy.bytes (p : Policy) : Bytes :=
  leBytes 1 1 ++ zeros 3 ++ leBytes 4 p.idleHold ++ leBytes 4 p.ylQuiet ++ leBytes 4 p.farSr ++ leBytes 4 p.nearSr ++
    leBytes 1 (b2n p.gate + 2 * b2n p.groupOff) ++ zeros 11

/-- `POWER_POLICY`. -/
def bodyPowerPolicy : Body := plain fun x d => do
  let e := x.e
  checkQos x d
  if e.b20 = 1 then okData x [] d.pwr.policy.bytes d
  else
    let p : Policy :=
      { idleHold := e.w32 0x24, ylQuiet := e.w32 0x28, farSr := e.w32 0x2C, nearSr := e.w32 0x30
        gate := e.fld 0x34 0 1 == 1, groupOff := e.fld 0x34 1 1 == 1 }
    okRes [] (d.updPwr fun w => { w with policy := p })

/-- `PASR_SET`. -/
def bodyPasrSet : Body := plain fun x d => do
  let e := x.e
  let g := e.fld 0x21 0 2
  let segs := e.fld 0x22 0 8
  let held := d.pwr.pasr.getD g 0
  let set (v : Nat) (d : Dev) : Dev := d.updPwr fun p => { p with pasr := Map.set g v p.pasr }
  checkQos x d
  need (e.b20 != 0 || (held &&& segs) == 0) (errC 5 true)
  need ((d.group g).st == .inService && (d.group g).modGib != 0 && d.mem.order != 2) (errF 0x21)
  need (e.b20 != 1 || (segs &&& held) == segs) (errF 0x22)
  if e.b20 = 0 then okRes [] (set (held ||| segs) d)
  else if e.b20 = 1 then okRes [] (set (held ^^^ segs) d)
  else
    let mask := if (d.group g).selfRef then d.pwr.pasrMask.getD g 0 else 0
    okRes (leBytes 1 held ++ leBytes 1 (d.emptySegments g) ++ leBytes 1 mask) d

/-- Clusters that are idle stop their clocks, and are gated with their dies' uncores where the policy allows. -/
def idleClusters (d : Dev) : Dev :=
  let d := allClusters.foldl (fun d pd =>
    let d := if (d.cluster pd).clock && !d.clusterBusy pd && !d.clockKept pd then stopClock pd d else d
    if d.domain pd == .on && d.clusterOffOk pd then d.setDomain pd .off else d) d
  (fromTo 18 4).foldl (fun d pd => switchOff pd d) d

/-- Parts that are idle act as if their idle times had expired. -/
def idleEnter (mask : Nat) (d : Dev) : Dev :=
  let d := if bitOf mask 0 then idleClusters d else d
  let d := if bitOf mask 1 then
      (fromTo 22 4).foldl (fun d pd => switchOff pd d) ((List.range 56).foldl (fun d p => askQuiet p d) d)
    else d
  let d := if bitOf mask 2 then
      [0, 1, 2, 3].foldl (fun d g => switchOff (28 + g) (if d.groupIdle g then enterFarSr g d else d)) d
    else d
  if bitOf mask 3 then
    (List.range 6).foldl (fun d s => switchOff (32 + s) (if d.stackIdle s then enterNearSr s d else d)) d
  else d

/-- `IDLE_ENTER`. -/
def bodyIdleEnter : Body := plain fun x d => do
  checkQos x d
  let d := idleEnter (x.e.fld 0x20 0 4) d
  okRes (leBytes 8 (maskOf ((List.range 40).filter fun pd => d.domain pd == .off))) d

/-! ## `SELF_TEST` (R390, R391) -/

/-- Units of a block that a self-test may name. -/
def blockUnits (block : Nat) : Nat :=
  if block = 1 then 56 else if block = 2 then 4 else if block = 3 then 32 else if block = 4 then 6 else 1

/-- The action of `SELF_TEST` on a failure: that of Table 14-2, but a cluster is retired, and any other unit is fatal,
where the table names recovery mode. -/
def retestAction (block unit : Nat) (d : Dev) : Nat :=
  let a := testAction block unit d
  if a ≠ 7 then a else if block = 0 then 2 else 8

/-- A failure found: the record, the completion, the action. -/
def selfTestFailed (n block unit tested failed : Nat) (d : Dev) : Dev :=
  let a := retestAction block unit d
  let (id, d) := raiseRec (selfTestRec (if a = 8 then 3 else 1) block unit tested failed a) d
  let res := BitVec.ofNat 128 (tested + 2 ^ 32 * failed)
  let d := finishCmd n { Cpl.of .integrityFail with results := res, errId := id } d
  if a = 8 then fatalAgain 6 0 d else testAct a unit d

/-- Whether a slice is on a core that a test of a core or a cluster needs. -/
def Dev.testWaits (d : Dev) (unit : Nat) : Bool := d.busyCores.any fun c => c == unit || 128 + c / 8 == unit

/-- Numbers of checkers tested and failed: how many a unit has and how many fail nothing constrains (log entry 5). -/
def drawTest (d : Dev) : Nat × Nat × Dev :=
  let (v, d) := draw d
  let (w, d) := draw d
  let tested := 1 + v.toNat % 2 ^ 31
  (tested, w.toNat % (tested + 1), d)

/-- A waiting test of a core or cluster: done once no slice runs on it, dropped with its command (R391). -/
def testTick (t : Nat × Nat) (d : Dev) : Dev :=
  let drop (d : Dev) : Dev := d.updComp fun c => { c with tests := c.tests.filter (· != t) }
  if (d.q.cmds.get? t.1).isNone then drop d
  else if d.testWaits t.2 then d
  else
    let (tested, failed, d) := drawTest (drop d)
    if failed = 0 then finishCmd t.1 (Cpl.ok (leBytes 4 tested ++ leBytes 4 0)) d
    else selfTestFailed t.1 0 t.2 tested failed d

/-- `SELF_TEST`. A core or cluster is held from dispatch on, and tested once no slice runs on it (R391). -/
def bodySelfTest : Body := plain fun x d => do
  let e := x.e
  let block := e.b20
  let inst := e.fld 0x21 0 8
  let u := e.w32 0x24
  checkQos x d
  need (decide (block ≤ 8)) (errF 0x20)
  need (decide (inst < blockUnits block)) (errF 0x21)
  if block = 0 then
    let _ ← checkUnit x.t 0x24 u d
    need (unitLevel u == 1 || unitLevel u == 2) (errF 0x24)
  else .ok ()
  let unit := if block ≠ 0 then inst else if unitLevel u = 1 then coreOf u else 128 + coreOf u / 8
  if block = 0 ∧ d.testWaits unit then .ok (.wait (d.updComp fun c => { c with tests := c.tests ++ [(x.num, unit)] }))
  else
    let (tested, failed, d) := drawTest d
    if failed = 0 then okRes (leBytes 4 tested ++ leBytes 4 0) d
    else .ok (.wait (selfTestFailed x.num block unit tested failed d))

/-! ## Meanings -/

/-- POWER_POLICY. -/
def execPowerPolicy (c : Nat) (s : State) : Host.Outcome State Fault Refusal :=
  onDev (startCmd 0xB0 bodyPowerPolicy c) s
/-- PASR_SET. -/
def execPasrSet (c : Nat) (s : State) : Host.Outcome State Fault Refusal := onDev (startCmd 0xB1 bodyPasrSet c) s
/-- IDLE_ENTER. -/
def execIdleEnter (c : Nat) (s : State) : Host.Outcome State Fault Refusal := onDev (startCmd 0xB2 bodyIdleEnter c) s
/-- SELF_TEST. -/
def execSelfTest (c : Nat) (s : State) : Host.Outcome State Fault Refusal := onDev (startCmd 0xF2 bodySelfTest c) s
/-- THERMAL_TRIP. -/
def execThermalTrip (_die : Nat) (s : State) : Host.Outcome State Fault Refusal := onMgmt thermalTrip s
/-- SENSOR_SAMPLE. -/
def execSensorSample (sensor : Nat) (value : Int) (s : State) : Host.Outcome State Fault Refusal :=
  onMgmt (sensorSample sensor value) s
/-- THERMAL_STEP_RETURN. -/
def execThermalStepReturn (half : Nat) (s : State) : Host.Outcome State Fault Refusal := onMgmt (stepReturn half) s
/-- REGULATOR_POWER_GOOD. -/
def execRegulatorPowerGood (rail : Nat) (s : State) : Host.Outcome State Fault Refusal := onMgmt (regulatorGood rail) s
/-- VR_TIMEOUT. -/
def execVrTimeout (rail : Nat) (s : State) : Host.Outcome State Fault Refusal := onMgmt (vrTimeout rail) s
/-- AO_CLOCK_LOSS. -/
def execAoClockLoss (s : State) : Host.Outcome State Fault Refusal := onMgmt aoClockLoss s
/-- REFCLK_LOSS: the loss of a host port's clock resets its HDM decoder with its functions (R463, Table 16-12). -/
def execRefclkLoss (clk : Nat) (s : State) : Host.Outcome State Fault Refusal :=
  onPort (refclkLoss clk) (if clk < 4 ∧ (s.dev.hport clk).linkUp ∧ !s.dev.pwr.bscan then s.setHdm clk Hdm.reset else s)
/-- RAIL_FAULT. -/
def execRailFault (rail : Nat) (s : State) : Host.Outcome State Fault Refusal := onMgmt (railFault rail) s
/-- DOMAIN_POWER_GOOD. -/
def execDomainPowerGood (pd : Nat) (s : State) : Host.Outcome State Fault Refusal := onMgmt (powerGoodOf pd) s
/-- DOMAIN_POWER_GOOD_TIMEOUT. -/
def execDomainPowerGoodTimeout (pd : Nat) (s : State) : Host.Outcome State Fault Refusal :=
  onMgmt (powerGoodTimeout pd) s
/-- DOMAIN_SWITCH_OFF. -/
def execDomainSwitchOff (pd : Nat) (s : State) : Host.Outcome State Fault Refusal := onMgmt (switchOff pd) s
/-- CLUSTER_IDLE_HOLD_EXPIRY. -/
def execClusterIdleHoldExpiry (pd : Nat) (s : State) : Host.Outcome State Fault Refusal := onDev (idleHoldExpiry pd) s
/-- PLL_LOCK. -/
def execPllLock (pd : Nat) (s : State) : Host.Outcome State Fault Refusal := onDev (pllLock pd) s
/-- FAR_SELF_REFRESH_IDLE. -/
def execFarSelfRefreshIdle (ch : Nat) (s : State) : Host.Outcome State Fault Refusal := onDev (farSrIdle ch) s
/-- NEAR_SELF_REFRESH_IDLE. -/
def execNearSelfRefreshIdle (stack : Nat) (s : State) : Host.Outcome State Fault Refusal := onDev (nearSrIdle stack) s
/-- SELF_REFRESH_EXIT. -/
def execSelfRefreshExit (unit : MemUnit) (s : State) : Host.Outcome State Fault Refusal := onDev (srExit unit) s
/-- PERST_N_ASSERT: the port's HDM decoder is reset with its functions. -/
def execPerstNAssert (port : Nat) (s : State) : Host.Outcome State Fault Refusal :=
  onPort (perstAssert port)
    (if (s.dev.hport port).perst && !s.dev.pwr.bscan then s.setHdm port Hdm.reset else s)
/-- PERST_N_DEASSERT: retention that lost its power ends as a device reset. -/
def execPerstNDeassert (port : Nat) (s : State) : Host.Outcome State Fault Refusal :=
  onPort (perstDeassert port)
    (if s.dev.pwr.retention && s.dev.pwr.auxLost && s.dev.pwr.retPort == port && !(s.dev.hport port).perst &&
      !s.dev.pwr.bscan then { s with hdm := State.reset.hdm } else s)
/-- HOST_LINK_UP. -/
def execHostLinkUp (port : Nat) (s : State) : Host.Outcome State Fault Refusal :=
  onPort (hostLinkUp port)
    (if s.dev.pwr.retention && s.dev.pwr.auxLost && s.dev.linkMayRise port && !s.dev.pwr.bscan then
      { s with hdm := State.reset.hdm } else s)
/-- PD1_IDLE_OFF. -/
def execPd1IdleOff (s : State) : Host.Outcome State Fault Refusal := onMgmt pd1IdleOff s

end Sys2Proof.Machine
end

