-- ==== Sys2Proof/Machine/EngineScalar.lean ====
section
/-! DEFINITION. Scalar, predicate, vector and matrix instructions: those that act on a slice's registers alone
(Tables 9-4, 9-5, 9-8, 9-10 to 9-13). -/

namespace Sys2Proof.Machine

/-- A scalar register written by an instruction that executes wholly or not at all (R272). -/
def toScalar (op n i : Nat) (g : ICtx → BitVec 64) (d : Dev) : Dev :=
  scalarInstr op n i (fun x s => s.setS (wD x.w) (g x)) d

/-! ## Control (Table 9-4) -/

/-- `BR`: the index of this word plus the immediate (R274). -/
def instrBr (n i : Nat) (d : Dev) : Dev :=
  instr 0x02 n i (fun x d => do
    let len := match d.kernel? x.r.kernel with
      | some k => k.code.length
      | none => 0
    let tgt := (x.s.pc : Int) + sext24 x.imm
    if !x.lane 0 then .ok (x.advance id d)
    else
      trapIf (decide (tgt < 0 ∨ tgt ≥ len)) Trap.pc.plain
      .ok (d.updSlice x.n x.i fun s => { s with pc := tgt.toNat, holdFrom := none })) d

/-- `TRAP`. -/
def instrTrap (n i : Nat) (d : Dev) : Dev :=
  instr 0x03 n i (fun x d =>
    if x.lane 0 then .error ⟨.program, x.imm, 0xFFFFFFFF⟩ else .ok (x.advance id d)) d

/-! ## Scalar integers (Table 9-5) -/

/-- `SMOVI`. -/
def smovi (x : ICtx) : BitVec 64 :=
  if wMod x.w = 0 then BitVec.ofInt 64 (sext24 x.imm)
  else (x.s.sreg (wD x.w) <<< 24) ||| BitVec.ofNat 64 x.imm

/-- Shift amount of a scalar shift. -/
def ICtx.sh (x : ICtx) : Nat := x.sb.toNat % 64

/-- `SRD`: the selectors of Table 9-3. -/
def selector (d : Dev) (x : ICtx) : Nat :=
  let r := x.r
  let g := r.grids.getD x.s.phase (1, 1)
  let b := match r.by' with
    | .batch id => d.batch? id
    | .cmd _ => none
  let k := x.imm
  if k = 0 then x.s.x
  else if k = 1 then x.s.y
  else if k = 2 then x.s.phase
  else if k = 3 then g.1
  else if k = 4 then g.2
  else if k = 5 then x.i - r.before x.s.phase
  else if k = 6 then x.i
  else if k = 7 then r.total
  else if k = 8 then r.seed
  else if k = 9 then (b.map (·.tokens)).getD 0
  else if k = 10 then (b.map (·.din)).getD 0
  else if k = 11 then (b.map (·.dout)).getD 0
  else if k < 32 then
    match (r.args[k - 16]?).bind fun a => d.obj? a.obj with
    | some o => o.perRow + 2 ^ 32 * o.tileRows
    | none => 0
  else ((r.args[k - 32]?).map (·.ver)).getD 0

/-- `SRD`. -/
def instrSrd (n i : Nat) (d : Dev) : Dev := toScalar 0x1B n i (fun x => BitVec.ofNat 64 (selector d x)) d

/-! ## Vector floating point (Table 9-8) -/

/-- An operation of two FP32 sources with its source modifiers. -/
def vec2 (op n i : Nat) (f : F32 → F32 → F32) (d : Dev) : Dev :=
  vectorInstr op n i (fun x =>
    let m := wMod x.w
    List.zipWith (fun a b => f (srcMod (bitOf m 2) (bitOf m 0) a) (srcMod false (bitOf m 1) b)) x.va x.vb) d

/-- An operation of one FP32 source. -/
def vec1 (op n i : Nat) (f : F32 → F32) (d : Dev) : Dev :=
  vectorInstr op n i (fun x => x.va.map fun a => f (srcMod (bitOf (wMod x.w) 2) (bitOf (wMod x.w) 0) a)) d

/-- `FFMA`. -/
def instrFfma (n i : Nat) (d : Dev) : Dev :=
  vectorInstr 0x43 n i (fun x =>
    let m := wMod x.w
    List.zipWith (fun p c => fFma p.1 p.2 (srcMod false (bitOf m 3) c))
      (List.zipWith (fun a b => (srcMod (bitOf m 2) (bitOf m 0) a, srcMod false (bitOf m 1) b)) x.va x.vb) x.vc) d

/-! ## Integer vectors (Table 9-10) -/

/-- Operand b of an integer instruction: the register, or the immediate in every lane. -/
def ICtx.ib (x : ICtx) : List (BitVec 32) :=
  if bitOf (wMod x.w) 3 then List.replicate 64 (BitVec.ofInt 32 (sext24 x.imm)) else x.vb

/-- An integer operation of two sources. -/
def ivec (op n i : Nat) (f : BitVec 32 → BitVec 32 → BitVec 32) (d : Dev) : Dev :=
  vectorInstr op n i (fun x => List.zipWith f x.va x.ib) d

/-- Signed or unsigned order of a minimum or maximum. -/
def below (unsigned : Bool) (a b : BitVec 32) : Bool := if unsigned then a.ult b else a.slt b

/-- `IMIN`. -/
def imin (x : ICtx) : List (BitVec 32) :=
  List.zipWith (fun a b => if below (bitOf (wMod x.w) 0) b a then b else a) x.va x.ib

/-- `IMAX`. -/
def imax (x : ICtx) : List (BitVec 32) :=
  List.zipWith (fun a b => if below (bitOf (wMod x.w) 0) a b then b else a) x.va x.ib

/-! ## Compare and predicate (Table 9-11) -/

/-- A predicate from a list of lanes. -/
def laneMask (l : List Bool) : BitVec 64 :=
  ((List.range l.length).zip l).foldl (fun m p => if p.2 then m ||| (1#64 <<< p.1) else m) 0

/-- A condition on an order. -/
def condOrd (c : Nat) (o : Ordering) : Bool :=
  match c with
  | 0 => o == .eq
  | 1 => o != .eq
  | 2 => o == .lt
  | 3 => o != .gt
  | 4 => o == .gt
  | _ => o != .lt

/-- `FCMP`'s condition: NaN makes `NE` and `UN` true, the others false. -/
def fcond (c : Nat) (a b : F32) : Bool :=
  match (ofFp32 a).cmp (ofFp32 b) with
  | none => c == 1 || c == 6
  | some o => if c = 6 then false else condOrd c o

/-- A condition on two integers of a width: 6 is `LTU`, 7 `GEU`. -/
def icond {w : Nat} (c : Nat) (a b : BitVec w) : Bool :=
  if c = 6 then a.ult b
  else if c = 7 then !a.ult b
  else condOrd c (compare a.toInt b.toInt)

/-- A predicate register written lane by lane. -/
def toPred (op n i : Nat) (g : ICtx → BitVec 64) (d : Dev) : Dev := pureInstr op n i (fun x s => x.setP (g x) s) d

/-- Predicates a and b. -/
def ICtx.pa (x : ICtx) : BitVec 64 := x.s.pred (wA x.w)
/-- Predicate b. -/
def ICtx.pb (x : ICtx) : BitVec 64 := x.s.pred (wB x.w)

/-- `PLOG`. -/
def plog (x : ICtx) : BitVec 64 :=
  match wMod x.w with
  | 0 => x.pa &&& x.pb
  | 1 => x.pa ||| x.pb
  | 2 => x.pa ^^^ x.pb
  | _ => x.pa &&& ~~~x.pb

/-- `PSET`. -/
def pset (x : ICtx) : BitVec 64 :=
  match wMod x.w with
  | 0 => 0
  | 1 => BitVec.allOnes 64
  | _ => laneMask ((List.range 64).map fun k => decide (k < x.imm))

/-- `SEL`. -/
def selLanes (x : ICtx) : List (BitVec 32) :=
  let p := x.s.pred (wC x.w)
  (List.range 64).map fun k => if p.getLsbD k then x.va.getD k 0 else x.vb.getD k 0

/-! ## Lane reductions (Table 9-12, R256) -/

/-- The lanes with the excluded ones at the identity. -/
def ICtx.folded (x : ICtx) (unit : BitVec 32) : List (BitVec 32) :=
  (List.range 64).map fun k => if x.lane k then x.va.getD k 0 else unit

/-- A lane reduction; it always writes its destination. -/
def reduceLanes (op n i : Nat) (unit : BitVec 32) (f : BitVec 32 → BitVec 32 → BitVec 32) (signed : Bool)
    (d : Dev) : Dev :=
  pureInstr op n i (fun x s =>
    let v := laneTree f (x.folded unit)
    s.setS (wD x.w) (if signed then v.signExtend 64 else v.setWidth 64)) d

/-! ## Matrix (Table 9-13, R289) -/

/-- Bytes of a vector register. -/
def lanesBytes (v : List (BitVec 32)) : Bytes := v.flatMap fun x => leBytes 4 x.toNat

/-- Values of a 32 × 32 operand held from vector register `r` on. -/
def Slice.operand (s : Slice) (r fmt : Nat) : List Val :=
  (unpackBits (fmtBits fmt) ((fromTo r (mmaRegs fmt)).flatMap fun k => lanesBytes (s.vreg k))).map (decodeElem fmt)

/-- `MMA`. -/
def mma (x : ICtx) : List F32 :=
  let (fa, fb) := mmaFmts (wMod x.w)
  let sc (k : Nat) : Val := if wExt x.w = 1 then scaleVal ((x.vc.getD k 0).toNat % 256) else .fin false 1 0
  mmaStep (x.s.treg (wD x.w)) (x.s.operand (wA x.w) fa) (x.s.operand (wB x.w) fb) ((List.range 32).map sc)
    ((List.range 32).map fun j => sc (32 + j))

/-- `MRD`: two rows of a tile register into a vector register. -/
def mrd (x : ICtx) (s : Slice) : Slice :=
  { s with v := s.v.set (wD x.w) (((x.s.treg (wA x.w)).drop (64 * x.imm)).take 64) }

/-- `MWR`: the same rows written. -/
def mwr (x : ICtx) (s : Slice) : Slice :=
  let t := s.treg (wD x.w)
  s.setT (wD x.w) (t.take (64 * x.imm) ++ x.va ++ t.drop (64 * x.imm + 64))

/-! ## Meanings -/

/-- INSTR_NOP. -/
def execInstrNop (run slice : Nat) (s : State) : Host.Outcome State Fault Refusal :=
  onDev (pureInstr 0x00 run slice fun _ s => s) s
/-- BR. -/
def execBr (run slice : Nat) (s : State) : Host.Outcome State Fault Refusal := onDev (instrBr run slice) s
/-- TRAP. -/
def execTrap (run slice : Nat) (s : State) : Host.Outcome State Fault Refusal := onDev (instrTrap run slice) s
/-- SMOVI. -/
def execSmovi (run slice : Nat) (s : State) : Host.Outcome State Fault Refusal :=
  onDev (toScalar 0x10 run slice smovi) s
/-- SADD. -/
def execSadd (run slice : Nat) (s : State) : Host.Outcome State Fault Refusal :=
  onDev (toScalar 0x11 run slice fun x => x.sa + x.sb) s
/-- SSUB. -/
def execSsub (run slice : Nat) (s : State) : Host.Outcome State Fault Refusal :=
  onDev (toScalar 0x12 run slice fun x => x.sa - x.sb) s
/-- SMUL. -/
def execSmul (run slice : Nat) (s : State) : Host.Outcome State Fault Refusal :=
  onDev (toScalar 0x13 run slice fun x => x.sa * x.sb) s
/-- SAND. -/
def execSand (run slice : Nat) (s : State) : Host.Outcome State Fault Refusal :=
  onDev (toScalar 0x14 run slice fun x => x.sa &&& x.sb) s
/-- SOR. -/
def execSor (run slice : Nat) (s : State) : Host.Outcome State Fault Refusal :=
  onDev (toScalar 0x15 run slice fun x => x.sa ||| x.sb) s
/-- SXOR. -/
def execSxor (run slice : Nat) (s : State) : Host.Outcome State Fault Refusal :=
  onDev (toScalar 0x16 run slice fun x => x.sa ^^^ x.sb) s
/-- SSHL. -/
def execSshl (run slice : Nat) (s : State) : Host.Outcome State Fault Refusal :=
  onDev (toScalar 0x17 run slice fun x => x.sa <<< x.sh) s
/-- SSHR. -/
def execSshr (run slice : Nat) (s : State) : Host.Outcome State Fault Refusal :=
  onDev (toScalar 0x18 run slice fun x => x.sa >>> x.sh) s
/-- SSAR. -/
def execSsar (run slice : Nat) (s : State) : Host.Outcome State Fault Refusal :=
  onDev (toScalar 0x19 run slice fun x => x.sa.sshiftRight x.sh) s
/-- SADDI. -/
def execSaddi (run slice : Nat) (s : State) : Host.Outcome State Fault Refusal :=
  onDev (toScalar 0x1A run slice fun x => x.sa + BitVec.ofInt 64 (sext24 x.imm)) s
/-- SRD. -/
def execSrd (run slice : Nat) (s : State) : Host.Outcome State Fault Refusal := onDev (instrSrd run slice) s
/-- FADD. -/
def execFadd (run slice : Nat) (s : State) : Host.Outcome State Fault Refusal := onDev (vec2 0x40 run slice fAdd) s
/-- FSUB. -/
def execFsub (run slice : Nat) (s : State) : Host.Outcome State Fault Refusal := onDev (vec2 0x41 run slice fSub) s
/-- FMUL. -/
def execFmul (run slice : Nat) (s : State) : Host.Outcome State Fault Refusal := onDev (vec2 0x42 run slice fMul) s
/-- FMIN. -/
def execFmin (run slice : Nat) (s : State) : Host.Outcome State Fault Refusal := onDev (vec2 0x44 run slice fMin) s
/-- FMAX. -/
def execFmax (run slice : Nat) (s : State) : Host.Outcome State Fault Refusal := onDev (vec2 0x45 run slice fMax) s
/-- FDIV. -/
def execFdiv (run slice : Nat) (s : State) : Host.Outcome State Fault Refusal := onDev (vec2 0x4B run slice fDiv) s
/-- FFMA. -/
def execFfma (run slice : Nat) (s : State) : Host.Outcome State Fault Refusal := onDev (instrFfma run slice) s
/-- FEXP2. -/
def execFexp2 (run slice : Nat) (s : State) : Host.Outcome State Fault Refusal := onDev (vec1 0x46 run slice fExp2) s
/-- FLOG2. -/
def execFlog2 (run slice : Nat) (s : State) : Host.Outcome State Fault Refusal := onDev (vec1 0x47 run slice fLog2) s
/-- FSQRT. -/
def execFsqrt (run slice : Nat) (s : State) : Host.Outcome State Fault Refusal := onDev (vec1 0x48 run slice fSqrt) s
/-- FRSQ. -/
def execFrsq (run slice : Nat) (s : State) : Host.Outcome State Fault Refusal := onDev (vec1 0x49 run slice fRsq) s
/-- FRCP. -/
def execFrcp (run slice : Nat) (s : State) : Host.Outcome State Fault Refusal := onDev (vec1 0x4A run slice fRcp) s
/-- ITOF. -/
def execItof (run slice : Nat) (s : State) : Host.Outcome State Fault Refusal :=
  onDev (vectorInstr 0x54 run slice fun x => x.va.map iToF) s
/-- FTOI. -/
def execFtoi (run slice : Nat) (s : State) : Host.Outcome State Fault Refusal :=
  onDev (vectorInstr 0x55 run slice fun x => x.va.map fToI) s
/-- IADD. -/
def execIadd (run slice : Nat) (s : State) : Host.Outcome State Fault Refusal :=
  onDev (ivec 0x60 run slice fun a b => a + b) s
/-- ISUB. -/
def execIsub (run slice : Nat) (s : State) : Host.Outcome State Fault Refusal :=
  onDev (ivec 0x61 run slice fun a b => a - b) s
/-- IMUL. -/
def execImul (run slice : Nat) (s : State) : Host.Outcome State Fault Refusal :=
  onDev (ivec 0x62 run slice fun a b => a * b) s
/-- IAND. -/
def execIand (run slice : Nat) (s : State) : Host.Outcome State Fault Refusal :=
  onDev (ivec 0x63 run slice fun a b => a &&& b) s
/-- IOR. -/
def execIor (run slice : Nat) (s : State) : Host.Outcome State Fault Refusal :=
  onDev (ivec 0x64 run slice fun a b => a ||| b) s
/-- IXOR. -/
def execIxor (run slice : Nat) (s : State) : Host.Outcome State Fault Refusal :=
  onDev (ivec 0x65 run slice fun a b => a ^^^ b) s
/-- ISHL. -/
def execIshl (run slice : Nat) (s : State) : Host.Outcome State Fault Refusal :=
  onDev (ivec 0x66 run slice fun a b => a <<< (b.toNat % 32)) s
/-- ISHR. -/
def execIshr (run slice : Nat) (s : State) : Host.Outcome State Fault Refusal :=
  onDev (ivec 0x67 run slice fun a b => a >>> (b.toNat % 32)) s
/-- ISAR. -/
def execIsar (run slice : Nat) (s : State) : Host.Outcome State Fault Refusal :=
  onDev (ivec 0x68 run slice fun a b => a.sshiftRight (b.toNat % 32)) s
/-- IMIN. -/
def execImin (run slice : Nat) (s : State) : Host.Outcome State Fault Refusal :=
  onDev (vectorInstr 0x69 run slice imin) s
/-- IMAX. -/
def execImax (run slice : Nat) (s : State) : Host.Outcome State Fault Refusal :=
  onDev (vectorInstr 0x6A run slice imax) s
/-- VBCAST. -/
def execVbcast (run slice : Nat) (s : State) : Host.Outcome State Fault Refusal :=
  onDev (vectorInstr 0x6B run slice fun x => List.replicate 64 (x.sa.setWidth 32)) s
/-- VLANE. -/
def execVlane (run slice : Nat) (s : State) : Host.Outcome State Fault Refusal :=
  onDev (vectorInstr 0x6C run slice fun x => (List.range 64).map fun k : Nat => BitVec.ofInt 32 (k + sext24 x.imm)) s
/-- VEXT. -/
def execVext (run slice : Nat) (s : State) : Host.Outcome State Fault Refusal :=
  onDev (toScalar 0x6D run slice fun x => (x.va.getD x.imm 0).setWidth 64) s
/-- VMOV. -/
def execVmov (run slice : Nat) (s : State) : Host.Outcome State Fault Refusal :=
  onDev (vectorInstr 0x6E run slice fun x => x.va) s
/-- FCMP. -/
def execFcmp (run slice : Nat) (s : State) : Host.Outcome State Fault Refusal :=
  onDev (toPred 0x70 run slice fun x => laneMask (List.zipWith (fcond (wMod x.w)) x.va x.vb)) s
/-- ICMP. -/
def execIcmp (run slice : Nat) (s : State) : Host.Outcome State Fault Refusal :=
  onDev (toPred 0x71 run slice fun x => laneMask (List.zipWith (icond (wMod x.w)) x.va x.vb)) s
/-- SCMP. -/
def execScmp (run slice : Nat) (s : State) : Host.Outcome State Fault Refusal :=
  onDev (toPred 0x72 run slice fun x => if icond (wMod x.w) x.sa x.sb then BitVec.allOnes 64 else 0) s
/-- PLOG. -/
def execPlog (run slice : Nat) (s : State) : Host.Outcome State Fault Refusal := onDev (toPred 0x73 run slice plog) s
/-- PSET. -/
def execPset (run slice : Nat) (s : State) : Host.Outcome State Fault Refusal := onDev (toPred 0x74 run slice pset) s
/-- SEL. -/
def execSel (run slice : Nat) (s : State) : Host.Outcome State Fault Refusal :=
  onDev (vectorInstr 0x75 run slice selLanes) s
/-- PANY. -/
def execPany (run slice : Nat) (s : State) : Host.Outcome State Fault Refusal :=
  onDev (toPred 0x76 run slice fun x => if x.pa == 0 then 0 else BitVec.allOnes 64) s
/-- RFADD. -/
def execRfadd (run slice : Nat) (s : State) : Host.Outcome State Fault Refusal :=
  onDev (reduceLanes 0x80 run slice 0x80000000 fAdd false) s
/-- RFMIN. -/
def execRfmin (run slice : Nat) (s : State) : Host.Outcome State Fault Refusal :=
  onDev (reduceLanes 0x81 run slice 0x7F800000 fMin false) s
/-- RFMAX. -/
def execRfmax (run slice : Nat) (s : State) : Host.Outcome State Fault Refusal :=
  onDev (reduceLanes 0x82 run slice 0xFF800000 fMax false) s
/-- RIADD. -/
def execRiadd (run slice : Nat) (s : State) : Host.Outcome State Fault Refusal :=
  onDev (reduceLanes 0x83 run slice 0 (fun a b => a + b) true) s
/-- MZERO. -/
def execMzero (run slice : Nat) (s : State) : Host.Outcome State Fault Refusal :=
  onDev (scalarInstr 0x90 run slice fun x s => s.setT (wD x.w) (List.replicate 1024 0)) s
/-- MMA. -/
def execMma (run slice : Nat) (s : State) : Host.Outcome State Fault Refusal :=
  onDev (scalarInstr 0x91 run slice fun x s => s.setT (wD x.w) (mma x)) s
/-- MRD. -/
def execMrd (run slice : Nat) (s : State) : Host.Outcome State Fault Refusal :=
  onDev (scalarInstr 0x92 run slice mrd) s
/-- MWR. -/
def execMwr (run slice : Nat) (s : State) : Host.Outcome State Fault Refusal :=
  onDev (scalarInstr 0x93 run slice mwr) s

end Sys2Proof.Machine
end

