-- ==== Sys2Proof/Machine/EngineConv.lean ====
section
/-! DEFINITION. Conversions, MX instructions and the stochastic-rounding generator in kernels (Table 9-9, R285 to
R288). -/

namespace Sys2Proof.Machine

/-! ## The generator (R287) -/

/-- `sr_bits` of a lane under the key argument and the key pair of an instruction. -/
def ICtx.sr (x : ICtx) (arg lane : Nat) : Nat :=
  let obj := ((x.r.args[arg]?).map (·.obj)).getD 0 % 2 ^ 48
  srBits x.r.seed obj (x.s.sreg (wC x.w)).toNat (((x.s.sreg (wC x.w + 1)).toNat + lane) % 2 ^ 32)

/-- `SRB`: half of the generator's bits in each lane. -/
def srb (x : ICtx) : List (BitVec 32) :=
  (List.range 64).map fun k => BitVec.ofNat 32 (x.sr x.imm k / (if wMod x.w = 1 then 2 ^ 32 else 1))

/-- How lane `k` rounds: to nearest even, or stochastically (R286). -/
def ICtx.round (x : ICtx) (stoch : Bool) (arg k : Nat) : Round := if stoch then .stoch (x.sr arg k / 2 ^ 32) else .even

/-! ## Parts of a register -/

/-- Element codes of width `w` in the 64 elements that begin at byte `off` of a register. -/
def partCodes (v : List (BitVec 32)) (off w : Nat) : List Nat :=
  unpackBits w (((lanesBytes v).drop off).take (8 * w))

/-- A register whose 64 elements from byte `off` on have codes; an element whose lane is excluded keeps its bytes. -/
def ICtx.putPart (x : ICtx) (off w : Nat) (codes : List Nat) (s : Slice) : Slice :=
  let v := s.vreg (wD x.w)
  let old := partCodes v off w
  let new := (List.range 64).map fun k => if x.lane k then codes.getD k 0 else old.getD k 0
  let b := patch (lanesBytes v) off (packBits w new)
  { s with v := s.v.set (wD x.w) ((chunks 4 64 b).map fun c => BitVec.ofNat 32 (leNat c)) }

/-! ## Instructions -/

/-- `CVT` (R285). -/
def cvt (x : ICtx) (s : Slice) : Slice :=
  let fa := bits x.imm 0 8
  let fb := bits x.imm 8 8
  let (srcOff, dstOff) := cvtOffsets x.imm
  let codes := ((List.range 64).zip (partCodes x.va srcOff (fmtBits fa))).map fun p =>
    (convertElem fb (x.round (bitOf x.imm 23) (bits x.imm 19 4) p.1) (decodeElem fa p.2)).1
  x.putPart dstOff (fmtBits fb) codes s

/-- `MXSC`: the scale code of each 32-lane block, excluded lanes counting as +0 (R288). -/
def mxsc (x : ICtx) : List (BitVec 32) :=
  (chunks 32 2 (x.folded 0)).flatMap fun b =>
    List.replicate 32 (BitVec.ofNat 32 (mxScale (bits x.imm 0 8) (b.map ofFp32)))

/-- Scale code of a lane. -/
def ICtx.scale (x : ICtx) (k : Nat) : Nat := (x.vb.getD k 0).toNat % 256

/-- `MXQ` (R288). -/
def mxq (x : ICtx) (s : Slice) : Slice :=
  let f := bits x.imm 0 8
  let codes := ((List.range 64).zip x.va).map fun p =>
    (convertElem f (x.round (bitOf x.imm 15) (bits x.imm 11 4) p.1)
      ((ofFp32 p.2).scale (127 - (x.scale p.1 : Int)))).1
  x.putPart ((mxPart f).2.1 * bits x.imm 8 3) (fmtBits f) codes s

/-- `MXUNP` (R288): a value past FP32's range saturates, as every conversion does (R137, R140). -/
def mxunp (x : ICtx) : List (BitVec 32) :=
  let f := bits x.imm 0 8
  ((List.range 64).zip (partCodes x.va ((mxPart f).2.1 * bits x.imm 8 3) (fmtBits f))).map fun p =>
    BitVec.ofNat 32 (convertElem 1 .even (decodeMx f (x.scale p.1) p.2)).1

/-! ## Meanings -/

/-- CVT. -/
def execCvt (run slice : Nat) (s : State) : Host.Outcome State Fault Refusal := onDev (pureInstr 0x50 run slice cvt) s
/-- MXSC. -/
def execMxsc (run slice : Nat) (s : State) : Host.Outcome State Fault Refusal :=
  onDev (vectorInstr 0x51 run slice mxsc) s
/-- MXQ. -/
def execMxq (run slice : Nat) (s : State) : Host.Outcome State Fault Refusal := onDev (pureInstr 0x52 run slice mxq) s
/-- MXUNP. -/
def execMxunp (run slice : Nat) (s : State) : Host.Outcome State Fault Refusal :=
  onDev (vectorInstr 0x53 run slice mxunp) s
/-- SRB. -/
def execSrb (run slice : Nat) (s : State) : Host.Outcome State Fault Refusal := onDev (vectorInstr 0xB0 run slice srb) s

end Sys2Proof.Machine
end

