-- ==== Sys2Proof/Machine/EngineMem.lean ====
section
/-! DEFINITION. Loads, stores, output buffers, stream pop and push, `AADDF` and the end of a slice (Tables 9-6, 9-7,
R277 to R282, R291, R292). -/

namespace Sys2Proof.Machine

/-! ## The frame of a load or store (R272, R277) -/

/-- A vector-class load or store: with no active lane it does nothing. -/
def memInstr (op n i : Nat) (f : ICtx → Dev → Except TrapInfo Dev) (d : Dev) : Dev :=
  instr op n i (fun x d => if x.idle then .ok (x.advance id d) else f x d) d

/-- One that executes wholly if lane 0 is active. -/
def wholeInstr (op n i : Nat) (f : ICtx → Dev → Except TrapInfo Dev) (d : Dev) : Dev :=
  instr op n i (fun x d => if x.lane 0 then f x d else .ok (x.advance id d)) d

/-- The lanes of 256 bytes. -/
def lanesOf (b : Bytes) : List (BitVec 32) :=
  (List.range 64).map fun k => BitVec.ofNat 32 (leNat ((b.drop (4 * k)).take 4))

/-- 256 bytes loaded into `vd`; bytes past the end of what is read are zero. -/
def ICtx.load (x : ICtx) (b : Bytes) (d : Dev) : Dev := x.advance (x.setV (lanesOf b)) d

/-- The active lanes of `va` stored into bytes from an offset on; what lies past the end is discarded. -/
def ICtx.storeInto (x : ICtx) (off : Nat) (b : Bytes) : Bytes :=
  (List.range 64).foldl (fun b k =>
    if x.lane k then patch b (off + 4 * k) (leBytes 4 (x.va.getD k 0).toNat) else b) b

/-- The active lanes of `va` stored into a sparse store. -/
def ICtx.storeMap (x : ICtx) (off : Nat) (m : Map Byte) : Map Byte :=
  (List.range 64).foldl (fun m k =>
    if x.lane k then putBytes (off + 4 * k) (leBytes 4 (x.va.getD k 0).toNat) m else m) m

/-- A trap about an argument and a tile. -/
def argTrap (t : Trap) (arg tile : Nat) : TrapInfo := ⟨t, arg, tile⟩

/-- The argument a load or store names, with its object: `ROLE` for the wrong role, `BOUNDS` for an argument or tile out
of range. -/
def ICtx.argTile (x : ICtx) (role k tile : Nat) (d : Dev) : Except TrapInfo (RunArg × Obj) :=
  match x.r.args[k]? with
  | none => .error (argTrap .bounds k tile)
  | some a => do
    trapIf (a.role != role) (argTrap .role k tile)
    match d.obj? a.obj with
    | none => .error (argTrap .bounds k tile)
    | some o =>
      trapIf (decide (tile ≥ o.count)) (argTrap .bounds k tile)
      .ok (a, o)

/-- Argument index of a load or store of tiles. -/
def ICtx.argIx (x : ICtx) : Nat := x.imm % 16

/-- Byte offset within a tile: a scalar plus the immediate, wrapping. -/
def ICtx.tileOff (x : ICtx) (base : BitVec 64) : Nat := (base + BitVec.ofNat 64 (x.imm / 16)).toNat

/-! ## Argument tiles (R277 to R280) -/


/-- `LDT`. -/
def instrLdt (n i : Nat) (d : Dev) : Dev :=
  memInstr 0x20 n i (fun x d => do
    let k := x.argIx
    let tile := x.sa.toNat
    let off := x.tileOff x.sb
    let (a, o) ← x.argTile 1 k tile d
    let lay := argLay a o
    trapIf (decide (off ≥ delivSize lay o.th o.tw)) (argTrap .bounds k tile)
    trapIf (off % 4 != 0) (argTrap .align k tile)
    match stageTile n k tile (coreHalf x.s.core) d with
    | (.waiting, d) => .ok d
    | (.damaged, d) => .ok (endRun n .objectDamaged 0 d)
    | (.present, d) =>
      let b := (Machine.deliver o.fmt o.th o.tw lay (d.tileAt a.obj a.ver tile).1).1
      .ok (x.load ((b.drop off).take 256) d)) d

/-- The open buffer of a slice for an output tile, if it has one. -/
def Slice.buf? (s : Slice) (k tile : Nat) : Option OutBuf := s.bufs.find? fun b => b.arg == k && b.tile == tile

/-- Whether a store to an output tile is too late or not this slice's (R280). -/
def rewrites (x : ICtx) (k tile : Nat) : Bool :=
  x.r.written.contains (k, tile) || (x.r.accs.any fun a => a.arg == k && a.tile == tile) ||
    x.r.slices.any fun p => p.1 != x.i && (p.2.buf? k tile).isSome

/-- The slice's buffer for an output tile, opened at zeros if it has none. -/
def openBuf (x : ICtx) (k tile : Nat) (o : Obj) : Except TrapInfo OutBuf := do
  trapIf (rewrites x k tile) (argTrap .rewrite k tile)
  match x.s.buf? k tile with
  | some b => .ok b
  | none =>
    trapIf (decide (x.s.bufs.length ≥ 8)) (argTrap .buffers k tile)
    .ok { arg := k, tile := tile, data := o.zeroTile }

/-- A buffer put among a slice's open ones, in the order they were opened. -/
def Slice.setBuf (b : OutBuf) (s : Slice) : Slice :=
  if (s.buf? b.arg b.tile).isSome then
    { s with bufs := s.bufs.map fun c => if c.arg = b.arg ∧ c.tile = b.tile then b else c }
  else { s with bufs := s.bufs ++ [b] }

/-- `STT`. -/
def instrStt (n i : Nat) (d : Dev) : Dev :=
  memInstr 0x21 n i (fun x d => do
    let k := x.argIx
    let tile := x.sb.toNat
    let off := x.tileOff x.sc
    let (_, o) ← x.argTile 2 k tile d
    trapIf (decide (off ≥ o.canon)) (argTrap .bounds k tile)
    trapIf (off % 4 != 0) (argTrap .align k tile)
    let b ← openBuf x k tile o
    .ok (x.advance (Slice.setBuf { b with data := x.storeInto off b.data }) d)) d

/-- A tile written by a run, for one of its slices. What refuses it ends the run with that status. -/
def runWrite (n i k tile : Nat) (a : RunArg) (b : Bytes) (d : Dev) : Dev :=
  match refuseWrite a.obj a.ver tile d with
  | some st => endRun n st 0 d
  | none =>
    let d := (writeTile a.obj a.ver tile a.prod b (.run n i) d).2
    d.updRun n fun r => { r with written := r.written ++ [(k, tile)] }

/-- An input argument of a run with its object. -/
def Dev.runIn (d : Dev) (r : Run) (k : Nat) : Option (RunArg × Obj) :=
  (r.args[k]?).bind fun a => if a.role = 1 then (d.obj? a.obj).map fun o => (a, o) else none

/-- The elements of a tile of an input in FP32, as its layout delivers them. -/
def Dev.inputF32 (d : Dev) (p : RunArg × Obj) (tile : Nat) : List F32 :=
  tileF32 p.2.fmt (layFmt (argLay p.1 p.2)) p.2.n (d.tileAt p.1.obj p.1.ver tile).1

/-- What a library kernel whose result the spec defines commits to a tile of an output: Adam and AdamW, a step of W, M, V
and G, where D has the format that the parameter block names (R259); a requantization; the transposition of a tile of
non-MX elements. None elsewhere: the result is what the firmware's code computes (log entry 7). -/
def Dev.libTile (d : Dev) (r : Run) (k tile : Nat) (o : Obj) : Option Bytes :=
  match (d.kernel? r.kernel).map (·.lib), (r.args[k]?).map (·.obj) with
  | some 0x0020, some _ =>
    (d.runIn r 0).bind fun p =>
      if p.2.fmt = o.fmt ∧ !isMx o.fmt ∧ p.2.tw = o.th ∧ p.2.th = o.tw ∧ p.1.layout = 0 then
        let t := tile % o.perRow * p.2.perRow + tile / o.perRow
        some (packBits (fmtBits o.fmt)
          (transposeL p.2.th p.2.tw (elemCodes o.fmt o.n (d.tileAt p.1.obj p.1.ver t).1)))
      else none
  | some 0x0021, some _ =>
    (d.runIn r 0).bind fun p =>
      if p.2.n = o.n then some (tileOfF32 o.fmt (fun _ => .even) (d.inputF32 p tile)) else none
  | some lib, some obj =>
    match d.runIn r 0, d.runIn r 1, d.runIn r 2, d.runIn r 3 with
    | some w, some m, some v, some g =>
      let whole := [w, m, v, g].all fun p => p.2.n == o.n
      if (lib = 2 ∨ lib = 3) ∧ whole ∧ (k = 7 → fld r.params 0x21 0 8 = o.fmt) then
        some (adamOut r.params r.seed obj tile (k - 4) o.fmt
          (adamTile r.params (lib == 3) (d.inputF32 w tile) (d.inputF32 m tile) (d.inputF32 v tile) (d.inputF32 g tile)))
      else none
    | _, _, _, _ => none
  | _, _ => none

/-- A buffer committed as one tile write in the output's format (R279). -/
def commitBuf (n i : Nat) (r : Run) (b : OutBuf) (d : Dev) : Except TrapInfo Dev :=
  match (r.args[b.arg]?).bind fun a => (d.obj? a.obj).map fun o => (a, o) with
  | none => .ok d
  | some (a, o) => do
    let t := o.mask b.tile ((d.libTile r b.arg b.tile o).getD b.data)
    trapIf (!o.scalesOk t) (argTrap .format b.arg b.tile)
    .ok (runWrite n i b.arg b.tile a t d)

/-- `TCOMMIT`. -/
def instrTcommit (n i : Nat) (d : Dev) : Dev :=
  wholeInstr 0x22 n i (fun x d => do
    let k := x.argIx
    let tile := x.sa.toNat
    let (_, o) ← x.argTile 2 k tile d
    let b ← openBuf x k tile o
    let d ← commitBuf n i x.r b d
    .ok (x.advance (fun s => { s with bufs := s.bufs.filter fun c => !(c.arg == k && c.tile == tile) }) d)) d

/-! ## Scratch, windows, parameters (R249, R277) -/

/-- `LDS`. -/
def instrLds (n i : Nat) (d : Dev) : Dev :=
  memInstr 0x23 n i (fun x d => do
    let off := (x.sa + BitVec.ofNat 64 x.imm).toNat
    trapIf (decide (off + 256 > hScratch x.h)) Trap.bounds.plain
    trapIf (off % 4 != 0) Trap.align.plain
    .ok (x.load (getBytes x.s.scratch off 256) d)) d

/-- `STS`. -/
def instrSts (n i : Nat) (d : Dev) : Dev :=
  memInstr 0x24 n i (fun x d => do
    let off := (x.sb + BitVec.ofNat 64 x.imm).toNat
    trapIf (decide (off + 256 > hScratch x.h)) Trap.bounds.plain
    trapIf (off % 4 != 0) Trap.align.plain
    .ok (x.advance (fun s => { s with scratch := x.storeMap off s.scratch }) d)) d

/-- `LDW`. -/
def instrLdw (n i : Nat) (d : Dev) : Dev :=
  memInstr 0x25 n i (fun x d => do
    let who := x.sa.toNat
    let off := (x.sb + BitVec.ofNat 64 x.imm).toNat
    trapIf (decide (who ≥ x.r.total ∨ off + 256 > hWindow x.h)) Trap.bounds.plain
    trapIf (off % 4 != 0) Trap.align.plain
    trapIf (who != i && decide (x.r.phaseOf who ≥ x.s.phase)) Trap.window.plain
    .ok (x.load (getBytes x.r.windows (65536 * who + off) 256) d)) d

/-- `STW`. -/
def instrStw (n i : Nat) (d : Dev) : Dev :=
  memInstr 0x26 n i (fun x d => do
    let off := (x.sb + BitVec.ofNat 64 x.imm).toNat
    trapIf (decide (off + 256 > hWindow x.h)) Trap.bounds.plain
    trapIf (off % 4 != 0) Trap.align.plain
    .ok (x.advance id (d.updRun n fun r => { r with windows := x.storeMap (65536 * i + off) r.windows }))) d

/-- `LDP`. -/
def instrLdp (n i : Nat) (d : Dev) : Dev :=
  wholeInstr 0x29 n i (fun x d => do
    trapIf (decide (x.imm ≥ hParams x.h)) Trap.bounds.plain
    trapIf (x.imm % 4 != 0) Trap.align.plain
    .ok (x.advance (Slice.setS (wD x.w) (BitVec.ofNat 64 (leNat ((x.r.params.drop x.imm).take 8)))) d)) d

/-! ## Raw access (R281) -/

/-- Whether a kernel may use raw addresses. -/
def mayRaw (x : ICtx) (d : Dev) : Bool := x.r.tenant == 0 && d.pwr.mode != .service

/-- `LDR`. -/
def instrLdr (n i : Nat) (d : Dev) : Dev :=
  memInstr 0x27 n i (fun x d => do
    let a := x.sa.toNat
    trapIf (!mayRaw x d) Trap.priv.plain
    trapIf (!d.hasMem a 256) Trap.bounds.plain
    trapIf (a % 256 != 0) Trap.align.plain
    let (b, d) := rawRead a 256 d
    .ok (x.load b d)) d

/-- The active lanes of `va` written to DPAs as `RAW_WRITE` writes. -/
def ICtx.storeRaw (x : ICtx) (a : Nat) (d : Dev) : Dev :=
  (List.range 64).foldl (fun d k =>
    if x.lane k then rawWrite (a + 4 * k) (leBytes 4 (x.va.getD k 0).toNat) d else d) d

/-- `STR`. -/
def instrStr (n i : Nat) (d : Dev) : Dev :=
  memInstr 0x28 n i (fun x d => do
    let a := x.sb.toNat
    trapIf (!mayRaw x d || (d.hasMem a 256 && (fromTo a 256).any d.rawBarred)) Trap.priv.plain
    trapIf (!d.hasMem a 256) Trap.bounds.plain
    trapIf (a % 256 != 0) Trap.align.plain
    .ok (x.advance id (x.storeRaw a d))) d

/-! ## `POP` and `PUSH` (R282) -/

/-- The batch of an Eland run whose kernel may pop and push. -/
def ICtx.batch (x : ICtx) (d : Dev) : Except TrapInfo (Nat × Batch) :=
  match x.r.by' with
  | .cmd _ => .error Trap.priv.plain
  | .batch id =>
    match d.batch? id with
    | some b => if hExec x.h then .ok (id, b) else .error Trap.priv.plain
    | none => .error Trap.priv.plain

/-- `POP`. -/
def instrPop (n i : Nat) (d : Dev) : Dev :=
  memInstr 0x30 n i (fun x d => do
    let (_, b) ← x.batch d
    let t := x.sa.toNat
    let off := x.sb.toNat
    let row := 2 * b.din
    trapIf (decide (t ≥ b.tokens ∨ off ≥ row)) Trap.bounds.plain
    trapIf (off % 4 != 0) Trap.align.plain
    .ok (x.load (((b.acts.drop (t * row + off)).take (min 256 (row - off)))) d)) d

/-- The 64-byte unit of an unaligned offset: its active lanes, other bytes zero. -/
def ICtx.unit (x : ICtx) (u : Nat) : Bytes :=
  (fromTo (16 * u) 16).flatMap fun k => if x.lane k then leBytes 4 (x.va.getD k 0).toNat else zeros 4

/-- `PUSH`. -/
def instrPush (n i : Nat) (d : Dev) : Dev :=
  memInstr 0x31 n i (fun x d => do
    let (id, b) ← x.batch d
    let t := x.sb.toNat
    let off := x.sc.toNat
    let row := 2 * b.dout
    trapIf (decide (t ≥ b.tokens ∨ off ≥ row)) Trap.bounds.plain
    trapIf (off % 64 != 0) Trap.align.plain
    let first := (t * row + off) / 64
    let us := (List.range 4).filter fun u =>
      decide (off + 64 * u < row) && (fromTo (16 * u) 16).any x.lane
    trapIf (us.any fun u => b.pushed.any (·.1 == first + u)) Trap.rewrite.plain
    let new := us.map fun u => (first + u, x.unit u)
    .ok (x.advance (fun s => s) (d.updBatch id fun b => { b with pushed := b.pushed ++ new }))) d

/-! ## `AADDF` (R292) -/

/-- `AADDF`. -/
def instrAaddf (n i : Nat) (d : Dev) : Dev :=
  memInstr 0xF2 n i (fun x d => do
    let k := x.argIx
    let tile := x.sb.toNat
    let off := x.tileOff x.sc
    let (_, o) ← x.argTile 2 k tile d
    trapIf (decide (off ≥ 4 * o.n)) (argTrap .bounds k tile)
    trapIf (off % 4 != 0) (argTrap .align k tile)
    trapIf (x.r.written.contains (k, tile) || x.r.slices.any fun p => (p.2.buf? k tile).isSome)
      (argTrap .rewrite k tile)
    let mine (a : AccBuf) : Bool := a.arg == k && a.tile == tile
    let cur := x.r.accs.find? mine
    trapIf ((o.fmt != 1 && o.fmt != 2) || (cur.isNone && decide (x.r.accs.length ≥ 256))) (argTrap .atomic k tile)
    let old := (cur.map (·.data)).getD (List.replicate o.n 0)
    let new := (List.range 64).foldl (fun (l : List F32) j =>
      if x.lane j then l.modify (off / 4 + j) fun v => fAdd v (x.va.getD j 0) else l) old
    let b : AccBuf := { arg := k, tile := tile, data := new }
    .ok (x.advance id (d.updRun n fun r => { r with
      accs := if cur.isSome then r.accs.map fun a => if mine a then b else a else r.accs ++ [b] }))) d

/-! ## The end of a slice (R249, R279, R292) -/

/-- Buffers committed in the order they were opened, up to one that traps: those before it are taken (R108, R245). -/
def commitAll (n i : Nat) : List OutBuf → Dev → Option TrapInfo × Dev
  | [], d => (none, d)
  | b :: l, d =>
    match d.run? n with
    | none => (none, d)
    | some r =>
      match commitBuf n i r b d with
      | .ok d => commitAll n i l d
      | .error t => (some t, d)

/-- Accumulation buffers rounded and written after the last phase, for no slice: no index is as high as the run's total. -/
def writeAccs (n : Nat) : List AccBuf → Dev → Dev
  | [], d => d
  | a :: l, d =>
    match (d.run? n).bind fun r => (r.args[a.arg]?).bind fun x => (d.obj? x.obj).map fun o => (x, o) with
    | none => d
    | some (x, o) =>
      let b := packBits (fmtBits o.fmt) (a.data.map fun v => (convertElem o.fmt .even (ofFp32 v)).1)
      writeAccs n l (runWrite n (((d.run? n).map Run.total).getD 0) a.arg a.tile x (o.mask a.tile b) d)

/-- A slice that has ended: once the last of its phase has, the next phase begins, or the run is done. -/
def sliceDone (n i core since : Nat) (d : Dev) : Dev :=
  match d.run? n with
  | none => d
  | some r =>
    let doneN := r.doneN + 1
    let done := decide (doneN = r.before (r.phase + 1))
    let last := decide (doneN = r.total)
    let d := bump 9 (coreCluster core) 0 1 (d.updRun n fun r => { r with
      slices := Map.del i r.slices, doneN := doneN, coreTime := r.coreTime + (d.now - since)
      phase := if done && !last then r.phase + 1 else r.phase
      since := if done then d.now else r.since })
    if last then writeAccs n r.accs (d.updRun n fun r => { r with accs := [] }) else stageAhead n d

/-- `END`. -/
def instrEnd (n i : Nat) (d : Dev) : Dev :=
  wholeInstr 0x01 n i (fun x d => do
    match commitAll n i x.s.bufs d with
    | (none, d) => .ok (sliceDone n i x.s.core x.s.since d)
    | (some t, d) => .ok (takeTrap n i x.r x.s x.w t d)) d

/-! ## Meanings -/

/-- END. -/
def execEndSlice (run slice : Nat) (s : State) : Host.Outcome State Fault Refusal := onDev (instrEnd run slice) s
/-- LDT. -/
def execLdt (run slice : Nat) (s : State) : Host.Outcome State Fault Refusal := onDev (instrLdt run slice) s
/-- STT. -/
def execStt (run slice : Nat) (s : State) : Host.Outcome State Fault Refusal := onDev (instrStt run slice) s
/-- TCOMMIT. -/
def execTcommit (run slice : Nat) (s : State) : Host.Outcome State Fault Refusal := onDev (instrTcommit run slice) s
/-- LDS. -/
def execLds (run slice : Nat) (s : State) : Host.Outcome State Fault Refusal := onDev (instrLds run slice) s
/-- STS. -/
def execSts (run slice : Nat) (s : State) : Host.Outcome State Fault Refusal := onDev (instrSts run slice) s
/-- LDW. -/
def execLdw (run slice : Nat) (s : State) : Host.Outcome State Fault Refusal := onDev (instrLdw run slice) s
/-- STW. -/
def execStw (run slice : Nat) (s : State) : Host.Outcome State Fault Refusal := onDev (instrStw run slice) s
/-- LDR. -/
def execLdr (run slice : Nat) (s : State) : Host.Outcome State Fault Refusal := onDev (instrLdr run slice) s
/-- STR. -/
def execStr (run slice : Nat) (s : State) : Host.Outcome State Fault Refusal := onDev (instrStr run slice) s
/-- LDP. -/
def execLdp (run slice : Nat) (s : State) : Host.Outcome State Fault Refusal := onDev (instrLdp run slice) s
/-- POP. -/
def execPop (run slice : Nat) (s : State) : Host.Outcome State Fault Refusal := onDev (instrPop run slice) s
/-- PUSH. -/
def execPush (run slice : Nat) (s : State) : Host.Outcome State Fault Refusal := onDev (instrPush run slice) s
/-- AADDF. -/
def execAaddf (run slice : Nat) (s : State) : Host.Outcome State Fault Refusal := onDev (instrAaddf run slice) s

end Sys2Proof.Machine
end

