-- ==== Sys2Proof/Machine/EngineSync.lean ====
section
/-! DEFINITION. Flags, counters and herds from kernel instructions, fences, and the two reads that are not repeatable
(Table 9-13, R290 to R292, R299 to R311, R321); the expiry of watchdogs. -/

namespace Sys2Proof.Machine

/-- The trap of a use that is refused. -/
def syncTrap : TrapInfo := Trap.sync.plain

/-- Once the slice's own stores that are still being made durable are visible (`FENCE`), the instruction goes on; until
then it stalls (R291). -/
def fenced (n i : Nat) (f : Dev → Except TrapInfo Dev) (d : Dev) : Except TrapInfo Dev :=
  if d.sliceBusy n i then .ok d else f d

/-- Work of a slice on an object homed on a die: in sable mode, one on the other half ends the run (R24, R298). -/
def onHome (x : ICtx) (die : Nat) (f : Dev → Except TrapInfo Dev) (d : Dev) : Except TrapInfo Dev :=
  if d.pwr.sable && dieHalf die != coreHalf x.s.core then .ok (endRun x.n .pathLost 0 d) else f d

/-- An update by an instruction: one that is refused traps, and counts as refused (R290, R297, R308). -/
def counted (x : ICtx) (f : Dev → Except TrapInfo Dev) (d : Dev) : Except TrapInfo Dev :=
  match f d with
  | .ok d' => .ok d'
  | .error t => .ok (takeTrap x.n x.i x.r x.s x.w t (syncRefused x.r.tenant d))

/-- An update of an object homed on a die: in sable mode one on the other half is refused, and ends the run. -/
def updateHome (x : ICtx) (die : Nat) (f : Dev → Except TrapInfo Dev) (d : Dev) : Except TrapInfo Dev :=
  onHome x die f (if d.cutOff (coreHalf x.s.core) die then syncRefused x.r.tenant d else d)

/-- The physical flag an instruction names by its immediate. -/
def ICtx.flag (x : ICtx) (d : Dev) : Except TrapInfo Nat :=
  match d.physFlag x.r.tenant x.imm with
  | some p => .ok p
  | none => .error syncTrap

/-- The counter an instruction names by its immediate. -/
def ICtx.counter (x : ICtx) (d : Dev) : Except TrapInfo Counter :=
  match d.sync.counters.get? x.imm with
  | some c => if c.tenant = x.r.tenant then .ok c else .error syncTrap
  | none => .error syncTrap

/-! ## Waiting (R273, R291, R303, R321) -/

/-- Wait records there are (Table 10-1). -/
def waitRecords : Nat := 1048576

/-- Deadline of a watchdog operand: from the tick of issue; none for 0. -/
def ICtx.deadline (x : ICtx) (operand : BitVec 64) (d : Dev) : Option Nat :=
  if operand = 0 then none else some (x.s.holdFrom.getD d.now + operand.toNat)

/-- A wait whose watchdog has expired ends its run (R303, R291). -/
def expireRun (n : Nat) (w : WaitRec) (d : Dev) : Dev :=
  let (id, d) := raiseRec (watchdogRec w) d
  endRun n .timeout id (bumpTenant w.tenant 26 1 d)

/-- An issued wait that cannot go on yet holds, from its tick of issue on, until its watchdog expires. -/
def holdWait (x : ICtx) (w : WaitRec) (d : Dev) : Dev :=
  let late := match w.deadline with
    | some t => decide (t ≤ d.now)
    | none => false
  if late then expireRun x.n w d
  else d.updSlice x.n x.i fun s => { s with holdFrom := some (s.holdFrom.getD d.now) }

/-- A wait of a slice registers: `f` does it where a record is free; else the instruction holds, under its watchdog. -/
def registerWait (x : ICtx) (w : WaitRec) (f : Dev → Dev) (d : Dev) : Dev :=
  if d.sync.waits.length < waitRecords then f d else holdWait x w d

/-- A slice starts to wait on its core. -/
def sleepSlice (x : ICtx) (d : Dev) : Dev :=
  d.updSlice x.n x.i fun s => { s with st := .waiting s.core, holdFrom := none }

/-- A wait record put among the registered ones. -/
def addWait (w : WaitRec) (d : Dev) : Dev :=
  d.updSync fun s => { s with
    waits := Map.set s.nextWait { w with order := s.nextWait } s.waits, nextWait := s.nextWait + 1 }

/-- The record of a slice that waits. -/
def ICtx.waitRec (x : ICtx) (what : WaitFor) (vid : Nat) (operand : BitVec 64) (d : Dev) : WaitRec :=
  { who := .slice x.n x.i, what := what, index := x.i, order := 0, deadline := x.deadline operand d, vid := vid,
    tenant := x.r.tenant }

/-! ## Instructions -/

/-- `FSET`: a fence, then a set. -/
def instrFset (n i : Nat) (d : Dev) : Dev :=
  wholeInstr 0xA0 n i (fun x => fenced n i (counted x fun d => do
    let p ← x.flag d
    updateHome x (flagDie p) (fun d => .ok (x.advance id (setFlag p d))) d)) d

/-- `FCLR`. -/
def instrFclr (n i : Nat) (d : Dev) : Dev :=
  wholeInstr 0xA1 n i (fun x => counted x fun d => do
    let p ← x.flag d
    updateHome x (flagDie p) (fun d => .ok (x.advance id (clearFlag p d))) d) d

/-- `FWAIT` and `FTAKE`: a set flag lets the slice go on at once (and is consumed by a TAKE); else it waits. -/
def instrWaitFlag (op : Nat) (take : Bool) (n i : Nat) (d : Dev) : Dev :=
  wholeInstr op n i (fun x d => do
    let p ← x.flag d
    onHome x (flagDie p) (fun d =>
      match d.flag? p with
      | none => .error syncTrap
      | some f =>
        if f.quar then .error syncTrap
        else if f.set then
          .ok (x.advance id (if take then d.updFlag p fun f => { f with set := false } else d))
        else
          let w := x.waitRec (.flag p take) x.imm x.sa d
          .ok (registerWait x w (fun d => sleepSlice x (addWait w d)) d)) d) d

/-- `CADD`: a fence, then an add of 1 to 2^20; an add to a `retire_counter` is discarded and counted (R290). -/
def instrCadd (n i : Nat) (d : Dev) : Dev :=
  wholeInstr 0xA4 n i (fun x => fenced n i (counted x fun d => do
    let _ ← x.counter d
    let amount := x.sa.toNat
    trapIf (!decide (1 ≤ amount ∧ amount ≤ 2 ^ 20)) syncTrap
    updateHome x (counterDie x.imm) (fun d =>
      .ok (x.advance id (if d.retireCtr x.imm then syncRefused x.r.tenant d else addCounter x.imm amount d))) d)) d

/-- `CRD`. -/
def instrCrd (n i : Nat) (d : Dev) : Dev :=
  wholeInstr 0xA5 n i (fun x d => do
    let c ← x.counter d
    onHome x (counterDie x.imm) (fun d => .ok (x.advance (Slice.setS (wD x.w) (c.val.setWidth 64)) d)) d) d

/-- `CWAIT`. -/
def instrCwait (n i : Nat) (d : Dev) : Dev :=
  wholeInstr 0xA6 n i (fun x d => do
    let c ← x.counter d
    let target := x.sa.toNat % 2 ^ 48
    onHome x (counterDie x.imm) (fun d =>
      if serialDiff c.val.toNat target ≥ 0 then .ok (x.advance id d)
      else
        let w := x.waitRec (.counter x.imm target) x.imm x.sb d
        .ok (registerWait x w (fun d => sleepSlice x (addWait w d)) d)) d) d

/-- `HARR`: a fence, during which its watchdog runs from the tick of issue, then an arrival with a wait. A refused arrival
traps; a broken herd ends the run as timed out. -/
def instrHarr (n i : Nat) (d : Dev) : Dev :=
  wholeInstr 0xA7 n i (fun x d =>
    if d.sliceBusy n i then .ok (holdWait x (x.waitRec (.herd x.imm 0) x.imm x.sa d) d) else
    match d.herdOf x.r.tenant x.imm with
    | none => .error syncTrap
    | some h =>
      onHome x h.home (fun d =>
        let w := x.waitRec (.herd x.imm 0) x.imm x.sa d
        .ok (registerWait x w (fun d =>
          let rec' (gen : Nat) : WaitRec := { w with what := .herd x.imm gen, order := d.sync.nextWait }
          match arrive x.imm x.sb.toNat (some rec') (sleepSlice x d) with
          | (.taken, d') => d'
          | (.broken, _) => endRun n .timeout 0 d
          | (.refused, _) => takeTrap n i x.r x.s x.w syncTrap (bumpTenant x.r.tenant 28 1 d)) d)) d) d

/-- `FENCE`. -/
def instrFence (n i : Nat) (d : Dev) : Dev :=
  wholeInstr 0xA8 n i (fun x => fenced n i fun d => .ok (x.advance id d)) d

/-- `RDCYC` and `RDENT`: a value nothing constrains. -/
def instrFree (op n i : Nat) (d : Dev) : Dev :=
  wholeInstr op n i (fun x d =>
    let (v, d) := draw d
    .ok (x.advance (Slice.setS (wD x.w) v) d)) d

/-! ## A wait record becomes free (R321) -/

/-- The oldest slice that holds for a wait record. -/
def Dev.holder (d : Dev) : Option (Nat × Nat) :=
  (d.comp.runs.foldl (fun (a : Option (Nat × Nat × Nat)) r => r.2.slices.foldl (fun a s =>
    match if d.sliceBusy r.1 s.1 then none else s.2.holdFrom with
    | none => a
    | some t => match a with
      | none => some (r.1, s.1, t)
      | some q => if t < q.2.2 then some (r.1, s.1, t) else some q) a) none).map fun p => (p.1, p.2.1)

/-- WAIT_RECORD_FREE: the oldest instruction that holds for a record is issued again and registers. -/
def waitRecordFree (d : Dev) : Dev :=
  if d.sync.waits.length ≥ waitRecords then d
  else
    match d.holder with
    | none => d
    | some (n, i) =>
      let at' (op : Nat) : Bool := (d.fetch op n i).isSome
      if at' 0xA2 then instrWaitFlag 0xA2 false n i d
      else if at' 0xA3 then instrWaitFlag 0xA3 true n i d
      else if at' 0xA6 then instrCwait n i d
      else instrHarr n i d

/-! ## Watchdogs (R303, R304, R311) -/

/-- A registered wait ended as an expired watchdog ends it, with a record of its own or the herd's. -/
def expireWait (id : Nat) (w : WaitRec) (err : Nat) (d : Dev) : Dev :=
  let d := bumpTenant w.tenant 26 1 (dropWait id d)
  match w.who with
  | .cmd n => finishCmd n (errE .timeout err) d
  | .slice n _ => endRun n .timeout err d

/-- WATCHDOG_EXPIRY: a wait still registered at its deadline. -/
def watchdogExpiry (id : Nat) (d : Dev) : Dev :=
  match d.sync.waits.get? id with
  | none => d
  | some w =>
    match w.deadline with
    | none => d
    | some t =>
      if d.now < t then d
      else
        let (n, d) := raiseRec (watchdogRec w) d
        expireWait id w n d

/-- The waits on a herd, of either generation. -/
def Dev.herdWaits (d : Dev) (id : Nat) : List (Nat × WaitRec) :=
  d.sync.waits.filter fun p => match p.2.what with
    | .herd h _ => h == id
    | _ => false

/-- One wait of several that end together: one whose run has ended with another of its waits counts as well (R311). -/
def expireOne (id : Nat) (w : WaitRec) (err : Nat) (d : Dev) : Dev :=
  if d.sync.waits.has id then expireWait id w err d else bumpTenant w.tenant 26 1 d

/-- Every wait on a herd, of either generation, ended as a herd that breaks or is reset ends them. -/
def expireHerd (id err : Nat) (d : Dev) : Dev :=
  (d.herdWaits id).foldl (fun d p => expireOne p.1 p.2 err d) d

/-- HERD_WATCHDOG_EXPIRY: the herd breaks (R311). -/
def herdWatchdogExpiry (id : Nat) (d : Dev) : Dev :=
  match d.sync.herds.get? id with
  | none => d
  | some h =>
    match h.dueAt with
    | none => d
    | some t =>
      if h.broken || decide (d.now < t) then d
      else
        let rec0 : ErrRec := { ErrRec.mk0 1 0x0D with
          tenValid := true, tenant := h.tenant
          detail := leBytes 1 2 ++ leBytes 1 1 ++ zeros 2 ++ leBytes 4 id ++ zeros 4 ++
            leBytes 2 (h.mask.length - h.a.length) }
        let (n, d) := raiseRec rec0 d
        let d := bumpTenant h.tenant 26 1 (d.updHerd id fun h => { h with broken := true, dueAt := none })
        expireHerd id n d

/-! ## Meanings -/

/-- FSET. -/
def execFset (run slice : Nat) (s : State) : Host.Outcome State Fault Refusal := onDev (instrFset run slice) s
/-- FCLR. -/
def execFclr (run slice : Nat) (s : State) : Host.Outcome State Fault Refusal := onDev (instrFclr run slice) s
/-- FWAIT. -/
def execFwait (run slice : Nat) (s : State) : Host.Outcome State Fault Refusal :=
  onDev (instrWaitFlag 0xA2 false run slice) s
/-- FTAKE. -/
def execFtake (run slice : Nat) (s : State) : Host.Outcome State Fault Refusal :=
  onDev (instrWaitFlag 0xA3 true run slice) s
/-- CADD. -/
def execCadd (run slice : Nat) (s : State) : Host.Outcome State Fault Refusal := onDev (instrCadd run slice) s
/-- CRD. -/
def execCrd (run slice : Nat) (s : State) : Host.Outcome State Fault Refusal := onDev (instrCrd run slice) s
/-- CWAIT. -/
def execCwait (run slice : Nat) (s : State) : Host.Outcome State Fault Refusal := onDev (instrCwait run slice) s
/-- HARR. -/
def execHarr (run slice : Nat) (s : State) : Host.Outcome State Fault Refusal := onDev (instrHarr run slice) s
/-- FENCE. -/
def execFence (run slice : Nat) (s : State) : Host.Outcome State Fault Refusal := onDev (instrFence run slice) s
/-- RDCYC. -/
def execRdcyc (run slice : Nat) (s : State) : Host.Outcome State Fault Refusal := onDev (instrFree 0xF0 run slice) s
/-- RDENT. -/
def execRdent (run slice : Nat) (s : State) : Host.Outcome State Fault Refusal := onDev (instrFree 0xF1 run slice) s
/-- WATCHDOG_EXPIRY. -/
def execWatchdogExpiry (id : Nat) (s : State) : Host.Outcome State Fault Refusal := onDev (watchdogExpiry id) s
/-- HERD_WATCHDOG_EXPIRY. -/
def execHerdWatchdogExpiry (id : Nat) (s : State) : Host.Outcome State Fault Refusal := onDev (herdWatchdogExpiry id) s
/-- WAIT_RECORD_FREE. -/
def execWaitRecordFree (_id : Nat) (s : State) : Host.Outcome State Fault Refusal := onDev waitRecordFree s

end Sys2Proof.Machine
end

