-- ==== Sys2Proof/Machine/SyncCmds.lean ====
section
/-! DEFINITION. The synchronisation commands: `FLAG_ALLOC` to `WAIT` (R317 to R323, Tables 10-5 to 10-8). -/

namespace Sys2Proof.Machine

/-- A per-tenant limit of feature 0x05: flags at byte 0, counters at 4, herds at 8 (R296). -/
def Dev.syncLimit (d : Dev) (off w : Nat) : Nat := d.feat 0x05 off w

/-- The die a `home` byte names, and the sable-mode test of it (R23, R298). -/
def homeDie (x : Ctx) (byte best : Nat) (d : Dev) : Except Cpl Nat := do
  let k := if byte = 0xFF then best else byte
  checkPath x.half (dieHalf k) d
  .ok k

/-- An object homed on a die is reached from the issuing port (R23, R298). -/
def reach (x : Ctx) (die : Nat) (d : Dev) : Except Cpl Unit := checkPath x.half (dieHalf die) d

/-! ## Flags (R317, R320, R322) -/

/-- Virtual IDs a tenant's map holds, ascending. -/
def Dev.flagIds (d : Dev) (t : Nat) : List Nat :=
  d.sync.flags.foldl (fun l p => if p.2.tenant = t then insertNat p.2.vid l else l) []

/-- `n` free physical flags of a die, the lowest first. -/
def Dev.freeFlags (d : Dev) (die n : Nat) : List Nat :=
  let used := (d.sync.flags.keys.filter fun p => flagDie p == die)
  let go := used.foldl (fun (s : Nat × List Nat) p =>
    let gap := fromTo s.1 (min (p - s.1) (n - s.2.length))
    (p + 1, s.2 ++ gap)) (262144 * die, [])
  let rest := min (262144 * (die + 1) - go.1) (n - go.2.length)
  go.2 ++ fromTo go.1 rest

/-- `FLAG_ALLOC`. -/
def bodyFlagAlloc : Body := plain fun x d => do
  checkQos x d
  let e := x.e
  let n := e.w16 0x20
  let first := e.w16 0x22
  let ids := d.flagIds x.t
  need (first == 0xFFFF || decide (first + n ≤ 0xFFFF)) (errF 0x22)
  let die ← homeDie x (e.fld 0x24 0 8) (d.bestFlagDie x.half) d
  need (first == 0xFFFF || !(ids.any fun i => decide (first ≤ i ∧ i < first + n))) (errC 0xFF true)
  match if first = 0xFFFF then firstGap ids 0 0xFFFF n else some first with
  | none => .error (errS .noResource)
  | some v =>
    let phys := d.freeFlags die n
    need (decide (ids.length + n ≤ d.syncLimit 0 32 ∧ phys.length = n)) (errS .noResource)
    let d := ((List.range n).zip phys).foldl (fun d p => d.updSync fun s => { s with
      flags := Map.set p.2 { tenant := x.t, vid := v + p.1, set := false, quar := false } s.flags }) d
    okRes (leBytes 2 v) d

/-- The physical flags of a range of virtual IDs, if the map holds every one. -/
def Dev.flagRange (d : Dev) (t first n : Nat) : Option (List Nat) := (fromTo first n).mapM (d.physFlag t)

/-- `FLAG_FREE`. -/
def bodyFlagFree : Body := plain fun x d => do
  checkQos x d
  let n := x.e.w16 0x20
  match d.flagRange x.t (x.e.w16 0x22) n with
  | none => .error (errF 0x22)
  | some ps =>
    ps.foldlM (fun _ p => reach x (flagDie p) d) ()
    need (!(d.sync.waits.any fun w => match w.2.what with
      | .flag p _ => ps.contains p
      | _ => false)) (errC 0xFE true)
    let dirty := ps.filter fun p => match d.flag? p with
      | some f => f.set || f.quar
      | none => false
    let new := (dirty.filter fun p => match d.flag? p with
      | some f => !f.quar
      | none => false).length
    let d := bumpTenant x.t 29 new d
    let d := ps.foldl (fun d p =>
      if dirty.contains p then d.updFlag p fun f => { f with quar := true }
      else d.updSync fun s => { s with flags := Map.del p s.flags }) d
    if dirty.isEmpty then okRes (leBytes 2 0) d
    else .ok (.done { Cpl.ok (leBytes 2 dirty.length) with
      status := .dirtySync, ext := some (.part (n - dirty.length)) } d)

/-- An update by a command: one that is refused counts in `SYNC_REFUSED` and changes nothing else (R308, R324). -/
def countRefused (x : Ctx) (d : Dev) (r : Except Cpl Res) : Except Cpl Res :=
  match r with
  | .ok a => .ok a
  | .error c => .ok (.done c (syncRefused x.t d))

/-- The counter half of `FLAG_SET`: an add. -/
def addByCmd (x : Ctx) (d : Dev) : Except Cpl Res := do
  let n := x.e.fld 0x24 0 17
  need (d.ownsCounter x.t n) (errF 0x24)
  reach x (counterDie n) d
  need (!d.retireCtr n) (errC 0xFE true)
  let d := addCounter n (x.e.fld 0x28 0 48) d
  okRes (leBytes 6 (d.ctrVal n)) d

/-- The flag half of `FLAG_SET`. -/
def setByCmd (x : Ctx) (d : Dev) : Except Cpl Res :=
  match (d.physFlag x.t (x.e.w16 0x20)).bind fun p => (d.flag? p).map fun f => (p, f) with
  | none => .error (errF 0x20)
  | some (p, f) => do
    reach x (flagDie p) d
    need (!f.quar) (errF 0x20)
    okRes (leBytes 1 (b2n f.set)) (setFlag p d)

/-- `FLAG_SET`. -/
def bodyFlagSet : Body := plain fun x d => do
  checkQos x d
  countRefused x d (if x.e.fld 0x22 0 8 = 1 then addByCmd x d else setByCmd x d)

/-- A `FLAG_SET` refused for its amount (R306) counts as well. -/
def countAmount (n : Nat) (d : Dev) : Dev :=
  match d.cmd? n with
  | none => d
  | some c =>
    if c.entry.op = 0x62 ∧ c.phase = .taken ∧ c.started then
      match precheck ⟨n, c⟩ d with
      | .error e => if e = errF 0x28 then syncRefused c.tenant d else d
      | .ok _ => d
    else d

/-- A clear by a command: a quarantined flag is cleared, unmapped and returned to the pool (R322). -/
def clearByCmd (x : Ctx) (d : Dev) : Except Cpl Res :=
  match (d.physFlag x.t (x.e.w16 0x20)).bind fun p => (d.flag? p).map fun f => (p, f) with
  | none => .error (errF 0x20)
  | some (p, f) => do
    reach x (flagDie p) d
    let d := if f.quar then d.updSync fun s => { s with flags := Map.del p s.flags } else clearFlag p d
    okRes (leBytes 1 (b2n f.set)) d

/-- `FLAG_CLEAR`. -/
def bodyFlagClear : Body := plain fun x d => do
  checkQos x d
  countRefused x d (clearByCmd x d)

/-! ## Counters (R318) -/

/-- Free counters of a die. -/
def Dev.freeCounters (d : Dev) (die : Nat) : Nat :=
  32768 - (d.sync.counters.keys.filter fun n => counterDie n == die).length

/-- The run of `n` counters of a die that have been free longest: the first gap that misses the allocated and freed
ones, else with the oldest freed ones let in, one after the other. -/
def oldestRun (used : List Nat) (die n : Nat) : List Nat → Option Nat
  | [] => firstGap used (32768 * die) (32768 * (die + 1)) n
  | f :: fs =>
    match firstGap ((f :: fs).foldl (fun l k => insertNat k l) used) (32768 * die) (32768 * (die + 1)) n with
    | some k => some k
    | none => oldestRun used die n fs

/-- `COUNTER_ALLOC`. -/
def bodyCounterAlloc : Body := plain fun x d => do
  checkQos x d
  let e := x.e
  let n := e.w16 0x20
  let a := 2 * x.half
  let best := if d.freeCounters a < d.freeCounters (a + 1) then a + 1 else a
  let die ← homeDie x (e.fld 0x28 0 8) best d
  let own := (d.sync.counters.filter fun p => p.2.tenant == x.t).length
  need (decide (own + n ≤ d.syncLimit 4 32)) (errS .noResource)
  match oldestRun d.sync.counters.keys die n d.sync.freed with
  | none => .error (errS .noResource)
  | some k =>
    let d := d.updSync fun s => { s with
      counters := (fromTo k n).foldl (fun m i =>
        Map.set i { tenant := x.t, val := BitVec.ofNat 48 (e.fld 0x30 0 48) : Counter } m) s.counters
      freed := s.freed.filter fun i => !decide (k ≤ i ∧ i < k + n) }
    okRes (leBytes 4 k) d

/-- `COUNTER_FREE`. -/
def bodyCounterFree : Body := plain fun x d => do
  checkQos x d
  let n := x.e.w16 0x20
  let k := x.e.fld 0x24 0 17
  let hit (i : Nat) : Bool := decide (k ≤ i ∧ i < k + n)
  need ((fromTo k n).all (d.ownsCounter x.t)) (errF 0x24)
  reach x (counterDie k) d
  reach x (counterDie (k + n - 1)) d
  let busy := (d.sync.waits.any fun w => match w.2.what with
    | .counter i _ => hit i
    | _ => false) || (d.tiers.scheds.any fun s => hit s.2.counter) ||
    d.reds.reds.any fun r => r.2.ended.isNone && hit r.2.counter
  need (!busy) (errC 0xFE true)
  let v := d.ctrVal k
  okRes (leBytes 8 v) (d.updSync fun s => { s with
    counters := Map.keep (fun i _ => !hit i) s.counters, freed := s.freed ++ fromTo k n })

/-! ## Herds (R319) -/

/-- The notify entries of a definition checked: each a port bound to the tenant. Answers them, or the data offset of the
first that is wrong. -/
def notifyList (t : Nat) (d : Dev) (b : Bytes) (n : Nat) : Except Cpl (List (Nat × Nat)) :=
  (List.range n).foldlM (fun l k => do
    let o := 128 + 8 * k
    let port := fld b o 0 8
    need (decide (port ≤ 55) && (d.port port).bound && (d.port port).tenants.contains t) (errD o)
    need (fld b (o + 1) 0 24 == 0) (errD (o + 1))
    .ok (l ++ [(port, fld b (o + 4) 0 32)])) []

/-- A herd of the issuing tenant, named at a field. -/
def ownHerd (x : Ctx) (off id : Nat) (d : Dev) : Except Cpl Herd :=
  match d.herdOf x.t id with
  | some h => do
    reach x h.home d
    .ok h
  | none => .error (errF off)

/-- `HERD_DEFINE` DEFINE. -/
def defineHerd (x : Ctx) (b : Bytes) (d : Dev) : Except Cpl Res := do
  let e := x.e
  let mask := setBits 1024 (leNat (b.take 128))
  need (!mask.isEmpty) (errD 0)
  let rf := e.w16 0x24
  match d.physFlag x.t rf with
  | some p => if rf = 0xFFFF then .ok () else reach x (flagDie p) d
  | none => need (rf == 0xFFFF) (errF 0x24)
  let notify ← notifyList x.t d b (e.fld 0x26 0 8)
  let die ← homeDie x (e.fld 0x27 0 8) (d.bestFlagDie x.half) d
  let own := (d.sync.herds.filter fun p => p.2.tenant == x.t).length
  need (decide (d.sync.herds.length < 4096 ∧ own < d.syncLimit 8 16)) (errS .noResource)
  let id := d.sync.herds.firstFree 0
  let h : Herd :=
    { tenant := x.t, home := die, mask := mask, g := 0, a := [], n := [], broken := false, relFlag := rf,
      notify := notify, timeout := e.w32 0x28, dueAt := none }
  okRes (leBytes 2 id) (d.updSync fun s => { s with herds := Map.set id h s.herds })

/-- `HERD_DEFINE`. -/
def bodyHerdDefine : Body := withData
  (fun x d => do
    checkQos x d
    .ok (if x.e.b20 = 1 then 0 else 128 + 8 * x.e.fld 0x26 0 8))
  (fun x b d => do
    if x.e.b20 = 0 then defineHerd x b d
    else
      let id := x.e.fld 0x22 0 12
      let _ ← ownHerd x 0x22 id d
      let d := (d.herdWaits id).foldl (fun d p =>
        let (n, d) := raiseRec (watchdogRec p.2) d
        expireOne p.1 p.2 n d) d
      okRes [] (d.updHerd id fun h => { h with g := 0, a := [], n := [], broken := false, dueAt := none }))

/-- `HERD_FREE`. -/
def bodyHerdFree : Body := plain fun x d => do
  checkQos x d
  let id := x.e.w16 0x20
  let _ ← ownHerd x 0x20 id d
  need (!(d.sync.waits.any fun w => match w.2.what with
    | .herd h _ => h == id
    | _ => false)) (errC 0xFE true)
  okRes [] (d.updSync fun s => { s with herds := Map.del id s.herds })

/-! ## `WAIT` (R321) -/

/-- Results of a wait: state, and the tick of the release; a POLL has no release. -/
def waitResults (v : Nat) (d : Dev) (poll : Bool) : Bytes := leBytes 8 v ++ leBytes 8 (if poll then 0 else d.now)

/-- The record of a `WAIT` command. -/
def Ctx.waitRec (x : Ctx) (what : WaitFor) (vid : Nat) (d : Dev) : WaitRec :=
  { who := .cmd x.num, what := what, index := x.e.w32 0x30, order := 0, deadline := some (d.now + x.e.w32 0x34),
    vid := vid, tenant := x.t }

/-- A `WAIT` command registers, if a record is free. -/
def waitCmdOn (x : Ctx) (what : WaitFor) (vid : Nat) (d : Dev) : Except Cpl Res := do
  need (decide (d.sync.waits.length < waitRecords)) (errS .noResource)
  .ok (.wait (addWait (x.waitRec what vid d) d))

/-- `WAIT` on a flag. -/
def waitFlag (x : Ctx) (d : Dev) : Except Cpl Res := do
  let vid := x.e.w16 0x22
  let form := x.e.fld 0x21 0 8
  match (d.physFlag x.t vid).bind fun p => (d.flag? p).map fun f => (p, f) with
  | none => .error (errF 0x22)
  | some (p, f) =>
    reach x (flagDie p) d
    need (!f.quar) (errF 0x22)
    if form = 2 then okRes (waitResults (b2n f.set) d true) d
    else if f.set then
      okRes (waitResults 1 d false) (if form = 1 then d.updFlag p fun f => { f with set := false } else d)
    else waitCmdOn x (.flag p (form == 1)) vid d

/-- `WAIT` on a counter. -/
def waitCounter (x : Ctx) (d : Dev) : Except Cpl Res := do
  let n := x.e.fld 0x24 0 17
  need (d.ownsCounter x.t n) (errF 0x24)
  reach x (counterDie n) d
  let v := d.ctrVal n
  let target := x.e.fld 0x28 0 48
  if x.e.fld 0x21 0 8 = 2 then okRes (waitResults v d true) d
  else if serialDiff v target ≥ 0 then okRes (waitResults v d false) d
  else waitCmdOn x (.counter n target) n d

/-- `WAIT` on a herd: an arrival with a wait. What is refused is counted. -/
def waitHerd (x : Ctx) (d : Dev) : Except Cpl Res := do
  let id := x.e.fld 0x22 0 12
  let h ← ownHerd x 0x22 id d
  if x.e.fld 0x21 0 8 = 2 then
    okRes (waitResults (h.g + 2 * b2n h.broken + 2 ^ 16 * h.a.length) d true) d
  else
    need (decide (d.sync.waits.length < waitRecords)) (errS .noResource)
    let rec' (gen : Nat) : WaitRec := { x.waitRec (.herd id gen) id d with order := d.sync.nextWait }
    match arrive id (x.e.fld 0x28 0 10) (some rec') d with
    | (.refused, d) => .ok (.done (errF 0x28) d)
    | (.broken, d) => .ok (.done (errS .timeout) d)
    | (.taken, d) => .ok (.wait d)

/-- `WAIT`. -/
def bodyWait : Body := plain fun x d => do
  checkQos x d
  let k := x.e.b20
  if k = 0 then waitFlag x d else if k = 1 then waitCounter x d else waitHerd x d

/-! ## Meanings -/

/-- FLAG_ALLOC. -/
def execFlagAlloc (c : Nat) (s : State) : Host.Outcome State Fault Refusal := onDev (startCmd 0x60 bodyFlagAlloc c) s
/-- FLAG_FREE. -/
def execFlagFree (c : Nat) (s : State) : Host.Outcome State Fault Refusal := onDev (startCmd 0x61 bodyFlagFree c) s
/-- FLAG_SET. -/
def execFlagSet (c : Nat) (s : State) : Host.Outcome State Fault Refusal :=
  onDev (fun d => startCmd 0x62 bodyFlagSet c (countAmount c d)) s
/-- FLAG_CLEAR. -/
def execFlagClear (c : Nat) (s : State) : Host.Outcome State Fault Refusal := onDev (startCmd 0x63 bodyFlagClear c) s
/-- COUNTER_ALLOC. -/
def execCounterAlloc (c : Nat) (s : State) : Host.Outcome State Fault Refusal :=
  onDev (startCmd 0x64 bodyCounterAlloc c) s
/-- COUNTER_FREE. -/
def execCounterFree (c : Nat) (s : State) : Host.Outcome State Fault Refusal :=
  onDev (startCmd 0x65 bodyCounterFree c) s
/-- HERD_DEFINE. -/
def execHerdDefine (c : Nat) (s : State) : Host.Outcome State Fault Refusal :=
  onDev (startCmd 0x66 bodyHerdDefine c) s
/-- HERD_FREE. -/
def execHerdFree (c : Nat) (s : State) : Host.Outcome State Fault Refusal := onDev (startCmd 0x67 bodyHerdFree c) s
/-- WAIT. -/
def execWaitCmd (c : Nat) (s : State) : Host.Outcome State Fault Refusal := onDev (startCmd 0x68 bodyWait c) s

end Sys2Proof.Machine
end

