-- ==== Sys2Proof/Machine/Bodies.lean ====
section
/-! DEFINITION. The body of each opcode, for commands that go on after a read, that the management path carries, or that
a preset image holds (Table 3-5). -/

namespace Sys2Proof.Machine

/-- Bodies of opcodes 0x00 to 0x2F. -/
def bodyLow (op : Nat) : Option Body :=
  match op with
  | 0x00 => some bodyNop
  | 0x01 => some bodyIdentify
  | 0x02 => some bodyGetFeature
  | 0x03 => some bodySetFeature
  | 0x04 => some bodyQpCreate
  | 0x05 => some bodyQpDelete
  | 0x06 => some bodyTenantSet
  | 0x07 => some bodyPortBind
  | 0x08 => some bodyUnitGroup
  | 0x09 => some bodyStatsRead
  | 0x10 => some bodyObjCreate
  | 0x11 => some bodyObjWrite
  | 0x12 => some bodyObjRead
  | 0x13 => some bodyObjSeal
  | 0x14 => some bodyObjRelease
  | 0x15 => some bodyObjClone
  | 0x16 => some bodyObjQuery
  | 0x17 => some bodyObjMapHost
  | 0x18 => some bodyObjUnmapHost
  | 0x19 => some bodyEvacuate
  | 0x1A => some bodyObjGrant
  | 0x20 => some bodyReside
  | 0x21 => some bodyUnreside
  | 0x22 => some bodyScheduleLoad
  | 0x23 => some bodyScheduleDrop
  | 0x24 => some bodyRouteHint
  | 0x25 => some bodyPlace
  | 0x26 => some bodyQuotaSet
  | _ => none

/-- Bodies of opcodes 0x30 to 0x7F. -/
def bodyMid (op : Nat) : Option Body :=
  match op with
  | 0x30 => some bodyStreamOpen
  | 0x31 => some bodyStreamClose
  | 0x32 => some bodyStreamQuery
  | 0x40 => some bodyReduceOpen
  | 0x41 => some bodyReduceFinish
  | 0x42 => some bodyReduceAbort
  | 0x50 => some bodyKernelLoad
  | 0x51 => some bodyKernelRun
  | 0x52 => some bodyKernelAbort
  | 0x53 => some bodyKernelUnload
  | 0x54 => some bodyExpertBind
  | 0x60 => some bodyFlagAlloc
  | 0x61 => some bodyFlagFree
  | 0x62 => some bodyFlagSet
  | 0x63 => some bodyFlagClear
  | 0x64 => some bodyCounterAlloc
  | 0x65 => some bodyCounterFree
  | 0x66 => some bodyHerdDefine
  | 0x67 => some bodyHerdFree
  | 0x68 => some bodyWait
  | 0x70 => some bodyQosReserve
  | 0x71 => some bodyQosRelease
  | 0x72 => some bodyQosQuery
  | _ => none

/-- Bodies of opcodes 0x80 and up. -/
def bodyHigh (op : Nat) : Option Body :=
  match op with
  | 0x80 => some bodyScrubRange
  | 0x81 => some bodyRetire
  | 0x82 => some bodyErrlogRead
  | 0x83 => some bodyRebuild
  | 0x84 => some bodyPoisonClear
  | 0x90 => some bodyExtentAssign
  | 0x91 => some bodyExtentRevoke
  | 0x92 => some bodyHostLossAck
  | 0x93 => some bodyShareGroupSet
  | 0xA0 => some bodyAttest
  | 0xA1 => some bodyFwStage
  | 0xA2 => some bodyFwCommit
  | 0xA3 => some bodyPresetRead
  | 0xA4 => some bodyPresetWrite
  | 0xA5 => some bodyOwnerEnrol
  | 0xA6 => some bodyKeySet
  | 0xA7 => some bodyTimeCorrelate
  | 0xA8 => some bodySensorRead
  | 0xB0 => some bodyPowerPolicy
  | 0xB1 => some bodyPasrSet
  | 0xB2 => some bodyIdleEnter
  | 0xF0 => some bodyDiagInject
  | 0xF1 => some bodyTraceCtl
  | 0xF2 => some bodySelfTest
  | _ => none

/-- The body of an opcode of Table 3-5. -/
def bodyOf (op : Nat) : Option Body := if op < 0x30 then bodyLow op else if op < 0x80 then bodyMid op else bodyHigh op

/-- The pieces of data a command has read so far, if it is reading. -/
def Cmd.got (c : Cmd) : List Bytes :=
  match c.phase with
  | .reading l => l
  | _ => []

/-- A command goes on with the next piece of its data. -/
def contRead (n : Nat) (b : Bytes) (d : Dev) : Dev :=
  match d.cmd? n with
  | none => d
  | some c =>
    match bodyOf c.entry.op with
    | some body => runBody body n (c.got ++ [b]) d
    | none => finishCmd n (errS .invalidOpcode) d

/-- A command's read failed with a status; `f` is what its completion says besides. -/
def failRead (n : Nat) (st : Status) (f : Cpl → Cpl) (d : Dev) : Dev :=
  match d.cmd? n with
  | none => d
  | some c =>
    match bodyOf c.entry.op with
    | some body => failBody body n c.got st f d
    | none => finishCmd n (errS .invalidOpcode) d

end Sys2Proof.Machine
end

