-- ==== Sys2Proof/Machine/Messages.lean ====
section
/-! DEFINITION. What a partner sends: messages by code, the command channel, flits and the framing of messages in them
(R101, R185, R421 to R440, R446). -/

namespace Sys2Proof.Machine

/-! ## `CMD` (R101, R104, R435) -/

/-- A `CMD` that finds the ring full: answered at once, without a completion slot (R101). -/
def cmdFull (port qp : Nat) (q : QP) (e : Entry) (d : Dev) : Dev :=
  let irq := bitOf (e.fld 1 0 8) 1
  sendMsg port 2 q.tenant
    (leBytes 1 0x0A ++ leBytes 1 (b2n irq) ++ leBytes 2 qp ++ zeros 4 ++
      cqeHead (e.fld 2 0 16) (Cpl.of .noResource) q.phase false d.cplDegraded ++
      cqeTail q.sqHead (Cpl.of .noResource) (d.now % 2 ^ 32)) (bump 2 qp 6 1 d)

/-- A `CMD` taken: its entry goes into the ring of its queue pair. -/
def cmdMsg (port : Nat) (m : Bytes) (d : Dev) : Dev :=
  let d := noteRx port m d
  let qp := fld m 2 0 15
  let e := Entry.ofBytes (m.drop 16)
  match d.qp? qp with
  | none => msgDropped port d
  | some q =>
    if q.loc != .near port || q.discard || !(d.port port).tenants.contains q.tenant then msgDropped port d
    else if q.deleter.isSome then bump 2 qp 5 1 d
    else if q.untaken ≥ 2 ^ q.log2Depth - 1 then cmdFull port qp q e d
    else
      ringUse qp true (d.updQp qp fun q => { q with
        ring := Map.set q.sqTail e q.ring, sqTail := (q.sqTail + 1) % 2 ^ q.log2Depth })

/-! ## The command channel (R436, R437) -/

/-- A command-channel read ended: its tag is free. -/
def endCmdRead (port tag : Nat) (d : Dev) : Dev :=
  pumpCmdReads port (d.updPort port fun p => { p with reads := Map.del tag p.reads })

/-- Data of a command-channel read taken in: the command goes on once all is here, and a read longer than one request
asks for its next part under the same tag. -/
def cmdchTake (port tag : Nat) (r : CmdRead) (b : Bytes) (last : Bool) (d : Dev) : Dev :=
  let stop := min r.len (r.got.length / cmdReadMax * cmdReadMax + cmdReadMax)
  let got := (r.got ++ b).take stop
  let r := { r with got := got }
  let keep (r : CmdRead) (d : Dev) : Dev := d.updPort port fun p => { p with reads := Map.set tag r p.reads }
  if !last || got.length < stop then keep r d
  else if got.length ≥ r.len then contRead r.cmd got (endCmdRead port tag d)
  else
    match d.cmd? r.cmd with
    | some c => sendCmdRead port c.tenant tag (r.addr + got.length) r.piece (keep { r with since := d.now } d)
    | none => endCmdRead port tag d

/-- A `TILE_DATA` on the command channel: its bytes count at the port's ingress, under the label of its command (R342,
R343). -/
def cmdchData (port : Nat) (m : Bytes) (d : Dev) : Dev :=
  let d := noteRx port m d
  let tag := fld m 8 0 16
  if tag ≥ 256 then msgDropped port d
  else
    match (d.port port).reads.get? tag with
    | none => msgDropped port d
    | some r =>
      let d := grantBytes (d.label (((d.cmd? r.cmd).map fun c => c.entry.qos).getD 0)) 2 port (fld m 0xA 0 16) d
      if fld m 2 0 8 ≠ 0 then failRead r.cmd .poisoned id (endCmdRead port tag d)
      else cmdchTake port tag r ((m.drop 32).take (fld m 0xA 0 16)) (fld m 1 1 1 == 1) d

/-- COMMAND_CHANNEL_TIMEOUT: an answer not complete within 2^18 AO ticks. -/
def cmdchTimeout (port tag : Nat) (d : Dev) : Dev :=
  match (d.port port).reads.get? tag with
  | some r =>
    if tag < 256 ∧ r.since + 2 ^ 18 ≤ d.now then failRead r.cmd .timeout id (endCmdRead port tag (bump 4 port 16 1 d))
    else d
  | none => d

/-! ## Messages by code (R428, R439, R440) -/

/-- A message of the partner bound to the port. -/
def recvMsg (port : Nat) (m : Bytes) (d : Dev) : Dev :=
  let k := fld m 0 0 8
  if k = 1 ∨ k = 3 ∨ k = 5 ∨ k = 6 then streamMsg port m d
  else if k = 8 then signalMsg port m d
  else if k = 9 then cmdMsg port m d
  else if k = 2 ∧ fld m 4 0 32 = 0xFFFFFFFF then cmdchData port m d
  else msgDropped port (noteRx port m d)

/-- A whole message received on a port. Without a binding, or with a partner that is not the one bound, every message but
`CREDIT` is dropped and counted (R439). -/
def portMsg (port : Nat) (m : Bytes) (d : Dev) : Dev :=
  let p := d.port port
  if p.st ≠ .active then d
  else if fld m 0 0 8 = 0xB then takeCredit port m (noteRx port m d)
  else if !p.bound || p.idFail then msgDropped port (noteRx port m d)
  else recvMsg port m d

/-- A message of one code, with or without its padding; anything else is no such message. -/
def msgRow (code port : Nat) (m : Bytes) (d : Dev) : Dev :=
  match msgLen m with
  | some n =>
    if fld m 0 0 8 = code ∧ (m.length = n ∨ (m.length = roundUp n 8 ∧ (m.drop n).all (· == 0))) then
      portMsg port (m.take n) d
    else d
  | none => d

/-! ## The ingress buffer (Table 14-4, R399) -/

/-- A message whose data words are uncorrectable in the ingress buffer. One of no such kind is dropped. -/
def badData (port : Nat) (m : Bytes) (d : Dev) : Dev :=
  let d := noteRx port m d
  let id := fld m 4 0 32
  let k := fld m 0 0 8
  match d.strOn port id with
  | none => msgDropped port d
  | some s =>
    if k = 3 then discardWrite id s (fld m 8 0 16) (fld m 0xC 0 32) .aborted (fld m 1 0 1 == 1) d
    else if k = 5 then strCount id 19 1 d
    else if k = 6 then refuseBatch id s m .aborted d
    else msgDropped port d

/-- An uncorrectable word of the ingress buffer: recorded, and counted towards the port's threshold. -/
def ingressFault (port : Nat) (d : Dev) : Dev :=
  let d := raise { ErrRec.mk0 1 0x02 with block := 1, inst := port } d
  let (n, d) := countEvent 6 port d
  if d.reached 6 8 n then retirePort port 0 6 n d else d

/-! ## Framing (R427) -/

/-- Credits of a message that is discarded, where its length is known. -/
def creditBack (part : Bytes) (p : Port) : Port :=
  let known := decide (part.length ≥ 16) || [1, 4, 8, 9, 0xA, 0xB].contains (fld part 0 0 8)
  match msgLen part with
  | some n =>
    if known && msgClass part != 4 && !part.isEmpty then
      { p with owed := p.owed.modify (msgClass part) (· + ceilDiv (roundUp n 8) 64) }
    else p
  | none => p

/-- A framing error found in the flit `seq`: `n` messages are discarded (one at least is counted), and nothing is taken up
to the next listed start. -/
def framingError (port seq n : Nat) (d : Dev) : Dev :=
  let d := d.updPort port fun p => { creditBack p.rxPart p with rxPart := [], rxSkip := true }
  raise { ErrRec.mk0 1 0x19 with
    block := 1, inst := port, detail := leBytes 1 1 ++ leBytes 1 port ++ zeros 2 ++ leBytes 2 seq }
    (bump 4 port 11 (max n 1) d)

/-- What a flit's words are taken with: its number, its starts, what the ingress buffer has done to it, and whether a
message has already met that. -/
structure Framing where
  seq    : Nat
  starts : List Nat
  buffer : Ingress
  gap    : Bool               -- a rest of the payload that must be zero has begun

/-- A whole message leaves the stream of words. -/
def deliverMsg (port : Nat) (m : Bytes) (f : Framing) (d : Dev) : Framing × Dev :=
  match f.buffer with
  | .clean => (f, portMsg port m d)
  | .header => ({ f with buffer := .clean }, msgDropped port (noteRx port m d))
  | .data =>
    let p := d.port port
    ({ f with buffer := .clean }, if p.st == .active && p.bound && !p.idFail then badData port m d else portMsg port m d)

/-- A word added to the message being received. -/
def addWord (port : Nat) (w : Bytes) (f : Framing) (d : Dev) : Framing × Dev :=
  let part := (d.port port).rxPart ++ w
  let store (b : Bytes) (d : Dev) : Dev := d.updPort port fun p => { p with rxPart := b, rxSkip := false }
  match msgLen part with
  | none => (f, framingError port f.seq 1 (store [] d))
  | some n =>
    if part.length < 16 ∨ part.length < roundUp n 8 then (f, store part d)
    else if (part.drop n).any (· != 0) then (f, framingError port f.seq 1 (store part d))
    else deliverMsg port (part.take n) f (store [] d)

/-- The word of a payload at offset `o`. -/
def rxWord (port : Nat) (pay : Bytes) (st : Framing × Dev) (o : Nat) : Framing × Dev :=
  let (f, d) := st
  let p := d.port port
  let w := (pay.drop o).take 8
  let start := f.starts.contains o
  let stray := f.starts.any fun s => s / 8 * 8 == o && s % 8 != 0
  if p.rxSkip then (if start then addWord port w { f with gap := false } d else (f, d))
  else if stray || (start && (!p.rxPart.isEmpty || f.gap)) then
    (f, framingError port f.seq (1 + b2n (!p.rxPart.isEmpty)) d)
  else if !start && p.rxPart.isEmpty then
    (if w.all (· == 0) then ({ f with gap := true }, d) else (f, framingError port f.seq 0 d))
  else addWord port w f d

/-- The messages of an accepted payload flit. -/
def rxPayload (port : Nat) (rx : RxFlit) (d : Dev) : Dev :=
  let b := rx.data
  let n := min 4 (fld b 5 0 3)
  let starts := (List.range n).map fun k => fld b (8 + k) 0 8
  let f : Framing := { seq := fld b 0 0 16, starts := starts, buffer := rx.buffer, gap := false }
  let d := if rx.buffer = .clean then d else ingressFault port d
  let (_, d) := ((List.range 29).map (8 * ·)).foldl (rxWord port ((b.drop 16).take 232)) (f, d)
  if starts.any (· ≥ 232) then framingError port f.seq 1 d else d

/-! ## Flits received (R421, R426, R429, R430) -/

/-- Whether a flit's CRC fails. -/
def crcFails (b : Bytes) : Bool := b.length != 256 || b.drop 248 != leBytes 8 (crc64 (b.take 248)).toNat

/-- A flit of a type received in a link state: symbols and codewords are counted, 16 uncorrectable codewords within
2^16 AO ticks send an ACTIVE port to RETRAIN, a good flit's `ack` frees flits and `good` goes on, a bad one is discarded with
`bad`. A good flit of another type is none of this row. -/
def rxFlit (typ : Nat) (st : LinkState) (port : Nat) (rx : RxFlit) (good bad : Dev → Dev) (d : Dev) : Dev :=
  let inj := d.inject? fun j => j.target == 3 && j.inst == port
  let crc := crcFails rx.data || inj.isSome
  let ok := !rx.badCodeword && !crc
  if (d.port port).st ≠ st ∨ (ok ∧ fld rx.data 4 0 3 ≠ typ) then d
  else
    let d := match inj with
      | some (i, _) => useInject i d
      | none => d
    let d := bump 4 port 2 rx.corrected (bump 4 port 3 rx.lost (bump 4 port 4 (b2n crc) d))
    let d := d.updPort port fun p => { p with
      uncorr := (p.uncorr.filter fun t => decide (d.now ≤ t + 2 ^ 16)) ++ List.replicate (min rx.lost 16) d.now }
    let d := if ok then good (takeAck port (fld rx.data 2 0 16) d) else bad d
    if (d.port port).uncorr.length ≥ 16 then toRetrain port d else d

/-- A good payload flit: accepted in order, with its messages and credits, or discarded. Any payload flit refuses a quiet
request (R446). -/
def payloadFlit (port : Nat) (rx : RxFlit) (d : Dev) : Dev :=
  let d := d.updPort port fun p => { p with quietReq := false }
  let seq := fld rx.data 0 0 16
  let exp := (d.port port).expected
  if seq = exp then
    let d := bump 4 port 1 1 (d.updPort port fun p => { p with expected := (exp + 1) % 65536, nakOut := false })
    rxPayload port rx (addCredits port ((List.range 4).map fun k => fld rx.data (12 + k) 0 8) d)
  else if (seq + 65536 - exp) % 65536 < 32768 then sendNak port d
  else d

/-- A good quiet flit: payload byte 0 equal to 2 agrees (R446). -/
def quietFlit (port : Nat) (rx : RxFlit) (d : Dev) : Dev := if fld rx.data 16 0 8 = 2 then quietAgreed port d else d

/-! ## Meanings -/

/-- TILE_RD_REQ. -/
def execTileRdReq (port : Nat) (msg : Bytes) (s : State) : Host.Outcome State Fault Refusal :=
  onDev (msgRow 1 port msg) s
/-- TILE_WR. -/
def execTileWr (port : Nat) (msg : Bytes) (s : State) : Host.Outcome State Fault Refusal :=
  onDev (msgRow 3 port msg) s
/-- REDUCE_CONTRIB. -/
def execReduceContrib (port : Nat) (msg : Bytes) (s : State) : Host.Outcome State Fault Refusal :=
  onDev (msgRow 5 port msg) s
/-- EXEC_TOKENS. -/
def execExecTokens (port : Nat) (msg : Bytes) (s : State) : Host.Outcome State Fault Refusal :=
  onDev (msgRow 6 port msg) s
/-- SIGNAL. -/
def execSignalMsg (port : Nat) (msg : Bytes) (s : State) : Host.Outcome State Fault Refusal :=
  onDev (msgRow 8 port msg) s
/-- CMD. -/
def execCmd (port : Nat) (msg : Bytes) (s : State) : Host.Outcome State Fault Refusal := onDev (msgRow 9 port msg) s
/-- CREDIT. -/
def execCredit (port : Nat) (msg : Bytes) (s : State) : Host.Outcome State Fault Refusal :=
  onDev (msgRow 0xB port msg) s
/-- CMDCH_TILE_DATA. -/
def execCmdchTileData (port : Nat) (msg : Bytes) (s : State) : Host.Outcome State Fault Refusal :=
  onDev (msgRow 2 port msg) s
/-- COMMAND_CHANNEL_TIMEOUT. -/
def execCommandChannelTimeout (port tag : Nat) (s : State) : Host.Outcome State Fault Refusal :=
  onDev (cmdchTimeout port tag) s
/-- PAYLOAD_FLIT. -/
def execPayloadFlit (port : Nat) (rx : RxFlit) (s : State) : Host.Outcome State Fault Refusal :=
  onDev (rxFlit 0 .active port rx (payloadFlit port rx) (sendNak port)) s
/-- IDLE_FLIT. -/
def execIdleFlit (port : Nat) (rx : RxFlit) (s : State) : Host.Outcome State Fault Refusal :=
  onDev (rxFlit 1 .active port rx (fun d => d) (sendNak port)) s
/-- NAK_FLIT. -/
def execNakFlit (port : Nat) (rx : RxFlit) (s : State) : Host.Outcome State Fault Refusal :=
  onDev (rxFlit 2 .active port rx (resend port) (sendNak port)) s
/-- IDENT_EXCHANGE: a bad flit is discarded; in IDENT only ident flits are sent. -/
def execIdentExchange (port : Nat) (rx : RxFlit) (s : State) : Host.Outcome State Fault Refusal :=
  onDev (rxFlit 3 .ident port rx (identExchange port ((rx.data.drop 16).take 16)) (fun d => d)) s
/-- QUIET_FLIT. -/
def execQuietFlit (port : Nat) (rx : RxFlit) (s : State) : Host.Outcome State Fault Refusal :=
  onDev (rxFlit 4 .active port rx (quietFlit port rx) (sendNak port)) s

end Sys2Proof.Machine
end

