-- ==== Sys2Proof/Machine/Dma.lean ====
section
/-! DEFINITION. The host side of DMA and of registers: completions, timeouts, bus mastering, writes to configuration space
and BAR2 (R10, R452, R453, R460, R464, R466 to R471, Table 16-3). -/

namespace Sys2Proof.Machine

/-! ## AER and its records (R471) -/

/-- An uncorrectable error that AER logs on a function: its status bit, and a PCIE record whose header words nothing
constrains (log entry 5). -/
def aerLog (fn bit : Nat) (d : Dev) : Nat × Dev :=
  let d := d.updFn fn fun f => { f with aer := f.aer ||| BitVec.ofNat 32 (2 ^ bit) }
  let (v, d) := draw d
  let (w, d) := draw d
  raiseRec { ErrRec.mk0 1 0x18 with
    block := 2, inst := fn / 256
    detail := leBytes 4 (d.fn fn).aer.toNat ++ leBytes 8 v.toNat ++ leBytes 4 (w.toNat % 2 ^ 32) } d

/-- A PCIE record of a completion returned as Unsupported Request or Completer Abort, which AER does not log. -/
def pcieRec (fn : Nat) (d : Dev) : Nat × Dev :=
  let (v, d) := draw d
  let (w, d) := draw d
  raiseRec { ErrRec.mk0 1 0x18 with
    block := 2, inst := fn / 256, detail := zeros 4 ++ leBytes 8 v.toNat ++ leBytes 4 (w.toNat % 2 ^ 32) } d

/-! ## Completions of reads (R467, R468, R470) -/

/-- A completion for no outstanding read: discarded and counted, recorded at most once in 2^16 AO ticks. -/
def lateCpl (fn tag : Nat) (d : Dev) : Dev :=
  let d := (aerLog fn 16 (bump 5 (fn / 256) 3 1 d)).2
  let f := d.fn fn
  let n := f.lateCount + 1
  let due := match f.lateTick with
    | none => true
    | some t => decide (t + 2 ^ 16 ≤ d.now)
  if due then
    raise { ErrRec.mk0 1 0x17 with
      block := 2, inst := fn / 256, detail := leBytes 2 fn ++ leBytes 2 tag ++ leBytes 4 n }
      (d.updFn fn fun f => { f with lateTick := some d.now, lateCount := 0 })
  else d.updFn fn fun f => { f with lateCount := n }

/-- The read of a tag is over. -/
def endRead (fn tag : Nat) (d : Dev) : Dev := d.updFn fn fun f => { f with reads := Map.del tag f.reads }

/-- A range that fails translation: `INVALID_FIELD` before the command has read anything, `ABORTED` with the units done
after it (R470). -/
def badTranslation (n : Nat) (d : Dev) : Dev :=
  match d.cmd? n with
  | none => d
  | some c =>
    if c.got.isEmpty then finishCmd n (errF 0x18) d
    else failRead n .aborted (fun r => { r with ext := some (.part c.jobs.length) }) d

/-- An unreadable completion (R468). -/
def unreadable (fn tag n : Nat) (poison : Bool) (d : Dev) : Dev :=
  let d := bump 5 (fn / 256) 4 1 (endRead fn tag d)
  let (id, d) := if poison then aerLog fn 12 d else pcieRec fn d
  failRead n .poisoned (Cpl.because id) d

/-- DMA_COMPLETION: data comes for the whole of the read. -/
def dmaCompletion (fn tag : Nat) (c : DmaCpl) (d : Dev) : Dev :=
  match (d.fn fn).reads.get? tag with
  | none => lateCpl fn tag d
  | some r =>
    match c with
    | .data b =>
      if b.length ≠ r.len then d
      else reapInval fn (contRead r.cmd b (bump 5 (fn / 256) 0 r.len (endRead fn tag d)))
    | .poisoned => reapInval fn (unreadable fn tag r.cmd true d)
    | .unsupported => reapInval fn (unreadable fn tag r.cmd false d)
    | .abort => reapInval fn (unreadable fn tag r.cmd false d)
    | .translationFailed => reapInval fn (badTranslation r.cmd (endRead fn tag d))

/-- COMPLETION_TIMEOUT: a command's read, or a read of a queue pair's ring that has an entry to take. -/
def completionTimeout (fn : Nat) (rd : TimedOut) (d : Dev) : Dev :=
  match rd with
  | .tag t =>
    match (d.fn fn).reads.get? t with
    | none => d
    | some r =>
      let (id, d) := aerLog fn 14 (bump 5 (fn / 256) 2 1 (endRead fn t d))
      let d := d.updFn fn fun f => { f with quar := insertNat t f.quar }
      reapInval fn (failRead r.cmd .timeout (Cpl.because id) d)
  | .ring qp =>
    match d.qp? qp with
    | none => d
    | some q =>
      match q.loc with
      | .host f _ =>
        if f = fn && d.mayTake q then
          let (id, d) := aerLog fn 14 (bump 5 (fn / 256) 2 1 d)
          stopQp qp 3 0 id d
        else d
      | .near _ => d

/-- BUS_MASTER_ENABLE_CLEAR (R466). -/
def bmeClear (fn : Nat) (d : Dev) : Dev :=
  if !(d.fn fn).bme then d
  else
    let f := d.fn fn
    let d := d.updFn fn fun f => { f with bme := false, reads := [], quar := quarAll f }
    let d := f.reads.foldl (fun d r => failRead r.2.cmd .busMasterOff id d) d
    reapInval fn (haltStreams (fun _ s => s.opener == some fn) .busMasterOff d)

/-! ## Configuration space (R10, R452, Table 16-3) -/

/-- Bits of a configuration dword that hold what is written: those that PCIe gives the capabilities of Table 16-3 (log
entry 24). -/
def cfgMask (pf : Bool) (dw : Nat) : Nat :=
  if dw = 0x04 then 0x0546
  else if dw = 0x10 then (if pf then 0xFF000000 else 0)
  else if dw = 0x14 then (if pf then 0xFFFFFFFF else 0)
  else if dw = 0x18 then (if pf then 0xFFFE0000 else 0)
  else if dw = 0x1C then (if pf then 0xFFFFFFFF else 0)
  else if dw = 0x30 then (if pf then 0xFF000001 else 0)
  else if dw = 0x44 then (if pf then 0x103 else 3)
  else if dw = 0x50 then 0xC0000000
  else if dw = 0x68 then 0x78FF
  else if dw = 0x70 then 0x01D3
  else if dw = 0x88 then 0x2FFF
  else if dw = 0x160 then (if pf then 0x1D else 0)
  else if dw = 0x168 then (if pf then 0xFFFF else 0)
  else if dw = 0x19C then 0x801F0000
  else 0

/-- The bits of a configuration dword that Tables 16-1 and 16-3 fix, as mask and value (log entry 24). -/
def Dev.cfgFixed (d : Dev) (pf : Bool) (dw : Nat) : Nat × Nat :=
  let whole (v : Nat) : Nat × Nat := (0xFFFFFFFF, v)
  if dw = 0x00 then whole (0x1F7A + 2 ^ 16 * if pf then 0x9640 else 0x9641)
  else if dw = 0x08 then whole (Config.stepping + 2 ^ 8 * 0x050210)
  else if dw = 0x2C then whole (d.feat 0x13 0 16 + 2 ^ 16 * d.feat 0x13 2 16)
  else if dw = 0x34 then (0xFF, 0x40)
  else if dw = 0x44 then (8, 8)
  else if dw = 0x50 then (0x07FF0000, 2 ^ 16 * 2047)
  else if dw = 0x54 then whole 0x00800000
  else if dw = 0x58 then whole 0x00808000
  else if dw = 0x64 then (0x10000007, 0x10000002)
  else if pf ∧ dw = 0x164 then (0xFFFF0000, 2 ^ 16 * 255)
  else if pf ∧ dw = 0x16C then whole (1 + 2 ^ 16)
  else if pf ∧ dw = 0x170 then (0xFFFF0000, 2 ^ 16 * 0x9641)
  else if pf ∧ dw = 0x174 then whole 1
  else (0, 0)

/-- What a dword of a function's configuration space reads as: what the tables fix, what was written, AER's status, the
rest left to PCIe. None where no function answers: link down, an FLR in progress, a VF that is not enabled (R449, R452,
R465). -/
def Dev.cfgRead (d : Dev) (fn dw : Nat) : Option (BitVec 32) :=
  let pf := fn % 256 == 0
  let f := d.fn fn
  let on := pf || bitOf ((d.fn (fn / 256 * 256)).cfg.getD 0x160 0) 0
  if fn ≥ 1024 ∨ dw ≥ 4096 ∨ dw % 4 ≠ 0 ∨ f.flr ∨ !(d.hport (fn / 256)).linkUp ∨ !on then none
  else if dw = 0x104 then some f.aer
  else
    let (m, v) := d.cfgFixed pf dw
    if m = 0xFFFFFFFF then some (BitVec.ofNat 32 v) else
    let w := cfgMask pf dw
    let rest := (BitVec.ofNat 32 (Config.cfgRest pf dw)) &&& ~~~(BitVec.ofNat 32 (m ||| w))
    some (BitVec.ofNat 32 (v &&& m) ||| (BitVec.ofNat 32 (f.cfg.getD dw (if dw = 0x68 then 0x2810 else 0) &&& w)) ||| rest)

/-- VF Enable cleared: the VFs are reset (R464). -/
def vfsOff (fn : Nat) (d : Dev) : Dev := resetFns ((d.portFns (fn / 256)).filter (· != fn)) d

/-- What a configuration write does beyond the bits it leaves behind: bus mastering, power state, FLR, VF Enable, AER's
RW1C bits. `low`: the write covers the dword's lowest byte. -/
def cfgEffect (fn dw old new raw : Nat) (low : Bool) (d : Dev) : Dev :=
  if dw = 0x04 ∧ low then
    (if bitOf new 2 && !(d.fn fn).bme then bmeSet fn d else if !bitOf new 2 && (d.fn fn).bme then bmeClear fn d else d)
  else if dw = 0x44 ∧ low then
    (if new % 4 = 3 then d.updFn fn fun f => { f with d3hot := true } else if new % 4 = 0 then d0Return fn d else d)
  else if dw = 0x68 then (if bitOf raw 15 then flrStart fn d else d)
  else if dw = 0x104 then d.updFn fn fun f => { f with aer := f.aer &&& ~~~(BitVec.ofNat 32 raw) }
  else if dw = 0x160 ∧ low then (if bitOf old 0 && !bitOf new 0 then vfsOff fn d else d)
  else d

/-- A write to configuration space of 1, 2 or 4 bytes that lie in one dword. During an FLR it is lost. -/
def cfgWrite (fn off size v : Nat) (d : Dev) : Dev :=
  if fn ≥ 1024 ∨ off ≥ 4096 ∨ !(size = 1 ∨ size = 2 ∨ size = 4) ∨ off % size ≠ 0 ∨ (d.fn fn).flr then d
  else
    let dw := off / 4 * 4
    let sh := 8 * (off % 4)
    let lane := (2 ^ (8 * size) - 1) * 2 ^ sh
    let raw := v % 2 ^ (8 * size) * 2 ^ sh
    let old := (d.fn fn).cfg.getD dw (if dw = 0x68 then 0x2810 else 0)
    let mask := cfgMask (fn % 256 == 0) dw &&& lane
    let new := (old ^^^ (old &&& mask)) ||| (raw &&& mask)
    let d := if mask = 0 then d else d.updFn fn fun f => { f with cfg := Map.set dw new f.cfg }
    cfgEffect fn dw old new raw (bitOf lane 0) d

/-! ## Meanings -/

/-- DMA_COMPLETION. -/
def execDmaCompletion (fn tag : Nat) (cpl : DmaCpl) (s : State) : Host.Outcome State Fault Refusal :=
  onHost fn (dmaCompletion fn tag cpl) s
/-- COMPLETION_TIMEOUT. -/
def execCompletionTimeout (fn : Nat) (rd : TimedOut) (s : State) : Host.Outcome State Fault Refusal :=
  onDev (completionTimeout fn rd) s
/-- BUS_MASTER_ENABLE_CLEAR. -/
def execBusMasterEnableClear (fn : Nat) (s : State) : Host.Outcome State Fault Refusal := onHost fn (bmeClear fn) s

/-- REGISTER_WRITE in BAR2 of a PF: the HDM decoder's registers, by their offset from the capability; every other
register there keeps no state. -/
def bar2Write (fn off size : Nat) (v : BitVec 64) (s : State) : State :=
  let port := fn / 256
  let h := s.hdmOf port
  if fn % 256 ≠ 0 ∨ !s.hdmReach port then s
  else if size = 4 ∧ off % 4 = 0 then s.setHdm port (hdmWrite h port off (v.setWidth 32) s.dev)
  else if size = 8 ∧ off % 8 = 0 then
    let h := hdmWrite h port off (v.setWidth 32) s.dev
    s.setHdm port (hdmWrite h port (off + 4) ((v >>> 32).setWidth 32) s.dev)
  else s

/-- REGISTER_WRITE. -/
def execRegisterWrite (fn : Nat) (bar : Bar) (off size : Nat) (v : BitVec 64) (s : State) :
    Host.Outcome State Fault Refusal :=
  match bar with
  | .bar0 => onHost fn (bar0Write fn off size v) s
  | .bar2 => .next (bar2Write fn off size v s)
  | .config => onHost fn (cfgWrite fn off size v.toNat) s

end Sys2Proof.Machine
end

