-- ==== Sys2Proof/Machine/Managed.lean ====
section
/-! DEFINITION. What the management processor serves: management commands, PLDM, SPDM, entry to service mode with the preset
image's commands, a restart of the processor, the end of a flash operation (R43, R148, R491 to R494, R496, R503, R506 to
R508, R512, R521, R535). -/

namespace Sys2Proof.Machine

/-! ## The path (R493, R494, R535) -/

/-- Opcodes the management path accepts (R494). -/
def mgmtOps : List Nat :=
  [0x00, 0x01, 0x02, 0x03, 0x09, 0x82, 0xA0, 0xA1, 0xA2, 0xA3, 0xA4, 0xA5, 0xA7, 0xA8, 0xF2]

/-- The binding of `MGMT_I3C`; bindings 0 to 3 are vendor-defined messages on the PFs, 8 to 11 DOE on them. -/
def i3cBinding : Nat := 4

/-- A message on `MGMT_I3C` in retention wakes pd1 and the stack of the firmware copy (R535). -/
def mgmtWake (d : Dev) : Dev :=
  if d.pwr.retention && !d.pwr.pd1Awake then
    let d := d.updPwr fun p => { p with pd1Awake := true }
    let d := (d.setDomain 1 .on).updMgmt fun m => { m with mpRunning := true }
    match d.mgmt.copies with
    | s :: _ => d.nearUse s
    | [] => d
  else d

/-- Whether a message of a binding reaches the management processor: over a host link whose PF answers, outside ROM
recovery and retention, or over `MGMT_I3C`. -/
def Dev.mgmtHears (d : Dev) (binding : Nat) : Bool :=
  let port := binding % 8
  if binding = i3cBinding then d.mgmt.mpRunning || d.pwr.retention
  else decide (binding < 12 ∧ port < 4) && d.mgmt.mpRunning && !d.mgmt.romRec && !d.pwr.retention &&
    (d.hport port).linkUp && (d.fn (256 * port)).answers

/-- A management message taken. -/
def mgmtTake (d : Dev) : Dev := (mgmtWake d).updMgmt fun m => { m with mgmtTick := d.now }

/-- The management command in front of a binding's others. -/
def Dev.mgmtFront (d : Dev) (binding : Nat) : Option (Nat × Cmd) := d.q.cmds.find? fun p => p.2.origin == .mgmt binding

/-- A management command starts: only the opcodes of R494, and `addr` 0. -/
def startMgmt (n : Nat) (c : Cmd) (d : Dev) : Dev :=
  if !mgmtOps.contains c.entry.op then finishCmd n (errS .notPermitted) d
  else if c.entry.addr ≠ 0 then finishCmd n (errF 0x18) d
  else
    match bodyOf c.entry.op with
    | some body => startCmd c.entry.op body n d
    | none => d

/-- Commands of a binding run one at a time, in arrival order; `k` bounds how many end at once. -/
def pumpMgmt (binding : Nat) : Nat → Dev → Dev
  | 0, d => d
  | k + 1, d =>
    match d.mgmtFront binding with
    | some (n, c) => if c.phase = .taken then pumpMgmt binding k (startMgmt n c d) else d
    | none => d

/-- The next commands of every binding run. -/
def pumpAllMgmt (d : Dev) : Dev := [0, 1, 2, 3, 4].foldl (fun d b => pumpMgmt b d.q.cmds.length d) d

/-- A command that comes without a queue pair, run as td0. -/
def inlineCmd (o : Origin) (e : Entry) (data : Bytes) (d : Dev) : Cmd :=
  { origin := o, entry := e, tenant := 0, half := 0, started := true, dup := false, phase := .taken, tick := d.now,
    input := data, ends := none, jobs := [], tiles := [] }

/-- The command put with the commands taken. -/
def addInline (c : Cmd) (d : Dev) : Dev :=
  { d with q := { d.q with cmds := Map.set d.q.nextCmd c d.q.cmds, nextCmd := d.q.nextCmd + 1 } }

/-- MANAGEMENT_COMMAND. -/
def mgmtCommand (binding : Nat) (e : Entry) (data : Bytes) (d : Dev) : Dev :=
  if binding > i3cBinding || !d.mgmtHears binding then d
  else if binding != i3cBinding && (d.fn (256 * binding)).bound != some 0 then bump 5 binding 6 1 d
  else
    let d := mgmtTake d
    let d := addInline (inlineCmd (.mgmt binding) e (data.take 4032) d) d
    pumpMgmt binding d.q.cmds.length d

/-! ## PLDM and SPDM (R493, R496, R503, R507) -/

/-- The records of every sensor, which PLDM type 2 presents. -/
def Dev.sensorRecords (d : Dev) : Bytes := ((List.range 0x91).filter fun i => (sensorUnit i).isSome).flatMap d.sensorRecord

/-- A PLDM answer with a status. -/
def pldmSay (binding : Nat) (msg : Bytes) (st : Status) (d : Dev) : Dev :=
  emit (.mgmt binding (Config.pldmAnswer msg st.code d.sensorRecords)) d

/-- The answer to a step of an update that is refused, or goes on. -/
def pldmStep (binding : Nat) (msg : Bytes) (r : Except Cpl Dev) (d : Dev) : Dev :=
  match r with
  | .ok d => pldmSay binding msg .success d
  | .error c => pldmSay binding msg c.status d

/-- The verify and apply steps of an update: the checks of `FW_COMMIT`, then its write, whose end is answered. -/
def pldmApply (binding : Nat) (msg : Bytes) (d : Dev) : Dev :=
  let d := d.useSecurity
  match commitChecks (.pldm binding) d with
  | .error (c, drop) => pldmSay binding msg c.status (if drop then setStaging none d else d)
  | .ok b =>
    if d.mgmt.romRec then
      pldmSay binding msg .success
        ((setStaging none d).updMgmt fun m => { m with flash := m.flash.committed b })
    else beginProgram (.pldm binding) b d

/-- PLDM_REQUEST. -/
def pldmRequest (binding : Nat) (msg : Bytes) (act : PldmAct) (d : Dev) : Dev :=
  if binding > i3cBinding || !d.mgmtHears binding then d
  else
    let d := mgmtTake d
    let who : Stager := .pldm binding
    match act with
    | .requestUpdate len => pldmStep binding msg (stageBegin who len d) d
    | .firmwareData off b =>
      let r := stageOf who d >>= fun s => match chunkBad s off b.length with
        | some o => .error (errF o)
        | none => .ok (stageData s off b d)
      pldmStep binding msg r d
    | .verifyApply => pldmApply binding msg d
    | .cancel => pldmStep binding msg ((stageOf who d).map fun _ => setStaging none d) d
    | .other => pldmSay binding msg .success d

/-- SPDM_REQUEST, over MCTP or DOE: at most four sessions are live. -/
def spdmRequest (binding : Nat) (msg : Bytes) (act : SpdmAct) (d : Dev) : Dev :=
  if !d.mgmtHears binding then d
  else
    let d := (if binding ≤ i3cBinding then mgmtTake d else d).useSecurity
    let n := d.mgmt.sessions
    let (st, n') : Status × Nat := match act with
      | .keyExchange => if n < 4 then (.success, n + 1) else (.noResource, n)
      | .endSession => (.success, n - 1)
      | .other => (.success, n)
    let known := d.mgmt.slots.flatten ++ d.mgmt.flash.cert ++ d.mgmt.aliasKey
    emit (.mgmt binding (Config.spdmAnswer msg st.code known)) (d.updMgmt fun m => { m with sessions := n' })

/-! ## Service mode (R148, R512, R521) -/

/-- The command entries of the preset image, in order, each with its index, run as td0. -/
def runPreset : Nat → List PresetEnt → Dev → Dev
  | _, [], d => d
  | ix, .feature _ _ :: l, d => runPreset (ix + 1) l d
  | ix, .command e b :: l, d =>
    let n := d.q.nextCmd
    let d := addInline (inlineCmd (.preset ix) e b d) d
    runPreset (ix + 1) l (match bodyOf e.op with
      | some body => startCmd e.op body n d
      | none => d)

/-- SERVICE_MODE_ENTRY: step 8 is done, a host port has trained, the address map is not channel-linear. Once the preset
image's commands have run, what it claimed is held by them. -/
def serviceEntry (d : Dev) : Dev :=
  if d.pwr.step < 8 || d.pwr.mode != .bringUp || d.pwr.trained.isEmpty || d.mem.order == 2 || d.pwr.fatal ||
      d.mgmt.romRec then d
  else
    let d := clearRaw (d.updPwr fun p => { p with mode := .service })
    let d := runPreset 0 ((presetEntries d.mgmt.preset).getD []) d
    d.updMgmt fun m => { m with claims := [] }

/-! ## Flash operations that end (R43, R507, R513, R515) -/

/-- Who waits for a flash operation hears how it ended. -/
def flashSay (who : FlashBy) (c : Cpl) (d : Dev) : Dev :=
  match who with
  | .cmd n => finishCmd n c d
  | .pldm b => pldmSay b [] c.status d

/-- A flash operation that failed or was cut off: what it was writing is lost. -/
def flashFail (d : Dev) : Dev :=
  match d.mgmt.flashOp with
  | none => d
  | some op =>
    flashSay (d.flashEnd op).1 (errS .deviceError)
      (d.updMgmt fun m => { m with flashOp := none, flash := m.flash.broken op })

/-- FLASH_PROGRAM_DONE. A firmware image that has been written ends its staging session. -/
def flashDone (ok : Bool) (d : Dev) : Dev :=
  if !ok then pumpAllMgmt (flashFail d)
  else
    match d.mgmt.flashOp with
    | none => d
    | some op =>
      let (who, res) := d.flashEnd op
      let image := match op with
        | .image _ _ => true
        | _ => false
      let d := d.updMgmt fun m => { m with
        flashOp := none, flash := m.flash.apply op, staging := if image then none else m.staging }
      pumpAllMgmt (flashSay who (Cpl.ok res) d)

/-! ## A restart of the management processor (R397, R399, R491, R492) -/

/-- What a restart ends: the staging session, sessions, a flash operation, management commands in flight. -/
def restartEnds (d : Dev) : Dev :=
  let d := flashFail ((setStaging none d).updMgmt fun m => { m with sessions := 0 })
  d.q.cmds.foldl (fun d p => match p.2.origin with
    | .mgmt _ => finishCmd p.1 (errS .deviceError) d
    | _ => d) d

/-- MANAGEMENT_RESTART: from a copy in the near tier; before the near tier has trained, measured start runs again; with both
copies lost, from flash if the image there is still the one measured. -/
def managementRestart (d : Dev) : Dev :=
  if !d.mgmt.mpRunning then d
  else
    let d := restartEnds d
    let (n, d) := countEvent 12 0 d
    let d :=
      if d.mgmt.romRec then raise (restartRec 1 2) d
      else if d.pwr.step < 5 then measuredStart (raise (restartRec 1 1) d)
      else if !d.mgmt.copies.isEmpty then raise (restartRec 1 0) d
      else
        let f := d.mgmt.flash.image
        if imageOk f && d.mgmt.slots[1]? == some (shake256 f) then raise (restartRec 1 1) d else fatalAgain 4 0 d
    if d.reached 12 4 n then fatalAgain 5 12 d else d

/-! ## Meanings -/

/-- MANAGEMENT_COMMAND. -/
def execManagementCommand (binding : Nat) (entry : Entry) (data : Bytes) (s : State) :
    Host.Outcome State Fault Refusal := onMgmt (mgmtCommand binding entry data) s
/-- PLDM_REQUEST. -/
def execPldmRequest (binding : Nat) (msg : Bytes) (act : PldmAct) (s : State) : Host.Outcome State Fault Refusal :=
  onMgmt (pldmRequest binding msg act) s
/-- SPDM_REQUEST. -/
def execSpdmRequest (binding : Nat) (msg : Bytes) (act : SpdmAct) (s : State) : Host.Outcome State Fault Refusal :=
  onMgmt (spdmRequest binding msg act) s
/-- SERVICE_MODE_ENTRY. -/
def execServiceModeEntry (s : State) : Host.Outcome State Fault Refusal := onDev serviceEntry s
/-- FLASH_PROGRAM_DONE. -/
def execFlashProgramDone (ok : Bool) (s : State) : Host.Outcome State Fault Refusal := onMgmt (flashDone ok) s
/-- MANAGEMENT_RESTART. -/
def execManagementRestart (s : State) : Host.Outcome State Fault Refusal := onMgmt managementRestart s

end Sys2Proof.Machine
end

