-- ==== Sys2Proof/Machine/Dispatch.lean ====
section
/-! DEFINITION. One arm per command: its meaning. -/

namespace Sys2Proof.Machine

/-- The effect of a command on everything but the queue of waiting commands. -/
def exec (i : Instr) (s : State) : Host.Outcome State Fault Refusal :=
  match i with
  | .nop c => Sys2Proof.Machine.execNop c s
  | .identify c => Sys2Proof.Machine.execIdentify c s
  | .getFeature c => Sys2Proof.Machine.execGetFeature c s
  | .setFeature c => Sys2Proof.Machine.execSetFeature c s
  | .qpCreate c => Sys2Proof.Machine.execQpCreate c s
  | .qpDelete c => Sys2Proof.Machine.execQpDelete c s
  | .tenantSet c => Sys2Proof.Machine.execTenantSet c s
  | .portBind c => Sys2Proof.Machine.execPortBind c s
  | .unitGroup c => Sys2Proof.Machine.execUnitGroup c s
  | .statsRead c => Sys2Proof.Machine.execStatsRead c s
  | .objCreate c => Sys2Proof.Machine.execObjCreate c s
  | .objWrite c => Sys2Proof.Machine.execObjWrite c s
  | .objRead c => Sys2Proof.Machine.execObjRead c s
  | .objSeal c => Sys2Proof.Machine.execObjSeal c s
  | .objRelease c => Sys2Proof.Machine.execObjRelease c s
  | .objClone c => Sys2Proof.Machine.execObjClone c s
  | .objQuery c => Sys2Proof.Machine.execObjQuery c s
  | .objGrant c => Sys2Proof.Machine.execObjGrant c s
  | .objMapHost c => Sys2Proof.Machine.execObjMapHost c s
  | .objUnmapHost c => Sys2Proof.Machine.execObjUnmapHost c s
  | .evacuate c => Sys2Proof.Machine.execEvacuate c s
  | .reside c => Sys2Proof.Machine.execReside c s
  | .unreside c => Sys2Proof.Machine.execUnreside c s
  | .scheduleLoad c => Sys2Proof.Machine.execScheduleLoad c s
  | .scheduleDrop c => Sys2Proof.Machine.execScheduleDrop c s
  | .routeHint c => Sys2Proof.Machine.execRouteHint c s
  | .placeCmd c => Sys2Proof.Machine.execPlaceCmd c s
  | .quotaSet c => Sys2Proof.Machine.execQuotaSet c s
  | .streamOpen c => Sys2Proof.Machine.execStreamOpen c s
  | .streamClose c => Sys2Proof.Machine.execStreamClose c s
  | .streamQuery c => Sys2Proof.Machine.execStreamQuery c s
  | .reduceOpen c => Sys2Proof.Machine.execReduceOpen c s
  | .reduceFinish c => Sys2Proof.Machine.execReduceFinish c s
  | .reduceAbort c => Sys2Proof.Machine.execReduceAbort c s
  | .kernelLoad c => Sys2Proof.Machine.execKernelLoad c s
  | .kernelRun c => Sys2Proof.Machine.execKernelRun c s
  | .kernelAbort c => Sys2Proof.Machine.execKernelAbort c s
  | .kernelUnload c => Sys2Proof.Machine.execKernelUnload c s
  | .expertBind c => Sys2Proof.Machine.execExpertBind c s
  | .flagAlloc c => Sys2Proof.Machine.execFlagAlloc c s
  | .flagFree c => Sys2Proof.Machine.execFlagFree c s
  | .flagSet c => Sys2Proof.Machine.execFlagSet c s
  | .flagClear c => Sys2Proof.Machine.execFlagClear c s
  | .counterAlloc c => Sys2Proof.Machine.execCounterAlloc c s
  | .counterFree c => Sys2Proof.Machine.execCounterFree c s
  | .herdDefine c => Sys2Proof.Machine.execHerdDefine c s
  | .herdFree c => Sys2Proof.Machine.execHerdFree c s
  | .waitCmd c => Sys2Proof.Machine.execWaitCmd c s
  | .qosReserve c => Sys2Proof.Machine.execQosReserve c s
  | .qosRelease c => Sys2Proof.Machine.execQosRelease c s
  | .qosQuery c => Sys2Proof.Machine.execQosQuery c s
  | .scrubRange c => Sys2Proof.Machine.execScrubRange c s
  | .retire c => Sys2Proof.Machine.execRetire c s
  | .errlogRead c => Sys2Proof.Machine.execErrlogRead c s
  | .rebuild c => Sys2Proof.Machine.execRebuild c s
  | .poisonClear c => Sys2Proof.Machine.execPoisonClear c s
  | .extentAssign c => Sys2Proof.Machine.execExtentAssign c s
  | .extentRevoke c => Sys2Proof.Machine.execExtentRevoke c s
  | .shareGroupSet c => Sys2Proof.Machine.execShareGroupSet c s
  | .hostLossAck c => Sys2Proof.Machine.execHostLossAck c s
  | .attest c => Sys2Proof.Machine.execAttest c s
  | .fwStage c => Sys2Proof.Machine.execFwStage c s
  | .fwCommit c => Sys2Proof.Machine.execFwCommit c s
  | .presetRead c => Sys2Proof.Machine.execPresetRead c s
  | .presetWrite c => Sys2Proof.Machine.execPresetWrite c s
  | .ownerEnrol c => Sys2Proof.Machine.execOwnerEnrol c s
  | .keySet c => Sys2Proof.Machine.execKeySet c s
  | .timeCorrelate c => Sys2Proof.Machine.execTimeCorrelate c s
  | .sensorRead c => Sys2Proof.Machine.execSensorRead c s
  | .powerPolicy c => Sys2Proof.Machine.execPowerPolicy c s
  | .pasrSet c => Sys2Proof.Machine.execPasrSet c s
  | .idleEnter c => Sys2Proof.Machine.execIdleEnter c s
  | .diagInject c => Sys2Proof.Machine.execDiagInject c s
  | .traceCtl c => Sys2Proof.Machine.execTraceCtl c s
  | .selfTest c => Sys2Proof.Machine.execSelfTest c s
  | .orderedCommandStart c => Sys2Proof.Machine.execOrderedCommandStart c s
  | .submissionEntryTake qp entry => Sys2Proof.Machine.execSubmissionEntryTake qp entry s
  | .coalesceTimerExpiry qp => Sys2Proof.Machine.execCoalesceTimerExpiry qp s
  | .doorbellWrite fn q w => Sys2Proof.Machine.execDoorbellWrite fn q w s
  | .irqCauseWrite fn v => Sys2Proof.Machine.execIrqCauseWrite fn v s
  | .irqMaskWrite fn v => Sys2Proof.Machine.execIrqMaskWrite fn v s
  | .aqEnable fn v => Sys2Proof.Machine.execAqEnable fn v s
  | .aqDisable fn v => Sys2Proof.Machine.execAqDisable fn v s
  | .registerWrite fn bar off size v => Sys2Proof.Machine.execRegisterWrite fn bar off size v s
  | .hdmCommit port ctrl => Sys2Proof.Machine.execHdmCommit port ctrl s
  | .hdmDecommit port ctrl => Sys2Proof.Machine.execHdmDecommit port ctrl s
  | .flr fn => Sys2Proof.Machine.execFlr fn s
  | .flrComplete fn => Sys2Proof.Machine.execFlrComplete fn s
  | .busMasterEnableClear fn => Sys2Proof.Machine.execBusMasterEnableClear fn s
  | .busMasterEnableSet fn => Sys2Proof.Machine.execBusMasterEnableSet fn s
  | .d3hotEntry fn => Sys2Proof.Machine.execD3hotEntry fn s
  | .d0Return fn => Sys2Proof.Machine.execD0Return fn s
  | .perstNAssert port => Sys2Proof.Machine.execPerstNAssert port s
  | .perstNDeassert port => Sys2Proof.Machine.execPerstNDeassert port s
  | .hotReset port => Sys2Proof.Machine.execHotReset port s
  | .linkDown port => Sys2Proof.Machine.execLinkDown port s
  | .hostLinkUp port => Sys2Proof.Machine.execHostLinkUp port s
  | .dmaCompletion fn tag cpl => Sys2Proof.Machine.execDmaCompletion fn tag cpl s
  | .completionTimeout fn rd => Sys2Proof.Machine.execCompletionTimeout fn rd s
  | .tagQuarantineEnd fn tag => Sys2Proof.Machine.execTagQuarantineEnd fn tag s
  | .atsInvalidation fn addr len => Sys2Proof.Machine.execAtsInvalidation fn addr len s
  | .aspmL1Entry port => Sys2Proof.Machine.execAspmL1Entry port s
  | .l0pNarrow port => Sys2Proof.Machine.execL0pNarrow port s
  | .l0pRestore port => Sys2Proof.Machine.execL0pRestore port s
  | .cxlMemRead port hpa kind => Sys2Proof.Machine.execCxlMemRead port hpa kind s
  | .cxlMemWrite port hpa data mask poison => Sys2Proof.Machine.execCxlMemWrite port hpa data mask poison s
  | .writeBack port hpa data poison keep => Sys2Proof.Machine.execWriteBack port hpa data poison keep s
  | .cleanEvict port hpa => Sys2Proof.Machine.execCleanEvict port hpa s
  | .snoopResponse port hpa resp => Sys2Proof.Machine.execSnoopResponse port hpa resp s
  | .recallTimeout port hpa => Sys2Proof.Machine.execRecallTimeout port hpa s
  | .managementCommand binding entry data => Sys2Proof.Machine.execManagementCommand binding entry data s
  | .pldmRequest binding msg act => Sys2Proof.Machine.execPldmRequest binding msg act s
  | .spdmRequest binding msg act => Sys2Proof.Machine.execSpdmRequest binding msg act s
  | .cmd port msg => Sys2Proof.Machine.execCmd port msg s
  | .tileRdReq port msg => Sys2Proof.Machine.execTileRdReq port msg s
  | .streamContextRestored read => Sys2Proof.Machine.execStreamContextRestored read s
  | .hardwareContextAvailable stream => Sys2Proof.Machine.execHardwareContextAvailable stream s
  | .tileReady stream req => Sys2Proof.Machine.execTileReady stream req s
  | .tileWr port msg => Sys2Proof.Machine.execTileWr port msg s
  | .reduceContrib port msg => Sys2Proof.Machine.execReduceContrib port msg s
  | .reduceTileSettle red slot => Sys2Proof.Machine.execReduceTileSettle red slot s
  | .reduceFinishTimeout red => Sys2Proof.Machine.execReduceFinishTimeout red s
  | .execTokens port msg => Sys2Proof.Machine.execExecTokens port msg s
  | .batchComplete batch => Sys2Proof.Machine.execBatchComplete batch s
  | .signalMsg port msg => Sys2Proof.Machine.execSignalMsg port msg s
  | .credit port msg => Sys2Proof.Machine.execCredit port msg s
  | .cmdchTileData port msg => Sys2Proof.Machine.execCmdchTileData port msg s
  | .commandChannelTimeout port tag => Sys2Proof.Machine.execCommandChannelTimeout port tag s
  | .payloadFlit port rx => Sys2Proof.Machine.execPayloadFlit port rx s
  | .idleFlit port rx => Sys2Proof.Machine.execIdleFlit port rx s
  | .nakFlit port rx => Sys2Proof.Machine.execNakFlit port rx s
  | .replayTimeout port => Sys2Proof.Machine.execReplayTimeout port s
  | .nakOutstandingExpiry port => Sys2Proof.Machine.execNakOutstandingExpiry port s
  | .ackSendDue port => Sys2Proof.Machine.execAckSendDue port s
  | .identExchange port rx => Sys2Proof.Machine.execIdentExchange port rx s
  | .quietFlit port rx => Sys2Proof.Machine.execQuietFlit port rx s
  | .quietTimeExpiry port => Sys2Proof.Machine.execQuietTimeExpiry port s
  | .linkWake port => Sys2Proof.Machine.execLinkWake port s
  | .linkDetectLock port lanes => Sys2Proof.Machine.execLinkDetectLock port lanes s
  | .equalisationComplete port lanes theirs => Sys2Proof.Machine.execEqualisationComplete port lanes theirs s
  | .codewordLock port => Sys2Proof.Machine.execCodewordLock port s
  | .alignTimeout port locked => Sys2Proof.Machine.execAlignTimeout port locked s
  | .lossOfSignal port => Sys2Proof.Machine.execLossOfSignal port s
  | .powerGroupOn group => Sys2Proof.Machine.execPowerGroupOn group s
  | .linkLoss port => Sys2Proof.Machine.execLinkLoss port s
  | .streamClosed stream => Sys2Proof.Machine.execStreamClosed stream s
  | .tracePatternEnd => Sys2Proof.Machine.execTracePatternEnd s
  | .traceFrame => Sys2Proof.Machine.execTraceFrame s
  | .aoPowerGood => Sys2Proof.Machine.execAoPowerGood s
  | .aoPowerLoss => Sys2Proof.Machine.execAoPowerLoss s
  | .devRstN level => Sys2Proof.Machine.execDevRstN level s
  | .deviceStart inp => Sys2Proof.Machine.execDeviceStart inp s
  | .nearTierTrainingDone stack res => Sys2Proof.Machine.execNearTierTrainingDone stack res s
  | .farChannelTrainingDone ch res => Sys2Proof.Machine.execFarChannelTrainingDone ch res s
  | .bridgeTrainingDone ok fails => Sys2Proof.Machine.execBridgeTrainingDone ok fails s
  | .serviceModeEntry => Sys2Proof.Machine.execServiceModeEntry s
  | .managementRestart => Sys2Proof.Machine.execManagementRestart s
  | .logFlush => Sys2Proof.Machine.execLogFlush s
  | .pd1IdleOff => Sys2Proof.Machine.execPd1IdleOff s
  | .fwStagingTimeout => Sys2Proof.Machine.execFwStagingTimeout s
  | .flashProgramDone ok => Sys2Proof.Machine.execFlashProgramDone ok s
  | .thermalTrip die => Sys2Proof.Machine.execThermalTrip die s
  | .sensorSample sensor value => Sys2Proof.Machine.execSensorSample sensor value s
  | .thermalStepReturn half => Sys2Proof.Machine.execThermalStepReturn half s
  | .aoClockLoss => Sys2Proof.Machine.execAoClockLoss s
  | .refclkLoss clk => Sys2Proof.Machine.execRefclkLoss clk s
  | .railFault rail => Sys2Proof.Machine.execRailFault rail s
  | .vrTimeout rail => Sys2Proof.Machine.execVrTimeout rail s
  | .domainPowerGood pd => Sys2Proof.Machine.execDomainPowerGood pd s
  | .domainPowerGoodTimeout pd => Sys2Proof.Machine.execDomainPowerGoodTimeout pd s
  | .domainSwitchOff pd => Sys2Proof.Machine.execDomainSwitchOff pd s
  | .clusterIdleHoldExpiry pd => Sys2Proof.Machine.execClusterIdleHoldExpiry pd s
  | .pllLock pd => Sys2Proof.Machine.execPllLock pd s
  | .farSelfRefreshIdle ch => Sys2Proof.Machine.execFarSelfRefreshIdle ch s
  | .nearSelfRefreshIdle stack => Sys2Proof.Machine.execNearSelfRefreshIdle stack s
  | .selfRefreshExit unit => Sys2Proof.Machine.execSelfRefreshExit unit s
  | .parityAlert unit => Sys2Proof.Machine.execParityAlert unit s
  | .dqsTracking ch => Sys2Proof.Machine.execDqsTracking ch s
  | .retrainingDone unit res => Sys2Proof.Machine.execRetrainingDone unit res s
  | .refreshDue unit => Sys2Proof.Machine.execRefreshDue unit s
  | .rowIdleClose unit => Sys2Proof.Machine.execRowIdleClose unit s
  | .farTierReadDone job res => Sys2Proof.Machine.execFarTierReadDone job res s
  | .expansionDone job res => Sys2Proof.Machine.execExpansionDone job res s
  | .codingDone job ok => Sys2Proof.Machine.execCodingDone job ok s
  | .sealAsWrittenWaitExpiry half => Sys2Proof.Machine.execSealAsWrittenWaitExpiry half s
  | .stripeWriteDone group stripe => Sys2Proof.Machine.execStripeWriteDone group stripe s
  | .sealComplete handle version => Sys2Proof.Machine.execSealComplete handle version s
  | .lastReferenceEnd handle version => Sys2Proof.Machine.execLastReferenceEnd handle version s
  | .promotionDone handle version tile => Sys2Proof.Machine.execPromotionDone handle version tile s
  | .releasingCopyFreed handle version tile => Sys2Proof.Machine.execReleasingCopyFreed handle version tile s
  | .reclaimStripe group stripe => Sys2Proof.Machine.execReclaimStripe group stripe s
  | .rebuildTile group => Sys2Proof.Machine.execRebuildTile group s
  | .rebuildResume group => Sys2Proof.Machine.execRebuildResume group s
  | .windowBoundary reg => Sys2Proof.Machine.execWindowBoundary reg s
  | .queueLevelReport ctrl level => Sys2Proof.Machine.execQueueLevelReport ctrl level s
  | .panic ctrl => Sys2Proof.Machine.execPanic ctrl s
  | .drainHoldLimit ctrl => Sys2Proof.Machine.execDrainHoldLimit ctrl s
  | .sliceStart run go => Sys2Proof.Machine.execSliceStart run go s
  | .quantumExpiry run slice => Sys2Proof.Machine.execQuantumExpiry run slice s
  | .kernelRunComplete run => Sys2Proof.Machine.execKernelRunComplete run s
  | .kernelTimeout run => Sys2Proof.Machine.execKernelTimeout run s
  | .watchdogExpiry id => Sys2Proof.Machine.execWatchdogExpiry id s
  | .herdWatchdogExpiry id => Sys2Proof.Machine.execHerdWatchdogExpiry id s
  | .waitRecordFree id => Sys2Proof.Machine.execWaitRecordFree id s
  | .boundaryScan data => Sys2Proof.Machine.execBoundaryScan data s
  | .instrNop run slice => Sys2Proof.Machine.execInstrNop run slice s
  | .endSlice run slice => Sys2Proof.Machine.execEndSlice run slice s
  | .br run slice => Sys2Proof.Machine.execBr run slice s
  | .trap run slice => Sys2Proof.Machine.execTrap run slice s
  | .smovi run slice => Sys2Proof.Machine.execSmovi run slice s
  | .sadd run slice => Sys2Proof.Machine.execSadd run slice s
  | .ssub run slice => Sys2Proof.Machine.execSsub run slice s
  | .smul run slice => Sys2Proof.Machine.execSmul run slice s
  | .sand run slice => Sys2Proof.Machine.execSand run slice s
  | .sor run slice => Sys2Proof.Machine.execSor run slice s
  | .sxor run slice => Sys2Proof.Machine.execSxor run slice s
  | .sshl run slice => Sys2Proof.Machine.execSshl run slice s
  | .sshr run slice => Sys2Proof.Machine.execSshr run slice s
  | .ssar run slice => Sys2Proof.Machine.execSsar run slice s
  | .saddi run slice => Sys2Proof.Machine.execSaddi run slice s
  | .srd run slice => Sys2Proof.Machine.execSrd run slice s
  | .ldt run slice => Sys2Proof.Machine.execLdt run slice s
  | .stt run slice => Sys2Proof.Machine.execStt run slice s
  | .tcommit run slice => Sys2Proof.Machine.execTcommit run slice s
  | .lds run slice => Sys2Proof.Machine.execLds run slice s
  | .sts run slice => Sys2Proof.Machine.execSts run slice s
  | .ldw run slice => Sys2Proof.Machine.execLdw run slice s
  | .stw run slice => Sys2Proof.Machine.execStw run slice s
  | .ldr run slice => Sys2Proof.Machine.execLdr run slice s
  | .str run slice => Sys2Proof.Machine.execStr run slice s
  | .ldp run slice => Sys2Proof.Machine.execLdp run slice s
  | .pop run slice => Sys2Proof.Machine.execPop run slice s
  | .push run slice => Sys2Proof.Machine.execPush run slice s
  | .fadd run slice => Sys2Proof.Machine.execFadd run slice s
  | .fsub run slice => Sys2Proof.Machine.execFsub run slice s
  | .fmul run slice => Sys2Proof.Machine.execFmul run slice s
  | .ffma run slice => Sys2Proof.Machine.execFfma run slice s
  | .fmin run slice => Sys2Proof.Machine.execFmin run slice s
  | .fmax run slice => Sys2Proof.Machine.execFmax run slice s
  | .fexp2 run slice => Sys2Proof.Machine.execFexp2 run slice s
  | .flog2 run slice => Sys2Proof.Machine.execFlog2 run slice s
  | .fsqrt run slice => Sys2Proof.Machine.execFsqrt run slice s
  | .frsq run slice => Sys2Proof.Machine.execFrsq run slice s
  | .frcp run slice => Sys2Proof.Machine.execFrcp run slice s
  | .fdiv run slice => Sys2Proof.Machine.execFdiv run slice s
  | .cvt run slice => Sys2Proof.Machine.execCvt run slice s
  | .mxsc run slice => Sys2Proof.Machine.execMxsc run slice s
  | .mxq run slice => Sys2Proof.Machine.execMxq run slice s
  | .mxunp run slice => Sys2Proof.Machine.execMxunp run slice s
  | .itof run slice => Sys2Proof.Machine.execItof run slice s
  | .ftoi run slice => Sys2Proof.Machine.execFtoi run slice s
  | .iadd run slice => Sys2Proof.Machine.execIadd run slice s
  | .isub run slice => Sys2Proof.Machine.execIsub run slice s
  | .imul run slice => Sys2Proof.Machine.execImul run slice s
  | .iand run slice => Sys2Proof.Machine.execIand run slice s
  | .ior run slice => Sys2Proof.Machine.execIor run slice s
  | .ixor run slice => Sys2Proof.Machine.execIxor run slice s
  | .ishl run slice => Sys2Proof.Machine.execIshl run slice s
  | .ishr run slice => Sys2Proof.Machine.execIshr run slice s
  | .isar run slice => Sys2Proof.Machine.execIsar run slice s
  | .imin run slice => Sys2Proof.Machine.execImin run slice s
  | .imax run slice => Sys2Proof.Machine.execImax run slice s
  | .vbcast run slice => Sys2Proof.Machine.execVbcast run slice s
  | .vlane run slice => Sys2Proof.Machine.execVlane run slice s
  | .vext run slice => Sys2Proof.Machine.execVext run slice s
  | .vmov run slice => Sys2Proof.Machine.execVmov run slice s
  | .fcmp run slice => Sys2Proof.Machine.execFcmp run slice s
  | .icmp run slice => Sys2Proof.Machine.execIcmp run slice s
  | .scmp run slice => Sys2Proof.Machine.execScmp run slice s
  | .plog run slice => Sys2Proof.Machine.execPlog run slice s
  | .pset run slice => Sys2Proof.Machine.execPset run slice s
  | .sel run slice => Sys2Proof.Machine.execSel run slice s
  | .pany run slice => Sys2Proof.Machine.execPany run slice s
  | .rfadd run slice => Sys2Proof.Machine.execRfadd run slice s
  | .rfmin run slice => Sys2Proof.Machine.execRfmin run slice s
  | .rfmax run slice => Sys2Proof.Machine.execRfmax run slice s
  | .riadd run slice => Sys2Proof.Machine.execRiadd run slice s
  | .mzero run slice => Sys2Proof.Machine.execMzero run slice s
  | .mma run slice => Sys2Proof.Machine.execMma run slice s
  | .mrd run slice => Sys2Proof.Machine.execMrd run slice s
  | .mwr run slice => Sys2Proof.Machine.execMwr run slice s
  | .fset run slice => Sys2Proof.Machine.execFset run slice s
  | .fclr run slice => Sys2Proof.Machine.execFclr run slice s
  | .fwait run slice => Sys2Proof.Machine.execFwait run slice s
  | .ftake run slice => Sys2Proof.Machine.execFtake run slice s
  | .cadd run slice => Sys2Proof.Machine.execCadd run slice s
  | .crd run slice => Sys2Proof.Machine.execCrd run slice s
  | .cwait run slice => Sys2Proof.Machine.execCwait run slice s
  | .harr run slice => Sys2Proof.Machine.execHarr run slice s
  | .fence run slice => Sys2Proof.Machine.execFence run slice s
  | .srb run slice => Sys2Proof.Machine.execSrb run slice s
  | .rdcyc run slice => Sys2Proof.Machine.execRdcyc run slice s
  | .rdent run slice => Sys2Proof.Machine.execRdent run slice s
  | .aaddf run slice => Sys2Proof.Machine.execAaddf run slice s
  | .partnerEntersTraining port => Sys2Proof.Machine.execPartnerEntersTraining port s
  | .ceSummaryWindow => Sys2Proof.Machine.execCeSummaryWindow s
  | .bridgeRetrainingDone link ok => Sys2Proof.Machine.execBridgeRetrainingDone link ok s
  | .regulatorPowerGood rail => Sys2Proof.Machine.execRegulatorPowerGood rail s
  | .debugUnlock data => Sys2Proof.Machine.execDebugUnlock data s

end Sys2Proof.Machine
end

