-- ==== Sys2Proof/Machine/Tick.lean ====
section
/-! DEFINITION. The AO tick: what happens with time whatever is commanded. The counter advances, waiting is counted, each
ACTIVE port sends one message, waiting work of the tiers goes on (R16, R36, R177, R178, R251, R316, R353, R430, R433;
log entry 25). -/

namespace Sys2Proof.Machine

/-! ## Stalls (R177, R178) -/

/-- Whether a job waits behind an earlier one of its kind in its group. -/
def Dev.queued (d : Dev) (n : Nat) (j : Job) : Bool :=
  let grp (j : Job) : Nat := ((d.objs.stored.get? j.sid).map (·.group)).getD 4
  d.strs.jobs.any fun p => decide (p.1 < n) && p.2.st == j.st && grp p.2 == grp j

/-- Whether a far read waits on a rebuild, a channel's retraining, or a parity-alert replay of this tick. -/
def Dev.recovering (d : Dev) (s : Stored) : Bool :=
  (d.group s.group).st == .rebuilding || (fromTo (8 * s.group) 8).any fun c =>
    (d.ctrl c).retrain || (d.ctrl c).alerts.contains d.now

/-- Whether a far read waits on a stripe that reclaim frees, or that it has just moved sectors to (R154, R370). -/
def Dev.reclaiming (d : Dev) (s : Stored) : Bool :=
  !(d.queuedStripes s.group (d.linesOf s)).isEmpty ||
    (d.reclaims s.group && s.places.any fun p => d.reclaimable s.group p.1)

/-- Why a schedule has skipped a tile in its occurrence: 1 quota, 2 capacity, 0 not skipped. It stays so when a promotion has
since started (R178). -/
def Dev.skipOf (d : Dev) (j : Job) : Nat :=
  let here := d.tiers.scheds.flatMap fun p => p.2.ents.filter fun e => e.obj == j.obj && e.resv == j.ver
  ((here.map fun e => e.skips.getD j.tile 0).find? (· != 0)).getD 0

/-- The stall counters a waiting job calls for. -/
def Dev.jobCauses (d : Dev) (n : Nat) (j : Job) : List Nat :=
  match d.objs.stored.get? j.sid with
  | none => []
  | some s =>
    if j.st = .far then
      (if d.recovering s then [1] else []) ++
        (match d.skipOf j with
          | 1 => [4]
          | 2 => [3]
          | _ => []) ++ (if d.queued n j || d.reclaiming s then [0] else [])
    else if j.cross ≠ 0 then [5]
    else (if (d.nearRead j).any fun t => (d.ctrl (32 + t.stack)).retrain then [1] else []) ++
      if d.queued n j then [2] else []

/-- The counter a stream's stall goes to, the first of R178's order. -/
def Dev.stallCause (d : Dev) (id : Nat) (s : Stream) : Option Nat :=
  let jobs := (s.reqs.flatMap fun q => q.tiles).filterMap fun t => match t with
    | .waiting n => (d.strs.jobs.get? n).map fun j => (n, j)
    | _ => none
  let all := (if s.restoring && d.waitsRestore id s then [6] else []) ++ jobs.flatMap fun p => d.jobCauses p.1 p.2
  [6, 5, 1, 4, 3, 2, 0].find? all.contains

/-- One tick of a stream: its stall counted, and traced where it begins or ends. -/
def stallTick (id : Nat) (s : Stream) (d : Dev) : Dev :=
  let new := d.stallCause id s
  let d := match new with
    | some k => bumpTenant s.tenant k 1 (strCount id k 1 d)
    | none => d
  if new = s.stall.map (·.1) then d
  else
    let d := match s.stall with
      | some (k, t) => trace 3 2 (some s.tenant) id (leBytes 1 k ++ zeros 7 ++ leBytes 8 (d.now - t)) d
      | none => d
    let d := match new with
      | some k => trace 3 1 (some s.tenant) id (leBytes 1 k) d
      | none => d
    d.updStr id fun s => { s with stall := new.map fun k => (k, d.now) }

/-! ## Counters of time -/

/-- Whether a queue pair's taking is held by R89: a full completion ring and an entry to take. -/
def QP.cqHeld (q : QP) : Bool :=
  !q.stopped && q.deleter.isNone && q.untaken != 0 &&
    match q.loc with
    | .host _ _ => decide (q.cqUsed + q.reserved ≥ 2 ^ q.log2Depth)
    | .near _ => decide (q.reserved ≥ 2 ^ q.log2Depth)

/-- Whether a request of a regulator is held by a gate (R352): a read or a write of a tier. -/
def Dev.regGated (d : Dev) (r : Nat) : Bool :=
  let mine (q : Nat) : Bool := d.label q != 0 && d.label q % 1024 == r
  let far (j : Job) : Bool := match d.objs.stored.get? j.sid with
    | some s => j.st == .far && d.gated j.qos 0 (2 * groupHalf s.group) (d.chansOf s.group (d.linesOf s))
    | none => false
  let near (j : Job) : Bool := (d.nearOf j).any fun s =>
    d.gated j.qos 1 (2 * stackHalf s.stack + b2n (s.near == .promoting)) (stackGates s.stack)
  let write (c : Coding) : Bool :=
    let half := ((d.obj? c.obj).map (·.half)).getD 0
    c.held.isSome && d.gated (d.waiterLabel c.who) 0 (2 * half + 1) (d.writeChans half)
  (d.strs.jobs.any fun p => mine p.2.qos && (far p.2 || near p.2)) ||
    d.objs.codings.any fun p => mine (d.waiterLabel p.2.who) && write p.2

/-- The counters that count AO ticks. -/
def countTicks (d0 : Dev) : Dev :=
  let d := d0.q.qps.foldl (fun d p => bump 2 p.1 4 (b2n p.2.cqHeld) d) d0
  let d := allClusters.foldl (fun d pd => bump 9 pd 2 (b2n (d0.cluster pd).clock) d) d
  let d := (List.range 56).foldl (fun d p =>
    bump 4 p 14 (b2n ((d0.port p).st != .active && (d0.port p).st != .quiet)) d) d
  let d := [0, 1, 2, 3].foldl (fun d n => bump 5 n 8 (b2n ((d0.hport n).linkUp && (d0.hport n).narrow)) d) d
  let d := d0.qos.panic.foldl (fun d p =>
    if p.1 < 32 then bump 7 p.1 17 (b2n p.2) d else bump 8 (p.1 - 32) 17 (b2n p.2) d) d
  let d := d0.qos.regs.foldl (fun d p => bump 6 p.1 2 (b2n (d0.regGated p.1)) d) d
  d0.strs.strs.foldl (fun d p => stallTick p.1 p.2 d) d

/-! ## Egress (R353, R430, R433) -/

/-- Credits a message takes. -/
def TxMsg.cost (m : TxMsg) : Nat := ceilDiv m.data.length 64

/-- Whether a port holds the credits of a message; `CREDIT` needs none. -/
def Port.affords (p : Port) (m : TxMsg) : Bool := m.cls == 4 || (p.initRx && decide (m.cost ≤ p.credits.getD m.cls 0))

/-- The step of R353 that serves a message, from 0; none while it may not be served. A class without an entry for the port
is served as Slate (log entry 25). -/
def Dev.txStep (d : Dev) (port : Nat) (m : TxMsg) : Option Nat :=
  let q := d.label m.qos
  let e := (d.qos.regs.get? (q % 1024)).bind fun g => g.ents.find? fun e => e.resource == 2 && e.inst == port + 128
  match q / 1024, e with
  | _, none => some 4
  | 0, _ => some 4
  | 1, some e => some (if e.budget > 0 then 2 else 3)
  | 2, some e => if e.budget > 0 then some 1 else none
  | _, some e => some (if e.budget > 0 then 0 else 4)

/-- Place of a message in the order of R353, lower first: its step; then by deadline in the first, by the round of the
regulators in the last two; then by waiting time. -/
def Dev.txRank (d : Dev) (port : Nat) (m : TxMsg) : Option (Nat × Nat × Nat) :=
  (d.txStep port m).map fun k =>
    let last := d.qos.served.getD (turnKey 2 port (k - 2)) 0
    (k, if k = 0 then m.due else if k ≥ 3 then (d.label m.qos % 1024 + 1023 - last) % 1024 else 0, m.since)

/-- The order of places. -/
def rankLt (a b : Nat × Nat × Nat) : Bool :=
  decide (a.1 < b.1) || (a.1 == b.1 && (decide (a.2.1 < b.2.1) || (a.2.1 == b.2.1 && decide (a.2.2 < b.2.2))))

/-- The first message of each label, with its place in the queue: messages of one label keep their order. -/
def txHeads : Nat → List Nat → List TxMsg → List (Nat × TxMsg)
  | _, _, [] => []
  | k, seen, m :: l => if seen.contains m.qos then txHeads (k + 1) seen l else (k, m) :: txHeads (k + 1) (m.qos :: seen) l

/-- Whether a message may go before those that wait in front of it: a `SIGNAL` goes after every earlier message of its port
(R316). -/
def TxMsg.mayPass (k : Nat) (m : TxMsg) : Bool := k == 0 || fld m.data 0 0 8 != 8

/-- The message to send next, with its place in the queue. -/
def Dev.nextTx (d : Dev) (port : Nat) : Option (Nat × TxMsg) :=
  let p := d.port port
  let room (m : TxMsg) : Bool := p.affords m && decide (p.replay.length + ceilDiv m.data.length 232 ≤ 512)
  let best (a : Option ((Nat × Nat × Nat) × Nat × TxMsg)) (c : Nat × TxMsg) : Option ((Nat × Nat × Nat) × Nat × TxMsg) :=
    if !room c.2 || !c.2.mayPass c.1 then a
    else
      match d.txRank port c.2, a with
      | none, a => a
      | some r, none => some (r, c)
      | some r, some (s, b) => if rankLt r s then some (r, c) else some (s, b)
  ((txHeads 0 [] p.txq).foldl best none).map (·.2)

/-- One payload flit sent, with the credits it returns; it stays in the replay buffer. -/
def sendFlit (port : Nat) (starts : List Nat) (pay : Bytes) (d : Dev) : Dev :=
  let p := d.port port
  let back := p.owed.map (min 255)
  let f := flitOf 0 p.nextSeq p.ackNow starts back pay
  emit (.flit port f) (bump 4 port 0 1 (d.updPort port fun p => { p with
    nextSeq := (p.nextSeq + 1) % 65536, replay := p.replay ++ [(p.nextSeq, f)], quietReq := false
    owed := (p.owed.zip back).map fun x => x.1 - x.2 }))

/-- Data bytes a message carries, as the egress of a port counts them (Table 12-2). -/
def TxMsg.bytes (m : TxMsg) : Nat :=
  let k := fld m.data 0 0 8
  if k = 2 then fld m.data 0xA 0 16 else if k = 7 then fld m.data 0xE 0 16 else 0

/-- What follows when a message has left its port. -/
def txLeft (a : OnTx) (d : Dev) : Dev :=
  match a with
  | .none => d
  | .data id num k bytes tileEnd last => dataLeft id num k bytes tileEnd last d
  | .batch n => dropBatch n d

/-- A message sent in flits of its own: its first byte starts at offset 0. The round of its regulators goes on after it. -/
def sendMessage (port k : Nat) (m : TxMsg) (d : Dev) : Dev :=
  let d := match d.txStep port m with
    | some s => if s ≥ 3 then d.updQos fun x => { x with
        served := Map.set (turnKey 2 port (s - 2)) (d.label m.qos % 1024) x.served } else d
    | none => d
  let d := d.updPort port fun p => { p with
    txq := p.txq.eraseIdx k, lastMsg := d.now
    credits := if m.cls = 4 then p.credits else p.credits.modify m.cls (· - m.cost) }
  let d := grantBytes m.qos 2 (port + 128) m.bytes d
  txLeft m.after ((List.range (ceilDiv m.data.length 232)).foldl (fun d i =>
    sendFlit port (if i = 0 then [0] else []) ((m.data.drop (232 * i)).take 232) d) d)

/-- A port's share of a tick: a message, or a flit that only returns credits; waiting for credits is counted. -/
def egress (port : Nat) (d : Dev) : Dev :=
  let p := d.port port
  if p.st ≠ .active then d
  else
    let short := (txHeads 0 [] p.txq).any fun c => !p.affords c.2
    let d := bump 4 port 12 (b2n short) d
    match d.nextTx port with
    | some (k, m) => sendMessage port k m d
    | none => if p.owed.any (· != 0) && decide (p.replay.length < 512) then sendFlit port [] [] d else d

/-! ## The tick -/

/-- Since when a clocked cluster has had no slice on a core. -/
def idleUpkeep (pd : Nat) (d : Dev) : Dev :=
  let c := d.cluster pd
  if !c.clock then d
  else
    let t := if d.clusterBusy pd then none else c.idleSince.or (some d.now)
    if t = c.idleSince then d else d.updCluster pd fun c => { c with idleSince := t }

/-- A new tick of the bridge: coded tiles that wait for its capacity cross, the oldest job first (R16, R20). -/
def bridgeTick (d : Dev) : Dev :=
  let d := { d with mem := { d.mem with bridgeUsed := [0, 0] } }
  d.strs.jobs.foldl (fun d p => if p.2.cross ≠ 0 then crossBridge p.1 d else d) d

/-- What goes on with time in the tiers and the engines: coded tiles cross the bridge and go to the segment writers, held
tiles are promoted again (Table 5-7), the near stacks issue what waits there (R383), runs stage the tiles of their next
slices (R251), clocks are kept (R539). -/
def tierTick (d : Dev) : Dev :=
  let d := promoteHeld (retryCodings (bridgeTick (nearTick d)))
  keepClock 1 (keepClock 0 (d.comp.runs.foldl (fun d p => stageAhead p.1 d) d))

/-- Self-tests that wait for their units (R391). -/
def testsTick (d : Dev) : Dev := d.comp.tests.foldl (fun d t => testTick t d) d

/-- The counter advances. -/
def advance (d : Dev) : Dev := d.updPwr fun p => { p with tick := p.tick + 1 }

/-- One AO tick; without AO power or its clock there is none. In retention and in boundary scan only the counter runs. -/
def aoTick (d : Dev) : Dev :=
  if !(d.pwr.aoGood && d.pwr.aoClock) then d
  else if d.pwr.retention || d.pwr.bscan then advance d
  else
    let d := countTicks d
    let d := (List.range 56).foldl (fun d p => egress p d) d
    advance (allClusters.foldl (fun d c => idleUpkeep c d) (tierTick (testsTick d)))

/-- What a step does while no command waits. -/
def State.idle (s : State) : State := { s with dev := settle s.dev (aoTick s.dev) }

end Sys2Proof.Machine
end

