-- ==== Sys2Proof/WellFormed.lean ====
section
/-! DEFINITION. Well-formed commands: operands that name something this part has (the numbers of Table 0-1, Table 1-7 and
Table 16-2), and data of the length its command carries. A command that is not well formed never arrives at the block;
commands, instructions and queue numbers that name nothing are answered or ignored by their meanings. -/

namespace Sys2Proof

/-- A received flit is 256 bytes (R425). -/
def RxFlit.wf (rx : RxFlit) : Bool := decide (rx.data.length = 256)

/-- A far channel 0 to 31 or a near stack 0 to 5. -/
def MemUnit.wf : MemUnit → Bool
  | .far ch => decide (ch < 32)
  | .near stack => decide (stack < 6)

/-- A bank of a controller: a module has at most 4 ranks of 32 banks, a stack 64 pseudo-channels of 16. -/
def BankOf.wf (b : BankOf) : Bool := b.unit.wf && match b.unit with
  | .far _ => true
  | .near _ => decide (b.bank < 1024)

/-- A rate code of Table 13-1, and the bytes of the measured eyes. -/
def TrainResult.wf (r : TrainResult) : Bool := decide (r.rate < 3 ∧ r.sweeps.length ≤ 64)

/-- Whether a command is well formed. -/
def Instr.wf (i : Instr) : Bool :=
  match i with
  | .submissionEntryTake qp _ => decide (qp < 32768)
  | .coalesceTimerExpiry qp => decide (qp < 32768)
  | .doorbellWrite fn q _ => decide (fn < 1024) && decide (q < 8192)
  | .irqCauseWrite fn _ => decide (fn < 1024)
  | .irqMaskWrite fn _ => decide (fn < 1024)
  | .aqEnable fn _ => decide (fn < 1024)
  | .aqDisable fn _ => decide (fn < 1024)
  | .registerWrite fn _ off size _ => decide (fn < 1024) && (size == 1 || size == 2 || size == 4 || size == 8) && decide (off % size = 0)
  | .hdmCommit port _ => decide (port < 4)
  | .hdmDecommit port _ => decide (port < 4)
  | .flr fn => decide (fn < 1024)
  | .flrComplete fn => decide (fn < 1024)
  | .busMasterEnableClear fn => decide (fn < 1024)
  | .busMasterEnableSet fn => decide (fn < 1024)
  | .d3hotEntry fn => decide (fn < 1024)
  | .d0Return fn => decide (fn < 1024)
  | .perstNAssert port => decide (port < 4)
  | .perstNDeassert port => decide (port < 4)
  | .hotReset port => decide (port < 4)
  | .linkDown port => decide (port < 4)
  | .hostLinkUp port => decide (port < 4)
  | .dmaCompletion fn _ _ => decide (fn < 1024)
  | .completionTimeout fn _ => decide (fn < 1024)
  | .tagQuarantineEnd fn _ => decide (fn < 1024)
  | .atsInvalidation fn _ _ => decide (fn < 1024)
  | .aspmL1Entry port => decide (port < 4)
  | .l0pNarrow port => decide (port < 4)
  | .l0pRestore port => decide (port < 4)
  | .cxlMemRead port hpa _ => decide (port < 4) && decide (hpa < 2 ^ 52 ∧ hpa % 64 = 0)
  | .cxlMemWrite port hpa data _ _ => decide (port < 4) && decide (hpa < 2 ^ 52 ∧ hpa % 64 = 0) && decide (data.length = 64)
  | .writeBack port hpa data _ _ => decide (port < 4) && decide (hpa < 2 ^ 52 ∧ hpa % 64 = 0) && decide (data.length = 64)
  | .cleanEvict port hpa => decide (port < 4) && decide (hpa < 2 ^ 52 ∧ hpa % 64 = 0)
  | .snoopResponse port hpa _ => decide (port < 4) && decide (hpa < 2 ^ 52 ∧ hpa % 64 = 0)
  | .recallTimeout port hpa => decide (port < 4) && decide (hpa < 2 ^ 52 ∧ hpa % 64 = 0)
  | .managementCommand binding _ _ => decide (binding < 12)
  | .pldmRequest binding _ _ => decide (binding < 12)
  | .spdmRequest binding _ _ => decide (binding < 12)
  | .cmd port msg => decide (port < 56) && decide (msg.length % 8 = 0)
  | .tileRdReq port msg => decide (port < 56) && decide (msg.length % 8 = 0)
  | .streamContextRestored r => decide (r.stream < 2 ^ 32)
  | .hardwareContextAvailable stream => decide (stream < 2 ^ 32)
  | .tileReady stream _ => decide (stream < 2 ^ 32)
  | .tileWr port msg => decide (port < 56) && decide (msg.length % 8 = 0)
  | .reduceContrib port msg => decide (port < 56) && decide (msg.length % 8 = 0)
  | .execTokens port msg => decide (port < 56) && decide (msg.length % 8 = 0)
  | .signalMsg port msg => decide (port < 56) && decide (msg.length % 8 = 0)
  | .credit port msg => decide (port < 56) && decide (msg.length % 8 = 0)
  | .cmdchTileData port msg => decide (port < 56) && decide (msg.length % 8 = 0)
  | .commandChannelTimeout port _ => decide (port < 56)
  | .payloadFlit port rx => decide (port < 56) && rx.wf
  | .idleFlit port rx => decide (port < 56) && rx.wf
  | .nakFlit port rx => decide (port < 56) && rx.wf
  | .replayTimeout port => decide (port < 56)
  | .nakOutstandingExpiry port => decide (port < 56)
  | .ackSendDue port => decide (port < 56)
  | .identExchange port rx => decide (port < 56) && rx.wf
  | .quietFlit port rx => decide (port < 56) && rx.wf
  | .quietTimeExpiry port => decide (port < 56)
  | .linkWake port => decide (port < 56)
  | .linkDetectLock port _ => decide (port < 56)
  | .equalisationComplete port _ _ => decide (port < 56)
  | .codewordLock port => decide (port < 56)
  | .alignTimeout port _ => decide (port < 56)
  | .lossOfSignal port => decide (port < 56)
  | .powerGroupOn group => decide (group < 4)
  | .linkLoss port => decide (port < 56)
  | .streamClosed stream => decide (stream < 2 ^ 32)
  | .nearTierTrainingDone stack res => decide (stack < 6) && res.wf
  | .farChannelTrainingDone ch res => decide (ch < 32) && res.wf
  | .thermalTrip die => decide (die < 15)
  | .sensorSample sensor _ => decide (sensor < 2 ^ 16)
  | .thermalStepReturn half => decide (half < 2)
  | .refclkLoss clk => decide (clk < 12)
  | .railFault rail => decide (2 ≤ rail ∧ rail < 16)
  | .vrTimeout rail => decide (2 ≤ rail ∧ rail < 16)
  | .domainPowerGood pd => decide (pd < 40)
  | .domainPowerGoodTimeout pd => decide (pd < 40)
  | .domainSwitchOff pd => decide (pd < 40)
  | .clusterIdleHoldExpiry pd => decide (2 ≤ pd ∧ pd < 18)
  | .pllLock pd => decide (2 ≤ pd ∧ pd < 18)
  | .farSelfRefreshIdle ch => decide (ch < 32)
  | .nearSelfRefreshIdle stack => decide (stack < 6)
  | .selfRefreshExit unit => unit.wf
  | .parityAlert unit => unit.wf
  | .dqsTracking ch => decide (ch < 32)
  | .retrainingDone unit res => unit.wf && res.wf
  | .refreshDue unit => unit.wf
  | .rowIdleClose unit => unit.wf
  | .sealAsWrittenWaitExpiry half => decide (half < 2)
  | .stripeWriteDone group _ => decide (group < 4)
  | .reclaimStripe group _ => decide (group < 4)
  | .rebuildTile group => decide (group < 4)
  | .rebuildResume group => decide (group < 4)
  | .windowBoundary reg => decide (0 < reg ∧ reg < 1024)
  | .queueLevelReport ctrl level => decide (ctrl < 38) && decide (level ≤ 64)
  | .panic ctrl => decide (ctrl < 38)
  | .drainHoldLimit ctrl => decide (ctrl < 38)
  | .partnerEntersTraining port => decide (port < 56)
  | .bridgeRetrainingDone link _ => decide (link < 6)
  | .regulatorPowerGood rail => decide (2 ≤ rail ∧ rail < 16)
  | .nop _ | .identify _ | .getFeature _ | .setFeature _ | .qpCreate _ | .qpDelete _ | .tenantSet _
  | .portBind _ | .unitGroup _ | .statsRead _ | .objCreate _ | .objWrite _ | .objRead _ | .objSeal _
  | .objRelease _ | .objClone _ | .objQuery _ | .objGrant _ | .objMapHost _ | .objUnmapHost _ | .evacuate _
  | .reside _ | .unreside _ | .scheduleLoad _ | .scheduleDrop _ | .routeHint _ | .placeCmd _ | .quotaSet _
  | .streamOpen _ | .streamClose _ | .streamQuery _ | .reduceOpen _ | .reduceFinish _ | .reduceAbort _
  | .kernelLoad _ | .kernelRun _ | .kernelAbort _ | .kernelUnload _ | .expertBind _ | .flagAlloc _
  | .flagFree _ | .flagSet _ | .flagClear _ | .counterAlloc _ | .counterFree _ | .herdDefine _ | .herdFree _
  | .waitCmd _ | .qosReserve _ | .qosRelease _ | .qosQuery _ | .scrubRange _ | .retire _ | .errlogRead _
  | .rebuild _ | .poisonClear _ | .extentAssign _ | .extentRevoke _ | .shareGroupSet _ | .hostLossAck _
  | .attest _ | .fwStage _ | .fwCommit _ | .presetRead _ | .presetWrite _ | .ownerEnrol _ | .keySet _
  | .timeCorrelate _ | .sensorRead _ | .powerPolicy _ | .pasrSet _ | .idleEnter _ | .diagInject _ | .traceCtl _
  | .selfTest _ | .orderedCommandStart _ | .reduceTileSettle _ _ | .reduceFinishTimeout _ | .batchComplete _
  | .tracePatternEnd | .traceFrame | .aoPowerGood | .aoPowerLoss | .devRstN _ | .deviceStart _
  | .bridgeTrainingDone _ _ | .serviceModeEntry | .managementRestart | .logFlush | .pd1IdleOff
  | .fwStagingTimeout | .flashProgramDone _ | .aoClockLoss | .farTierReadDone _ _ | .expansionDone _ _
  | .codingDone _ _ | .sealComplete _ _ | .lastReferenceEnd _ _ | .promotionDone _ _ _
  | .releasingCopyFreed _ _ _ | .sliceStart _ _ | .quantumExpiry _ _ | .kernelRunComplete _ | .kernelTimeout _
  | .watchdogExpiry _ | .herdWatchdogExpiry _ | .waitRecordFree _ | .boundaryScan _ | .instrNop _ _
  | .endSlice _ _ | .br _ _ | .trap _ _ | .smovi _ _ | .sadd _ _ | .ssub _ _ | .smul _ _ | .sand _ _ | .sor _ _
  | .sxor _ _ | .sshl _ _ | .sshr _ _ | .ssar _ _ | .saddi _ _ | .srd _ _ | .ldt _ _ | .stt _ _ | .tcommit _ _
  | .lds _ _ | .sts _ _ | .ldw _ _ | .stw _ _ | .ldr _ _ | .str _ _ | .ldp _ _ | .pop _ _ | .push _ _
  | .fadd _ _ | .fsub _ _ | .fmul _ _ | .ffma _ _ | .fmin _ _ | .fmax _ _ | .fexp2 _ _ | .flog2 _ _
  | .fsqrt _ _ | .frsq _ _ | .frcp _ _ | .fdiv _ _ | .cvt _ _ | .mxsc _ _ | .mxq _ _ | .mxunp _ _ | .itof _ _
  | .ftoi _ _ | .iadd _ _ | .isub _ _ | .imul _ _ | .iand _ _ | .ior _ _ | .ixor _ _ | .ishl _ _ | .ishr _ _
  | .isar _ _ | .imin _ _ | .imax _ _ | .vbcast _ _ | .vlane _ _ | .vext _ _ | .vmov _ _ | .fcmp _ _
  | .icmp _ _ | .scmp _ _ | .plog _ _ | .pset _ _ | .sel _ _ | .pany _ _ | .rfadd _ _ | .rfmin _ _ | .rfmax _ _
  | .riadd _ _ | .mzero _ _ | .mma _ _ | .mrd _ _ | .mwr _ _ | .fset _ _ | .fclr _ _ | .fwait _ _ | .ftake _ _
  | .cadd _ _ | .crd _ _ | .cwait _ _ | .harr _ _ | .fence _ _ | .srb _ _ | .rdcyc _ _ | .rdent _ _
  | .aaddf _ _ | .ceSummaryWindow | .debugUnlock _ => true

end Sys2Proof
end

