-- ==== Sys2Proof/Safety.lean ====
section
/-! DEFINITION. What counts as a safe run, and the terms the statements are made in: a command ready to run, how it ends,
a slice that stands at an instruction, the parts of the state. -/

namespace Sys2Proof.Machine

/-! ## Runs -/

/-- A step is safe if it answers a next state: no command of this block stops it. -/
def State.goesOn (s : State) : Prop := ∃ t, step s = .next t

/-- A port's HDM decoder as Table 17-1 and R473 allow it: base and size multiples of 256 MiB, bits [31:14] of the control
register 0, `committed` only with `commit`, and never together with `error_not_committed`. -/
def Hdm.sound (h : Hdm) : Prop :=
  h.baseLow &&& 0x0FFFFFFF#32 = 0 ∧ h.sizeLow &&& 0x0FFFFFFF#32 = 0 ∧ h.ctrl &&& 0xFFFFC000#32 = 0 ∧
    (h.ctrl.getLsbD 10 = true → h.ctrl.getLsbD 9 = true) ∧ ¬(h.ctrl.getLsbD 10 = true ∧ h.ctrl.getLsbD 11 = true)

/-- The HDM decoders of the four host ports are there and sound. -/
def State.hdmSound (s : State) : Prop := s.hdm.length = 4 ∧ ∀ h ∈ s.hdm, h.sound

/-- The data path is neither off in retention (R460) nor stopped by boundary scan (R550). -/
def State.live (s : State) : Prop := s.dev.pwr.retention = false ∧ s.dev.pwr.bscan = false

/-- The state with the device as a command has left it, settled (the function events and trace records of R455 and
Table 14-19 that follow from what has changed). -/
def State.after (s : State) (d : Dev) : State := { s with dev := settle s.dev d }

/-- The state with another device. -/
def State.withDev (s : State) (d : Dev) : State := { s with dev := d }

/-- The command has its own effect: the device becomes `d`, settled. -/
def Does (i : Instr) (s : State) (d : Dev) : Prop := exec i s = .next (s.after d)

/-- Rows of the management path, of power and of the start: what they do boundary scan and retention do not stop. -/
def managedRow : Instr → Bool
  | .managementCommand _ _ _ | .pldmRequest _ _ _ | .spdmRequest _ _ _ | .managementRestart | .fwStagingTimeout
  | .flashProgramDone _ | .debugUnlock _ | .boundaryScan _ | .aoPowerGood | .aoPowerLoss | .devRstN _ | .deviceStart _
  | .nearTierTrainingDone _ _ | .farChannelTrainingDone _ _ | .bridgeTrainingDone _ _ | .thermalTrip _
  | .sensorSample _ _ | .thermalStepReturn _ | .regulatorPowerGood _ | .vrTimeout _ | .aoClockLoss | .railFault _
  | .domainPowerGood _ | .domainPowerGoodTimeout _ | .domainSwitchOff _ | .pd1IdleOff => true
  | _ => false

/-! ## Commands -/

/-- A taken command is ready to run: its fence is passed (R92), and the checks of R95 up to the label's pass. -/
structure Ready (s : State) (n op : Nat) (c : Cmd) : Prop where
  live   : s.live
  cmd    : s.dev.cmd? n = some c
  code   : c.entry.op = op
  phase  : c.phase = .taken
  start  : c.started = true
  checks : precheck ⟨n, c⟩ s.dev = .ok ()
  label  : checkQos ⟨n, c⟩ s.dev = .ok ()

/-- A command's data is inline: it came over the management path or from a preset image (R494, R512). -/
def Cmd.inl (c : Cmd) : Prop := ∀ qp slot, c.origin ≠ .queue qp slot

/-- The command ends in this step with a completion, the device being `d` when it does. -/
def Ends (i : Instr) (n : Nat) (s : State) (cpl : Cpl) (d : Dev) : Prop :=
  exec i s = .next (s.after (finishCmd n cpl d))

/-- The command waits for an event of the device, which is `d`. -/
def Waits (i : Instr) (n : Nat) (s : State) (d : Dev) : Prop :=
  exec i s = .next (s.after (parkCmd n d))

/-- A command of a host's queue pair reads `len` bytes of its data at `addr + off` first (R95, R99): the function may
read, and the command waits for them. -/
def Reads (i : Instr) (n : Nat) (c : Cmd) (s : State) (off len : Nat) : Prop :=
  ∀ qp slot q fn db, c.origin = .queue qp slot → s.dev.qp? qp = some q → q.loc = .host fn db →
    (s.dev.fn fn).bme = true →
    exec i s = .next (s.after (startRead n off len (s.dev.updCmd n fun c => { c with phase := .reading [] })))

/-- Bytes of the data a completion carries. -/
def Cpl.bytes (c : Cpl) : Nat := (c.data.map fun w => w.data.length).sum

/-- A successful completion whose results bytes are `b` and that writes `data` at `addr`. -/
def Cpl.carry (b : Bytes) (addr : Nat) (data : Bytes) : Cpl :=
  { Cpl.ok b with data := if data.isEmpty then [] else [⟨addr, data⟩] }

/-- A completion's data fits where it goes: a response of the management path holds 4,032 bytes (R494). -/
def Cmd.fits (c : Cmd) (data : Bytes) : Prop := data.length ≤ 4032 ∨ ¬c.inl

/-- Handle A names an object of the command's tenant that still exists, on a half the command can reach (R23, R50). -/
structure Owns (s : State) (c : Cmd) (o : Obj) : Prop where
  obj   : s.dev.obj? c.entry.ha = some o
  lives : o.lives = true
  names : hTenant c.entry.ha = c.tenant
  mine  : o.tenant = c.tenant
  path  : s.dev.pwr.sable = false ∨ c.half = o.half

/-- Handle A names an object that still exists, in the command's tenant or one that it reads by a grant that covers the
version named (R50), on a half the command can reach (R23). -/
structure Sees (s : State) (c : Cmd) (ver : Nat) (o : Obj) : Prop where
  obj   : s.dev.obj? c.entry.ha = some o
  lives : o.lives = true
  may   : hTenant c.entry.ha = c.tenant ∨ o.covers c.tenant ver = true
  path  : s.dev.pwr.sable = false ∨ c.half = o.half

/-! ## Slices -/

/-- A running slice stands at an instruction word with an opcode (R274): what the instruction sees. -/
structure Stands (s : State) (op n i : Nat) (x : ICtx) : Prop where
  live   : s.live
  run    : s.dev.run? n = some x.r
  slice  : x.r.slices.get? i = some x.s
  runs   : ∃ core, x.s.st = .running core
  kernel : ∃ k, s.dev.kernel? x.r.kernel = some k ∧ k.code[x.s.pc]? = some x.w ∧ k.header = x.h
  code   : wOp x.w = op
  names  : x.n = n ∧ x.i = i

/-- The state with slice `i` of run `n` replaced by `f` of it and standing at the next word. -/
def State.stepped (s : State) (n i : Nat) (f : Slice → Slice) : State :=
  s.withDev (s.dev.updSlice n i fun sl => { f sl with pc := sl.pc + 1, holdFrom := none })

/-! ## Parts of the device -/

/-- The parts of the device's state. -/
inductive Part where
  | out | freeN | cnt | qps | cmds | fns | hports | tenants | log | ports | mgmt | pwr | objs | tiers | strs | reds
  | comp | sync | qos | mem | cxl | turn | trace | care
deriving DecidableEq, Repr

/-- A part is the same in two states. -/
def Part.same (p : Part) (a b : Dev) : Prop :=
  match p with
  | .out => b.out = a.out
  | .freeN => b.freeN = a.freeN
  | .cnt => b.cnt = a.cnt
  | .qps => b.q.qps = a.q.qps
  | .cmds => b.q.cmds = a.q.cmds ∧ b.q.nextCmd = a.q.nextCmd
  | .fns => b.q.fns = a.q.fns
  | .hports => b.q.ports = a.q.ports
  | .tenants => b.q.tenants = a.q.tenants
  | .log => b.integ.log = a.integ.log ∧ b.integ.lastId = a.integ.lastId
  | .ports => b.ports = a.ports
  | .mgmt => b.mgmt = a.mgmt
  | .pwr => b.pwr = a.pwr
  | .objs => b.objs = a.objs
  | .tiers => b.tiers = a.tiers
  | .strs => b.strs = a.strs
  | .reds => b.reds = a.reds
  | .comp => b.comp = a.comp
  | .sync => b.sync = a.sync
  | .qos => b.qos = a.qos
  | .mem => b.mem = a.mem
  | .cxl => b.cxl = a.cxl
  | .turn => b.q.rrQp = a.q.rrQp ∧ b.q.rrLeft = a.q.rrLeft
  | .trace => b.integ.trace = a.integ.trace
  | .care => b.integ.events = a.integ.events ∧ b.integ.ce = a.integ.ce ∧ b.integ.ceStart = a.integ.ceStart ∧
    b.integ.injects = a.integ.injects ∧ b.integ.keys = a.integ.keys ∧ b.integ.serial = a.integ.serial ∧
    b.integ.devKey = a.integ.devKey ∧ b.integ.cursors = a.integ.cursors

/-- Every part but those listed is the same. -/
def KeepsBut (l : List Part) (a b : Dev) : Prop := ∀ p, p ∉ l → p.same a b

end Sys2Proof.Machine
end

