-- ==== Sys2Proof/Certificates/Slice0/Obligations.lean ====
section
/-! DEFINITION. The statements. Each says what a command of the block does, for every state and operands that meet its
premises; `Sys2Proof.Safety` gives the terms. -/

open Sys2Proof Sys2Proof.Machine

/-! ## Instructions of kernels (09_instructions.md) -/

/-- R272, R275, R276, Tables 9-3 and 9-5: what each scalar integer instruction, and `SRD` of the slice's coordinates,
its phase, its indices, the run's slices, its seed and its arguments' versions, writes when lane 0 of the governing
predicate is 1. Nothing else of the state changes but the slice's place. -/
def Obligations.ScalarInstructions : Prop :=
  ∀ (s : State) (n i : Nat) (x : ICtx), x.lane 0 = true →
    let a := x.s.sreg (wA x.w)
    let b := x.s.sreg (wB x.w)
    let into (v : BitVec 64) := Host.Outcome.next (s.stepped n i (Slice.setS (wD x.w) v))
    (Stands s 0x10 n i x → wMod x.w = 0 → exec (.smovi n i) s = into (BitVec.ofInt 64 (sext24 (wImm x.w)))) ∧
    (Stands s 0x10 n i x → wMod x.w = 1 →
      exec (.smovi n i) s = into ((x.s.sreg (wD x.w) <<< 24) ||| BitVec.ofNat 64 (wImm x.w))) ∧
    (Stands s 0x11 n i x → exec (.sadd n i) s = into (a + b)) ∧
    (Stands s 0x12 n i x → exec (.ssub n i) s = into (a - b)) ∧
    (Stands s 0x13 n i x → exec (.smul n i) s = into (a * b)) ∧
    (Stands s 0x14 n i x → exec (.sand n i) s = into (a &&& b)) ∧
    (Stands s 0x15 n i x → exec (.sor n i) s = into (a ||| b)) ∧
    (Stands s 0x16 n i x → exec (.sxor n i) s = into (a ^^^ b)) ∧
    (Stands s 0x17 n i x → exec (.sshl n i) s = into (a <<< (b.toNat % 64))) ∧
    (Stands s 0x18 n i x → exec (.sshr n i) s = into (a >>> (b.toNat % 64))) ∧
    (Stands s 0x19 n i x → exec (.ssar n i) s = into (a.sshiftRight (b.toNat % 64))) ∧
    (Stands s 0x1A n i x → exec (.saddi n i) s = into (a + BitVec.ofInt 64 (sext24 (wImm x.w)))) ∧
    (Stands s 0x1B n i x →
      let reads (v : Nat) := exec (.srd n i) s = into (BitVec.ofNat 64 v)
      (wImm x.w = 0 → reads x.s.x) ∧ (wImm x.w = 1 → reads x.s.y) ∧ (wImm x.w = 2 → reads x.s.phase) ∧
      (wImm x.w = 5 → reads (i - x.r.before x.s.phase)) ∧ (wImm x.w = 6 → reads i) ∧ (wImm x.w = 7 → reads x.r.total) ∧
      (wImm x.w = 8 → reads x.r.seed) ∧
      (∀ a, 32 ≤ wImm x.w → x.r.args[wImm x.w - 32]? = some a → reads a.ver))

/-- R272: an instruction outside the vector class does nothing but move on where lane 0 of the governing predicate is 0.
The instructions named are those of Tables 9-4 to 9-7 and 9-13 that execute wholly or not at all. -/
def Obligations.ExcludedInstructions : Prop :=
  ∀ (s : State) (n i : Nat) (x : ICtx), x.lane 0 = false →
    let on := Host.Outcome.next (s.stepped n i id)
    (Stands s 0x01 n i x → exec (.endSlice n i) s = on) ∧ (Stands s 0x02 n i x → exec (.br n i) s = on) ∧
    (Stands s 0x03 n i x → exec (.trap n i) s = on) ∧ (Stands s 0x11 n i x → exec (.sadd n i) s = on) ∧
    (Stands s 0x22 n i x → exec (.tcommit n i) s = on) ∧ (Stands s 0x29 n i x → exec (.ldp n i) s = on) ∧
    (Stands s 0x91 n i x → exec (.mma n i) s = on) ∧ (Stands s 0xA0 n i x → exec (.fset n i) s = on) ∧
    (Stands s 0xA2 n i x → exec (.fwait n i) s = on) ∧ (Stands s 0xA4 n i x → exec (.cadd n i) s = on) ∧
    (Stands s 0xA7 n i x → exec (.harr n i) s = on) ∧ (Stands s 0xA8 n i x → exec (.fence n i) s = on)

/-- R274, R276, Table 9-4: `NOP` moves on; `BR` goes to the word it names; `TRAP` takes its trap with the code of its
immediate; `END` of a slice with no open buffer, before its run's last, leaves the run without it, and what the run's
next slices need is staged (R251). -/
def Obligations.ControlInstructions : Prop :=
  ∀ (s : State) (n i : Nat) (x : ICtx), x.lane 0 = true →
    (Stands s 0x00 n i x → exec (.instrNop n i) s = .next (s.stepped n i id)) ∧
    (∀ k t, Stands s 0x02 n i x → s.dev.kernel? x.r.kernel = some k → (x.s.pc : Int) + sext24 (wImm x.w) = (t : Nat) →
      t < k.code.length → exec (.br n i) s = .next (s.withDev (s.dev.updSlice n i fun sl =>
        { sl with pc := t, holdFrom := none }))) ∧
    (Stands s 0x03 n i x → exec (.trap n i) s = .next (s.after
      (takeTrap n i x.r x.s x.w ⟨.program, wImm x.w, 0xFFFFFFFF⟩ s.dev))) ∧
    (Stands s 0x01 n i x → x.s.bufs = [] → x.r.doneN + 1 < x.r.total → ∃ d,
      exec (.endSlice n i) s = .next (s.after (stageAhead n d)) ∧
      ∃ r, d.run? n = some r ∧ r.slices = Map.del i x.r.slices ∧ r.doneN = x.r.doneN + 1 ∧
        r.phase = (if x.r.doneN + 1 = x.r.before (x.r.phase + 1) then x.r.phase + 1 else x.r.phase) ∧
        r.coreTime = x.r.coreTime + (s.dev.now - x.s.since) ∧ KeepsBut [.comp, .cnt] s.dev d)

/-- R274, R293, R294: a slice whose next word lies past the last of its kernel takes the trap `PC`, whatever the row
that reaches it. -/
def Obligations.PastTheLastWord : Prop :=
  ∀ (s : State) (n i core : Nat) (r : Run) (sl : Slice) (k : Kernel), s.live → s.dev.run? n = some r →
    r.slices.get? i = some sl → sl.st = .running core → s.dev.kernel? r.kernel = some k → k.code.length ≤ sl.pc →
    let trapped := Host.Outcome.next (s.after (takeTrap n i r sl 0 ⟨.pc, 0, 0xFFFFFFFF⟩ s.dev))
    exec (.sadd n i) s = trapped ∧ exec (.fadd n i) s = trapped ∧ exec (.ldt n i) s = trapped ∧
      exec (.mma n i) s = trapped ∧ exec (.fset n i) s = trapped

/-- R272, R283, R284, Tables 9-8 and 9-10: what each floating-point instruction and conversion with integers writes into
the active lanes of its destination. -/
def Obligations.FloatInstructions : Prop :=
  ∀ (s : State) (n i : Nat) (x : ICtx),
    let m := wMod x.w
    let va := x.s.vreg (wA x.w)
    let vb := x.s.vreg (wB x.w)
    let ma := srcMod (bitOf m 2) (bitOf m 0)
    let mb := srcMod false (bitOf m 1)
    let into (v : List (BitVec 32)) := Host.Outcome.next (s.stepped n i (x.setV v))
    (Stands s 0x40 n i x → exec (.fadd n i) s = into (List.zipWith (fun a b => fAdd (ma a) (mb b)) va vb)) ∧
    (Stands s 0x41 n i x → exec (.fsub n i) s = into (List.zipWith (fun a b => fSub (ma a) (mb b)) va vb)) ∧
    (Stands s 0x42 n i x → exec (.fmul n i) s = into (List.zipWith (fun a b => fMul (ma a) (mb b)) va vb)) ∧
    (Stands s 0x43 n i x → exec (.ffma n i) s = into (List.zipWith (fun p c => fFma p.1 p.2 (srcMod false (bitOf m 3) c))
      (List.zipWith (fun a b => (ma a, mb b)) va vb) (x.s.vreg (wC x.w)))) ∧
    (Stands s 0x44 n i x → exec (.fmin n i) s = into (List.zipWith (fun a b => fMin (ma a) (mb b)) va vb)) ∧
    (Stands s 0x45 n i x → exec (.fmax n i) s = into (List.zipWith (fun a b => fMax (ma a) (mb b)) va vb)) ∧
    (Stands s 0x46 n i x → exec (.fexp2 n i) s = into (va.map fun a => fExp2 (ma a))) ∧
    (Stands s 0x47 n i x → exec (.flog2 n i) s = into (va.map fun a => fLog2 (ma a))) ∧
    (Stands s 0x48 n i x → exec (.fsqrt n i) s = into (va.map fun a => fSqrt (ma a))) ∧
    (Stands s 0x49 n i x → exec (.frsq n i) s = into (va.map fun a => fRsq (ma a))) ∧
    (Stands s 0x4A n i x → exec (.frcp n i) s = into (va.map fun a => fRcp (ma a))) ∧
    (Stands s 0x4B n i x → exec (.fdiv n i) s = into (List.zipWith (fun a b => fDiv (ma a) (mb b)) va vb)) ∧
    (Stands s 0x54 n i x → exec (.itof n i) s = into (va.map iToF)) ∧
    (Stands s 0x55 n i x → exec (.ftoi n i) s = into (va.map fToI))

/-- R276, Table 9-10: what each integer vector instruction writes into the active lanes; with bit 3 of the modifier,
operand b is the immediate in every lane. -/
def Obligations.IntegerInstructions : Prop :=
  ∀ (s : State) (n i : Nat) (x : ICtx),
    let va := x.s.vreg (wA x.w)
    let vb := if bitOf (wMod x.w) 3 then List.replicate 64 (BitVec.ofInt 32 (sext24 (wImm x.w))) else x.s.vreg (wB x.w)
    let uns := bitOf (wMod x.w) 0
    let lt (a b : BitVec 32) : Bool := if uns then a.ult b else a.slt b
    let into (f : BitVec 32 → BitVec 32 → BitVec 32) :=
      Host.Outcome.next (s.stepped n i (x.setV (List.zipWith f va vb)))
    (Stands s 0x60 n i x → exec (.iadd n i) s = into fun a b => a + b) ∧
    (Stands s 0x61 n i x → exec (.isub n i) s = into fun a b => a - b) ∧
    (Stands s 0x62 n i x → exec (.imul n i) s = into fun a b => a * b) ∧
    (Stands s 0x63 n i x → exec (.iand n i) s = into fun a b => a &&& b) ∧
    (Stands s 0x64 n i x → exec (.ior n i) s = into fun a b => a ||| b) ∧
    (Stands s 0x65 n i x → exec (.ixor n i) s = into fun a b => a ^^^ b) ∧
    (Stands s 0x66 n i x → exec (.ishl n i) s = into fun a b => a <<< (b.toNat % 32)) ∧
    (Stands s 0x67 n i x → exec (.ishr n i) s = into fun a b => a >>> (b.toNat % 32)) ∧
    (Stands s 0x68 n i x → exec (.isar n i) s = into fun a b => a.sshiftRight (b.toNat % 32)) ∧
    (Stands s 0x69 n i x → exec (.imin n i) s = into fun a b => if lt b a then b else a) ∧
    (Stands s 0x6A n i x → exec (.imax n i) s = into fun a b => if lt a b then b else a)

/-- R276, Tables 9-10 and 9-11: `VBCAST`, `VLANE`, `VMOV` and `SEL` into the active lanes; `VEXT` into a scalar
register. -/
def Obligations.MoveInstructions : Prop :=
  ∀ (s : State) (n i : Nat) (x : ICtx),
    let into (v : List (BitVec 32)) := Host.Outcome.next (s.stepped n i (x.setV v))
    (Stands s 0x6B n i x → exec (.vbcast n i) s = into (List.replicate 64 ((x.s.sreg (wA x.w)).setWidth 32))) ∧
    (Stands s 0x6C n i x →
      exec (.vlane n i) s = into ((List.range 64).map fun k : Nat => BitVec.ofInt 32 (k + sext24 (wImm x.w)))) ∧
    (Stands s 0x6E n i x → exec (.vmov n i) s = into (x.s.vreg (wA x.w))) ∧
    (Stands s 0x75 n i x → exec (.sel n i) s = into ((List.range 64).map fun k =>
      if (x.s.pred (wC x.w)).getLsbD k then (x.s.vreg (wA x.w)).getD k 0 else (x.s.vreg (wB x.w)).getD k 0)) ∧
    (Stands s 0x6D n i x → x.lane 0 = true → exec (.vext n i) s =
      .next (s.stepped n i (Slice.setS (wD x.w) (((x.s.vreg (wA x.w)).getD (wImm x.w) 0).setWidth 64))))

/-- R272: a vector instruction writes the active lanes of its destination and leaves the others, and every other vector
register, alone. -/
def Obligations.LaneRule : Prop :=
  ∀ (x : ICtx) (v : List (BitVec 32)) (s : Slice) (k : Nat), wD x.w < s.v.length → k < 64 →
    ((x.setV v s).vreg (wD x.w)).getD k 0 = (if x.lane k then v.getD k 0 else (s.vreg (wD x.w)).getD k 0) ∧
    ∀ r, r ≠ wD x.w → (x.setV v s).vreg r = s.vreg r

/-- R268, R272, R276, Table 9-11: what each compare and predicate instruction writes into the active lanes of its
predicate; a write to p0 is discarded. -/
def Obligations.PredicateInstructions : Prop :=
  ∀ (s : State) (n i : Nat) (x : ICtx),
    let pa := x.s.pred (wA x.w)
    let pb := x.s.pred (wB x.w)
    let m := wMod x.w
    let into (v : BitVec 64) := Host.Outcome.next (s.stepped n i fun sl =>
      if wD x.w = 0 then sl
      else { sl with p := sl.p.set (wD x.w) ((sl.p.getD (wD x.w) 0 &&& ~~~x.mask) ||| (v &&& x.mask)) })
    (Stands s 0x70 n i x → exec (.fcmp n i) s = into
      (laneMask (List.zipWith (fcond m) (x.s.vreg (wA x.w)) (x.s.vreg (wB x.w))))) ∧
    (Stands s 0x71 n i x → exec (.icmp n i) s = into
      (laneMask (List.zipWith (icond m) (x.s.vreg (wA x.w)) (x.s.vreg (wB x.w))))) ∧
    (Stands s 0x72 n i x → exec (.scmp n i) s = into
      (if icond m (x.s.sreg (wA x.w)) (x.s.sreg (wB x.w)) then BitVec.allOnes 64 else 0)) ∧
    (Stands s 0x73 n i x → (m = 0 → exec (.plog n i) s = into (pa &&& pb)) ∧
      (m = 1 → exec (.plog n i) s = into (pa ||| pb)) ∧ (m = 2 → exec (.plog n i) s = into (pa ^^^ pb)) ∧
      (m = 3 → exec (.plog n i) s = into (pa &&& ~~~pb))) ∧
    (Stands s 0x74 n i x → (m = 0 → exec (.pset n i) s = into 0) ∧
      (m = 1 → exec (.pset n i) s = into (BitVec.allOnes 64)) ∧
      (m = 2 → exec (.pset n i) s = into (laneMask ((List.range 64).map fun k => decide (k < wImm x.w))))) ∧
    (Stands s 0x76 n i x → exec (.pany n i) s = into (if pa = 0 then 0 else BitVec.allOnes 64))

/-- R256, R272, Table 9-12, R289, Table 9-13: lane reductions, with excluded lanes at the operation's identity, and the
matrix instructions. -/
def Obligations.ReduceAndMatrix : Prop :=
  ∀ (s : State) (n i : Nat) (x : ICtx),
    let va := x.s.vreg (wA x.w)
    let fold (unit : BitVec 32) := (List.range 64).map fun k => if x.lane k then va.getD k 0 else unit
    let into (v : BitVec 64) := Host.Outcome.next (s.stepped n i (Slice.setS (wD x.w) v))
    (Stands s 0x80 n i x → exec (.rfadd n i) s = into ((laneTree fAdd (fold 0x80000000)).setWidth 64)) ∧
    (Stands s 0x81 n i x → exec (.rfmin n i) s = into ((laneTree fMin (fold 0x7F800000)).setWidth 64)) ∧
    (Stands s 0x82 n i x → exec (.rfmax n i) s = into ((laneTree fMax (fold 0xFF800000)).setWidth 64)) ∧
    (Stands s 0x83 n i x → exec (.riadd n i) s = into ((laneTree (fun a b => a + b) (fold 0)).signExtend 64)) ∧
    (x.lane 0 = true →
      (Stands s 0x90 n i x → exec (.mzero n i) s =
        .next (s.stepped n i (Slice.setT (wD x.w) (List.replicate 1024 0)))) ∧
      (Stands s 0x91 n i x →
        let one (sc : List Val) (k : Nat) : Val := sc.getD k (.fin false 1 0)
        let scales : List Val := if wExt x.w = 1 then
          (List.range 64).map fun k => scaleVal (((x.s.vreg (wC x.w)).getD k 0).toNat % 256) else []
        exec (.mma n i) s = .next (s.stepped n i (Slice.setT (wD x.w) (mmaStep (x.s.treg (wD x.w))
          (x.s.operand (wA x.w) (mmaFmts (wMod x.w)).1) (x.s.operand (wB x.w) (mmaFmts (wMod x.w)).2)
          ((List.range 32).map (one scales)) ((List.range 32).map fun j => one scales (32 + j)))))) ∧
      (Stands s 0x92 n i x → exec (.mrd n i) s = .next (s.stepped n i fun sl => { sl with
        v := sl.v.set (wD x.w) (((x.s.treg (wA x.w)).drop (64 * wImm x.w)).take 64) })) ∧
      (Stands s 0x93 n i x → exec (.mwr n i) s = .next (s.stepped n i fun sl =>
        let t := sl.treg (wD x.w)
        sl.setT (wD x.w) (t.take (64 * wImm x.w) ++ va ++ t.drop (64 * wImm x.w + 64)))))

/-- R285 to R288, Table 9-9: conversions between formats and the MX instructions write the active lanes' elements of
their part; `SRB` writes a half of the generator's bits in each lane. -/
def Obligations.ConversionInstructions : Prop :=
  ∀ (s : State) (n i : Nat) (x : ICtx),
    let imm := wImm x.w
    let va := x.s.vreg (wA x.w)
    let sc (k : Nat) : Nat := ((x.s.vreg (wB x.w)).getD k 0).toNat % 256
    (Stands s 0x50 n i x → exec (.cvt n i) s = .next (s.stepped n i (x.putPart (cvtOffsets imm).2 (fmtBits (bits imm 8 8))
      (((List.range 64).zip (partCodes va (cvtOffsets imm).1 (fmtBits (bits imm 0 8)))).map fun p =>
        (convertElem (bits imm 8 8) (x.round (bitOf imm 23) (bits imm 19 4) p.1) (decodeElem (bits imm 0 8) p.2)).1)))) ∧
    (Stands s 0x51 n i x → exec (.mxsc n i) s = .next (s.stepped n i (x.setV
      ((chunks 32 2 ((List.range 64).map fun k => if x.lane k then va.getD k 0 else 0)).flatMap fun b =>
        List.replicate 32 (BitVec.ofNat 32 (mxScale (bits imm 0 8) (b.map ofFp32))))))) ∧
    (Stands s 0x52 n i x → exec (.mxq n i) s = .next (s.stepped n i (x.putPart
      ((mxPart (bits imm 0 8)).2.1 * bits imm 8 3) (fmtBits (bits imm 0 8)) (((List.range 64).zip va).map fun p =>
        (convertElem (bits imm 0 8) (x.round (bitOf imm 15) (bits imm 11 4) p.1)
          ((ofFp32 p.2).scale (127 - (sc p.1 : Int)))).1)))) ∧
    (Stands s 0x53 n i x → exec (.mxunp n i) s = .next (s.stepped n i (x.setV (((List.range 64).zip
      (partCodes va ((mxPart (bits imm 0 8)).2.1 * bits imm 8 3) (fmtBits (bits imm 0 8)))).map fun p =>
        BitVec.ofNat 32 (convertElem 1 .even (decodeMx (bits imm 0 8) (sc p.1) p.2)).1)))) ∧
    (Stands s 0xB0 n i x → exec (.srb n i) s = .next (s.stepped n i (x.setV ((List.range 64).map fun k =>
      BitVec.ofNat 32 (x.sr imm k / (if wMod x.w = 1 then 2 ^ 32 else 1))))))

/-- R277, Table 9-6: loads and stores of a slice's scratch, of the run's windows and of its parameters, where at least
one lane is active (lane 0, for `LDP`), the access lies within its space, is aligned, and the window read is an earlier
phase's or the slice's own. A load past the end of scratch traps `BOUNDS`, one that is not a multiple of 4 `ALIGN`;
where both hold, `BOUNDS`, the lower code (R293, R294). Model choices it rests on: log entry 30. -/
def Obligations.PrivateMemory : Prop :=
  ∀ (s : State) (n i : Nat) (x : ICtx),
    let imm := BitVec.ofNat 64 (wImm x.w)
    let ra := x.s.sreg (wA x.w)
    let rb := x.s.sreg (wB x.w)
    (Stands s 0x23 n i x → x.mask ≠ 0 → (ra + imm).toNat + 256 ≤ hScratch x.h → (ra + imm).toNat % 4 = 0 →
      exec (.lds n i) s = .next (s.stepped n i (x.setV (lanesOf (getBytes x.s.scratch (ra + imm).toNat 256))))) ∧
    (Stands s 0x24 n i x → x.mask ≠ 0 → (rb + imm).toNat + 256 ≤ hScratch x.h → (rb + imm).toNat % 4 = 0 →
      exec (.sts n i) s = .next (s.stepped n i fun sl => { sl with
        scratch := x.storeMap (rb + imm).toNat sl.scratch })) ∧
    (Stands s 0x25 n i x → x.mask ≠ 0 → ra.toNat < x.r.total → (rb + imm).toNat + 256 ≤ hWindow x.h →
      (rb + imm).toNat % 4 = 0 → (ra.toNat = i ∨ x.r.phaseOf ra.toNat < x.s.phase) → exec (.ldw n i) s =
        .next (s.stepped n i (x.setV (lanesOf (getBytes x.r.windows (65536 * ra.toNat + (rb + imm).toNat) 256))))) ∧
    (Stands s 0x26 n i x → x.mask ≠ 0 → (rb + imm).toNat + 256 ≤ hWindow x.h → (rb + imm).toNat % 4 = 0 →
      exec (.stw n i) s = .next ((s.withDev (s.dev.updRun n fun r => { r with
        windows := x.storeMap (65536 * i + (rb + imm).toNat) x.r.windows })).stepped n i id)) ∧
    (Stands s 0x29 n i x → x.lane 0 = true → wImm x.w < hParams x.h → wImm x.w % 4 = 0 → exec (.ldp n i) s =
      .next (s.stepped n i (Slice.setS (wD x.w)
        (BitVec.ofNat 64 (leNat ((x.r.params.drop (wImm x.w)).take 8)))))) ∧
    (Stands s 0x23 n i x → x.mask ≠ 0 →
      let off := (ra + imm).toNat
      let trapped (t : Trap) := Host.Outcome.next (s.after (takeTrap n i x.r x.s x.w ⟨t, 0, 0xFFFFFFFF⟩ s.dev))
      (off + 256 > hScratch x.h → exec (.lds n i) s = trapped .bounds) ∧
      (off + 256 ≤ hScratch x.h → off % 4 ≠ 0 → exec (.lds n i) s = trapped .align))

/-- R277 to R280, Table 9-6: `LDT` of a tile present in the tile cache loads 256 bytes of it in the argument's layout;
`STT` opens an output buffer and stores the active lanes; `TCOMMIT` of a tile the version takes writes it once, where a
library kernel's result is defined (R259), as defined. Model choices it rests on: log entries 7 and 30. -/
def Obligations.TileMemory : Prop :=
  ∀ (s : State) (n i : Nat) (x : ICtx) (a : RunArg) (o : Obj),
    let k := wImm x.w % 16
    let off (r : BitVec 64) : Nat := (r + BitVec.ofNat 64 (wImm x.w / 16)).toNat
    x.r.args[k]? = some a → s.dev.obj? a.obj = some o →
    (Stands s 0x20 n i x → x.mask ≠ 0 → a.role = 1 →
      let tile := (x.s.sreg (wA x.w)).toNat
      let at' := off (x.s.sreg (wB x.w))
      let lay := if a.layout = 0 then o.fmt else a.layout
      tile < o.count → at' < delivSize lay o.th o.tw → at' % 4 = 0 → x.r.staged.contains (k, tile) = true →
      exec (.ldt n i) s = .next (s.stepped n i (x.setV (lanesOf
        (((Machine.deliver o.fmt o.th o.tw lay (s.dev.tileAt a.obj a.ver tile).1).1.drop at').take 256))))) ∧
    (Stands s 0x21 n i x → x.mask ≠ 0 → a.role = 2 →
      let tile := (x.s.sreg (wB x.w)).toNat
      let at' := off (x.s.sreg (wC x.w))
      tile < o.count → at' < o.canon → at' % 4 = 0 → rewrites x k tile = false → x.s.bufs.length < 8 →
      x.s.buf? k tile = none → exec (.stt n i) s = .next (s.stepped n i fun sl => sl.setBuf
        { arg := k, tile := tile, data := x.storeInto at' o.zeroTile })) ∧
    (Stands s 0x22 n i x → x.lane 0 = true → a.role = 2 →
      let tile := (x.s.sreg (wA x.w)).toNat
      tile < o.count → rewrites x k tile = false → ∀ b, x.s.buf? k tile = some b → b.arg = k → b.tile = tile →
      let out := o.mask tile ((s.dev.libTile x.r k tile o).getD b.data)
      o.scalesOk out = true → ∃ t, exec (.tcommit n i) s = .next t ∧
        t.dev = settle s.dev (((runWrite n i k tile a out s.dev)).updSlice n i fun sl => { sl with
          bufs := sl.bufs.filter fun c => !(c.arg == k && c.tile == tile), pc := sl.pc + 1, holdFrom := none }))

/-- R281, R147: `LDR` and `STR` of a kernel of td0 outside service mode act on a 256-byte aligned address with memory
behind it; in service mode, or for another tenant, they trap `PRIV`. Model choices it rests on: log entry 20. -/
def Obligations.RawMemory : Prop :=
  ∀ (s : State) (n i : Nat) (x : ICtx), x.mask ≠ 0 →
    let ra := (x.s.sreg (wA x.w)).toNat
    let rb := (x.s.sreg (wB x.w)).toNat
    let may := x.r.tenant = 0 ∧ s.dev.pwr.mode ≠ .service
    let priv := Host.Outcome.next (s.after (takeTrap n i x.r x.s x.w ⟨.priv, 0, 0xFFFFFFFF⟩ s.dev))
    (Stands s 0x27 n i x → may → s.dev.hasMem ra 256 = true → ra % 256 = 0 → ∃ t, exec (.ldr n i) s = .next t ∧
      t.dev = settle s.dev ((rawRead ra 256 s.dev).2.updSlice n i fun sl =>
        { x.setV (lanesOf (rawRead ra 256 s.dev).1) sl with pc := sl.pc + 1, holdFrom := none })) ∧
    (Stands s 0x28 n i x → may → s.dev.hasMem rb 256 = true → rb % 256 = 0 →
      (fromTo rb 256).any s.dev.rawBarred = false → ∃ t, exec (.str n i) s = .next t ∧
      t.dev = settle s.dev ((x.storeRaw rb s.dev).updSlice n i fun sl => { sl with pc := sl.pc + 1, holdFrom := none })) ∧
    (Stands s 0x27 n i x → ¬may → exec (.ldr n i) s = priv) ∧ (Stands s 0x28 n i x → ¬may → exec (.str n i) s = priv)

/-- R282, Table 9-7, and R292: `POP` loads from a token's activations, `PUSH` stores whole 64-byte units into the
results, each once; `AADDF` adds the active lanes into an accumulation buffer, opened at +0. -/
def Obligations.BatchMemory : Prop :=
  ∀ (s : State) (n i : Nat) (x : ICtx), x.mask ≠ 0 →
    (∀ id b, x.r.by' = .batch id → s.dev.batch? id = some b → hExec x.h = true →
      (Stands s 0x30 n i x →
        let tok := (x.s.sreg (wA x.w)).toNat
        let off := (x.s.sreg (wB x.w)).toNat
        tok < b.tokens → off < 2 * b.din → off % 4 = 0 → exec (.pop n i) s = .next (s.stepped n i (x.setV (lanesOf
          ((b.acts.drop (tok * (2 * b.din) + off)).take (min 256 (2 * b.din - off))))))) ∧
      (Stands s 0x31 n i x →
        let tok := (x.s.sreg (wB x.w)).toNat
        let off := (x.s.sreg (wC x.w)).toNat
        let first := (tok * (2 * b.dout) + off) / 64
        let units := (List.range 4).filter fun u =>
          decide (off + 64 * u < 2 * b.dout) && (fromTo (16 * u) 16).any x.lane
        tok < b.tokens → off < 2 * b.dout → off % 64 = 0 → (units.any fun u => b.pushed.any (·.1 == first + u)) = false →
        exec (.push n i) s = .next ((s.withDev (s.dev.updBatch id fun b => { b with
          pushed := b.pushed ++ units.map fun u => (first + u, x.unit u) })).stepped n i fun sl => sl))) ∧
    (∀ a o, x.r.args[wImm x.w % 16]? = some a → s.dev.obj? a.obj = some o → a.role = 2 → Stands s 0xF2 n i x →
      let k := wImm x.w % 16
      let tile := (x.s.sreg (wB x.w)).toNat
      let off := (x.s.sreg (wC x.w) + BitVec.ofNat 64 (wImm x.w / 16)).toNat
      tile < o.count → off < 4 * o.n → off % 4 = 0 → (o.fmt = 1 ∨ o.fmt = 2) → x.r.written.contains (k, tile) = false →
      (x.r.slices.any fun p => (p.2.buf? k tile).isSome) = false →
      (x.r.accs.find? fun a => a.arg == k && a.tile == tile) = none → x.r.accs.length < 256 →
      let sum : List F32 := (List.range 64).foldl (fun l j => if x.lane j then
        l.modify (off / 4 + j) fun v => fAdd v ((x.s.vreg (wA x.w)).getD j 0) else l) (List.replicate o.n 0)
      let buf : AccBuf := { arg := k, tile := tile, data := sum }
      exec (.aaddf n i) s = .next ((s.withDev (s.dev.updRun n fun r => { r with accs := r.accs ++ [buf] })).stepped
        n i fun sl => sl))

/-- R290, R291, R299 to R310, Table 9-13: flags, counters and herds from a slice. With no bridge lost and nothing of the
slice still being made durable, `FSET`, `FCLR` and `CADD` act on the object their tenant's ID names; `FWAIT` and `FTAKE`
of a set flag go on, a `TAKE` consuming it; `CRD` reads; `CWAIT` of a reached target goes on. A wait that is not
satisfied registers a wait record and the slice waits on its core. Model choices it rests on: log entry 31. -/
def Obligations.SliceSynchronisation : Prop :=
  ∀ (s : State) (n i : Nat) (x : ICtx), x.lane 0 = true → s.dev.pwr.sable = false → s.dev.sliceBusy n i = false →
    let t := x.r.tenant
    let id := wImm x.w
    let deadline (w : BitVec 64) := if w = 0 then none else some (x.s.holdFrom.getD s.dev.now + w.toNat)
    let done (d : Dev) := Host.Outcome.next (s.after (d.updSlice n i fun sl =>
      { sl with pc := sl.pc + 1, holdFrom := none }))
    let record (what : WaitFor) (w : BitVec 64) : WaitRec :=
      { who := .slice n i, what := what, index := i, order := 0, deadline := deadline w, vid := id, tenant := t }
    let sleeps (what : WaitFor) (w : BitVec 64) := Host.Outcome.next (s.after ((addWait (record what w) s.dev).updSlice
      n i fun sl => { sl with st := .waiting sl.core, holdFrom := none }))
    (∀ p, s.dev.physFlag t id = some p →
      (Stands s 0xA0 n i x → exec (.fset n i) s = done (setFlag p s.dev)) ∧
      (Stands s 0xA1 n i x → exec (.fclr n i) s = done (clearFlag p s.dev)) ∧
      (∀ f, s.dev.flag? p = some f → f.quar = false → f.set = true →
        (Stands s 0xA2 n i x → exec (.fwait n i) s = done s.dev) ∧
        (Stands s 0xA3 n i x → exec (.ftake n i) s = done (s.dev.updFlag p fun f => { f with set := false }))) ∧
      (∀ f, s.dev.flag? p = some f → f.quar = false → f.set = false → s.dev.sync.waits.length < 1048576 →
        (Stands s 0xA2 n i x → exec (.fwait n i) s = sleeps (.flag p false) (x.s.sreg (wA x.w))) ∧
        (Stands s 0xA3 n i x → exec (.ftake n i) s = sleeps (.flag p true) (x.s.sreg (wA x.w))))) ∧
    (∀ c, s.dev.sync.counters.get? id = some c → c.tenant = t →
      (Stands s 0xA4 n i x → 1 ≤ (x.s.sreg (wA x.w)).toNat → (x.s.sreg (wA x.w)).toNat ≤ 2 ^ 20 →
        s.dev.retireCtr id = false → exec (.cadd n i) s = done (addCounter id (x.s.sreg (wA x.w)).toNat s.dev)) ∧
      (Stands s 0xA5 n i x → exec (.crd n i) s = .next (s.stepped n i (Slice.setS (wD x.w) (c.val.setWidth 64)))) ∧
      (Stands s 0xA6 n i x → 0 ≤ serialDiff c.val.toNat ((x.s.sreg (wA x.w)).toNat % 2 ^ 48) →
        exec (.cwait n i) s = done s.dev) ∧
      (Stands s 0xA6 n i x → serialDiff c.val.toNat ((x.s.sreg (wA x.w)).toNat % 2 ^ 48) < 0 →
        s.dev.sync.waits.length < 1048576 → exec (.cwait n i) s =
          sleeps (.counter id ((x.s.sreg (wA x.w)).toNat % 2 ^ 48)) (x.s.sreg (wB x.w))))

/-- R291, R292, R309: `FENCE` waits for the slice's own stores; `HARR` of a participant of its tenant's herd that has not
arrived is taken and the slice waits; `RDCYC` and `RDENT` write a value nothing constrains (the model's free value, log
entry 5). Model choices it rests on: log entry 31. -/
def Obligations.FenceArriveRead : Prop :=
  ∀ (s : State) (n i : Nat) (x : ICtx), x.lane 0 = true →
    (Stands s 0xA8 n i x → s.dev.sliceBusy n i = false → exec (.fence n i) s = .next (s.stepped n i id)) ∧
    (Stands s 0xA8 n i x → s.dev.sliceBusy n i = true → exec (.fence n i) s = .next s) ∧
    (Stands s 0xF0 n i x → exec (.rdcyc n i) s = .next ((s.withDev { s.dev with freeN := s.dev.freeN + 1 }).stepped
      n i (Slice.setS (wD x.w) (Config.free64 s.dev.freeN)))) ∧
    (Stands s 0xF1 n i x → exec (.rdent n i) s = .next ((s.withDev { s.dev with freeN := s.dev.freeN + 1 }).stepped
      n i (Slice.setS (wD x.w) (Config.free64 s.dev.freeN)))) ∧
    (∀ h, Stands s 0xA7 n i x → s.dev.sliceBusy n i = false → s.dev.pwr.sable = false →
      s.dev.herdOf x.r.tenant (wImm x.w) = some h → h.broken = false → (x.s.sreg (wB x.w)).toNat ∈ h.mask →
      (x.s.sreg (wB x.w)).toNat ∉ h.a → (insertNat (x.s.sreg (wB x.w)).toNat h.a) ≠ h.mask →
      s.dev.sync.waits.length < 1048576 → ∃ t h' r sl, exec (.harr n i) s = .next t ∧
        t.dev.sync.herds.get? (wImm x.w) = some h' ∧ h'.a = insertNat (x.s.sreg (wB x.w)).toNat h.a ∧
        t.dev.run? n = some r ∧ r.slices.get? i = some sl ∧ sl.st = .waiting x.s.core ∧ sl.pc = x.s.pc)

/-! ## Commands of the queues (03_commands.md to 18_management.md) -/

/-- R106, R114, R115, R112, R413, R459, R495, R496, R502, R509, R510, R516, R517: the commands that read what the device
holds end in their step with it and leave the device as it is (`ATTEST` but for the security block's use, `STATS_READ`
but for the overflow flags it clears on request); `SET_FEATURE` sets, and a correlation is recorded. Model choices it
rests on: log entries 9, 21, 49, 50, 54. -/
def Obligations.DeviceCommands : Prop :=
  ∀ (s : State) (n : Nat) (c : Cmd),
    let e := c.entry
    let d := s.dev
    let x : Ctx := ⟨n, c⟩
    (Ready s n 0x00 c → Ends (.nop n) n s (Cpl.ok []) d) ∧
    (∀ page, (e.b20 = 0 ∧ page = d.devicePage ∨ e.b20 = 1 ∧ page = d.functionPage x ∨ e.b20 = 2 ∧ page = libraryPage ∨
        e.b20 = 3 ∧ d.costPage x = .ok page) → ¬c.inl → Ready s n 0x01 c →
      Ends (.identify n) n s (Cpl.carry (leBytes 4 page.length) e.addr ((page ++ zeros 4096).take 4096)) d) ∧
    ((featureDefault e.b20).isSome = true →
      let (v, layer) := d.featureLayer e.b20
      let out := v ++ leBytes 1 layer ++ zeros 7
      c.fits out → Ready s n 0x02 c → Ends (.getFeature n) n s (Cpl.carry [] e.addr out) d) ∧
    ((featureDefault e.b20).isSome = true → presetOnly e.b20 = false →
      let v := (e.bytes.drop 0x28).take 24
      featBad e.b20 v = none → (e.b20 = 0x01 → d.splitShrinks ((List.range 4).map fun k => fld v k 0 8) = false) →
      (e.b20 = 0x03 → fld v 0 0 8 = 1 → d.integ.trace.clock = false ∧ presetHolds x 3 d = false) →
      Ready s n 0x03 c → Ends (.setFeature n) n s (Cpl.ok [])
        (featApply e.b20 (d.updMgmt fun m => { m with features := Map.set e.b20 v m.features }))) ∧
    (let i := e.w32 0x24
     let first := e.w16 0x28
     let k := e.w16 0x2A
     let keys := (fromTo first k).map (cntKey e.b20 i)
     let lost := (List.range k).filter fun j => d.cnt.ovf.contains (keys.getD j 0)
     let out := leBytes 8 d.now ++ leBytes 2 k ++ leBytes 1 e.b20 ++ zeros 5 ++
       ((fromTo first k).flatMap fun j => leBytes 8 (d.count e.b20 i j)) ++ leBytes 32 (maskOf lost)
     (c.tenant = 0 ∨ (¬[0, 7, 8, 9].contains e.b20 ∧ d.statMine c.tenant e.b20 i = true)) → d.statThere e.b20 i = true →
      first + k ≤ catalogues.getD e.b20 0 → c.fits out → Ready s n 0x09 c →
      Ends (.statsRead n) n s (Cpl.carry [] e.addr out) (if e.fld 0x21 0 1 = 1 then
        { d with cnt := { d.cnt with ovf := d.cnt.ovf.filter fun j => !keys.contains j } } else d)) ∧
    (let out := (fromTo (e.w16 0x20) (e.w16 0x22)).flatMap d.sensorRecord
     c.fits out → Ready s n 0xA8 c →
      Ends (.sensorRead n) n s (Cpl.carry (leBytes 2 (e.w16 0x22)) e.addr out) d) ∧
    (let out := d.report ((e.bytes.drop 0x20).take 32)
     c.fits out → Ready s n 0xA0 c → Ends (.attest n) n s (Cpl.carry (leBytes 4 832) e.addr out) d.useSecurity) ∧
    (let log := d.integ.log
     let l := (((d.logFrom (e.w32 0x24)).filter fun r => r.seenBy c.tenant).take (e.w16 0x28)).map fun r =>
       r.bytes c.tenant
     e.b20 = 0 → c.fits l.flatten → Ready s n 0x82 c → Ends (.errlogRead n) n s (Cpl.carry (leBytes 2 l.length ++
      zeros 2 ++ leBytes 4 ((log.head?.map (·.id)).getD 0) ++ leBytes 4 ((log.getLast?.map (·.id)).getD 0))
      e.addr l.flatten) d) ∧
    (let seq := nextErrId d.mgmt.corrSeq
     let r : Corr := { tick := c.tick, time := e.w64 0x28, clock := e.w32 0x30, unc := e.w32 0x34, seq := seq,
                       tenant := c.tenant, source := x.source d, flushed := false }
     let l := d.mgmt.flash.corr ++ [r]
     e.b20 = 0 → Ready s n 0xA7 c → Ends (.timeCorrelate n) n s (Cpl.ok (leBytes 8 c.tick ++ leBytes 4 seq))
      (d.updMgmt fun m => { m with corrSeq := seq, flash := { m.flash with corr := l.drop (l.length - 2048) } }))

/-- R33 to R35, R84, R102 to R104, R158, R438, R439, R441, R450, R451: queue pairs, tenants, ports, unit groups and
quotas. A `QP_DELETE` waits for the commands of its queue pair. Model choices it rests on: log entries 48, 49. -/
def Obligations.QueueCommands : Prop :=
  ∀ (s : State) (n : Nat) (c : Cmd),
    let e := c.entry
    let d := s.dev
    let x : Ctx := ⟨n, c⟩
    let fn := e.w16 0x22
    let db := e.w16 0x24
    let id := d.q.qps.firstFree 0
    (∀ t, e.b20 = 0 → (d.fn fn).bound = some t → (∀ f, x.fn? d = some f → fn / 256 = f / 256) →
      (c.tenant = 0 ∨ c.tenant = t) → e.addr % 4096 = 0 → e.w64 0x30 % 4096 = 0 → d.qpAt fn db = none →
      d.q.qps.length < 32768 → d.qpsOf (.host fn db) < 8192 → Ready s n 0x04 c →
      Ends (.qpCreate n) n s (Cpl.ok (leBytes 2 id))
        (({ d with q := { d.q with qps := Map.set id (QP.fresh (.host fn db) false t (e.fld 0x28 0 5) (e.fld 0x29 0 8)
          (e.fld 0x2A 0 11) (e.w16 0x2C) (e.w16 0x2E) e.addr (e.w64 0x30) (e.w64 0x38)) d.q.qps } } : Dev).updFn fn
            fun f => { f with dbSq := Map.set db 0 f.dbSq, dbCq := Map.set db 0 f.dbCq })) ∧
    (∀ q, d.qp? (e.w16 0x20) = some q → q.admin = false → q.deleter = none → (c.tenant = 0 ∨ c.tenant = q.tenant) →
      (∀ f b g, q.loc = .host f b → x.fn? d = some g → f / 256 = g / 256) → e.fld 0x22 0 1 = 0 → Ready s n 0x05 c →
      Waits (.qpDelete n) n s (reapQps (d.updQp (e.w16 0x20) fun q => { q with deleter := some n }))) ∧
    (e.b20 = 0 → d.defined (e.fld 0x22 0 10) = false → Ready s n 0x06 c → Ends (.tenantSet n) n s (Cpl.ok [])
      { d with q := { d.q with tenants := insertNat (e.fld 0x22 0 10) d.q.tenants } }) ∧
    (e.b20 = 1 → e.fld 0x22 0 10 ≠ 0 → d.defined (e.fld 0x22 0 10) = true → d.tenantHeld (e.fld 0x22 0 10) = false →
      Ready s n 0x06 c → Ends (.tenantSet n) n s (Cpl.ok (leBytes 8 (removeTenant (e.fld 0x22 0 10) d).1))
        (removeTenant (e.fld 0x22 0 10) d).2) ∧
    (e.b20 = 2 → db < 1024 → d.defined (e.fld 0x22 0 10) = true → d.fnBusy db = false → Ready s n 0x06 c →
      Ends (.tenantSet n) n s (Cpl.ok []) (d.updFn db fun f => { f with bound := some (e.fld 0x22 0 10) })) ∧
    (e.b20 = 3 → db < 1024 → (d.fn db).bound.isSome = true → d.fnBusy db = false → Ready s n 0x06 c →
      Ends (.tenantSet n) n s (Cpl.ok []) (d.updFn db fun f => { f with bound := none })) ∧
    (e.b20 = 3 → c.fits (d.port (e.fld 0x21 0 8)).record → Ready s n 0x07 c → Ends (.portBind n) n s
      (Cpl.carry [] e.addr (d.port (e.fld 0x21 0 8)).record) d) ∧
    (e.b20 = 1 → (d.port (e.fld 0x21 0 8)).retired = false → (d.port (e.fld 0x21 0 8)).bound = true → Ready s n 0x07 c →
      Ends (.portBind n) n s (Cpl.ok []) (unbindPort (e.fld 0x21 0 8) d)) ∧
    (e.b20 = 0 → (d.port (e.fld 0x21 0 8)).retired = false → (d.port (e.fld 0x21 0 8)).bound = false →
      Ready s n 0x07 c → Reads (.portBind n) n c s 0 128 ∧
      (let ts := setBits 1024 (leNat (c.input.take 128))
       c.inl → 128 ≤ c.input.length → ts.isEmpty = false → ts.all d.defined = true →
        (e.fld 0x21 0 8 = 55 → d.integ.trace.enabled = false ∧ presetHolds x 1 d = false) →
        Ends (.portBind n) n s (Cpl.ok []) (bindPort (e.fld 0x21 0 8) (e.fld 0x22 0 2) (e.w64 0x28) ts d))) ∧
    (let ms := (List.range (e.fld 0x21 0 8)).map fun k => e.w32 (0x24 + 4 * k)
     let g := d.comp.groups.firstFree 0
     let d' := d.updComp fun k => { k with groups := Map.set g (c.tenant, ms) k.groups }
     e.b20 = 0 → checkMembers c.tenant d 0x24 ms = .ok () → d.comp.groups.length < 4096 → Ready s n 0x08 c →
      Ends (.unitGroup n) n s (Cpl.ok (leBytes 2 g ++ leBytes 2 (match d'.unitSet 10 (5 * 2 ^ 28 + g) with
        | some l => (coresOf l).length
        | none => 0))) d') ∧
    (let t := e.fld 0x22 0 10
     let tier := e.fld 0x21 0 8
     let d' := if e.b20 = 0 then
       evalScheds (d.updTiers fun k => { k with limits := Map.set (t * 3 + tier) (e.w64 0x28) k.limits }) else d
     d.defined t = true → Ready s n 0x26 c →
      Ends (.quotaSet n) n s (Cpl.ok (leBytes 8 (d'.limit t tier) ++ leBytes 8 (d'.charge t tier))) d')

/-- R48 to R54, R64 to R67, R80 to R83: `OBJ_CREATE` makes an object with an open version 1 under the next handle of its
tenant, or a new version above the last; `OBJ_GRANT` adds a grant and takes one away. Model choices it rests on: log
entries 13, 77. -/
def Obligations.ObjectsMade : Prop :=
  ∀ (s : State) (n : Nat) (c : Cmd),
    let e := c.entry
    let d := s.dev
    let x : Ctx := ⟨n, c⟩
    (∀ halves half,
      let o := newObj x
      let staged := e.fld 0x2C 0 8 == 0
      let near := if staged then o.nearWorst else 0
      let far := d.farCost o.worst
      let num := d.objs.nextNum.getD c.tenant 1
      let h := mkHandle c.tenant o.typ num
      e.b20 = 0 → checkShape e o = .ok () → halvesFor c.half (e.fld 0x2D 0 8) d = .ok halves → checkRoom o true d = .ok () →
      checkQuota c.tenant 0 near far d = .ok () → chooseHalf near far d halves = .ok half → Ready s n 0x10 c →
      Ends (.objCreate n) n s (Cpl.ok (leBytes 8 h ++ leBytes 4 1)) (d.updObjs fun t => { t with
        nextNum := Map.set c.tenant (num + 1) t.nextNum
        objs := Map.set h { o with
          num := num, half := half, vers := [(1, Version.fresh staged 0 (d.pickStack half []) near far)] } t.objs })) ∧
    (∀ o,
      let staged := e.fld 0x2C 0 8 == 0
      let near := if staged then o.nearWorst else 0
      let far := d.farCost o.worst
      e.b20 = 1 → Owns s c o → o.openVer = none → o.top < 0xFFFFFFFF → checkBase o (e.w32 0x30) = .ok () →
      checkRoom o false d = .ok () → checkQuota c.tenant 0 near far d = .ok () →
      d.short o.half near far = (0, 0) → Ready s n 0x10 c →
      Ends (.objCreate n) n s (Cpl.ok (leBytes 8 e.ha ++ leBytes 4 (o.top + 1))) (d.updObj e.ha fun p => { p with
        vers := Map.set (o.top + 1) (Version.fresh staged (e.w32 0x30) (d.pickStack o.half []) near far) p.vers
        top := o.top + 1 })) ∧
    (∀ o,
      let g : Grant := ⟨e.fld 0x22 0 10, e.w32 0x24⟩
      e.b20 = 0 → Owns s c o → g.grantee ≠ c.tenant → d.defined g.grantee = true → (o.grants.any fun y =>
        y.grantee == g.grantee && y.version == g.version) = false → (g.version = 0 ∨ ∃ w, o.vers.get? g.version = some w ∧
        w.st = .sealed) → o.grants.length < 64 → d.grantCount < 65536 → Ready s n 0x1A c →
      Ends (.objGrant n) n s (Cpl.ok []) (d.updObj e.ha fun o => { o with grants := o.grants ++ [g] })) ∧
    (∀ o,
      let g : Grant := ⟨e.fld 0x22 0 10, e.w32 0x24⟩
      let o' : Obj := { o with grants := o.grants.filter fun y => !(y.grantee == g.grantee && y.version == g.version) }
      let lost := (o.vers.filter fun p => o.readableBy g.grantee p.1 && !o'.readableBy g.grantee p.1).map (·.1)
      e.b20 = 1 → Owns s c o → g.grantee ≠ c.tenant → d.defined g.grantee = true → (o.grants.any fun y =>
        y.grantee == g.grantee && y.version == g.version) = true → Ready s n 0x1A c →
      Ends (.objGrant n) n s (Cpl.ok []) (revoked e.ha g.grantee lost (d.updObj e.ha fun _ => o')))

/-- R62, R66, R68, R70 to R78, R139, R152: `OBJ_WRITE` reads its tiles and takes them as it completes; `OBJ_READ`
delivers what it can at once or waits; `OBJ_SEAL` of an open version waits for SEAL_COMPLETE; `OBJ_RELEASE` lets a
version go; `OBJ_CLONE` copies a sealed version; `OBJ_QUERY` reads the record asked for. Model choices it rests on: log
entries 15, 34, 76. -/
def Obligations.ObjectsUsed : Prop :=
  ∀ (s : State) (n : Nat) (c : Cmd) (o : Obj),
    let e := c.entry
    let d := s.dev
    let x : Ctx := ⟨n, c⟩
    let h := e.ha
    (∀ v w prod w', Owns s c o → writeChecks x d = .ok (o, v) → d.ver? h v = some w → w.external = some (prod, w') →
      Ready s n 0x11 c → Reads (.objWrite n) n c s 0 o.canon ∧
      (let tile := e.w32 0x24
       let b := o.mask tile (c.input.take o.canon)
       let t : TileEnt := { data := b, sid := 0, dmg := false, prod := prod }
       let read := (d.updVer h v fun _ => w').updCmd n fun k => { k with tiles := k.tiles ++ [(tile, t)] }
       e.w16 0x28 = 1 → c.inl → o.canon ≤ c.input.length → w.staged = true → o.scalesOk b = true →
       d.cmdTiles n = false →
        Ends (.objWrite n) n s ((Cpl.ok []).took (takeTiles n read).1) (takeTiles n read).2 ∧
        (c.tiles = [] → (d.objs.acks.any fun a => a.who == .cmd n) = false →
          Ends (.objWrite n) n s { Cpl.ok [] with results := 1 }
            ((putTile h v tile t (nearAccess w.stack [1, h, v, tile] b.length e.qos true (read.nearUse w.stack))).updCmd n fun k => { k with tiles := [] })))) ∧
    (∀ v, Sees s c (e.w32 0x20) o → layoutOk (e.w32 0x2C) o.th o.tw = true →
      resolveRead o c.tenant (e.w32 0x20) 0x20 = .ok v → e.w32 0x24 + e.w16 0x28 ≤ o.count → d.keyless o.tenant = false →
      d.verDamaged h v = false → Ready s n 0x12 c →
      let (whole, ws, js, d') := askRange e.qos (d.deadlineOf e.qos) c.half h v (e.w32 0x24)
        (delivSize (e.w32 0x2C) o.th o.tw) e.addr (e.w16 0x28) 0 [] [] d
      let cpl : Cpl := { Cpl.of (if whole then .success else .objectDamaged) with
        results := BitVec.ofNat 128 v, data := ws }
      (js = [] → c.fits ((readCpl x o cpl d').1.data.flatMap Wr.data) →
        Ends (.objRead n) n s (readCpl x o cpl d').1 (readCpl x o cpl d').2) ∧
      (js ≠ [] → Waits (.objRead n) n s (d'.updCmd n fun k => { k with ends := some cpl, jobs := js }))) ∧
    (∀ w, Owns s c o → e.w32 0x20 ≠ 0 → o.vers.get? (e.w32 0x20) = some w → w.st = .opened → w.damaged = false →
      d.keyless o.tenant = false → d.redTarget h (e.w32 0x20) = false → d.runOutput h (e.w32 0x20) = false →
      d.anyDamaged h (e.w32 0x20) = false → Ready s n 0x13 c →
      Waits (.objSeal n) n s (startSeal h (e.w32 0x20) (some n) false
        (refuseInFlight h (e.w32 0x20) .alreadySealed d))) ∧
    (∀ w, Owns s c o → e.fld 0x24 0 1 = 0 → e.w32 0x20 ≠ 0 → o.vers.get? (e.w32 0x20) = some w → w.st ≠ .released →
      d.releaseStop h (e.w32 0x20) w = none → Ready s n 0x14 c →
      Ends (.objRelease n) n s (Cpl.ok []) (releaseVersion h (e.w32 0x20) d)) ∧
    (Owns s c o → e.fld 0x24 0 1 = 1 → e.w32 0x20 = 0 →
      (∀ p ∈ o.releasable, d.releaseStop h p.1 p.2 = none) → Ready s n 0x14 c →
      Ends (.objRelease n) n s (Cpl.ok []) (o.releasable.foldl (fun d p => releaseVersion h p.1 d) d)) ∧
    (∀ v src halves half tiles ps d2, Sees s c (e.w32 0x20) o → resolveSealed o c.tenant (e.w32 0x20) 0x20 = .ok v →
      o.vers.get? v = some src → d.keyless o.tenant = false → halvesFor c.half (e.fld 0x25 0 8) d = .ok halves →
      d.anyDamaged h v = false → checkRoom o true d = .ok () →
      let far := d.farCost ((src.tiles.map fun p => d.sectors p.2.sid).sum)
      let copy : Obj := { o with tenant := c.tenant, half := half, vers := [], top := 1, grants := [] }
      checkQuota c.tenant 0 0 far d = .ok () → chooseHalf 0 far d halves = .ok half →
      copyTiles (addObj copy d).1 copy src.tiles [] [] (addObj copy d).2 = some (tiles, ps, d2) → Ready s n 0x15 c →
      let ver : Version := { src with
        staged := true, base := 0, tiles := tiles, added := src.tiles.length,
        stored := (tiles.map fun p => match d2.objs.stored.get? p.2.sid with
          | some t => t.len
          | none => 0).sum
        mapped := 0, sealCmd := none, sealRed := false }
      Ends (.objClone n) n s (Cpl.ok (leBytes 8 (addObj copy d).1)) (markWritten ps (closeStripes ps
        (d2.updObj (addObj copy d).1 fun o => { o with vers := [(1, ver)] })))) ∧
    (e.b20 = 1 → Sees s c 0 o → c.fits (objRecord x h o d) → Ready s n 0x16 c →
      Ends (.objQuery n) n s (Cpl.carry [] e.addr (objRecord x h o d)) d) ∧
    (∀ v w, e.b20 = 2 → Sees s c (e.w32 0x24) o → resolveRead o c.tenant (e.w32 0x24) 0x24 = .ok v →
      o.vers.get? v = some w → c.fits (verRecord w) → Ready s n 0x16 c →
      Ends (.objQuery n) n s (Cpl.carry [] e.addr (verRecord w)) d) ∧
    (∀ v, let out := (codeTile o.fmt o.tr o.tc (d.tileAt h v (e.w32 0x28)).1).1
      e.b20 = 3 → Sees s c 0 o → o.latest c.tenant = some v → e.w32 0x28 < o.count → c.fits out → Ready s n 0x16 c →
      Ends (.objQuery n) n s (Cpl.carry [] e.addr out) d) ∧
    (∀ v w, let out := provRecord x w (e.w32 0x28)
      e.b20 = 4 → Sees s c (e.w32 0x24) o → resolveSealed o c.tenant (e.w32 0x24) 0x24 = .ok v →
      o.vers.get? v = some w → 192 ≤ e.w32 0x28 → c.fits out.1 → Ready s n 0x16 c →
      Ends (.objQuery n) n s (Cpl.carry (leBytes 4 out.2 ++ leBytes 4 w.prods.length) e.addr out.1) d)

/-- R407, R475 to R477, R479, R481, R487, R488: share groups, extents, mappings, losses. `EXTENT_REVOKE` fences its
extent and waits for the holders of its lines; `POISON_CLEAR` of an extent hands its lines to the directory. Model
choices it rests on: log entries 51, 63. -/
def Obligations.WindowCommands : Prop :=
  ∀ (s : State) (n : Nat) (c : Cmd),
    let e := c.entry
    let d := s.dev
    let x : Ctx := ⟨n, c⟩
    (let g := e.fld 0x21 0 8
     (e.b20 = 0 → d.cxl.groups.has g = false → Ready s n 0x93 c → Ends (.shareGroupSet n) n s (Cpl.ok [])
        (d.updCxl fun k => { k with groups := Map.set g (e.w16 0x22) k.groups })) ∧
     (e.b20 = 1 → d.cxl.groups.has g = true → (d.cxl.exts.any fun p => p.2.target == 0x10 + g) = false →
        Ready s n 0x93 c → Ends (.shareGroupSet n) n s (Cpl.ok [])
        (d.updCxl fun k => { k with groups := Map.del g k.groups }))) ∧
    (let target := e.fld 0x21 0 8
     let t := e.fld 0x22 0 10
     let off := e.w64 0x28
     let len := e.w64 0x30
     let num := d.objs.nextNum.getD t 1
     let h := mkHandle t 6 num
     let taken := d.updObjs fun p => { p with nextNum := Map.set t (num + 1) p.nextNum }
     let ext (half : Nat) : Extent :=
       { writable := e.b20 == 0, target := target, tenant := t, qos := e.fld 0x24 0 12, half := half, offset := off,
         length := len, serial := if e.b20 = 0 then d.integ.serial.getD half 0 else 0, lines := [], poison := [],
         revoker := none, lostIn := 0, hostLost := false }
     d.defined t = true → (target < 4 ∨ d.cxl.groups.has (target - 0x10) = true) → off % 2 ^ 21 = 0 → len % 2 ^ 21 = 0 →
      len ≠ 0 → off + len ≤ windowLimit → d.labelOf t (e.fld 0x24 0 12) = true →
      (d.cxl.exts.find? fun p => d.extOverlaps (d.targetHosts target) off len p.2) = none → d.cxl.exts.length < 4096 →
      d.objectCount < 16777216 →
      (e.b20 = 1 → Ready s n 0x90 c → Ends (.extentAssign n) n s (Cpl.ok (leBytes 8 h))
        (taken.updCxl fun k => { k with exts := Map.set h (ext (hostHalf target)) k.exts })) ∧
      (∀ halves half, e.b20 = 0 → halvesFor c.half (e.fld 0x26 0 8) d = .ok halves → checkQuota t 0 len 0 d = .ok () →
        chooseHalf len 0 d halves = .ok half → Ready s n 0x90 c →
        Ends (.extentAssign n) n s (Cpl.ok (leBytes 8 h)) (addNear t half len ((taken.updCxl fun k => { k with
          exts := Map.set h (ext half) k.exts }).updInteg fun i => { i with
            serial := i.serial.modify half (· + 1) })))) ∧
    (∀ w, hTenant e.ha = c.tenant → d.ext? e.ha = some w → w.revoker = none → Ready s n 0x91 c →
      Waits (.extentRevoke n) n s (askDir e.ha 0 (if w.writable then w.length / 64 else 0) (.revoke n)
        (d.updExt e.ha fun w => { w with revoker := some n }))) ∧
    (∀ o w v, let off := e.w64 0x28
      let len := roundUp (o.count * o.canon) 4096
      let id := d.cxl.maps.firstFree 0
      let m : Mapping := { ext := e.hb, obj := e.ha, ver := v, offset := off, length := len, tenant := c.tenant,
                           closer := none }
      Sees s c (e.w32 0x20) o → hTenant e.hb = c.tenant → d.ext? e.hb = some w → w.writable = false →
      w.tenant = c.tenant → w.revoker = none →
      (x.fn? d).map (· / 256) = some w.target → resolveSealed o c.tenant (e.w32 0x20) 0x20 = .ok v →
      d.keyless o.tenant = false → off % 4096 = 0 → off + len ≤ w.length →
      (d.cxl.maps.find? fun p => p.2.ext == e.hb && overlaps p.2.offset p.2.length off len) = none →
      d.cxl.maps.length < 65536 → Ready s n 0x17 c →
      Ends (.objMapHost n) n s (Cpl.ok (leBytes 4 id ++ leBytes 4 v ++ leBytes 8 len))
        ((d.updCxl fun k => { k with maps := Map.set id m k.maps }).updVer e.ha v fun v => { v with
          mapped := v.mapped + 1 })) ∧
    (∀ m, d.cxl.maps.get? (e.w32 0x20) = some m → m.tenant = c.tenant → m.closer = none → Ready s n 0x18 c →
      Waits (.objUnmapHost n) n s (reapMaps (d.updCxl fun k => { k with
        maps := Map.upd (e.w32 0x20) (fun m => { m with closer := some n }) k.maps }))) ∧
    (∀ ev, d.cxl.events.get? (e.w32 0x24) = some ev →
      (e.b20 = 1 → Ready s n 0x92 c → Ends (.hostLossAck n) n s (Cpl.ok [])
        (d.updCxl fun k => { k with events := Map.del (e.w32 0x24) k.events })) ∧
      (let l := (ev.ranges.1.drop (e.w32 0x28)).take (e.w32 0x2C)
       let out := l.flatMap (rangeEntry ev.ranges.2)
       e.b20 = 0 → c.fits out → Ready s n 0x92 c → Ends (.hostLossAck n) n s (Cpl.carry (leBytes 4 ev.ranges.1.length ++
        leBytes 4 l.length ++ leBytes 1 (b2n ev.ranges.2)) e.addr out) d)) ∧
    (∀ w, let off := e.w64 0x28
      let len := e.w64 0x30
      isExtent e.ha = true → hTenant e.ha = c.tenant → d.ext? e.ha = some w → w.writable = true → w.revoker = none →
      (d.pwr.sable = false ∨ c.half = w.half) → off % 64 = 0 → len % 64 = 0 → off + len ≤ w.length →
      d.keyless w.tenant = false → Ready s n 0x84 c →
      Waits (.poisonClear n) n s (askDir e.ha (off / 64) (len / 64) (.clear n) d)) ∧
    (∀ o w prod w', let v := e.w32 0x20
      let l := d.damagedIn e.ha v (e.w32 0x24) (e.w32 0x28)
      isExtent e.ha = false → Owns s c o → v ≠ 0 → o.vers.get? v = some w → w.st = .opened → w.damaged = false →
      e.w32 0x24 + e.w32 0x28 ≤ o.count → d.keyless o.tenant = false → l ≠ [] → w.external = some (prod, w') →
      Ready s n 0x84 c → Ends (.poisonClear n) n s (Cpl.ok (leBytes 8 l.length)) (l.foldl (fun d i =>
        putTile e.ha v i { data := o.zeroTile, sid := 0, dmg := false, prod := prod } d)
        (d.updVer e.ha v fun _ => w')))

/-- R144 to R148, R160 to R175, R414 to R416: claims, schedules, hints, placement, evacuation. A claim's `RESIDE` that
does not ask to wait ends at once; one that asks ends at once where nothing is left to promote. Model choices it rests
on: log entries 13, 18, 20, 27, 76. -/
def Obligations.TierCommands : Prop :=
  ∀ (s : State) (n : Nat) (c : Cmd),
    let e := c.entry
    let d := s.dev
    let x : Ctx := ⟨n, c⟩
    (∀ o v, let first := e.w32 0x24
      let count := e.w32 0x28
      let sids := (fromTo first count).map (d.sidOf e.ha v)
      let charge := (sids.map d.copySize).sum
      let id := d.tiers.claims.firstFree 0
      let k : Claim := { tenant := c.tenant, obj := e.ha, ver := v, first := first, count := count, charge := charge,
                         qos := e.qos, waiter := none }
      let d1 := d.updTiers fun t => { t with claims := Map.set id k t.claims }
      let d' := holdRange e.qos e.ha v first count (d1.pickStack o.half []) d1
      Sees s c (e.w32 0x20) o → resolveSealed o c.tenant (e.w32 0x20) 0x20 = .ok v → first + count ≤ o.count →
      d.tiers.claims.length < 1048576 → checkQuota c.tenant 0 charge 0 d = .ok () →
      d.short o.half (d.absentBytes sids) 0 = (0, 0) → Ready s n 0x20 c →
      (e.fld 0x2C 0 1 = 0 → Ends (.reside n) n s (Cpl.ok (k.results id)) d') ∧
      (e.fld 0x2C 0 1 = 1 → d'.claimReady k = true → Ends (.reside n) n s (d'.claimCpl id k) d') ∧
      (e.fld 0x2C 0 1 = 1 → d'.claimReady k = false → Waits (.reside n) n s (d'.updTiers fun t => { t with
        claims := Map.upd id (fun k => { k with waiter := some n }) t.claims }))) ∧
    (∀ k, d.tiers.claims.get? (e.w32 0x20) = some k → k.tenant = c.tenant → Ready s n 0x21 c →
      Ends (.unreside n) n s (Cpl.ok (leBytes 8 k.charge))
        (evalScheds (endClaim (e.w32 0x20) (errS .aborted) d))) ∧
    (d.ownsCounter c.tenant (e.fld 0x24 0 17) = true →
      (d.pwr.sable = false ∨ c.half = dieHalf (counterDie (e.fld 0x24 0 17))) → Ready s n 0x22 c → e.w32 0x20 ≠ 0 →
      Reads (.scheduleLoad n) n c s 0 (32 * e.w32 0x20) ∧
      ∀ ents, let id := d.tiers.scheds.firstFree 0
        let k : Sched :=
          { tenant := c.tenant, half := c.half, counter := e.fld 0x24 0 17, ahead := e.fld 0x28 0 8,
            stageA := e.fld 0x29 0 8, early := e.fld 0x2A 0 1 == 1, layout := e.w32 0x2C, period := e.fld 0x30 0 48,
            port := e.fld 0x38 0 8, qos := e.qos, ents := ents, hints := [], stopped := false }
        let d' := d.updTiers fun t => { t with scheds := Map.set id k t.scheds }
        c.inl → 32 * e.w32 0x20 ≤ c.input.length → schedEnts x d (e.fld 0x30 0 48) (e.fld 0x28 0 8) (e.w32 0x2C) 0 0
          (chunks 32 (e.w32 0x20) (c.input.take (32 * e.w32 0x20))) = .ok ents → d.tiers.scheds.length < 4096 →
        d.schedEntries + e.w32 0x20 ≤ 16777216 → Ends (.scheduleLoad n) n s (Cpl.ok (leBytes 4 id))
          (evalSched id (d'.ctrVal k.counter) (d'.ctrVal k.counter) d')) ∧
    (∀ k, d.sched? (e.w32 0x20) = some k → k.tenant = c.tenant →
      (Ready s n 0x23 c → Ends (.scheduleDrop n) n s (Cpl.ok []) (evalScheds (dropSched (e.w32 0x20) d))) ∧
      (∀ m, let l := hintPairs (e.bytes.drop 0x28) (e.w16 0x26)
        let layer := e.w16 0x24
        e.addr = 0 → badPair l = none → Ready s n 0x24 c →
        (k.layerOcc layer (d.ctrVal k.counter) = none → Ends (.routeHint n) n s (Cpl.ok []) (bumpTenant c.tenant 12 1 d)) ∧
        (k.layerOcc layer (d.ctrVal k.counter) = some m → Ends (.routeHint n) n s (Cpl.ok [])
          (evalSched (e.w32 0x20) (d.ctrVal k.counter) (d.ctrVal k.counter) (d.updSched (e.w32 0x20) fun k => { k with
            hints := k.hints.filter (fun h => !(h.layer == layer && h.occ == m)) ++ [⟨layer, m, l⟩] }))))) ∧
    (let a := e.w64 0x30
     let len := e.w32 0x38
     a % 64 = 0 → len % 64 = 0 → len ≤ 2 ^ 24 → d.hasMem a len = true →
      (e.b20 = 2 → c.fits (rawRead a len d).1 → Ready s n 0x25 c →
        Ends (.placeCmd n) n s (Cpl.carry [] e.addr (rawRead a len d).1) (rawRead a len d).2) ∧
      (e.b20 = 3 → len ≠ 0 → ((fromTo a len).any d.rawBarred) = false → Ready s n 0x25 c →
        Reads (.placeCmd n) n c s 0 len ∧ (c.inl → len ≤ c.input.length →
          Ends (.placeCmd n) n s (Cpl.ok []) (rawWrite a (c.input.take len) d)))) ∧
    (∀ o v, Sees s c (e.w32 0x24) o → resolveSealed o c.tenant (e.w32 0x24) 0x24 = .ok v →
      e.w32 0x28 + e.w32 0x2C ≤ o.count →
      (∀ cpl d', e.b20 = 0 → pinTiles x o v d = .ok (.done cpl d') → cpl.bytes ≤ 4032 → Ready s n 0x25 c →
        Ends (.placeCmd n) n s cpl d') ∧
      (∀ cpl d', e.b20 = 1 → unpinTiles e v d = .ok (.done cpl d') → cpl.bytes ≤ 4032 → Ready s n 0x25 c →
        Ends (.placeCmd n) n s cpl d')) ∧
    (let all := d.evacList fun h o => e.b20 == 0 || (e.b20 == 1 && o.tenant == e.fld 0x22 0 10) ||
       (e.b20 == 2 && h == e.ha)
     let seen := all.filter fun p => e.b20 != 2 || (match d.obj? p.2.1 with
       | some o => o.tenant == c.tenant || o.covers c.tenant p.2.2
       | none => false)
     let (r, rest) := evacAll d c.half (e.w64 0x28 - 64) seen
       { data := [], vers := 0, path := 0, keys := 0, tiles := 0, dmg := 0 }
     let next := if rest.isSome then d.integ.cursors.length + 1 else 0
     let sum := leBytes 8 r.data.length ++ leBytes 8 next ++ leBytes 4 r.vers ++ leBytes 4 r.path ++ leBytes 4 r.keys ++
       leBytes 4 r.tiles ++ leBytes 4 r.dmg ++ zeros 28
     (e.b20 = 0 ∨ e.b20 = 1 ∧ d.defined (e.fld 0x22 0 10) = true ∨ e.b20 = 2 ∧ ∃ o, Sees s c 0 o) → 64 ≤ e.w64 0x28 → e.w64 0x30 = 0 →
      c.fits (r.data ++ sum) → Ready s n 0x19 c →
      Ends (.evacuate n) n s { Cpl.ok (leBytes 8 r.data.length ++ leBytes 8 next) with
        status := if r.path ≠ 0 then .pathLost else if r.tiles ≠ 0 then .objectDamaged else .success
        data := [⟨e.addr, r.data ++ sum⟩] }
        (match rest with
          | none => d
          | some p => d.updInteg fun i => { i with cursors := i.cursors ++ [p] }))

/-- R180 to R184, R206, R207, R215 to R218, R227 to R230: streams and reductions. A `STREAM_OPEN` makes an opening
context and waits for HARDWARE_CONTEXT_AVAILABLE; a `STREAM_CLOSE` closes and waits for STREAM_CLOSED; it and a
`STREAM_QUERY` of a parked context wait until that is restored; a `REDUCE_FINISH` waits, or ends at once where every tile
has settled. Model choices it rests on: log entry 51. -/
def Obligations.StreamCommands : Prop :=
  ∀ (s : State) (n : Nat) (c : Cmd),
    let e := c.entry
    let d := s.dev
    let x : Ctx := ⟨n, c⟩
    let id := e.w32 0x20
    (∀ v, openChecks x d = .ok v → Ready s n 0x30 c → Waits (.streamOpen n) n s (openStream x v d)) ∧
    (∀ k, d.str? id = some k → k.tenant = c.tenant → k.st ≠ .opening → k.st ≠ .closing → Ready s n 0x31 c →
      let abort := e.fld 0x24 0 1 == 1
      let d1 := dropParts id k (d.updStr id fun k => { k with
        st := .closing, closeCmd := some n, abortC := abort, touch := d.now })
      let parked := d.updStr id fun k => { k with restoring := true, held := k.held ++ [.cmd n] }
      (k.hw = true → Waits (.streamClose n) n s (if abort then
        sweepJobs (endWork id Status.aborted.code Status.aborted.code [] d1) else d1)) ∧
      (k.hw = false → Waits (.streamClose n) n s parked)) ∧
    (∀ k, d.str? id = some k → k.tenant = c.tenant → Ready s n 0x32 c →
      let out := d.streamRecord { k with touch := d.now }
      let parked := d.updStr id fun k => { k with restoring := true, held := k.held ++ [.cmd n] }
      ((k.hw = true ∨ k.st = .opening) → c.fits out → Ends (.streamQuery n) n s (Cpl.carry [] e.addr out)
        (d.updStr id fun k => { k with touch := d.now })) ∧
      (k.hw = false → k.st ≠ .opening → Waits (.streamQuery n) n s parked)) ∧
    (∀ o w, redChecks x d = .ok (o, w) → e.addr ≠ 0 → e.w16 0x2C ≠ 0 → Ready s n 0x40 c →
      Reads (.reduceOpen n) n c s 0 (16 * e.w16 0x2C)) ∧
    (∀ o w, let ver := e.w32 0x20
      let first := e.w32 0x24
      let count := e.w32 0x28
      let fast := e.fld 0x32 0 1 == 1
      let ctr := e.fld 0x34 0 17
      let want := slotsFor (e.w16 0x30) o.n
      let slots := d.takeSlots o.half want
      let slot := lowestFree (d.reds.reds.keys.map (· % 4096))
      let gen := match d.reds.gens.get? slot with
        | some g => (g + 1) % 2 ^ 20
        | none => 0
      let rid := slot + 4096 * gen
      let srcs := (List.range (e.w16 0x2C)).map fun _ =>
        { target := 0, batch := 0, owed := 0, stream := none : RedSource }
      let p : Producer := { kind := 4, loc := rid, run := 0, body := redBody e fast o.fmt, tail := [], nd := fast,
                            inNd := false, part := false, supplied := 0 }
      let r : Red :=
        { tenant := c.tenant, obj := e.ha, ver := ver, first := first, count := count, n := e.w16 0x2C,
          e := if fast then 0 else sbyte (e.fld 0x2E 0 8), cfmt := e.fld 0x2F 0 8, window := e.w16 0x30, fast := fast,
          counter := ctr, qos := e.qos, base := d.ctrVal ctr, retired := 0, slots := slots, charge := want * 262144, sources := srcs,
          tiles := [], done := [], finish := none, finTick := 0, finSeal := false, ended := none,
          prod := w.prods.length }
      redChecks x d = .ok (o, w) → e.addr = 0 → w.staged = true →
      (d.strs.strs.any fun p => p.2.kind == 1 && p.2.obj == e.ha && p.2.ver == ver) = false →
      d.runOutput e.ha ver = false →
      (d.reds.reds.any fun p => p.2.ended.isNone && p.2.obj == e.ha && overlaps p.2.first p.2.count first count) = false →
      d.retireCtr ctr = false → (d.tiers.scheds.any fun p => p.2.counter == ctr) = false → d.reds.reds.length < 4096 →
      w.full = false → checkQuota c.tenant (want * 262144) 0 0 d = .ok () → slots.length = want → Ready s n 0x40 c →
      ∃ t, exec (.reduceOpen n) s = .next t ∧ t = s.after (finishCmd n
        (Cpl.ok (leBytes 4 rid ++ leBytes 6 (d.ctrVal ctr) ++ leBytes 2 want ++ zeros 4))
        (let d' := d.updVer e.ha ver fun v => { v with prods := v.prods ++ [p] }
         { d' with reds := { reds := Map.set rid r d'.reds.reds, gens := Map.set slot gen d'.reds.gens } }))) ∧
    (∀ r, d.red? id = some r → r.tenant = c.tenant → r.finish = none →
      (Ready s n 0x41 c → exec (.reduceFinish n) s = .next (s.after
        (reduceFinishNow n (parkCmd n (d.updRed id fun r => { r with
          finish := some n, finTick := d.now + e.w32 0x24, finSeal := e.fld 0x28 0 1 == 1 }))))) ∧
      (Ready s n 0x42 c → Ends (.reduceAbort n) n s (Cpl.ok (leBytes 4 (d.redNow id r).tally.1))
        (freeRed id (if r.ended.isSome then d else closeRed id .aborted d))))

/-- R235 to R246, R258, R260, R261: kernels and expert bindings. `KERNEL_LOAD` of a library kernel makes it at once, of
a binary reads it first; `KERNEL_RUN` and BIND read their arguments first; `KERNEL_ABORT` ends the run and waits for its
completion. Model choices it rests on: log entries 7, 13, 14. -/
def Obligations.KernelCommands : Prop :=
  ∀ (s : State) (n : Nat) (c : Cmd),
    let e := c.entry
    let d := s.dev
    let x : Ctx := ⟨n, c⟩
    (let halves := if d.pwr.sable then [c.half] else [c.half, 1 - c.half]
     let num := d.objs.nextNum.getD c.tenant 1
     let handle := mkHandle c.tenant 5 num
     let charge (len : Nat) := roundUp (2 * len) 4096
     let copy (len : Nat) := roundUp len 4096
     let d1 := d.updObjs fun p => { p with nextNum := Map.set c.tenant (num + 1) p.nextNum }
     let kern (lib : Nat) (h code : Bytes) : Kernel :=
       { tenant := c.tenant, header := h, code := wordsOf code, charge := charge (256 + code.length), lib := lib
         copies := [0, 1].map fun half => if halves.contains half then some (d1.pickStack half []) else none }
     let made (lib : Nat) (h code : Bytes) : Dev :=
       (halves.foldl (fun d half => addNearH half (copy (256 + code.length)) d)
         (addNearT c.tenant (charge (256 + code.length)) d1)).updComp fun m => { m with
           kernels := Map.set handle (kern lib h code) m.kernels }
     let room (len : Nat) : Prop := checkQuota c.tenant 0 (charge len) 0 d = .ok () ∧
       ∀ half ∈ halves, d.short half (copy len) 0 = (0, 0)
     let res (len : Nat) := Cpl.ok (leBytes 8 handle ++ leBytes 8 (charge len))
     d.comp.kernels.length < 16384 → d.objectCount < 16777216 → Ready s n 0x50 c →
      (let id := e.w16 0x26
       let code := (libBinary id).drop 256
       e.fld 0x24 0 8 = 1 → id ∈ libIds → room (256 + code.length) →
        Ends (.kernelLoad n) n s (res (256 + code.length)) (made id ((libBinary id).take 256) code)) ∧
      (let b := c.input.take (e.w32 0x20)
       let h := b.take 256
       let code := b.drop 256
       e.fld 0x24 0 8 = 0 → 264 ≤ e.w32 0x20 → e.w32 0x20 ≤ 256 + 8 * 65536 →
        Reads (.kernelLoad n) n c s 0 (e.w32 0x20) ∧
        (c.inl → e.w32 0x20 ≤ c.input.length → badHeader h = none → e.w32 0x20 = 256 + 8 * hWords h →
          ((wordsOf code).findIdx? fun w => !wordOk h w) = none → kernelDigest h code = hDigest h →
          room (256 + code.length) → Ends (.kernelLoad n) n s (res (256 + code.length)) (made 0 h code)))) ∧
    (∀ k cores degraded, runKernel x d = .ok k → checkRunUnit c.tenant k (e.w32 0x20) 0x20 d = .ok (cores, degraded) →
      let len := 16 * hArgs k.header + hParams k.header
      Ready s n 0x51 c →
      (len ≠ 0 → Reads (.kernelRun n) n c s 0 len) ∧
      (∀ d', c.inl → len ≠ 0 → len ≤ c.input.length → startRun x k cores degraded (c.input.take len) d = .ok (.wait d') →
        Waits (.kernelRun n) n s d' ∧ d'.comp.nextRun = d.comp.nextRun + 1 ∧
        ∃ r, d'.run? d.comp.nextRun = some r ∧ r.by' = .cmd n ∧ r.tenant = c.tenant ∧ r.kernel = e.ha ∧ r.slices = [] ∧
          r.phase = 0 ∧ r.doneN = 0 ∧ r.params = (c.input.take len).drop (16 * hArgs k.header) ∧ r.seed = e.w64 0x28)) ∧
    (∀ i r m, d.comp.runs.find? (fun p => p.2.qp == e.w16 0x20 && p.2.tag == e.w16 0x22 && e.w16 0x20 != 0xFFFF) =
        some (i, r) → r.tenant = c.tenant → r.by' = .cmd m →
      let d' := if r.ending then d else endRun i .aborted 0 d
      Ready s n 0x52 c →
      ((d'.cmd? m).isNone = true → Ends (.kernelAbort n) n s (Cpl.ok []) d') ∧
      ((d'.cmd? m).isNone = false → Waits (.kernelAbort n) n s
        (d'.updComp fun k => { k with aborts := k.aborts ++ [(n, m)] }))) ∧
    (∀ k, d.kernel? e.ha = some k → k.tenant = c.tenant → (d.comp.runs.any fun p => p.2.kernel == e.ha) = false →
      (d.comp.sets.any fun p => p.2.binds.any fun b => b.2.kernel == e.ha) = false →
      let copy := roundUp (256 + 8 * k.code.length) 4096
      Ready s n 0x53 c → Ends (.kernelUnload n) n s (Cpl.ok []) ((([0, 1].zip k.copies).foldl (fun d p =>
        if p.2.isSome then subNearH p.1 copy d else d) (subNearT k.tenant k.charge d)).updComp fun m => { m with
          kernels := Map.del e.ha m.kernels })) ∧
    (e.b20 = 0 → d.comp.sets.length < 4096 → Ready s n 0x54 c → Ends (.expertBind n) n s
      (Cpl.ok (leBytes 4 (d.comp.sets.firstFree 0))) (d.updComp fun m => { m with
        sets := Map.set (d.comp.sets.firstFree 0) { tenant := c.tenant, binds := [] } m.sets })) ∧
    (∀ k set, let len := 16 * hArgs k.header + hParams k.header
      e.b20 = 1 → bindKernel x d = .ok k → ownSet x d = .ok set → len ≠ 0 → Ready s n 0x54 c →
      Reads (.expertBind n) n c s 0 len ∧
      ∀ d', c.inl → len ≤ c.input.length → bindExpert x (c.input.take len) d = .ok (.done (Cpl.ok []) d') →
        Ends (.expertBind n) n s (Cpl.ok []) d' ∧ ∃ y : Binding, y.kernel = e.ha ∧ y.small = e.w32 0x28 ∧
          y.large = e.w32 0x2C ∧ y.thresh = e.w16 0x30 ∧ y.din = e.w16 0x34 ∧ y.dout = e.w16 0x36 ∧ y.times = [] ∧
          d' = d.updComp fun m => { m with sets := Map.upd (e.w32 0x24) (fun k => { k with
            binds := Map.set (e.w16 0x22) y k.binds }) m.sets }) ∧
    (∀ set, ownSet x d = .ok set →
      let id := e.w32 0x24
      let ex := e.w16 0x22
      let d' := d.updComp fun m => { m with
        sets := Map.upd id (fun k => { k with binds := Map.del ex k.binds }) m.sets }
      (e.b20 = 2 → set.binds.has ex = true → Ready s n 0x54 c →
        ((d.comp.batches.any fun b => b.2.set == id && b.2.expert == ex && b.2.run != 0) = false →
          Ends (.expertBind n) n s (Cpl.ok []) d') ∧
        ((d.comp.batches.any fun b => b.2.set == id && b.2.expert == ex && b.2.run != 0) = true →
          Waits (.expertBind n) n s (d'.updComp fun m => { m with unbinds := m.unbinds ++ [(n, id, ex)] }))) ∧
      (e.b20 = 3 → (d.strs.strs.any fun p => p.2.kind == 3 && p.2.binding == id) = false → Ready s n 0x54 c →
        Ends (.expertBind n) n s (Cpl.ok []) (d.updComp fun m => { m with sets := Map.del id m.sets })))

/-- R317 to R322: flags, counters, herds. `FLAG_ALLOC` maps clear flags, `FLAG_FREE` of clear flags unmaps them,
`FLAG_SET` and `FLAG_CLEAR` answer the value before, and count one that is refused (R308); `COUNTER_ALLOC` starts counters at a value, an add answers the
value after, `COUNTER_FREE` the first counter's; `HERD_DEFINE` and `HERD_FREE`. Model choices it rests on: log entry 51.
-/
def Obligations.SyncCommands : Prop :=
  ∀ (s : State) (n : Nat) (c : Cmd),
    let e := c.entry
    let d := s.dev
    let t := c.tenant
    let near (half : Nat) : Prop := d.pwr.sable = false ∨ c.half = half
    (∀ die v, let k := e.w16 0x20
      let first := e.w16 0x22
      let ids := d.flagIds t
      let phys := d.freeFlags die k
      (first = 0xFFFF ∨ first + k ≤ 0xFFFF ∧ (ids.any fun i => decide (first ≤ i ∧ i < first + k)) = false) →
      die = (if e.fld 0x24 0 8 = 0xFF then d.bestFlagDie c.half else e.fld 0x24 0 8) → near (dieHalf die) →
      (if first = 0xFFFF then firstGap ids 0 0xFFFF k else some first) = some v →
      ids.length + k ≤ d.syncLimit 0 32 → phys.length = k → Ready s n 0x60 c →
      Ends (.flagAlloc n) n s (Cpl.ok (leBytes 2 v)) (((List.range k).zip phys).foldl (fun d p => d.updSync fun y => { y with
        flags := Map.set p.2 { tenant := t, vid := v + p.1, set := false, quar := false } y.flags }) d)) ∧
    (∀ ps, d.flagRange t (e.w16 0x22) (e.w16 0x20) = some ps → (∀ p ∈ ps, near (flagDie p |> dieHalf)) →
      (d.sync.waits.any fun w => match w.2.what with
        | .flag p _ => ps.contains p
        | _ => false) = false →
      (∀ p ∈ ps, ∀ f, d.flag? p = some f → f.set = false ∧ f.quar = false) → Ready s n 0x61 c →
      Ends (.flagFree n) n s (Cpl.ok (leBytes 2 0)) (ps.foldl (fun d p => d.updSync fun y => { y with
        flags := Map.del p y.flags }) (bumpTenant t 29 0 d))) ∧
    (∀ p f, d.physFlag t (e.w16 0x20) = some p → d.flag? p = some f → near (flagDie p |> dieHalf) →
      (e.fld 0x22 0 8 = 0 → f.quar = false → Ready s n 0x62 c →
        Ends (.flagSet n) n s (Cpl.ok (leBytes 1 (b2n f.set))) (setFlag p d)) ∧
      (Ready s n 0x63 c → Ends (.flagClear n) n s (Cpl.ok (leBytes 1 (b2n f.set)))
        (if f.quar then d.updSync fun y => { y with flags := Map.del p y.flags } else clearFlag p d))) ∧
    (d.physFlag t (e.w16 0x20) = none → (e.fld 0x22 0 8 = 0 → Ready s n 0x62 c →
        Ends (.flagSet n) n s (errF 0x20) (syncRefused t d)) ∧
      (Ready s n 0x63 c → Ends (.flagClear n) n s (errF 0x20) (syncRefused t d))) ∧
    (let k := e.fld 0x24 0 17
     let d' := addCounter k (e.fld 0x28 0 48) d
     e.fld 0x22 0 8 = 1 → d.ownsCounter t k = true → near (dieHalf (counterDie k)) → d.retireCtr k = false →
      Ready s n 0x62 c → Ends (.flagSet n) n s (Cpl.ok (leBytes 6 (d'.ctrVal k))) d') ∧
    (∀ die first, let k := e.w16 0x20
      let a := 2 * c.half
      let best := if d.freeCounters a < d.freeCounters (a + 1) then a + 1 else a
      die = (if e.fld 0x28 0 8 = 0xFF then best else e.fld 0x28 0 8) → near (dieHalf die) →
      (d.sync.counters.filter fun p => p.2.tenant == t).length + k ≤ d.syncLimit 4 32 →
      oldestRun d.sync.counters.keys die k d.sync.freed = some first → Ready s n 0x64 c →
      Ends (.counterAlloc n) n s (Cpl.ok (leBytes 4 first)) (d.updSync fun y => { y with
        counters := (fromTo first k).foldl (fun m i =>
          Map.set i { tenant := t, val := BitVec.ofNat 48 (e.fld 0x30 0 48) : Counter } m) y.counters
        freed := y.freed.filter fun i => !decide (first ≤ i ∧ i < first + k) })) ∧
    (let k := e.w16 0x20
     let first := e.fld 0x24 0 17
     let hit (i : Nat) : Bool := decide (first ≤ i ∧ i < first + k)
     (fromTo first k).all (d.ownsCounter t) = true → near (dieHalf (counterDie first)) →
      near (dieHalf (counterDie (first + k - 1))) → (d.sync.waits.any fun w => match w.2.what with
        | .counter i _ => hit i
        | _ => false) = false → (d.tiers.scheds.any fun y => hit y.2.counter) = false →
      (d.reds.reds.any fun r => r.2.ended.isNone && hit r.2.counter) = false → Ready s n 0x65 c →
      Ends (.counterFree n) n s (Cpl.ok (leBytes 8 (d.ctrVal first))) (d.updSync fun y => { y with
        counters := Map.keep (fun i _ => !hit i) y.counters, freed := y.freed ++ fromTo first k })) ∧
    (∀ notify die, let len := 128 + 8 * e.fld 0x26 0 8
      let b := c.input.take len
      let mask := setBits 1024 (leNat (b.take 128))
      let id := d.sync.herds.firstFree 0
      let h : Herd := { tenant := t, home := die, mask := mask, g := 0, a := [], n := [], broken := false,
                        relFlag := e.w16 0x24, notify := notify, timeout := e.w32 0x28, dueAt := none }
      e.b20 = 0 → Ready s n 0x66 c → Reads (.herdDefine n) n c s 0 len ∧
      (c.inl → len ≤ c.input.length → mask ≠ [] →
        (e.w16 0x24 = 0xFFFF ∨ ∃ p, d.physFlag t (e.w16 0x24) = some p ∧ near (dieHalf (flagDie p))) →
        notifyList t d b (e.fld 0x26 0 8) = .ok notify →
        die = (if e.fld 0x27 0 8 = 0xFF then d.bestFlagDie c.half else e.fld 0x27 0 8) → near (dieHalf die) →
        d.sync.herds.length < 4096 → (d.sync.herds.filter fun p => p.2.tenant == t).length < d.syncLimit 8 16 →
        Ends (.herdDefine n) n s (Cpl.ok (leBytes 2 id)) (d.updSync fun y => { y with herds := Map.set id h y.herds }))) ∧
    (∀ h, d.herdOf t (e.w16 0x20) = some h → near (dieHalf h.home) →
      (d.sync.waits.any fun w => match w.2.what with
        | .herd k _ => k == e.w16 0x20
        | _ => false) = false → Ready s n 0x67 c →
      Ends (.herdFree n) n s (Cpl.ok []) (d.updSync fun y => { y with herds := Map.del (e.w16 0x20) y.herds }))

/-- R321: `WAIT` on a flag that is set, or a counter that has reached its target, ends at once with the tick of the
release, a TAKE consuming the flag; else it registers a record and waits. A POLL ends at once. -/
def Obligations.WaitCommand : Prop :=
  ∀ (s : State) (n : Nat) (c : Cmd),
    let e := c.entry
    let d := s.dev
    let t := c.tenant
    let form := e.fld 0x21 0 8
    let near (half : Nat) : Prop := d.pwr.sable = false ∨ c.half = half
    let record (what : WaitFor) (vid : Nat) : WaitRec :=
      { who := .cmd n, what := what, index := e.w32 0x30, order := 0, deadline := some (d.now + e.w32 0x34),
        vid := vid, tenant := t }
    (∀ p f, let vid := e.w16 0x22
      e.b20 = 0 → d.physFlag t vid = some p → d.flag? p = some f → near (flagDie p |> dieHalf) → f.quar = false →
      Ready s n 0x68 c →
      (form = 2 → Ends (.waitCmd n) n s (Cpl.ok (leBytes 8 (b2n f.set) ++ leBytes 8 0)) d) ∧
      (form = 0 → f.set = true → Ends (.waitCmd n) n s (Cpl.ok (leBytes 8 1 ++ leBytes 8 d.now)) d) ∧
      (form = 1 → f.set = true → Ends (.waitCmd n) n s (Cpl.ok (leBytes 8 1 ++ leBytes 8 d.now))
        (d.updFlag p fun f => { f with set := false })) ∧
      (form ≠ 2 → f.set = false → d.sync.waits.length < 1048576 →
        Waits (.waitCmd n) n s (addWait (record (.flag p (form == 1)) vid) d))) ∧
    (let k := e.fld 0x24 0 17
     let target := e.fld 0x28 0 48
     e.b20 = 1 → d.ownsCounter t k = true → near (dieHalf (counterDie k)) → Ready s n 0x68 c →
      (form = 2 → Ends (.waitCmd n) n s (Cpl.ok (leBytes 8 (d.ctrVal k) ++ leBytes 8 0)) d) ∧
      (form = 0 → 0 ≤ serialDiff (d.ctrVal k) target →
        Ends (.waitCmd n) n s (Cpl.ok (leBytes 8 (d.ctrVal k) ++ leBytes 8 d.now)) d) ∧
      (form = 0 → serialDiff (d.ctrVal k) target < 0 → d.sync.waits.length < 1048576 →
        Waits (.waitCmd n) n s (addWait (record (.counter k target) k) d))) ∧
    (∀ h, let id := e.fld 0x22 0 12
      e.b20 = 2 → form = 2 → d.herdOf t id = some h → near (dieHalf h.home) → Ready s n 0x68 c →
      Ends (.waitCmd n) n s (Cpl.ok (leBytes 8 (h.g + 2 * b2n h.broken + 2 ^ 16 * h.a.length) ++ leBytes 8 0)) d)

/-- R345 to R348, R359, R360: `QOS_RESERVE` of an admitted reservation assigns a regulator under the index asked for or
the lowest free one, or has the change take force at the next window; `QOS_RELEASE` and `QOS_QUERY`. -/
def Obligations.RegulationCommands : Prop :=
  ∀ (s : State) (n : Nat) (c : Cmd),
    let e := c.entry
    let d := s.dev
    let x : Ctx := ⟨n, c⟩
    let t := e.fld 0x28 0 10
    let cls := e.fld 0x20 0 2
    let w := e.w16 0x24
    (∀ r es, let want := e.fld 0x22 0 10
      let b := c.input.take (16 * e.fld 0x26 0 8)
      let g : Reg := { tenant := t, cls := cls, window := w, win := d.now / w
                       ents := es.map fun y => { y with budget := y.guar }, cuts := [], next := none, lastMiss := 0
                       lastRec := none }
      reserveTarget x d = .ok none → cls ≠ 0 → e.fld 0x26 0 8 ≠ 0 → Ready s n 0x70 c →
      Reads (.qosReserve n) n c s 0 (16 * e.fld 0x26 0 8) ∧
      (c.inl → 16 * e.fld 0x26 0 8 ≤ c.input.length → qEntries t d 0 [] (chunks 16 (e.fld 0x26 0 8) b) = .ok es →
        (if want = 0 then (fromTo 1 1023).find? d.regFree else some want) = some r →
        (t = 0 ∨ (d.qos.regs.vals.filter (·.tenant == t)).length < d.regLimit) → d.admission 1024 w es = .ok () →
        Ends (.qosReserve n) n s (Cpl.ok (leBytes 2 r ++ leBytes 2 (1024 * cls + r)))
          (requalify (d.updQos fun q => { q with
            regs := Map.set r g q.regs, retiring := q.retiring.filter (· != r) })))) ∧
    (∀ r es, let b := c.input.take (16 * e.fld 0x26 0 8)
      reserveTarget x d = .ok (some r) → cls ≠ 0 → e.fld 0x26 0 8 ≠ 0 → c.inl →
      16 * e.fld 0x26 0 8 ≤ c.input.length → qEntries t d 0 [] (chunks 16 (e.fld 0x26 0 8) b) = .ok es →
      d.admission r w es = .ok () → Ready s n 0x70 c →
      Ends (.qosReserve n) n s (Cpl.ok (leBytes 2 r ++ leBytes 2 (1024 * cls + r)))
        (d.updReg r fun g => { g with next := some (w, es) })) ∧
    (∀ g, d.qos.regs.get? (e.w16 0x20) = some g → (c.tenant = 0 ∨ g.tenant = c.tenant) → Ready s n 0x71 c →
      Ends (.qosRelease n) n s (Cpl.ok []) (requalify (d.updQos fun q => { q with
        regs := Map.del (e.w16 0x20) q.regs, retiring := insertNat (e.w16 0x20) q.retiring }))) ∧
    (∀ g, e.b20 = 0 → d.qos.regs.get? (e.w16 0x22) = some g → (c.tenant = 0 ∨ g.tenant = c.tenant) →
      c.fits (regRecord g d) → Ready s n 0x72 c → Ends (.qosQuery n) n s (Cpl.carry [] e.addr (regRecord g d)) d) ∧
    (let out := resRecord (e.fld 0x22 0 8) (e.fld 0x23 0 8) d
     e.b20 = 1 → e.fld 0x22 0 8 ≤ 2 → resOk (e.fld 0x22 0 8) (e.fld 0x23 0 8) = true → c.fits out → Ready s n 0x72 c →
      Ends (.qosQuery n) n s (Cpl.carry [] e.addr out) d)

/-- R390, R391, R395, R405, R406, R408 to R411, and R526, R529 to R531: scrubbing, retirement, rebuilds, injection, the
trace export, the self-test, and the power commands. What a scrub of the near tier counts, and how many checkers a
self-test finds and fails, is a free value of the model (log entry 5). Model choices it rests on: log entries 17, 41. -/
def Obligations.CareCommands : Prop :=
  ∀ (s : State) (n : Nat) (c : Cmd),
    let e := c.entry
    let d := s.dev
    let x : Ctx := ⟨n, c⟩
    (let a := e.w64 0x20
     let len := e.w64 0x28
     let d1 : Dev := { d with freeN := d.freeN + 1 }
     let words := if a < 2 ^ 44 then (Config.free64 d.freeN).toNat % (len / 8 + 1) else d1.scrubWords a len
     let hits := d.integ.injects.filter fun j => decide (j.target ≤ 1 ∧ a ≤ j.dpa ∧ j.dpa < a + len)
     let r := hits.foldl (fun y j => scrubHit y.1 j y.2) (({ corrected := 0, bad := 0, dpas := [] } : Scrub), d1)
     let first := ((r.1.dpas.foldl (fun l k => insertNat k l) []).take 16)
     let out := leBytes 8 words ++ leBytes 8 r.1.corrected ++ leBytes 8 r.1.bad ++ leBytes 1 first.length ++ zeros 7 ++
       (List.range 16).flatMap fun k => leBytes 8 (first.getD k 0)
     a % 4096 = 0 → len ≠ 0 → len % 4096 = 0 → d.hasMem a len = true → d.pasrOverlap a len = false → c.fits out →
      Ready s n 0x80 c → Ends (.scrubRange n) n s (Cpl.carry [] e.addr out) r.2) ∧
    (let l := d.mgmt.flash.retire
     (e.b20 = 1 → c.fits (l.flatMap RetireEntry.bytes) → Ready s n 0x81 c → Ends (.retire n) n s
       (Cpl.carry (leBytes 4 l.length) e.addr (l.flatMap RetireEntry.bytes)) d) ∧
     (e.b20 = 2 → d.pwr.mode ≠ .service → Ready s n 0x81 c → Ends (.retire n) n s (Cpl.ok [])
       (d.updMgmt fun m => { m with flash := { m.flash with retire := [] } })) ∧
     (∀ k b d', let dpa := e.w64 0x28
       let scope := e.fld 0x21 0 8
       e.b20 = 0 → d.hasMem dpa 1 = true → inReserve dpa = false →
       d.hasMem dpa (d.retireEnd dpa scope (e.w32 0x30) - dpa) = true → l.length < 4096 →
       (if dpa < 2 ^ 44 then retireNear e d else retireFar e d) = .ok (k, b, d') → Ready s n 0x81 c →
       Ends (.retire n) n s (Cpl.ok (leBytes 8 k ++ leBytes 8 b)) (d'.updMgmt fun m => { m with
         flash := { m.flash with retire := m.flash.retire ++ [⟨dpa, scope, e.w32 0x30⟩] } }))) ∧
    (let g := e.fld 0x21 0 2
     let st := (d.group g).st
     let going := st = .rebuilding ∨ st = .paused
     (e.b20 = 0 → going → Ready s n 0x83 c →
       Ends (.rebuild n) n s (Cpl.ok (leBytes 8 (d.groupSectors g) ++ leBytes 1 st.code)) d) ∧
     (e.b20 = 0 → ¬going → Ready s n 0x83 c → Ends (.rebuild n) n s (Cpl.ok (leBytes 8 0 ++ leBytes 1 st.code)) d) ∧
     (e.b20 = 1 → going → Ready s n 0x83 c →
       Ends (.rebuild n) n s (Cpl.ok []) (d.updGroup g fun y => { y with label := some e.qos }))) ∧
    (let j : Inject := { target := e.b20, nbits := e.fld 0x21 0 2, exempt := e.fld 0x21 2 1 == 1, inst := e.fld 0x22 0 8,
                         left := e.w32 0x24, unit := e.w32 0x2C, dpa := e.w64 0x30 }
     (e.b20 = 4 → unitLevel (e.w32 0x2C) = 1 ∧ unitOk (e.w32 0x2C) = true) →
      (e.b20 ≤ 1 → d.hasMem (e.w64 0x30) 1 = true) → Ready s n 0xF0 c →
      Ends (.diagInject n) n s (Cpl.ok []) (d.updInteg fun i => { i with injects := i.injects ++ [j] })) ∧
    (let res (d : Dev) : Bytes := leBytes 8 d.integ.trace.sent ++ leBytes 8 d.integ.trace.dropped
     let ended := d.updInteg fun i => { i with trace := { i.trace with
       enabled := false, sending := false, clock := false, buf := [] } }
     let off := if d.domain 25 = .on then trainPort 55 ended else ended
     (e.b20 = 2 → Ready s n 0xF1 c → Ends (.traceCtl n) n s (Cpl.ok (res d)) d) ∧
     (e.b20 = 1 → d.integ.trace.enabled = true → Ready s n 0xF1 c → Ends (.traceCtl n) n s (Cpl.ok (res off)) off) ∧
     (e.b20 = 0 → d.integ.trace.enabled = false → (d.port 55).bound = false → presetHolds x 1 d = false →
       (e.fld 0x21 0 1 = 0 ∨ d.feat 0x03 0 8 ≠ 1 ∧ presetHolds x 3 d = false) → e.fld 0x24 0 8 ≠ 0 →
       (e.fld 0x21 2 1 = 0 ∨ d.defined (e.fld 0x22 0 10) = true) → Ready s n 0xF1 c →
       ∃ d', Ends (.traceCtl n) n s (Cpl.ok (leBytes 8 0 ++ leBytes 8 0)) d' ∧ d'.integ.trace.enabled = true ∧
         d'.integ.trace.sending = false ∧ d'.integ.trace.sources = e.fld 0x24 0 8 ∧
         d'.integ.trace.filter = (e.fld 0x21 2 1 == 1) ∧ d'.integ.trace.tenant = e.fld 0x22 0 10 ∧
         d'.integ.trace.clock = (e.fld 0x21 0 1 == 1) ∧ d'.integ.trace.narrow = (e.fld 0x21 1 1 == 1) ∧
         (d'.port 55).st = .disabled ∧ d'.domain 25 ≠ .off ∧
         KeepsBut [.out, .ports, .pwr, .trace, .qos] d d')) ∧
    (let v := (Config.free64 d.freeN).toNat
     let w := (Config.free64 (d.freeN + 1)).toNat
     let tested := 1 + v % 2 ^ 31
     let failed := w % (tested + 1)
     let d2 : Dev := { d with freeN := d.freeN + 2 }
     let u := e.w32 0x24
     let unit := if unitLevel u = 1 then coreOf u else 128 + coreOf u / 8
     (1 ≤ e.b20 → e.b20 ≤ 8 → e.fld 0x21 0 8 < blockUnits e.b20 → Ready s n 0xF2 c →
      (failed = 0 → Ends (.selfTest n) n s (Cpl.ok (leBytes 4 tested ++ leBytes 4 0)) d2) ∧
      (failed ≠ 0 → Waits (.selfTest n) n s (selfTestFailed n e.b20 (e.fld 0x21 0 8) tested failed d2))) ∧
     (e.b20 = 0 → e.fld 0x21 0 8 = 0 → (unitLevel u = 1 ∨ unitLevel u = 2) → unitOk u = true → Ready s n 0xF2 c →
      (d.testWaits unit = true →
        Waits (.selfTest n) n s (d.updComp fun y => { y with tests := y.tests ++ [(n, unit)] })) ∧
      (d.testWaits unit = false →
        (failed = 0 → Ends (.selfTest n) n s (Cpl.ok (leBytes 4 tested ++ leBytes 4 0)) d2) ∧
        (failed ≠ 0 → Waits (.selfTest n) n s (selfTestFailed n 0 unit tested failed d2))))) ∧
    (let p : Policy := { idleHold := e.w32 0x24, ylQuiet := e.w32 0x28, farSr := e.w32 0x2C, nearSr := e.w32 0x30
                         gate := e.fld 0x34 0 1 == 1, groupOff := e.fld 0x34 1 1 == 1 }
     (e.b20 = 1 → Ready s n 0xB0 c → Ends (.powerPolicy n) n s (Cpl.carry [] e.addr d.pwr.policy.bytes) d) ∧
     (e.b20 = 0 → Ready s n 0xB0 c → Ends (.powerPolicy n) n s (Cpl.ok [])
       (d.updPwr fun y => { y with policy := p }))) ∧
    (let g := e.fld 0x21 0 2
     let segs := e.fld 0x22 0 8
     let held := d.pwr.pasr.getD g 0
     (d.group g).st = .inService → (d.group g).modGib ≠ 0 → d.mem.order ≠ 2 → Ready s n 0xB1 c →
      (e.b20 = 0 → held &&& segs = 0 → Ends (.pasrSet n) n s (Cpl.ok [])
        (d.updPwr fun p => { p with pasr := Map.set g (held ||| segs) p.pasr })) ∧
      (e.b20 = 1 → segs &&& held = segs → Ends (.pasrSet n) n s (Cpl.ok [])
        (d.updPwr fun p => { p with pasr := Map.set g (held ^^^ segs) p.pasr })) ∧
      (e.b20 = 2 → Ends (.pasrSet n) n s (Cpl.ok (leBytes 1 held ++ leBytes 1 (d.emptySegments g) ++
        leBytes 1 (if (d.group g).selfRef then d.pwr.pasrMask.getD g 0 else 0))) d)) ∧
    (let d' := idleEnter (e.fld 0x20 0 4) d
     Ready s n 0xB2 c → Ends (.idleEnter n) n s
      (Cpl.ok (leBytes 8 (maskOf ((List.range 40).filter fun pd => d'.domain pd == .off)))) d')

/-- R417 to R420, R503 to R508, R511 to R515: firmware, preset images, the owner, keys. Commits and writes to flash wait
for FLASH_PROGRAM_DONE. Model choices it rests on: log entries 6, 53. -/
def Obligations.TrustCommands : Prop :=
  ∀ (s : State) (n : Nat) (c : Cmd),
    let e := c.entry
    let d := s.dev
    let x : Ctx := ⟨n, c⟩
    (let begun := setStaging (some { owner := x.stager, len := e.w64 0x28, blocks := [], last := d.now }) d
     e.b20 = 0 → d.mgmt.staging = none → e.w64 0x28 ≤ 16777216 → e.w64 0x28 % 4096 = 0 → Ready s n 0xA1 c →
      Ends (.fwStage n) n s (Cpl.ok []) (begun.updMgmt fun m => { m with romErased := m.romErased || m.romRec })) ∧
    (∀ g, d.mgmt.staging = some g → g.owner = x.stager →
      (e.b20 = 1 → chunkBad g (e.w64 0x28) (e.w32 0x30) = none → Ready s n 0xA1 c →
        Reads (.fwStage n) n c s 0 (e.w32 0x30) ∧ (c.inl → e.w32 0x30 ≤ c.input.length →
          Ends (.fwStage n) n s (Cpl.ok []) (stageData g (e.w64 0x28) (c.input.take (e.w32 0x30)) d))) ∧
      (e.b20 = 2 → Ready s n 0xA1 c → Ends (.fwStage n) n s (Cpl.ok []) (setStaging none d)) ∧
      (let b := g.image
       let d1 := d.useSecurity
       g.full = true → imageOk b = true → d.mgmt.flash.minSvn.2 ≤ imageSvn b → d.mgmt.flashOp = none → Ready s n 0xA2 c →
        (d.mgmt.romRec = false → Waits (.fwCommit n) n s (d1.updMgmt fun m => { m with
          flashOp := some (.image (.cmd n) b), flash := { m.flash with image := [] } })) ∧
        (d.mgmt.romRec = true → Ends (.fwCommit n) n s (Cpl.ok (commitRes b)) ((setStaging none d1).updMgmt fun m =>
          { m with flash := m.flash.committed b })))) ∧
    (let img := if e.b20 = 0 then d.mgmt.preset else d.mgmt.flash.newestPreset.getD []
     c.fits img → Ready s n 0xA3 c → Ends (.presetRead n) n s (Cpl.carry (leBytes 4 img.length ++ zeros 4 ++
      leBytes 8 (if img.isEmpty then 0 else presetSeq img)) e.addr img) d) ∧
    (∀ key, let len := e.w32 0x28
      let b := c.input.take len
      d.mgmt.flash.owner.key = some key → 1 ≤ len → len ≤ 262144 → Ready s n 0xA4 c →
      Reads (.presetWrite n) n c s 0 len ∧ (c.inl → len ≤ c.input.length → (presetEntries b).isSome = true →
        (d.mgmt.flash.newestPreset = none ∨ (d.mgmt.flash.newestPreset.map presetSeq).getD 0 < presetSeq b) →
        presetSigned key b = true → d.mgmt.flashOp = none →
        Waits (.presetWrite n) n s (d.useSecurity.updMgmt fun m => { m with flashOp := some (.preset n b) }))) ∧
    (let b := c.input.take 57
     e.b20 = 0 → d.mgmt.flash.owner.key = none → Ready s n 0xA5 c → Reads (.ownerEnrol n) n c s 0 57 ∧
      (c.inl → 57 ≤ c.input.length → d.mgmt.flashOp = none → Waits (.ownerEnrol n) n s
        (d.useSecurity.updMgmt fun m => { m with flashOp := some (.owner n (some b) false) }))) ∧
    (∀ key, let o := d.mgmt.flash.owner
      let b := c.input.take 114
      o.key = some key → e.b20 = 2 → Ready s n 0xA5 c → Reads (.ownerEnrol n) n c s 0 114 ∧
      (c.inl → 114 ≤ c.input.length → Config.ed448Verify key (ownerMessage o.seq (zeros 57)) b = true →
        d.mgmt.flashOp = none → Waits (.ownerEnrol n) n s
          (d.useSecurity.updMgmt fun m => { m with flashOp := some (.owner n none true) }))) ∧
    (e.b20 = 0 → (d.integ.keys.get? c.tenant = none ∧ d.charge c.tenant 1 = 0 ∧ d.charge c.tenant 2 = 0 ∨
        ∃ k, d.integ.keys.get? c.tenant = some k ∧ k.key = none) → Ready s n 0xA6 c →
      Reads (.keySet n) n c s 0 64) ∧
    (∀ k, e.b20 = 1 → d.integ.keys.get? c.tenant = some k → Ready s n 0xA6 c → Ends (.keySet n) n s (Cpl.ok [])
      (d.updInteg fun i => { i with keys := Map.set c.tenant { k with key := none } i.keys })) ∧
    (e.b20 = 2 → d.holdsObject c.tenant = false → Ready s n 0xA6 c → Ends (.keySet n) n s (Cpl.ok [])
      (d.updInteg fun i => { i with keys := Map.del c.tenant i.keys }))

/-! ## Events of the host port (03_commands.md, 16_host_endpoint.md) -/

/-- R87 to R89, R92, R93: where a queue pair may take an entry, the device takes it: the command holds the next number
and the entry, the queue pair's read position moves by one and a completion slot is reserved; an entry without an opcode
of the list ends at once with `INVALID_OPCODE`. A write of one doorbell half that is in range moves its index, and one
past the depth stops the queue pair; an ordered command starts once no earlier command of its queue pair is left; a
coalescing timer that runs out raises the vector of the queue pair. Model choices it rests on: log entry 48. -/
def Obligations.QueueEvents : Prop :=
  ∀ (s : State), s.live →
    (∀ (n fn db : Nat) (q : QP) (e : Entry), s.dev.qp? n = some q → q.loc = .host fn db → s.dev.mayTake q = true →
      s.dev.qpTurn = some n →
      ∃ (d : Dev) (c : Cmd),
        c.origin = .queue n q.sqHead ∧ c.entry = e ∧ c.tenant = q.tenant ∧ c.half = hostHalf (fn / 256) ∧
        c.started = (!e.ordered) ∧ c.phase = .taken ∧ c.tick = s.dev.now ∧
        d.cmd? s.dev.q.nextCmd = some c ∧ d.q.nextCmd = s.dev.q.nextCmd + 1 ∧
        d.qp? n = some { q with
          sqHead := (q.sqHead + 1) % 2 ^ q.log2Depth, reserved := q.reserved + 1, ring := Map.del q.sqHead q.ring } ∧
        d.q.rrQp = n ∧ d.q.rrLeft + 1 =
          (if s.dev.q.rrQp = n ∧ s.dev.q.rrLeft ≠ 0 then s.dev.q.rrLeft else max q.weight 1) ∧
        KeepsBut [.out, .cnt, .qps, .cmds, .freeN, .turn, .trace] s.dev d ∧
        Does (.submissionEntryTake n e) s
          (if (opRow e.op).isSome then d else finishCmd s.dev.q.nextCmd (errS .invalidOpcode) d)) ∧
    (∀ (n : Nat) (c : Cmd), s.dev.cmd? n = some c → c.started = false → fencePassed n c s.dev = true →
      Does (.orderedCommandStart n) s (s.dev.updCmd n fun c => { c with started := true })) ∧
    (∀ (n fn db : Nat) (q : QP), s.dev.qp? n = some q → q.loc = .host fn db → q.admin = false → q.unsig ≠ 0 →
      q.coalTicks ≠ 0 → q.unsigTick + q.coalTicks ≤ s.dev.now →
      Does (.coalesceTimerExpiry n) s
        (sendMsix fn q.vector [n] (s.dev.updQp n fun q => { q with unsig := 0 }))) ∧
    (∀ (fn ix n : Nat) (q : QP) (v : BitVec 32), (s.dev.hport (fn / 256)).linkUp = true → (s.dev.fn fn).d3hot = false →
      (s.dev.fn fn).flr = false →
      s.dev.qpAt fn ix = some (n, q) → q.deleter = none → q.log2Depth ≤ 16 →
      let depth := 2 ^ q.log2Depth
      let mark (f : Fn) (sq cq : Nat) : Fn := { f with dbSq := Map.set ix sq f.dbSq, dbCq := Map.set ix cq f.dbCq }
      (v.toNat < depth → (q.sqTail + depth - q.sqHead) % depth + (v.toNat + depth - q.sqTail) % depth < depth →
        Does (.doorbellWrite fn ix (.tail v)) s ((s.dev.updQp n fun _ => { q with sqTail := v.toNat }).updFn fn
          fun f => mark f v.toNat q.cqHead)) ∧
      (v.toNat < depth → q.cqUsed < depth → (v.toNat + depth - q.cqHead) % depth ≤ q.cqUsed →
        Does (.doorbellWrite fn ix (.head v)) s ((s.dev.updQp n fun _ => { q with
          cqHead := v.toNat, cqUsed := q.cqUsed - (v.toNat + depth - q.cqHead) % depth }).updFn fn
            fun f => mark f q.sqTail v.toNat)) ∧
      (depth ≤ v.toNat →
        Does (.doorbellWrite fn ix (.tail v)) s (stopQp n 1 v.toNat 0 (bump 2 n 5 1 s.dev)) ∧
        Does (.doorbellWrite fn ix (.head v)) s (stopQp n 1 (v.toNat * 2 ^ 32) 0 (bump 2 n 5 1 s.dev)))) ∧
    (∀ (fn ix : Nat) (w : DbWrite), (s.dev.hport (fn / 256)).linkUp = true → (s.dev.fn fn).d3hot = false →
      (s.dev.fn fn).flr = false →
      s.dev.qpAt fn ix = none → Does (.doorbellWrite fn ix w) s (bump 5 (fn / 256) 6 1 s.dev))

/-- R87, R443, R455: the registers of a physical function, written each by its own command or by REGISTER_WRITE.
Enabling the admin queue makes its queue pair, disabling it aborts that queue pair's commands and removes it once they
are gone. Model choices it rests on: log entries 24, 48. -/
def Obligations.FunctionRegisters : Prop :=
  ∀ (s : State) (fn : Nat), s.live → (s.dev.hport (fn / 256)).linkUp = true → fn % 256 = 0 →
    (s.dev.fn fn).d3hot = false → (s.dev.fn fn).flr = false →
    let f := s.dev.fn fn
    let d := s.dev
    (∀ v, Does (.irqCauseWrite fn v) s (d.updFn fn fun f => { f with irqCause := f.irqCause &&& ~~~v })) ∧
    (∀ v, let new := v &&& 0x7F#32
      let d' := d.updFn fn fun f => { f with irqMask := new }
      (f.irqCause &&& f.irqMask &&& ~~~new = 0 → Does (.irqMaskWrite fn v) s d') ∧
      (f.irqCause &&& f.irqMask &&& ~~~new ≠ 0 →
        Does (.irqMaskWrite fn v) s (sendMsix fn (f.irqVec.toNat % 2048) [] d'))) ∧
    (∀ v t, f.aqCtrl.getLsbD 0 = false → v.getLsbD 0 = true → f.bound = some t → f.aqReady = false →
      let log2 := bits v.toNat 8 5
      4 ≤ log2 → log2 ≤ 16 → d.q.qps.length < 32768 →
      Does (.aqEnable fn v) s ((addQp (QP.fresh (.host fn 0) true t log2 255 (bits v.toNat 16 11) 1 0
          f.aqSq.toNat f.aqCq.toNat f.aqExt.toNat)
        (d.updFn fn fun f => { f with aqCtrl := (v &&& 0x07FF1F00#32) ||| 1#32 })).2.updFn fn fun f => { f with
          aqReady := true, aqFault := false, dbSq := Map.set 0 0 f.dbSq, dbCq := Map.set 0 0 f.dbCq })) ∧
    (∀ v qp q, f.aqCtrl.getLsbD 0 = true → v.getLsbD 0 = false → d.qpAt fn 0 = some (qp, q) →
      Does (.aqDisable fn v) s (reapQps (abortQp qp ((d.updFn fn fun f => { f with
          aqCtrl := f.aqCtrl &&& 0x07FF1F00#32, aqFault := false }).updQp qp fun q => { q with deleter := some 0 })))) ∧
    (∀ v : BitVec 64, f.aqCtrl.getLsbD 0 = false → f.aqReady = false →
      Does (.registerWrite fn .bar0 0x10000 8 v) s (d.updFn fn fun f => { f with aqSq := v &&& ~~~0xFFF#64 })) ∧
    (∀ v : BitVec 64, Does (.registerWrite fn .bar0 0x2004 4 v) s (irqMask fn (v.setWidth 32) d)) ∧
    (∀ (v : BitVec 64) (ix : Nat), ix < 8192 →
      Does (.registerWrite fn .bar0 (0x100000 + 8 * ix) 8 v) s (doorbell fn ix (.both v) d)) ∧
    (∀ v : BitVec 64, fn < 1024 → v.getLsbD 2 = true → f.bme = false →
      Does (.registerWrite fn .config 4 2 v) s (bmeSet fn (d.updFn fn fun f => { f with
        cfg := Map.set 4 (((f.cfg.getD 4 0) ^^^ ((f.cfg.getD 4 0) &&& 0x546)) ||| (v.toNat &&& 0x546)) f.cfg })))

/-- R460, R461, R464, R465, R466, R470: a function's resets, its power states, Bus Master Enable and its translations.
Model choices it rests on: log entry 47. -/
def Obligations.FunctionEvents : Prop :=
  ∀ (s : State) (fn : Nat), s.live → (s.dev.hport (fn / 256)).linkUp = true →
    let f := s.dev.fn fn
    let d := s.dev
    (f.flr = false → Does (.flr fn) s
      ((resetFns (if fn % 256 = 0 then d.portFns (fn / 256) else [fn]) (bump 5 (fn / 256) 5 1 d)).updFn fn
        fun f => { f with flr := true })) ∧
    Does (.flrComplete fn) s (d.updFn fn fun f => { f with flr := false }) ∧
    Does (.d3hotEntry fn) s (d.updFn fn fun f => { f with d3hot := true }) ∧
    (f.d3hot = true → f.bme = true → f.flr = false → f.held = [] →
      Does (.d0Return fn) s ((d.updFn fn fun f => { f with d3hot := false }).updFn fn fun f => { f with held := [] })) ∧
    (f.d3hot = true → f.bme = false → Does (.d0Return fn) s (d.updFn fn fun f => { f with d3hot := false })) ∧
    (f.d3hot = false → f.flr = false → Does (.busMasterEnableSet fn) s
      (f.held.foldl (fun d h => match h with
        | .cpl n c => finishCmd n c d
        | .irq v qps => sendMsix fn v qps d) ((d.updFn fn fun f => { f with bme := true }).updFn fn fun f =>
          { f with held := [] }))) ∧
    (f.bme = true → Does (.busMasterEnableClear fn) s (reapInval fn (haltStreams (fun _ s => s.opener == some fn)
      .busMasterOff (f.reads.foldl (fun d r => failRead r.2.cmd .busMasterOff id d)
        (d.updFn fn fun f => { f with bme := false, reads := [], quar := quarAll f }))))) ∧
    (∀ addr len, Does (.atsInvalidation fn addr len) s (reapInval fn (d.updFn fn fun f => { f with
      atc := f.atc.filter fun r => !rangesMeet r (addr, len), inval := f.inval ++ [(addr, len)] }))) ∧
    (∀ tag, Does (.tagQuarantineEnd fn tag) s (d.updFn fn fun f => { f with quar := f.quar.filter (· != tag) }))

/-- R467 to R470: what ends a read request. Data of the length awaited is added to what the command has and its body
goes on; with any other end the command ends by the step it waits in; a completion for no read is recorded. Model
choices it rests on: log entries 46, 47. -/
def Obligations.ReadEnds : Prop :=
  ∀ (s : State) (fn tag : Nat) (r : DmaRead), s.live → (s.dev.hport (fn / 256)).linkUp = true →
    (s.dev.fn fn).reads.get? tag = some r →
    let d := endRead fn tag s.dev
    (∀ (b : Bytes) (c : Cmd) (body : Body), b.length = r.len → s.dev.cmd? r.cmd = some c → bodyOf c.entry.op = some body →
      Does (.dmaCompletion fn tag (.data b)) s
        (reapInval fn (runBody body r.cmd (c.got ++ [b]) (bump 5 (fn / 256) 0 r.len d)))) ∧
    (∀ c, s.dev.cmd? r.cmd = some c → c.got = [] →
      Does (.dmaCompletion fn tag .translationFailed) s (reapInval fn (finishCmd r.cmd (errF 0x18) d))) ∧
    (∀ a ∈ [DmaCpl.unsupported, DmaCpl.abort], Does (.dmaCompletion fn tag a) s
      (reapInval fn (let p := pcieRec fn (bump 5 (fn / 256) 4 1 d)
        failRead r.cmd .poisoned (Cpl.because p.1) p.2))) ∧
    Does (.dmaCompletion fn tag .poisoned) s
      (reapInval fn (let p := aerLog fn 12 (bump 5 (fn / 256) 4 1 d)
        failRead r.cmd .poisoned (Cpl.because p.1) p.2)) ∧
    Does (.completionTimeout fn (.tag tag)) s
      (reapInval fn (let p := aerLog fn 14 (bump 5 (fn / 256) 2 1 d)
        failRead r.cmd .timeout (Cpl.because p.1) (p.2.updFn fn fun f => { f with quar := insertNat tag f.quar }))) ∧
    (∀ other cpl, (s.dev.fn fn).reads.get? other = none →
      Does (.dmaCompletion fn other cpl) s (lateCpl fn other s.dev)) ∧
    (∀ n q db, s.dev.qp? n = some q → q.loc = .host fn db → s.dev.mayTake q = true →
      Does (.completionTimeout fn (.ring n)) s
        (let p := aerLog fn 14 (bump 5 (fn / 256) 2 1 s.dev)
         stopQp n 3 0 p.1 p.2))

/-- R462 to R464, R472, R473: the four host ports: their resets, their links, their widths and the decoder of the
coherent window, whose commitment is judged when `commit` is written and whose `committed` falls when it is cleared.
Model choices it rests on: log entries 58, 61. -/
def Obligations.HostPortEvents : Prop :=
  ∀ (s : State) (port : Nat), port < 4 → s.live →
    let p := s.dev.hport port
    let h := s.hdmOf port
    let d := s.dev
    (p.linkUp = true →
      exec (.hotReset port) s = .next ((s.setHdm port Hdm.reset).after (portReset port 2 d)) ∧
      exec (.linkDown port) s = .next ((s.setHdm port Hdm.reset).after (portReset port 1 d)) ∧
      Does (.aspmL1Entry port) s (emit (.l1Request port) (bump 5 port 7 1 d)) ∧
      (p.narrow = false → Does (.l0pNarrow port) s
        (emit (.hostWidth port 4) (d.updHport port fun h => { h with narrow := true })))) ∧
    (p.narrow = true → Does (.l0pRestore port) s
      (emit (.hostWidth port 16) (d.updHport port fun h => { h with narrow := false }))) ∧
    (p.perst = true → p.linkUp = false → d.retains port = false → exec (.perstNAssert port) s =
      .next ((s.setHdm port Hdm.reset).after
        (resetFns (d.portFns port) (d.updHport port fun h => { h with perst := false })))) ∧
    (p.perst = false → d.pwr.step ≠ 0 → Does (.perstNDeassert port) s
      (switchOn [26 + port / 2] ((d.updHport port fun h => { h with perst := true, wakeN := true, d3cold := false }).updFn
        (256 * port) id))) ∧
    (d.linkMayRise port = true → Does (.hostLinkUp port) s
      ((d.updHport port fun h => { h with linkUp := true, narrow := false, refclk := true }).updPwr fun p => { p with
        trained := insertNat port p.trained
        multiHost := p.multiHost || decide ((insertNat port p.trained).length ≥ 2) })) ∧
    (∀ v : BitVec 32, p.linkUp = true → (d.fn (256 * port)).d3hot = false → (d.fn (256 * port)).flr = false →
      h.locked = false →
      let c := (h.ctrl &&& 0xC00#32) ||| (v &&& 0x33FF#32)
      (v.getLsbD 9 = true → h.ctrl.getLsbD 9 = false →
        exec (.hdmCommit port v) s = .next (s.setHdm port { h with
          ctrl := if commitRefused { h with ctrl := c } port d then (c &&& 0xFFFFFBFF#32) ||| 0x800#32
            else (c &&& 0xFFFFF7FF#32) ||| 0x400#32 })) ∧
      (v.getLsbD 9 = false → h.ctrl.getLsbD 9 = true →
        exec (.hdmDecommit port v) s = .next (s.setHdm port { h with ctrl := c &&& 0xFFFFFBFF#32 })) ∧
      exec (.registerWrite (256 * port) .bar2 0x14 4 (v.setWidth 64)) s = .next (s.setHdm port { h with baseHigh := v }))

/-! ## Coherent accesses of hosts (17_coherent_windows.md) -/

/-- R474, R478, R482, R483, R486: while the directory waits for nothing, a host's read of a line of a writable extent
that nobody holds answers the line and makes the host its holder; a write goes to memory; an owner's write-back keeps
the line shared if the owner keeps a copy, and its clean eviction frees the entry; a snoop's answer takes the host out
of those awaited; a host that does not answer for the recall timeout is lost. A refused access is recorded and answered
with poison. Model choices it rests on: log entries 5, 61, 62. -/
def Obligations.HostAccesses : Prop :=
  ∀ (s : State) (port hpa off0 h : Nat) (e : Extent), s.live → s.dev.cxl.reqs = [] → s.dev.cxl.dir.wf = true →
    (s.hdmOf port).offset? hpa = some off0 →
    let d := s.dev
    let off := off0 / 64 * 64
    let n := (off - e.offset) / 64
    let k := lineKey h n
    let used (write : Nat) := grantBytes (d.label e.qos) 1 (2 * e.half + write) 64
      (extentAccess h e n (write == 1) d)
    (s.decoded port hpa = some off0 → d.hostExtent port off = .ok (h, e) → d.ext? h = some e → e.writable = true →
      (d.cxl.dir.get? k = none → n < 2 ^ 32 → d.sliceUsed e.half < sliceEntries → e.poison.contains n = false →
        d.keyless e.tenant = false → ∀ p ∈ [(CxlRead.shared, Line.shared [port]), (CxlRead.owned, Line.owned port)],
        let held (stamp : Nat) : DirEnt := { line := p.2, stamp := stamp, snoops := [], inv := false, since := 0 }
        Does (.cxlMemRead port hpa p.1) s (emit (.cxlData port off (e.line n) false p.2.isOwned) ((used 0).updCxl fun c =>
          { c with stamp := c.stamp + 1, dir := Map.set k (held c.stamp) c.dir }))) ∧
      (d.cxl.dir.get? k = none → ∀ data mask poison,
        Does (.cxlMemWrite port hpa data mask poison) s
          (emit (.cxlDone port off) (writeLine h n data mask.toNat poison (used 1)))) ∧
      (∀ x data poison, d.cxl.dir.get? k = some x → x.line = .owned port → x.snoops = [] →
        Does (.writeBack port hpa data poison true) s (emit (.cxlDone port off)
          (updDir k (fun e => { e with line := .shared [port] }) (writeLine h n data (2 ^ 64 - 1) poison (used 1)))) ∧
        Does (.writeBack port hpa data poison false) s (emit (.cxlDone port off)
          ((writeLine h n data (2 ^ 64 - 1) poison (used 1)).updCxl fun c => { c with dir := Map.del k c.dir })))) ∧
    (s.decoded port hpa = some off0 → ∀ c, d.hostExtent port off = .error c → ∀ kind,
      Does (.cxlMemRead port hpa kind) s (refuseHost port off c true d)) ∧
    (∀ x, d.lineOf port off0 = some (k, x) →
      (s.decoded port hpa = some off0 → x.line = .owned port → x.snoops = [] →
        Does (.cleanEvict port hpa) s (d.updCxl fun c => { c with dir := Map.del k c.dir })) ∧
      (x.snoops.contains port = true →
        Does (.snoopResponse port hpa .invalid) s (updDir k (fun e => { e with
          line := e.line.without port, snoops := e.snoops.filter (· != port) }) d) ∧
        (x.inv = false → x.line.holders.contains port = true →
          Does (.snoopResponse port hpa .shared) s (updDir k (fun e => { e with
            line := .shared [port], snoops := e.snoops.filter (· != port) }) d)) ∧
        (x.since + d.feat 0x0A 0 32 ≤ d.now →
          Does (.recallTimeout port hpa) s (loseHost port 4 true (fun _ => true) d))))

/-! ## Management path, log and trace (14_integrity.md, 18_management.md) -/

/-- R490, R493, R494: a command of the management path is taken as tenant 0's with its data inline; where no earlier one
of its binding is left it runs at once, and one that the path does not carry answers `NOT_PERMITTED`. Model choices it
rests on: log entries 19, 52. -/
def Obligations.ManagementCommands : Prop :=
  ∀ (s : State) (b : Nat) (e : Entry) (data : Bytes), s.dev.mgmtHears b = true → b ≤ 4 → s.dev.pwr.retention = false →
    let d := s.dev
    let n := d.q.nextCmd
    let c : Cmd := { origin := .mgmt b, entry := e, tenant := 0, half := 0, started := true, dup := false, phase := .taken,
                     tick := d.now, input := data.take 4032, ends := none, jobs := [], tiles := [] }
    let d1 := addInline c (d.updMgmt fun m => { m with mgmtTick := d.now })
    let rests (d : Dev) : Prop := ∀ p, d.mgmtFront b = some p → p.2.phase ≠ .taken
    (b = 4 ∨ (d.fn (256 * b)).bound = some 0 → d.mgmtFront b = none →
      (∀ body, mgmtOps.contains e.op = true → e.addr = 0 → bodyOf e.op = some body → rests (startCmd e.op body n d1) →
        Does (.managementCommand b e data) s (startCmd e.op body n d1)) ∧
      (mgmtOps.contains e.op = false → rests (finishCmd n (errS .notPermitted) d1) →
        Does (.managementCommand b e data) s (finishCmd n (errS .notPermitted) d1))) ∧
    (b < 4 → (d.fn (256 * b)).bound ≠ some 0 → Does (.managementCommand b e data) s (bump 5 b 6 1 d))

/-- R493, R503 to R507, R550: firmware updates over PLDM, SPDM sessions, what the flash's programming ends, the staging
timeout, restarts of the management processor, service mode, debug unlock and boundary scan. The answers' bytes are the
DMTF standards' (log entry 8). Model choices it rests on: log entries 6, 52, 60. -/
def Obligations.ManagementEvents : Prop :=
  ∀ (s : State),
    let d := s.dev
    let sessions (n : Nat) (d : Dev) := d.updMgmt fun m => { m with sessions := n }
    let known := d.mgmt.slots.flatten ++ d.mgmt.flash.cert ++ d.mgmt.aliasKey
    let took := d.updMgmt fun m => { m with mgmtTick := d.now }
    (∀ b msg, d.mgmtHears b = true → b ≤ 4 → d.pwr.retention = false →
      Does (.pldmRequest b msg .other) s (pldmSay b msg .success took) ∧
      (∀ len, d.mgmt.staging = none → d.mgmt.romRec = false → len ≤ 16777216 → len % 4096 = 0 →
        Does (.pldmRequest b msg (.requestUpdate len)) s (pldmSay b msg .success (took.updMgmt fun m => { m with
          staging := some { owner := .pldm b, len := len, blocks := [], last := d.now } }))) ∧
      (∀ st, d.mgmt.staging = some st → st.owner = .pldm b →
        (∀ off x, chunkBad st off x.length = none → Does (.pldmRequest b msg (.firmwareData off x)) s
          (pldmSay b msg .success (stageData st off x took))) ∧
        Does (.pldmRequest b msg .cancel) s (pldmSay b msg .success (took.updMgmt fun m => { m with staging := none })) ∧
        (∀ image, d.mgmt.romRec = false → commitChecks (.pldm b) d = .ok image →
          Does (.pldmRequest b msg .verifyApply) s (took.useSecurity.updMgmt fun m => { m with
            flashOp := some (.image (.pldm b) image), flash := { m.flash with image := [] } }))) ∧
      (let used := took.useSecurity
       let say (st : Status) := Out.mgmt b (Config.spdmAnswer msg st.code known)
       (d.mgmt.sessions < 4 → Does (.spdmRequest b msg .keyExchange) s
          (emit (say .success) (sessions (d.mgmt.sessions + 1) used))) ∧
       (4 ≤ d.mgmt.sessions → Does (.spdmRequest b msg .keyExchange) s
          (emit (say .noResource) (sessions d.mgmt.sessions used))) ∧
       Does (.spdmRequest b msg .endSession) s (emit (say .success) (sessions (d.mgmt.sessions - 1) used)) ∧
       Does (.spdmRequest b msg .other) s (emit (say .success) (sessions d.mgmt.sessions used)))) ∧
    (∀ n x, d.mgmt.flashOp = some (.preset n x) →
      Does (.flashProgramDone true) s (pumpAllMgmt (finishCmd n (Cpl.ok []) (d.updMgmt fun m => { m with
        flashOp := none, flash := m.flash.putPreset x }))) ∧
      Does (.flashProgramDone false) s (pumpAllMgmt (finishCmd n (errS .deviceError) (d.updMgmt fun m => { m with
        flashOp := none, flash := m.flash.broken (.preset n x) })))) ∧
    (∀ st, d.mgmt.staging = some st → st.last + 2 ^ 30 ≤ d.now →
      Does .fwStagingTimeout s (d.updMgmt fun m => { m with staging := none })) ∧
    (let p := countEvent 12 0 (restartEnds d)
     let d' := raise (restartRec 1 0) p.2
     d.mgmt.mpRunning = true → d.mgmt.romRec = false → 5 ≤ d.pwr.step → d.mgmt.copies ≠ [] →
      d'.reached 12 4 p.1 = false → Does .managementRestart s d') ∧
    (s.live → 8 ≤ d.pwr.step → d.pwr.mode = .bringUp → d.pwr.trained ≠ [] → d.mem.order ≠ 2 → d.pwr.fatal = false →
      d.mgmt.romRec = false → Does .serviceModeEntry s ((runPreset 0 ((presetEntries d.mgmt.preset).getD [])
        (clearRaw (d.updPwr fun p => { p with mode := .service }))).updMgmt fun m => { m with claims := [] })) ∧
    (∀ key data, d.mgmt.flash.owner.key = some key → Config.unlockOk key data = true →
      Does (.debugUnlock data) s (d.updPwr fun p => { p with jtagOpen := true })) ∧
    (∀ data, Does (.boundaryScan data) s (d.updPwr fun p => { p with bscan := true }))

/-- R390, R392, R410, R516: the log's flush marks every record and correlation as flushed; a correction window's end
raises its summary; the trace port sends its training pattern and then frames of at most seven records. -/
def Obligations.LogAndTrace : Prop :=
  ∀ (s : State), s.live →
    let d := s.dev
    let t := d.integ.trace
    Does .logFlush s ((d.updInteg fun i => { i with log := i.log.map fun r => { r with flushed := true } }).updMgmt
      fun m => { m with flash := { m.flash with corr := m.flash.corr.map fun c => { c with flushed := true } } }) ∧
    (∀ key tick, d.integ.ceStart = [(key, tick)] → tick + 2 ^ 20 ≤ d.now →
      Does .ceSummaryWindow s (raise { ErrRec.mk0 1 0x01 with
          block := key / 256, inst := key % 256
          detail := leBytes 4 (min (d.integ.ce.getD key 0) 0xFFFFFFFF) ++ zeros 4 ++ leBytes 8 tick }
        (d.updInteg fun i => { i with ce := Map.del key i.ce, ceStart := [] }))) ∧
    (t.enabled = true → d.domain 25 = .on →
      (t.sending = false → Does .tracePatternEnd s (d.updInteg fun i => { i with trace := { t with sending := true } })) ∧
      (t.sending = true → Does .traceFrame s (emit (.frame t.frame) (d.updInteg fun i => { i with trace := { t with
        buf := t.buf.drop 7, seqNo := t.seqNo + 1, sent := t.sent + 1, dropNew := 0 } }))))

/-! ## The links (15_yalhus_link.md) -/

/-- R422 to R424, R432, R443, R444, R446, R447, Table 15-1: the states a port's link goes through. Model choices it
rests on: log entry 43. -/
def Obligations.LinkStates : Prop :=
  ∀ (s : State) (port : Nat), s.live →
    let d := s.dev
    let p := d.port port
    let keep (d : Dev) := d.updPort port fun q => { q with
      keep := q.keep || q.st == .active, quietReq := false, uncorr := [] }
    (∀ lanes : BitVec 8, p.st = .detect → p.pairsOf lanes.toNat ≠ 0 → Does (.linkDetectLock port lanes) s
      ((setLink port .equalise d).updPort port fun p => { p with refclk := true })) ∧
    (∀ (lanes : BitVec 8) (theirs : BitVec 4) (w ls : Nat), p.st = .equalise ∨ p.st = .retrain →
      let pairs := p.pairsOf lanes.toNat &&& theirs.toNat
      let d1 := (setLink port .align d).updPort port fun p => { p with width := w, lanes := ls, locked := pairs }
      let settled (code : Nat) := raise { ErrRec.mk0 1 0x0B with
        block := 1, inst := port, detail := leBytes 2 ls ++ leBytes 1 code ++ leBytes 1 w } d1
      (chooseWidth pairs p.maxWidth = some (w, ls) →
        (p.everActive = false → Does (.equalisationComplete port lanes theirs) s (requalify d1)) ∧
        (p.everActive = true → w ≤ p.width →
          Does (.equalisationComplete port lanes theirs) s (requalify (settled 0))) ∧
        (p.everActive = true → p.width < w →
          Does (.equalisationComplete port lanes theirs) s (requalify (bump 4 port 9 1 (settled 2))))) ∧
      (chooseWidth pairs p.maxWidth = none → Does (.equalisationComplete port lanes theirs) s
        (trainingFailed port (p.liveLanes &&& (255 - lanes.toNat)) d))) ∧
    (p.st = .align → Does (.codewordLock port) s (sendIdent port (setLink port .ident d))) ∧
    (∀ locked : BitVec 8, p.st = .align → p.since + 4096 ≤ d.now →
      Does (.alignTimeout port locked) s (trainingFailed port (p.lanes &&& (255 - locked.toNat)) d)) ∧
    (p.st ≠ .disabled → p.st ≠ .detect → p.st ≠ .quiet → Does (.lossOfSignal port) s (toDetect port (keep d))) ∧
    (p.st = .active → Does (.partnerEntersTraining port) s (emit (.pattern port p.liveLanes)
      (setLink port .retrain (bump 4 port 8 1 (d.updPort port fun p => { p with
        keep := true, resends := 0, uncorr := [], quietReq := false }))))) ∧
    (∀ t, p.downSince = some t → t + 2 ^ d.feat 0x09 0 8 ≤ d.now → Does (.linkLoss port) s (linkLost port d)) ∧
    (p.st = .quiet → Does (.linkWake port) s (emit (.pattern port p.lanes) (setLink port .align d))) ∧
    (p.st = .active → p.quietReq = false → p.txq = [] → p.replay = [] → p.rxPart = [] → d.pwr.policy.ylQuiet ≠ 0 →
      p.lastMsg + d.pwr.policy.ylQuiet ≤ d.now →
      Does (.quietTimeExpiry port) s (sendCtl port 4 [1] (d.updPort port fun p => { p with quietReq := true }))) ∧
    (∀ g, g < 4 → d.domain (22 + g) ≠ .off → Does (.powerGroupOn g) s (trainGroup g (d.setDomain (22 + g) .on)))

/-- R426, R429 to R431, R433: flits received and resent. A flit's symbols are counted; a good one's `ack` frees what it
acknowledges; a payload flit in order is accepted, one ahead of it asks for a resend, one behind it is dropped; a bad
flit asks for a resend; a resend sends every flit not acknowledged, in order and unchanged. Model choices it rests on:
log entries 43, 44. -/
def Obligations.Flits : Prop :=
  ∀ (s : State) (port : Nat), s.live → s.dev.inject? (fun j => j.target == 3 && j.inst == port) = none →
    let d := s.dev
    let p := d.port port
    (∀ (rx : RxFlit), rx.badCodeword = false → crcFails rx.data = false →
      let seq := fld rx.data 0 0 16
      let ident := (rx.data.drop 16).take 16
      let d1 := takeAck port (fld rx.data 2 0 16) ((bump 4 port 2 rx.corrected (bump 4 port 3 rx.lost d)).updPort port
        fun p => { p with
          uncorr := (p.uncorr.filter fun t => decide (d.now ≤ t + 2 ^ 16)) ++ List.replicate (min rx.lost 16) d.now })
      let d2 := d1.updPort port fun p => { p with quietReq := false }
      let judged (d : Dev) : Dev := if (d.port port).uncorr.length ≥ 16 then toRetrain port d else d
      (p.st = .active →
        (fld rx.data 4 0 3 = 0 → seq = p.expected → Does (.payloadFlit port rx) s (judged (rxPayload port rx
          (addCredits port ((List.range 4).map fun k => fld rx.data (12 + k) 0 8) (bump 4 port 1 1
            (d2.updPort port fun p => { p with expected := (p.expected + 1) % 65536, nakOut := false })))))) ∧
        (fld rx.data 4 0 3 = 0 → seq ≠ p.expected → (seq + 65536 - p.expected) % 65536 < 32768 →
          Does (.payloadFlit port rx) s (judged (sendNak port d2))) ∧
        (fld rx.data 4 0 3 = 0 → 32768 ≤ (seq + 65536 - p.expected) % 65536 →
          Does (.payloadFlit port rx) s (judged d2)) ∧
        (fld rx.data 4 0 3 = 1 → Does (.idleFlit port rx) s (judged d1)) ∧
        (fld rx.data 4 0 3 = 2 → Does (.nakFlit port rx) s (judged (resend port d1))) ∧
        (fld rx.data 4 0 3 = 4 → fld rx.data 16 0 8 = 2 → Does (.quietFlit port rx) s (judged (quietAgreed port d1)))) ∧
      (p.st = .ident → fld rx.data 4 0 3 = 3 → fld ident 8 0 8 = 1 → p.keep = false →
        Does (.identExchange port rx) s (judged (requalify (sendInit port ((judgeId port ((setLink port .active d1).updPort
          port fun p => { p with
            recvId := fld ident 0 0 64, upSince := d.now, everActive := true, downSince := none, keep := false
            nakOut := false, resends := 0, uncorr := [], lastMsg := d.now })).updPort port fun p => { p with
              expected := 0, nextSeq := 0, replay := [], rxPart := [], rxSkip := false, credits := [0, 0, 0, 0]
              adv := [0, 0, 0, 0], initRx := false, owed := [0, 0, 0, 0] })))))) ∧
    (∀ (rx : RxFlit), crcFails rx.data = true → rx.lost = 0 → p.uncorr = [] → p.nakOut = false → p.st = .active →
      let d1 := (bump 4 port 2 rx.corrected (bump 4 port 4 1 d)).updPort port fun p => { p with nakOut := true }
      let bad := sendCtl port 2 [] (bump 4 port 5 1 d1)
      Does (.payloadFlit port rx) s bad ∧ Does (.idleFlit port rx) s bad ∧ Does (.nakFlit port rx) s bad ∧
        Does (.quietFlit port rx) s bad) ∧
    (p.st = .active → p.replay ≠ [] → p.resends < 7 →
      let n := p.replay.length
      Does (.replayTimeout port) s ((trace 7 2 none port (leBytes 1 5 ++ leBytes 1 p.width ++ zeros 2 ++ leBytes 4 n)
        (bump 4 port 0 n (bump 4 port 6 1 (bump 4 port 7 n
          { d with out := d.out ++ p.replay.map fun f => Out.flit port f.2 })))).updPort port
            fun p => { p with resends := p.resends + 1 })) ∧
    Does (.nakOutstandingExpiry port) s (d.updPort port fun p => { p with nakOut := false }) ∧
    (p.st = .active →
      Does (.ackSendDue port) s (emit (.flit port (flitOf 1 p.nextSeq p.ackNow [] [] [])) d))

/-! ## Messages and streams (06_streams.md, 07_reduction.md, 10_sync.md, 15_yalhus_link.md) -/

/-- R101, R314, R315, R428, R433, R436, R437, R439, R440: messages of the link itself and of commands and signals, whole
and well-formed, on an ACTIVE port whose bound partner sends them. Model choices it rests on: log entry 45. -/
def Obligations.PortMessages : Prop :=
  ∀ (s : State) (port : Nat) (m : Bytes), s.live → msgLen m = some m.length → (s.dev.port port).st = .active →
    let d := s.dev
    let p := d.port port
    let code := fld m 0 0 8
    let d1 := noteRx port m d
    let given := (List.range 4).map fun c => fld m (4 + 4 * c) 0 32
    (code = 0xB → fld m 1 0 1 = 1 →
      Does (.credit port m) s (d1.updPort port fun p => { p with adv := given, credits := given, initRx := true })) ∧
    (code = 0xB → fld m 1 0 1 = 0 → Does (.credit port m) s (addCredits port given d1)) ∧
    (p.bound = true → p.idFail = false →
      (code = 8 → p.tenants.contains (fld m 2 0 10) = true →
        (d1.sigBlockers port (fld m 2 0 10) = [] → Does (.signalMsg port m) s (applySigMsg port m d1)) ∧
        (∀ w l, d1.sigBlockers port (fld m 2 0 10) = w :: l → Does (.signalMsg port m) s (d1.updStrs fun x => { x with
          sigs := x.sigs ++ [{ port := port, tenant := fld m 2 0 10, data := m, waits := w :: l }] }))) ∧
      (∀ q, code = 9 → d.qp? (fld m 2 0 15) = some q → q.loc = .near port → q.discard = false → q.deleter = none →
        p.tenants.contains q.tenant = true →
        (q.untaken < 2 ^ q.log2Depth - 1 → Does (.cmd port m) s (ringUse (fld m 2 0 15) true
          (d1.updQp (fld m 2 0 15) fun q => { q with
            ring := Map.set q.sqTail (Entry.ofBytes (m.drop 16)) q.ring, sqTail := (q.sqTail + 1) % 2 ^ q.log2Depth }))) ∧
        (2 ^ q.log2Depth - 1 ≤ q.untaken →
          Does (.cmd port m) s (cmdFull port (fld m 2 0 15) q (Entry.ofBytes (m.drop 16)) d1))) ∧
      (∀ r k c body, code = 2 → fld m 4 0 32 = 0xFFFFFFFF → fld m 8 0 16 < 256 →
        p.reads.get? (fld m 8 0 16) = some r → fld m 2 0 8 = 0 → fld m 1 1 1 = 1 → r.len ≤ cmdReadMax → r.got = [] →
        fld m 0xA 0 16 = r.len → d.cmd? r.cmd = some k →
        let d2 := endCmdRead port (fld m 8 0 16) (grantBytes (d.label k.entry.qos) 2 port r.len d1)
        d2.cmd? r.cmd = some c → bodyOf c.entry.op = some body →
        Does (.cmdchTileData port m) s (runBody body r.cmd (c.got ++ [(m.drop 32).take r.len]) d2))) ∧
    (∀ tag r, tag < 256 → p.reads.get? tag = some r → r.since + 2 ^ 18 ≤ d.now → Does (.commandChannelTimeout port tag) s
      (failRead r.cmd .timeout id (endCmdRead port tag (bump 4 port 16 1 d))))

/-- R185, R190 to R192, R198, R220 to R222, R263: the messages of a stream in hardware on a tiled object, a reduction or
a set of experts: a read request puts its tiles behind the others, a segment of a tile write, of a contribution or of a
token batch is added to what has come, and the last one takes it whole. Model choices it rests on: log entries 31, 45.
-/
def Obligations.StreamMessages : Prop :=
  ∀ (s : State) (port id : Nat) (m : Bytes) (st : Stream), s.live → msgLen m = some m.length →
    (s.dev.port port).st = .active → (s.dev.port port).bound = true → (s.dev.port port).idFail = false →
    fld m 4 0 32 = id → s.dev.strOn port id = some st → st.hw = true → st.st = .active →
    let d := s.dev
    let code := fld m 0 0 8
    let last := fld m 1 0 1 = 1
    let heard (n : Nat) := (grantBytes st.qos 2 st.port n (noteRx port m d)).updStr id fun x => { x with touch := d.now }
    (∀ o v, code = 1 → isExtent st.obj = false → d.obj? st.obj = some o → d.ver? st.obj st.ver = some v →
      d.keyless o.tenant = false → v.damaged = false → d.pwr.sable = false →
      refuseRead st o.count (delivSize (st.lay o) o.th o.tw) (v.st != .opened && v.st != .sealing) m = none →
      let q := reqOf m st.nextReq d.now (d.clsOf st.qos == 3)
      let p := askTiles id st o (q.deadline.getD 0) q.first (fld m 0xA 0 16) [] (heard 0)
      (∀ c, .failed c ∉ p.1) →
      Does (.tileRdReq port m) s (p.2.updStr id fun x => { x with
        reqs := x.reqs ++ [{ q with tiles := p.1 }], nextReq := x.nextReq + 1 })) ∧
    (let tag := fld m 8 0 16
     let tile := fld m 0xC 0 32
     let len := fld m 0xA 0 16
     let data := (m.drop 32).take len
     ∀ o, code = 3 → isExtent st.obj = false → d.obj? st.obj = some o → st.kind = 1 → st.parts = [] → st.drops = [] →
      d.pwr.sable = false → wrReserved m = false → tile < o.count → fld m 0x18 0 32 = 0 → len ≤ 16384 →
      (st.acks.filter (·.status.isNone)).length < st.maxOut →
      (¬last → fld m 1 2 1 = 0 → len ≤ o.canon → Does (.tileWr port m) s
        ((heard len).updStr id fun x => { x with parts := [{ tile := tile, tag := tag, got := data }] })) ∧
      (last → len = o.canon → (fld m 1 2 1 = 0 ∨ sigReserved ((m.drop (32 + len)).take 16) = false) →
        Does (.tileWr port m) s (takeWrite id st o tag tile data
          (if fld m 1 2 1 = 1 then (m.drop (32 + len)).take 16 else []) (heard len)))) ∧
    (let seg := fld m 2 0 8
     let len := fld m 0xA 0 16
     let tile := fld m 0xC 0 32
     ∀ r o, code = 5 → st.kind = 2 → d.red? st.binding = some r → d.obj? r.obj = some o → r.ended = none →
      fld m 1 2 6 = 0 → fld m 3 0 8 = 0 → fld m 8 0 16 = 0 → ((m.drop 0x10).take 16).all (· == 0) = true →
      let i := tile - r.first
      let t := (r.tiles.find? (·.idx == i)).getD (RedTile.fresh i o.n r.fast)
      r.first ≤ tile → i < r.count → r.retired ≤ i → i - r.retired < r.window → r.done.any (·.idx == i) = false →
      seg < r.segs o.n → fld m 1 1 1 = 0 → len = min 16384 (o.n * fmtBits r.cfmt / 8 - seg * 16384) →
      t.seen.contains (st.source * 16 + seg) = false →
      let added := addSegment r o tile (seg * 16384 * 8 / fmtBits r.cfmt)
        (unpackBits (fmtBits r.cfmt) ((m.drop 32).take len)) t
      let t' := { added with
        seen := t.seen ++ [st.source * 16 + seg]
        sigs := if fld m 1 0 1 = 1 then t.sigs ++ [(st.source, (m.drop (32 + len)).take 16)] else t.sigs }
      Does (.reduceContrib port m) s (finaliseRed st.binding i (r.segs o.n)
        (fireSigs st.binding i st.source (r.segs o.n) st (strCount id 16 1 ((heard len).updRed st.binding fun r =>
          { r with tiles := r.tiles.filter (fun t => t.idx != i) ++ [t'] }))))) ∧
    (let tag := fld m 8 0 32
     let len := fld m 0xE 0 16
     let data := (m.drop 32).take len
     code = 6 → st.kind = 3 → st.batchIn = [] → st.drops = [] → tokReserved m = false → fld m 0x18 0 32 = 0 →
      len ≤ 16384 → fld m 0x1C 0 9 ≠ 0 → fld m 0x1C 0 9 ≤ 256 →
      (¬last → fld m 1 1 1 = 0 → Does (.execTokens port m) s
        ((heard len).updStr id fun x => { x with batchIn := [{ tag := tag, hdr := m.take 32, got := data }] })) ∧
      (last → Does (.execTokens port m) s (acceptBatch id st m data
        (if fld m 1 1 1 = 1 then (m.drop (32 + len)).take 16 else []) (heard len))))

/-- R186, R187, R191, R193, R206, R217, R225, R228, R231, R265, Table 6-2: what happens to streams, reductions and batches by
themselves. Model choices it rests on: log entry 33. -/
def Obligations.StreamEvents : Prop :=
  ∀ (s : State) (id : Nat), s.live →
    let d := s.dev
    (∀ st n, d.str? id = some st → st.st = .opening → st.openCmd = some n → d.hwUsed < hwContexts →
      Does (.hardwareContextAvailable id) s (finishCmd n (Cpl.ok (leBytes 4 id ++ leBytes 4 st.ver))
        (keepClock st.half (traceStr 1 id
          (d.updStr id fun s => { s with st := .active, hw := true, openCmd := none, touch := d.now }))))) ∧
    (∀ st, d.str? id = some st → st.st = .parked → st.hw = false → st.restoring = true → d.hwUsed < hwContexts →
      let d2 := traceStr 5 id (d.updStr id fun s => { s with
        hw := true, st := .active, restoring := false, touch := d.now })
      let handled (d : Dev) : Dev := pumpDie id st.port
        (st.held.foldl (fun d t => handleTouch id t d) (d.updStr id fun s => { s with held := [] }))
      Does (.streamContextRestored ⟨id, true⟩) s (handled d2) ∧
      (∀ x, d2.str? id = some x → Does (.streamContextRestored ⟨id, false⟩) s (handled (contextFault id x d2)))) ∧
    (∀ st q b, d.str? id = some st → st.reqs = [q] → q.tiles = [.ready b] → q.trailer = false → q.deadline = none →
      q.refused = none → Does (.tileReady id 0) s
        (reapReqs id ((sendTile id st q 0 q.dest b true d).updStr id fun s => { s with
          reqs := [{ q with tiles := [.sent] }] }))) ∧
    (∀ st n, d.str? id = some st → st.st = .closing → st.busy = false → st.held = [] → st.kind ≠ 2 →
      st.closeCmd = some n → Does (.streamClosed id) s
        (finishCmd n (Cpl.ok (leBytes 8 st.done ++ leBytes 1 st.hstat ++ zeros 3 ++ leBytes 4 st.herr))
          (((traceStr 2 id d).updStrs fun x => { x with strs := Map.del id x.strs }).updRed st.binding fun r => r))) ∧
    (∀ r i, d.red? id = some r → r.ended = none → (r.done.any fun t => t.idx == i && !t.settled) = true →
      d.redTaken id i = true → Does (.reduceTileSettle id ⟨i, true⟩) s (settleRed id (d.updRed id fun r => { r with
        done := r.done.map fun t => if t.idx = i then { t with settled := true } else t }))) ∧
    (∀ r o i pd, d.red? id = some r → r.ended = none → d.obj? r.obj = some o → (r.slotsOf o.n i).head? = some pd →
      let p := raiseRec { ErrRec.mk0 1 0x02 with block := 0, unit := clusterUnit pd } d
      (p.2.redNow id r).held.contains i = true →
      let q := countEvent 11 pd (settleRed id (damageRedTile id i p.1 p.2))
      q.2.reached 11 8 q.1 = false → Does (.reduceTileSettle id ⟨i, false⟩) s q.2) ∧
    (∀ r n, d.red? id = some r → r.finish = some n → r.finTick ≤ d.now →
      Does (.reduceFinishTimeout id) s (finishRed id n true r.finSeal d)) ∧
    (∀ b r, d.batch? id = some b → d.run? b.run = some r → b.result = none → d.runReady b.run r = true →
      Does (.batchComplete id) s (completeRun b.run r.good d))

/-! ## Start, power, temperature (19_startup_power.md) -/

/-- R36, R362 to R364, R383, R499 to R501, R508, R519, R520, R525, R526: AO power, reset and the steps of a start. The sixteenth
low sample of `DEV_RST_N` in a row resets the device; a start with a bootable image and `RECOVERY_N` high runs it, one
with `RECOVERY_N` low ends in ROM recovery. Model choices it rests on: log entries 3, 59, 83. -/
def Obligations.StartEvents : Prop :=
  ∀ (s : State),
    let d := s.dev
    let fresh := { s with hdm := State.reset.hdm }
    (d.pwr.aoGood = false → Does .aoPowerGood s (d.updPwr fun p => { p with
      aoGood := true, aoClock := true, tick := 0, mainPwrEn := true, domains := [(0, .on)] })) ∧
    (exec .aoPowerLoss s = .next (fresh.after (powerLoss d)) ∧ (powerLoss d).pwr.aoGood = false ∧
      (powerLoss d).pwr.step = 0 ∧ (powerLoss d).objs = Dev.reset.objs ∧ (powerLoss d).q.qps = [] ∧
      (powerLoss d).integ.log = d.integ.log.filter (·.flushed) ∧
      (d.mgmt.flashOp = none → (powerLoss d).mgmt.flash.image = d.mgmt.flash.image)) ∧
    Does (.devRstN true) s (d.updPwr fun p => { p with devRstN := true, rstLow := 0 }) ∧
    (d.pwr.rstLow ≠ 15 →
      Does (.devRstN false) s (d.updPwr fun p => { p with devRstN := false, rstLow := min (p.rstLow + 1) 16 })) ∧
    (d.pwr.rstLow = 15 → d.pwr.aoGood = true → ∃ t, t = deviceReset (d.updPwr fun p => { p with
        devRstN := false, rstLow := 16 }) ∧ exec (.devRstN false) s = .next (fresh.after t) ∧
      t.pwr.step = 0 ∧ t.pwr.tick = d.pwr.tick ∧ t.pwr.thermTrip = d.pwr.thermTrip ∧ t.integ.log = d.integ.log ∧
      t.objs = Dev.reset.objs ∧ t.q.qps = [] ∧ t.q.cmds = [] ∧ t.ports = Dev.reset.ports ∧
      (d.mgmt.flashOp = none → t.mgmt.flash = d.mgmt.flash)) ∧
    (∀ inp, d.pwr.aoGood = true → d.pwr.aoClock = true → d.pwr.devRstN = true → d.pwr.thermTrip = false →
      d.pwr.step = 0 →
      let d1 := [0, 1, 26, 27].foldl (fun d pd => d.setDomain pd .on)
        (d.updPwr fun p => { p with recoveryN := inp.recoveryN, mainPwrEn := true })
      (inp.recoveryN = true → d.mgmt.flash.bootable = true → d.mgmt.romRec = false →
        let d2 := presetApply (romFills 0 d1)
        Does (.deviceStart inp) s (switchOn (fromTo 22 4 ++ fromTo 32 6) (tierSetup ((d2.updMgmt fun m => { m with
          slots := m.slots.take 4 ++ d2.fwSlots m.preset, running := m.flash.image.take 512 }).updPwr fun p =>
            { p with mode := .bringUp, step := 4 })))) ∧
      (inp.recoveryN = false → Does (.deviceStart inp) s (((raise (restartRec 3 2) (romFills 2 d1)).updMgmt fun m =>
        { m with romRec := true, running := [] }).updPwr fun p => { p with mode := .recovery, step := 3 }))) ∧
    (∀ st r, st < 6 → d.pwr.step = 4 → d.domain (32 + st) = .on → (d.ctrl (32 + st)).trained = false →
      (d.ctrl (32 + st)).retired = false → r.ok = true → Does (.nearTierTrainingDone st r) s
        (startProgress (requalify (writeSummary (32 + st) 0 (d.updCtrl (32 + st) fun c => { c with
          trained := true, inServ := true, sizeGib := 64, eyes := nearEyes r, centres := r.sweeps.map sweepCentre
          repaired := r.repaired, lastReq := d.now }))))) ∧
    (∀ ch r, ch < 32 → d.pwr.step = 5 → d.domain (28 + ch / 8) = .on → (d.ctrl ch).trained = false →
      (d.ctrl ch).retired = false → r.present = true → r.rate = max (d.ctrl ch).rate (d.feat 0x10 0 8) → r.rate ≤ 2 →
      let d1 := d.updCtrl ch fun c => { c with sizeGib := r.sizeGib, ranks := r.ranks, eyes := farEyes r }
      (trainGood r = true → Does (.farChannelTrainingDone ch r) s
        (startProgress (requalify (writeSummary ch (b2n (d.ctrl ch).lowered) (d1.updCtrl ch fun c => { c with
          trained := true, inServ := true, rate := r.rate, centres := r.sweeps.map sweepCentre, lastReq := d.now }))))) ∧
      (trainGood r = false → r.rate < 2 →
        Does (.farChannelTrainingDone ch r) s (groupRate (ch / 8) (r.rate + 1) true d1)) ∧
      (trainGood r = false → r.rate = 2 →
        Does (.farChannelTrainingDone ch r) s (startProgress (retireChannel ch 0xFF 0 d1)))) ∧
    (∀ r, trainGood r = true ↔ r.ok = true ∧ ∀ k, k < 20 → 16 ≤ sweepWidth (r.sweeps.getD k [])) ∧
    (∀ (w : Sweep) v run, v < w.length → run ∈ w.getD v [] → run.2 ≤ sweepWidth w) ∧
    (d.pwr.step = 6 → d.domain 39 = .on ∨ d.pwr.sable = true → Does (.bridgeTrainingDone true []) s
      (applyRetired (d.updPwr fun p => { p with step := 8, bridgeUp := !p.sable })))

/-- R373, R383, R495, R532, R533, R544, R546, R547: temperatures, thermal steps, the trip, rails, regulators, clocks.
Model choices it rests on: log entries 35, 54, 55, 56. -/
def Obligations.ThermalAndRails : Prop :=
  ∀ (s : State),
    let d := s.dev
    (∀ ch v, ch < 32 → d.sensorStatus (0x30 + ch) = 0 → Does (.sensorSample (0x30 + ch) v) s
      (refreshRate ch v (d.updMgmt fun m => { m with sensors := Map.set (0x30 + ch) ⟨v, d.now⟩ m.sensors }))) ∧
    (∀ id v, id ≤ 7 → d.sensorStatus id = 0 → Does (.sensorSample id v) s
      (alertUpdate ([0, 1].foldl (fun d h => if (halfDies h).contains id then thermalUpdate h d else d)
        (d.updMgmt fun m => { m with sensors := Map.set id ⟨v, d.now⟩ m.sensors })))) ∧
    (∀ h t n, d.pwr.dieCool.getD h none = some t → d.pwr.thermStep.getD h 0 = n + 1 → t + 2 ^ 18 ≤ d.now →
      Does (.thermalStepReturn h) s (coolUpdate h (askHalf h (d.updPwr fun p => { p with
        thermStep := p.thermStep.set h n, dieCool := p.dieCool.set h none })))) ∧
    (∀ die n, die < 4 → d.pwr.vrPending.getD die none = some n →
      Does (.regulatorPowerGood (2 + die)) s (d.updPwr fun p => { p with
        vddStep := p.vddStep.set die n, vrPending := p.vrPending.set die none
        vrForced := p.vrForced.filter (· != die) }) ∧
      (d.pwr.vrTimer.getD die 0 + 25000 ≤ d.now → Does (.vrTimeout (2 + die)) s
        (raise (retiredRec 0 0 0 (3 * 2 ^ 28 + die * 2 ^ 26) 0xFF 0) (d.updPwr fun p => { p with
          vrPending := p.vrPending.set die none, vrForced := insertNat die p.vrForced })))) ∧
    (∀ die, d.pwr.thermTrip = false → d.pwr.fatal = false → Does (.thermalTrip die) s
      (fatal 1 0 (d.updPwr fun p => { p with thermTrip := true, clusters := p.clusters.mapVals fun _ c =>
        { c with clock := false, pllWait := false } }))) ∧
    (∀ rail, 2 ≤ rail → rail ≤ 15 → d.pwr.thermTrip = false → d.pwr.mainPwrEn = true → d.pwr.retention = false →
      d.pwr.fatal = false →
      Does (.railFault rail) s (fatal 2 rail (d.updPwr fun p => { p with rails := insertNat rail p.rails }))) ∧
    (∀ rail, 13 ≤ rail → rail ≤ 15 → d.pwr.retention = true →
      Does (.railFault rail) s (d.updPwr fun p => { p with rails := insertNat rail p.rails, auxLost := true })) ∧
    (d.pwr.aoClock = true → d.pwr.fatal = false →
      Does .aoClockLoss s (fatal 3 0 (d.updPwr fun p => { p with aoClock := false }))) ∧
    (d.pwr.bscan = false →
      (∀ port, port < 4 → (d.hport port).linkUp = true → exec (.refclkLoss port) s =
        .next ((s.setHdm port Hdm.reset).after
          (portReset port 1 (d.updHport port fun h => { h with refclk := false })))) ∧
      (∀ port, port < 4 → (d.hport port).linkUp = false →
        Does (.refclkLoss port) s (d.updHport port fun h => { h with refclk := false })) ∧
      (∀ k, k < 8 → Does (.refclkLoss (4 + k)) s (ylClockLost k d)))

/-- R37, R40, R41, R376, R523, R528, R531, R535: power domains, clusters' clocks, self-refresh. Model choices it rests
on: log entries 57, 58. -/
def Obligations.PowerEvents : Prop :=
  ∀ (s : State),
    let d := s.dev
    (∀ pd, d.domain pd = .switchingOn →
      (inRange 2 17 pd = false → inRange 22 25 pd = false → Does (.domainPowerGood pd) s (d.setDomain pd .on)) ∧
      (inRange 22 25 pd = true → Does (.domainPowerGood pd) s (trainGroup (pd - 22) (d.setDomain pd .on))) ∧
      (inRange 2 17 pd = true → d.domain (18 + clusterDie pd) = .on →
        let d1 := (d.setDomain pd .on).updCluster pd fun c => { c with idleSince := some d.now }
        (d1.clusterWanted pd = false → Does (.domainPowerGood pd) s d1) ∧
        (d1.clusterWanted pd = true → Does (.domainPowerGood pd) s (wakeCluster pd d1))) ∧
      (inRange 2 17 pd = true → Does (.domainPowerGoodTimeout pd) s
        (startProgress (retireCluster pd 0xFF 0 (d.setDomain pd .off)))) ∧
      (inRange 32 37 pd = true → Does (.domainPowerGoodTimeout pd) s
        (startProgress (stackLost (pd - 32) 5 0xFF (d.setDomain pd .off)))) ∧
      (pd = 39 → Does (.domainPowerGoodTimeout pd) s (startProgress (bridgeLost 5 0 (d.setDomain pd .off))))) ∧
    (∀ pd, d.mayOff pd = true →
      (inRange 22 25 pd = false → Does (.domainSwitchOff pd) s (d.setDomain pd .off)) ∧
      (inRange 22 25 pd = true → Does (.domainSwitchOff pd) s (domainOff pd d))) ∧
    (s.live →
      (∀ pd t, (d.cluster pd).idleSince = some t → (d.cluster pd).clock = true → d.clusterBusy pd = false →
        d.clockKept pd = false → t + d.pwr.policy.idleHold ≤ d.now → Does (.clusterIdleHoldExpiry pd) s
          (d.updCluster pd fun c => { c with clock := false, pllWait := false, idleSince := some d.now })) ∧
      (∀ pd, (d.cluster pd).pllWait = true → d.domain pd = .on → (d.cluster pd).retired = false →
        d.pwr.thermTrip = false → Does (.pllLock pd) s
          (d.updCluster pd fun c => { c with clock := true, pllWait := false, idleSince := some d.now })) ∧
      (∀ ch, d.groupIdle (ch / 8) = true → d.pwr.policy.farSr ≠ 0 →
        (d.group (ch / 8)).lastReq + d.pwr.policy.farSr ≤ d.now →
        Does (.farSelfRefreshIdle ch) s (setFarSr (ch / 8) true (d.emptySegments (ch / 8)) d)) ∧
      (∀ st, d.stackIdle st = true → d.pwr.policy.nearSr ≠ 0 →
        (d.ctrl (32 + st)).lastReq + d.pwr.policy.nearSr ≤ d.now →
        Does (.nearSelfRefreshIdle st) s (d.updCtrl (32 + st) fun c => { c with selfRef := true })) ∧
      (∀ ch, (d.group (ch / 8)).selfRef = true → Does (.selfRefreshExit (.far ch)) s
        ((setFarSr (ch / 8) false 0 (d.setDomain (28 + ch / 8) .on)).updGroup (ch / 8) fun x =>
          { x with lastReq := d.now })) ∧
      (∀ st, (d.ctrl (32 + st)).selfRef = true → Does (.selfRefreshExit (.near st)) s (d.nearUse st))) ∧
    (d.pwr.retention = true → d.pwr.pd1Awake = true → d.mgmt.mgmtTick + 2 ^ 25 ≤ d.now → d.mgmt.copies = [] →
      Does .pd1IdleOff s (((d.updPwr fun p => { p with pd1Awake := false }).updMgmt fun m =>
        { m with mpRunning := false }).setDomain 1 .off))

/-! ## Slices, runs, waits (08_engines.md, 10_sync.md) -/

/-- R245, R251 to R253, R255, R256, R318, R321, R322: slices start, resume and are preempted, their words read or not, runs
complete or time out, waits and herds time out, a free wait record goes to the slice that has waited longest. Model choices
it rests on: log entries 70, 75. -/
def Obligations.RunEvents : Prop :=
  ∀ (s : State) (n : Nat), s.live →
    let d := s.dev
    (∀ r, d.run? n = some r →
      (∀ i d1 c k, r.slices.get? i = none → i = r.nextIdx → r.unstarted ≠ 0 → r.ending = false →
        stageTiles n r.stageHalf (d.sliceTiles r i) d = (.present, d1) → d1.freeCore n r (d1.aged (d1.runCls r) r.since) none = some c →
        d1.kernel? r.kernel = some k → (r.slices.any fun s => s.2.st == .saved (coreCluster c)) = false →
        let d2 := stageAhead n (gaveCore n c (d1.updRun n fun r => { r with
          slices := Map.set i (Slice.fresh r k.header i c d1.now) r.slices, nextIdx := r.nextIdx + 1 }))
        Does (.sliceStart n ⟨i, .good⟩) s d2 ∧ Does (.sliceStart n ⟨i, .fetch⟩) s (sliceFault n i .fetch d2)) ∧
      (∀ i sl cl c, r.slices.get? i = some sl → sl.st = .saved cl →
        d.freeCore n r (d.aged (d.runCls r) sl.since) (some cl) = some c →
        Does (.sliceStart n ⟨i, .good⟩) s (gaveCore n c (d.updSlice n i fun x => { x with
          st := if d.sync.waits.any fun w => w.2.who == .slice n i then .waiting c else .running c
          core := c, since := d.now }))) ∧
      (∀ i sl cl, r.slices.get? i = some sl → sl.st = .saved cl →
        let k := stackFor 2 (n * 2 ^ 32 + i) (clusterHalf cl)
        let p := raiseRec (nearRec k r.tenant) d
        Does (.sliceStart n ⟨i, .data⟩) s (countNear k (endRun n .unitFault p.1 p.2))) ∧
      (∀ i sl c p k, r.slices.get? i = some sl → sl.onCore = some c → sl.since + d.quantum ≤ d.now → p ∈ d.comp.runs →
        p.1 ≠ n → d.waiter p.2 c = some k → d.runCls r ≤ k →
        Does (.quantumExpiry n i) s (bump 9 (coreCluster c) 1 1 (d.updRun n fun r => { r with
          preempts := r.preempts + 1, coreTime := r.coreTime + (d.now - sl.since)
          slices := Map.upd i (fun s => { s with st := .saved (coreCluster c), since := d.now }) r.slices }))) ∧
      (∀ m, d.runReady n r = true → r.by' = .cmd m →
        (r.sealOut = false → Does (.kernelRunComplete n) s (completeRun n r.good d)) ∧
        (r.sealOut = true →
          Does (.kernelRunComplete n) s (sealNext n (d.updRun n fun r => { r with ending := true })))) ∧
      (∀ t, r.timeout = some t → t ≤ d.now → r.ending = false → Does (.kernelTimeout n) s (endRun n .timeout 0 d))) ∧
    (∀ w t, d.sync.waits.get? n = some w → w.deadline = some t → t ≤ d.now →
      Does (.watchdogExpiry n) s (let p := raiseRec (watchdogRec w) d; expireWait n w p.1 p.2)) ∧
    (∀ h t, d.sync.herds.get? n = some h → h.dueAt = some t → h.broken = false → t ≤ d.now →
      let rec0 : ErrRec := { ErrRec.mk0 1 0x0D with
        tenValid := true, tenant := h.tenant
        detail := leBytes 1 2 ++ leBytes 1 1 ++ zeros 2 ++ leBytes 4 n ++ zeros 4 ++
          leBytes 2 (h.mask.length - h.a.length) }
      let p := raiseRec rec0 d
      Does (.herdWatchdogExpiry n) s (expireHerd n p.1 (bumpTenant h.tenant 26 1 (p.2.updHerd n fun h =>
        { h with broken := true, dueAt := none })))) ∧
    (∀ m i, d.sync.waits.length < waitRecords → d.holder = some (m, i) →
      ((d.fetch 0xA2 m i).isSome = true → Does (.waitRecordFree n) s (instrWaitFlag 0xA2 false m i d)) ∧
      ((d.fetch 0xA2 m i) = none → (d.fetch 0xA3 m i).isSome = true →
        Does (.waitRecordFree n) s (instrWaitFlag 0xA3 true m i d)) ∧
      ((d.fetch 0xA2 m i) = none → (d.fetch 0xA3 m i) = none → (d.fetch 0xA6 m i).isSome = true →
        Does (.waitRecordFree n) s (instrCwait m i d)) ∧
      ((d.fetch 0xA2 m i) = none → (d.fetch 0xA3 m i) = none → (d.fetch 0xA6 m i) = none →
        Does (.waitRecordFree n) s (instrHarr m i d)))

/-! ## Controllers and regulation (12_regulation.md, 13_memory_controllers.md, 14_integrity.md) -/

/-- R354, R364, R365, R367 to R371, R373, R374, R396, R399, R400: refresh, idle rows, tracking, parity alerts,
retraining, panic and drains of a controller in service. Model choices it rests on: log entries 5, 16, 37. -/
def Obligations.ControllerEvents : Prop :=
  ∀ (s : State) (u : MemUnit) (b : Nat), s.live →
    let d := s.dev
    let n := unitCtrl u
    let c := d.ctrl n
    d.serving n = true →
    (c.selfRef = false →
      (Config.refreshLimit ≤ c.postponed.getD b 0 ∨ (c.rq = 0 ∧ d.qos.panic.getD n false = false) →
        Does (.refreshDue ⟨u, b⟩) s (d.updCtrl n fun c => { c with
          rows := Map.del b c.rows, acts := Map.del b c.acts, track := Map.del b c.track
          postponed := Map.del b c.postponed })) ∧
      (c.postponed.getD b 0 < Config.refreshLimit → 0 < c.rq ∨ d.qos.panic.getD n false = true →
        Does (.refreshDue ⟨u, b⟩) s (d.updCtrl n fun c => { c with
          postponed := Map.set b (c.postponed.getD b 0 + 1) c.postponed }))) ∧
    (c.accAt.getD b 0 + 5 ≤ d.now →
      Does (.rowIdleClose ⟨u, b⟩) s (d.updCtrl n fun c => { c with rows := Map.del b c.rows })) ∧
    (d.now < c.accAt.getD b 0 + 5 → Does (.rowIdleClose ⟨u, b⟩) s d) ∧
    (n < 32 → c.retrain = false → c.dqsAt + 2 ^ 20 ≤ d.now →
      let p := moveDelays (c.delays ++ List.replicate (10 - c.delays.length) 0) d
      Does (.dqsTracking n) s (p.2.updCtrl n fun c => { c with delays := p.1, dqsAt := d.now })) ∧
    (d.now < c.dqsAt + 2 ^ 20 → Does (.dqsTracking n) s d) ∧
    (let p := draw d
     let sub := if n < 32 then p.1.toNat % 2 else p.1.toNat % 32
     let chan := if n < 32 then 0 else sub
     let k := p.1.toNat / 2 ^ 8 % ((c.retry.filter fun r => retryChan n r.1 == chan).length + 1)
     let d2 := raise { ErrRec.mk0 1 0x0A with
         block := if n < 32 then 3 else 4, inst := if n < 32 then n else n - 32, sub := sub
         detail := leBytes 1 sub ++ zeros 3 ++ leBytes 4 k }
       (traceCtl 3 n 0 (bumpCtl n 7 k (bumpCtl n 6 1 p.2)))
     let recent := ((d2.ctrl n).alerts.filter fun t => decide (d2.now ≤ t + 2 ^ 16)) ++ [d2.now]
     let q := countEvent 2 n (d2.updCtrl n fun c => { c with
       rows := Map.keep (fun b _ => retryChan n b != chan) c.rows, alerts := recent })
     (n < 32 → q.2.reached 2 64 q.1 = false) →
      (recent.length < 4 → Does (.parityAlert u) s q.2) ∧
      (4 ≤ recent.length → Does (.parityAlert u) s (wantRetrain n q.2))) ∧
    (c.retrain = true → ∀ r : TrainResult,
      let ended (result : Nat) (f : Ctrl → Ctrl) := rewriteSummary n
        (raise (retrainRec n (if n < 32 then 0x3FF else 0xFFFF) result) ((traceCtl 2 n 0 d).updCtrl n f))
      let worse (c : Ctrl) : Ctrl := { c with failRow := c.failRow + 1, retrains := c.retrains + 1 }
      (trainPasses n r = true → Does (.retrainingDone u r) s (nextRetrain n (ended 0 fun c => { c with
        retrain := false, failRow := 0, retrains := c.retrains + 1, eyes := eyesOf n r
        centres := r.sweeps.map sweepCentre, repaired := r.repaired, delays := [] }))) ∧
      (trainPasses n r = false → 32 ≤ n →
        Does (.retrainingDone u r) s (stackLost (n - 32) 4 0xFF (ended 1 worse))) ∧
      (trainPasses n r = false → n < 32 → (ended 1 worse).reached 1 3 ((ended 1 worse).ctrl n).failRow = false →
        Does (.retrainingDone u r) s (beginRetrain n (ended 1 worse)))) ∧
    (d.qos.panic.getD n false = false → (panicRow n).1 ≤ (d.scarlet n).length →
      Does (.panic n) s (traceCtl 5 n 0 (bumpCtl n 16 1 (d.updQos fun q => { q with
        panic := Map.set n true q.panic
        drainHeld := if c.drain then Map.set n d.now q.drainHeld else q.drainHeld })))) ∧
    (d.qos.panic.getD n false = true → d.scarlet n = [] →
      Does (.panic n) s (traceCtl 6 n 0 (d.updQos fun q => { q with
        panic := Map.del n q.panic, drainHeld := Map.del n q.drainHeld, forced := Map.del n q.forced }))) ∧
    (∀ t, d.qos.drainHeld.get? n = some t → t + (panicRow n).2.2 ≤ d.now →
      Does (.drainHoldLimit n) s (drainCtrl n (bumpCtl n 18 1 (d.updQos fun q => { q with
        drainHeld := Map.del n q.drainHeld, forced := Map.set n true q.forced }))))

/-- R345, R346, R348, R356, R395, R396: regulators' windows, queue levels and their gates, the rebuild of a group, the
bridge's retraining. -/
def Obligations.RegulatorEvents : Prop :=
  ∀ (s : State), s.live →
    let d := s.dev
    (∀ r g, d.qos.regs.get? r = some g → g.win < d.now / max 1 g.window →
      let left (g : Reg) := (g.cuts.filter fun p => decide (1 < p.2)).map fun p => (p.1, p.2 - 1)
      Does (.windowBoundary r) s ((requalify ((judge r g d).updReg r fun g => match g.next with
        | some (w, es) => { g with
            window := w, ents := es.map (QEntry.after (g.ents.map QEntry.roll)), cuts := left g, next := none }
        | none => { g with ents := g.ents.map QEntry.roll, cuts := left g })).updReg r fun g =>
          { g with win := d.now / max 1 g.window, ents := g.ents.map QEntry.refill })) ∧
    (∀ ctrl level, ctrl < 32 →
      let old := d.qos.gates.getD ctrl 0
      let new := gateLevel old level (d.feat 6 2 8) (d.feat 6 3 8) (d.feat 6 4 8) (d.feat 6 5 8)
      let set := (d.updCtrl ctrl fun c => { c with rq := level }).updQos fun q =>
        { q with gates := if new = 0 then Map.del ctrl q.gates else Map.set ctrl new q.gates }
      let told (ev : Nat) := trace 5 ev none (256 * (2 * chanHalf ctrl)) [] set
      (new = old → Does (.queueLevelReport ctrl level) s set) ∧
      (old < new → Does (.queueLevelReport ctrl level) s (told 1)) ∧
      (new < old → Does (.queueLevelReport ctrl level) s (told 2))) ∧
    (∀ g, (d.group g).st = .rebuilding → (d.group g).selfRef = false →
      (d.nextRebuild g = none → Does (.rebuildTile g) s (endRebuild g d)) ∧
      (∀ sid st, d.nextRebuild g = some (sid, st) → d.unreadable st = false →
        let free := d.moverFree ((d.group g).label.getD 0) g ((d.pickGroup (groupHalf g) []).getD g)
        (free = false → Does (.rebuildTile g) s d) ∧
        (free = true → ∀ d1, moveStored sid d = some d1 →
          let bytes := 256 * st.sectors
          let label := (d.group g).label.getD 0
          let half := groupHalf g
          let d2 := grantBytes (d1.label label) 0 (2 * half + 1) bytes (grantBytes (d1.label label) 0 (2 * half) bytes d1)
          Does (.rebuildTile g) s (if (d2.nextRebuild g).isNone then endRebuild g d2 else d2)) ∧
        (free = true → moveStored sid d = none → Does (.rebuildTile g) s (raise { ErrRec.mk0 1 0x15 with
            block := 8, detail := leBytes 1 g ++ zeros 7 ++ leBytes 8 ((d.updGroup g fun x =>
              { x with st := .paused }).groupSectors g) }
          (d.updGroup g fun x => { x with st := .paused }))))) ∧
    (∀ g o, (d.group g).st = .paused → d.pickGroup (groupHalf g) [] = some o →
      0 < (d.group o).free ∨ (d.candidate o).isSome = true →
      Does (.rebuildResume g) s (d.updGroup g fun x => { x with st := .rebuilding })) ∧
    (∀ link, 1 ≤ link → link ≤ 5 → Does (.bridgeRetrainingDone link true) s
      (raise { ErrRec.mk0 1 0x0B with block := 6, detail := zeros 2 ++ leBytes 1 0 } d)) ∧
    (d.pwr.sable = false → d.pwr.bridgeUp = true → Does (.bridgeRetrainingDone 0 true) s
      (raise { ErrRec.mk0 1 0x0B with block := 5, detail := zeros 2 ++ leBytes 1 0 } d))

/-! ## Tiers and the codec (02_objects.md, 04_codec.md, 05_tiers.md) -/

/-- R117, R118, R130, R131, R150 to R152, R154, R192, R194, R195: a coded tile whose regulator lets it goes into stripes,
and is durable once they are written; a tile whose coding check fails is coded again on another core; a stripe in which a
tile has waited 250 AO ticks is closed; a closed stripe is written; a read's sectors come back, and are expanded for
whoever waits for them, one pass for each layout; a pass whose check fails is run again on another core. Model choices it
rests on: log entries 25, 36, 75. -/
def Obligations.CodecEvents : Prop :=
  ∀ (s : State) (n : Nat), s.live →
    let d := s.dev
    (∀ c o v sid stripes d1, d.objs.codings.get? n = some c → d.obj? c.obj = some o → d.ver? c.obj c.ver = some v →
      c.held.isSome = true ∨ d.integ.injects = [] → (∀ h w, c.who ≠ .seal h w) →
      let q := d.waiterLabel c.who
      let cost := d.codedCost c o
      cost ≠ 0 → d.writerFree q o.half = true → d.writerTurn n c o.half = true →
      d.store c.obj c.tile o c.data (!v.staged) = some (sid, stripes, d1) → stripes ≠ [] →
      let a : PendAck := { who := c.who, obj := c.obj, ver := c.ver, tile := c.tile, data := c.data, sid := sid,
                           prod := c.prod, stripes := stripes }
      Does (.codingDone n true) s (stripes.foldl (fun d p => drainUpdate p.1 d)
        ((serveAt 0 (2 * o.half + 1) (4 + o.half) q cost d1).updObjs fun x => { x with
          codings := Map.del n x.codings, acks := x.acks ++ [a] }))) ∧
    (∀ c o, d.objs.codings.get? n = some c → d.obj? c.obj = some o → c.held = none → d.integ.injects = [] →
      Does (.codingDone n true) s (codingPassed n c o d) ∧
      Does (.codingDone n false) s (codingFailed n c o false false d) ∧
      ∃ e : Dev,
        let again (k : Coding) : Coding := { k with unit := coreUnit (e.otherCore o.half c.unit), tries := k.tries + 1 }
        codingFailed n c o false false d = e.updObjs fun x => { x with codings := Map.upd n again x.codings }) ∧
    (∀ half g m st, (g = 2 * half ∨ g = 2 * half + 1) → (d.group g).cur = some m → (d.group (4 * half + 1 - g)).cur = none →
      (d.group g).stripes.get? m = some st → st.waitSaw = true → st.since + 250 ≤ d.now →
      Does (.sealAsWrittenWaitExpiry half) s (drainUpdate g (closeStripes [(g, m)] d))) ∧
    (∀ g st, (d.group g).stripes.get? n = some st → st.closed = true → d.canWrite g = true →
      (fromTo (8 * g) 8).any d.holdsWrites = false →
      Does (.stripeWriteDone g n) s (writeStripe g n d) ∧
      (st.written = false → (d.objs.acks.filter fun a => a.stripes.contains (g, n)) = [] →
        Does (.stripeWriteDone g n) s (drainUpdate g (((issueLines g 0 true ((d.linesWritten n st).map fun l => (n, l))
          d).updGroup g fun x => { x with
            lastReq := d.now
            stripes := if st.live = 0 then Map.del n x.stripes
              else Map.upd n (fun t => { t with written := true, waitSaw := false }) x.stripes }).updObjs fun x =>
                { x with acks := x.acks.map fun a => { a with stripes := a.stripes.filter (· != (g, n)) } })))) ∧
    (∀ j st ls, d.strs.jobs.get? n = some j → j.st = .far → d.objs.stored.get? j.sid = some st → d.farLines st = some ls →
      d.farFree j.qos (groupHalf st.group) (d.chansOf st.group ls) = true →
      d.turn 0 (2 * groupHalf st.group) st.group j.qos j.since n (d.farRivals st.group) = true →
      d.queuedStripes st.group ls = [] →
      let d1 := (issueLines st.group j.qos false ls d).updGroup st.group fun g => { g with lastReq := d.now }
      let d2 := serveAt 0 (2 * groupHalf st.group) st.group j.qos (256 * ls.length) d1
      d.integ.injects = [] → d.unreadable st = false →
        Does (.farTierReadDone n .ok) s (jobRead n j.sid d2)) ∧
    (∀ j, d.strs.jobs.get? n = some j → j.st = .coded → j.cross = 0 → d.passLays n ≠ [] → d.nearGoes n j = true →
      let d1 := match d.nearRead j with
        | some s => readNear j.sid s j.qos d
        | none => d
      let d2 := bump 9 (coreCluster j.core) 3 (d.passLays n).length d1
      let pd := coreCluster j.core
      let lost := countEvent 11 pd (raise { ErrRec.mk0 1 0x02 with
        block := 0, unit := clusterUnit pd, tenValid := true, tenant := ((d.obj? j.obj).map (·.tenant)).getD 0 } d2)
      (∀ st, d.nearRead j = some st →
        Does (.expansionDone n .copyBad) s (copyFault j.sid st (readNear j.sid st j.qos d))) ∧
      ((∀ st, d.nearRead j = some st → d.copyErr j.sid st = none) →
       Does (.expansionDone n .clean) s (expanded n j d2) ∧
       (lost.2.reached 11 8 lost.1 = false → Does (.expansionDone n .cacheBad) s lost.2) ∧
       (∀ o, d.obj? j.obj = some o → j.tries = 0 →
        ∃ e : Dev,
          let again (k : Job) : Job := { k with tries := 1, core := e.otherCore (coreHalf j.core) (coreUnit j.core) }
          Does (.expansionDone n .failed) s (e.updStrs fun x => { x with jobs := Map.upd n again x.jobs }) ∧
          KeepsBut [.freeN, .log, .trace] d2 e)))

/-- R70, R72, R153, R165 to R167, R334: a seal whose tiles are durable and whose inherited tiles can be read completes,
or ends with `OBJECT_DAMAGED` where one cannot; a released version that nothing uses ceases to exist; copies are promoted
and freed, stripes reclaimed. Model choices it rests on: log entries 25, 72, 75. -/
def Obligations.TierEvents : Prop :=
  ∀ (s : State) (h v tile : Nat), s.live →
    let d := s.dev
    let sid := d.sidOf h v tile
    (∀ x, d.ver? h v = some x → x.st = .sealing → d.sealBusy h v = false → d.sealWaits h v = false →
      let d1 := (d.inherited h v).foldl (fun d p => readLeaf (s.dev.waiterLabel (.seal h v)) p.1 d) d
      let d2 := sealVersion h v d1
      (d1.anyDamaged h v = true → Does (.sealComplete h v) s (sealFailed h v x d1)) ∧
      (d1.anyDamaged h v = false → x.sealCmd = none → Does (.sealComplete h v) s (runSealed h v d2)) ∧
      (∀ n k c, d1.anyDamaged h v = false → x.sealCmd = some n → d2.cmd? n = some k → k.ends = some c →
        Does (.sealComplete h v) s (runSealed h v (finishCmd n c d2)))) ∧
    (∀ x, d.ver? h v = some x → x.st = .released → d.referenced h v = false →
      Does (.lastReferenceEnd h v) s (dropVersion h v d)) ∧
    (∀ st o n j, d.objs.stored.get? sid = some st → d.obj? h = some o → st.near = .promoting →
      d.joinable sid = some n → d.strs.jobs.get? n = some j → j.st = .coded → d.keyless o.tenant = false →
      d.nearWritable j.qos st.stack = true →
      d.turn 1 (2 * stackHalf st.stack + 1) (6 + st.stack) j.qos j.since n (d.nearWriters st.stack) = true →
      let d1 := serveAt 1 (2 * stackHalf st.stack + 1) (6 + st.stack) j.qos (256 * st.sectors)
        (nearAccess st.stack [0, sid] (256 * st.sectors) j.qos true d)
      let d2 := d1.updStored sid fun s => { s with near := if d1.heldBy sid then .present else .releasing }
      let d3 := d2.updStrs fun x => { x with jobs := Map.upd n (fun j => { j with promo := false }) x.jobs }
      Does (.promotionDone h v tile) s
        (drainCtrl (32 + st.stack) (settleClaims (sweepJobs (d3.nearUse st.stack))))) ∧
    (∀ st, d.objs.stored.get? sid = some st → st.near = .releasing → d.jobOf sid = none →
      Does (.releasingCopyFreed h v tile) s (evalScheds (d.updStored sid fun s => { s with near := .absent }))) ∧
    (∀ g st, d.candidate g = some st → d.reclaims g = true → (d.group g).selfRef = false → d.moverFree 0 g g = true →
      let n := ((d.objs.stored.filter fun p => p.2.inStripe g st).map fun p => p.2.sectors).sum
      let d1 := reclaimStripe g st d
      Does (.reclaimStripe g st) s (drainUpdate g (grantBytes 0 0 (2 * groupHalf g + 1) (d1.farCost n)
        (grantBytes 0 0 (2 * groupHalf g) (256 * n) d1))))

/-! ## Rules of the whole block -/

/-- A step takes the command at the front of the queue and runs it on the state with the queue's rest; with none
waiting, an AO tick passes (the model's choice, log entry 25). -/
def Obligations.StepTakesTheFront : Prop :=
  ∀ (s : State), (∀ c rest, s.pending = c :: rest → step s = exec c { s with pending := rest }) ∧
    (s.pending = [] → step s = .next s.idle)

/-- Every command of the block goes on: from every state a step answers a next state, in which the queue holds what
stood behind the command taken. Model choices it rests on: log entry 2. -/
def Obligations.StepGoesOn : Prop :=
  ∀ (s : State), ∃ t, step s = .next t ∧ t.pending = s.pending.tail

/-- R550, R460: while boundary scan runs, no row but those of the management path, of power and of the start changes
anything; in D3cold retention the same holds of the rows that are not a host port's either. Model choices it rests on:
log entries 58, 60. -/
def Obligations.DataPathStops : Prop :=
  ∀ (s : State) (i : Instr), managedRow i = false →
    (s.dev.pwr.bscan = true → exec i s = .next s) ∧
    (s.dev.pwr.retention = true → (∀ p, i ≠ .perstNAssert p) → (∀ p, i ≠ .perstNDeassert p) → (∀ p, i ≠ .hotReset p) →
      (∀ p, i ≠ .linkDown p) → (∀ p, i ≠ .hostLinkUp p) → (∀ k, i ≠ .refclkLoss k) → (∀ p, i ≠ .linkLoss p) →
      exec i s = .next s)

/-- R473, Table 17-1: the four HDM decoders stay sound in every step: base and size multiples of 256 MiB, reserved
control bits 0, `committed` only with `commit` and never beside `error_not_committed`. -/
def Obligations.HdmStaysSound : Prop :=
  ∀ (s t : State), s.hdmSound → step s = .next t → t.hdmSound

/-- The decoders are sound at reset. -/
def Obligations.HdmSoundAtReset : Prop := State.reset.hdmSound

/-- R97, R98, R469: the completion of a command of a host's queue pair. Where the function may write, the device sends the
command's data, then the extended-status record, then bytes 0x04 to 0x1F of the entry and then bytes 0x00 to 0x03, as
Table 3-3 lays them out, in that order, with Relaxed Ordering on the data and the record where Device Control enables
it; the ring's position moves by one and the phase inverts on each wrap. -/
def Obligations.CompletionEntry : Prop :=
  ∀ (d : Dev) (n qp slot fn db : Nat) (c : Cmd) (q : QP) (r : Cpl), d.cmd? n = some c → c.origin = .queue qp slot →
    d.qp? qp = some q → q.loc = .host fn db → q.cqPos < 2 ^ q.log2Depth → q.discard = false → (d.fn fn).mayWrite = true →
    let relaxed : Attr := { ro := ((d.fn fn).cfg.getD 0x68 0x2810).testBit 4, ns := false }
    let strict : Attr := { ro := false, ns := false }
    let ext : List Out := match r.ext with
      | some e =>
        if q.extBase ≠ 0 then [.hostWrite fn (q.extBase + 64 * slot) relaxed (e.bytes r.status.code c.tag)] else []
      | none => []
    let base := q.cqBase + 32 * q.cqPos
    let bit (b : Bool) (k : Nat) : Nat := if b then 2 ^ k else 0
    (d.out ++ (r.data.map fun w => Out.hostWrite fn w.addr relaxed w.data) ++ ext ++
      [.hostWrite fn (base + 4) strict
         (leBytes 4 q.sqHead ++ leBytes 16 r.results.toNat ++ leBytes 4 r.errId ++ leBytes 4 (d.now % 2 ^ 32)),
       .hostWrite fn base strict (leBytes 2 c.tag ++ leBytes 1 r.status.code ++
         leBytes 1 (bit q.phase 0 + bit (!ext.isEmpty) 1 + bit (d.pwr.sable || d.degraded) 2))]) <+: (finishCmd n r d).out ∧
    ∃ q', (finish1 n r d).qp? qp = some q' ∧ q'.cqPos = (q.cqPos + 1) % 2 ^ q.log2Depth ∧
      q'.phase = (if q.cqPos + 1 = 2 ^ q.log2Depth then !q.phase else q.phase) ∧ (finish1 n r d).cmd? n = none

/-- R278, R292: `LDT` naming an output argument, or `STT` or `TCOMMIT` naming an input argument, traps `ROLE`. So does
`AADDF` naming an input argument: R278 says an output one, against R292 and Table 9-6, and the model takes those (log
entry 26). -/
def Obligations.ArgumentRoles : Prop :=
  ∀ (s : State) (n i : Nat) (x : ICtx) (a : RunArg),
    let k := wImm x.w % 16
    let trapped (tile : BitVec 64) := Host.Outcome.next (s.after
      (takeTrap n i x.r x.s x.w ⟨.role, k, tile.toNat⟩ s.dev))
    x.r.args[k]? = some a →
    (Stands s 0x20 n i x → x.mask ≠ 0 → a.role = 2 → exec (.ldt n i) s = trapped (x.s.sreg (wA x.w))) ∧
    (Stands s 0xF2 n i x → x.mask ≠ 0 → a.role = 1 → exec (.aaddf n i) s = trapped (x.s.sreg (wB x.w))) ∧
    (Stands s 0x21 n i x → x.mask ≠ 0 → a.role = 1 → exec (.stt n i) s = trapped (x.s.sreg (wB x.w))) ∧
    (Stands s 0x22 n i x → x.lane 0 = true → a.role = 1 → exec (.tcommit n i) s = trapped (x.s.sreg (wA x.w)))

/-- R380, R381: where the line at offset `G` of a parity group lies under the 4 KiB and the channel-linear orders: its
channel in the group and its offset there. -/
def Obligations.ChannelOrders : Prop :=
  ∀ (d : Dev) (g stripe line : Nat), line < 128 →
    let G := 32768 * stripe + 256 * line
    let m := (d.group g).modGib * 2 ^ 30
    (d.mem.order = 1 → d.lineAddr g stripe line =
      (8 * g + (G >>> 12) % 8, (((G >>> 12) >>> 3) <<< 12) ||| (G % 4096))) ∧
    (d.mem.order = 2 → m ≠ 0 → d.lineAddr g stripe line = (8 * g + G / m, G % m))
end

