-- ==== Sys2Proof/Laws/Maps.lean ====
section
/-! SUPPORT. The laws of the sorted maps: a read after a write, and that every operation keeps the canonical form. -/

namespace Sys2Proof.Map

variable {α β : Type}

/-- Every key of the map is above a number. -/
def Above (a : Nat) (m : Map α) : Prop := ∀ p ∈ m, a < p.1

@[simp] theorem get?_nil (i : Nat) : get? ([] : Map α) i = none := rfl

theorem get?_cons (k : Nat) (v : α) (m : Map α) (i : Nat) :
    get? ((k, v) :: m) i = if k = i then some v else get? m i := rfl

/-- The canonical form, one entry at a time. -/
theorem wf_cons_iff (p : Nat × α) (m : Map α) : wf (p :: m) = true ↔ Above p.1 m ∧ wf m = true := by
  induction m generalizing p with
  | nil => simp [wf, Above]
  | cons q m ih =>
    obtain ⟨k, v⟩ := p
    obtain ⟨l, w⟩ := q
    simp only [wf, Bool.and_eq_true, decide_eq_true_eq, ih]
    constructor
    · rintro ⟨h, hm, hw⟩
      refine ⟨fun r hr => ?_, hm, hw⟩
      rcases List.mem_cons.mp hr with rfl | hr
      · exact h
      · exact lt_trans h (hm r hr)
    · rintro ⟨ha, hm, hw⟩
      exact ⟨ha (l, w) (List.mem_cons_self ..), hm, hw⟩

theorem get?_none_of_above {a : Nat} {m : Map α} (h : Above a m) : get? m a = none := by
  induction m with
  | nil => rfl
  | cons p m ih =>
    obtain ⟨k, v⟩ := p
    have hk : a < k := h (k, v) (List.mem_cons_self ..)
    rw [get?_cons, if_neg (by omega), ih fun q hq => h q (List.mem_cons_of_mem _ hq)]

/-- A read at the key written gives the value written. -/
theorem mem_of_get? {i : Nat} {v : α} {m : Map α} (h : get? m i = some v) : (i, v) ∈ m := by
  induction m with
  | nil => simp at h
  | cons p m ih =>
    rw [get?_cons] at h
    split at h
    · rename_i hk
      obtain rfl := Option.some.inj h
      exact hk ▸ List.mem_cons_self ..
    · exact List.mem_cons_of_mem _ (ih h)

@[simp] theorem get?_set_self (i : Nat) (v : α) (m : Map α) : get? (set i v m) i = some v := by
  induction m with
  | nil => simp [set, get?_cons]
  | cons p m ih =>
    obtain ⟨k, w⟩ := p
    simp only [set]
    split
    · simp [get?_cons]
    · split
      · simp [get?_cons]
      · rw [get?_cons, if_neg (by omega), ih]

/-- A write leaves every other key alone. -/
@[simp] theorem get?_set_ne {i j : Nat} (h : j ≠ i) (v : α) (m : Map α) : get? (set i v m) j = get? m j := by
  induction m with
  | nil => simp [set, get?_cons, Ne.symm h]
  | cons p m ih =>
    obtain ⟨k, w⟩ := p
    simp only [set]
    split
    · rw [get?_cons, if_neg (Ne.symm h)]
    · split
      · next hk => rw [get?_cons, if_neg (Ne.symm h), get?_cons, if_neg (by omega)]
      · rw [get?_cons, get?_cons, ih]

theorem get?_set (i j : Nat) (v : α) (m : Map α) :
    get? (set i v m) j = if j = i then some v else get? m j := by
  split
  · next h => rw [h, get?_set_self]
  · next h => exact get?_set_ne h v m

@[simp] theorem getD_set_self (i : Nat) (v d : α) (m : Map α) : getD (set i v m) i d = v := by simp [getD]

@[simp] theorem getD_set_ne {i j : Nat} (h : j ≠ i) (v d : α) (m : Map α) :
    getD (set i v m) j d = getD m j d := by simp [getD, h]

/-- What `upd` leaves at a key. -/
theorem get?_upd (i j : Nat) (f : α → α) (m : Map α) :
    get? (upd i f m) j = if j = i then (get? m j).map f else get? m j := by
  induction m with
  | nil => simp [upd]
  | cons p m ih =>
    obtain ⟨k, w⟩ := p
    simp only [upd, List.map_cons] at ih ⊢
    by_cases hk : k = i
    · subst hk
      by_cases hj : k = j
      · subst hj; simp [get?_cons]
      · have hj' : ¬ j = k := fun h => hj h.symm
        simp only [get?_cons, if_neg hj, if_true, ih, if_neg hj']
    · simp only [if_neg hk, get?_cons, ih]
      by_cases hj : k = j
      · subst hj; simp [hk]
      · simp [hj]

@[simp] theorem get?_upd_self (i : Nat) (f : α → α) (m : Map α) : get? (upd i f m) i = (get? m i).map f := by
  simp [get?_upd]

@[simp] theorem get?_upd_ne {i j : Nat} (h : j ≠ i) (f : α → α) (m : Map α) : get? (upd i f m) j = get? m j := by
  simp [get?_upd, h]

@[simp] theorem get?_del_self (i : Nat) (m : Map α) : get? (del i m) i = none := by
  induction m with
  | nil => rfl
  | cons p m ih =>
    obtain ⟨k, w⟩ := p
    simp only [del] at ih ⊢
    by_cases hk : k = i
    · subst hk; simpa using ih
    · simp [hk, get?_cons, ih]

@[simp] theorem get?_del_ne {i j : Nat} (h : j ≠ i) (m : Map α) : get? (del i m) j = get? m j := by
  induction m with
  | nil => rfl
  | cons p m ih =>
    obtain ⟨k, w⟩ := p
    simp only [del] at ih ⊢
    by_cases hk : k = i
    · subst hk; simp [get?_cons, Ne.symm h, ih]
    · simp [hk, get?_cons, ih]

theorem above_set {a i : Nat} (v : α) {m : Map α} (hi : a < i) (h : Above a m) : Above a (set i v m) := by
  induction m with
  | nil => intro p hp; simp [set] at hp; simp [hp, hi]
  | cons q m ih =>
    obtain ⟨k, w⟩ := q
    have hk : a < k := h (k, w) (List.mem_cons_self ..)
    have hm : Above a m := fun p hp => h p (List.mem_cons_of_mem _ hp)
    intro p hp
    simp only [set] at hp
    split at hp
    · rcases List.mem_cons.mp hp with rfl | hp
      · exact hi
      · exact h p hp
    · split at hp
      · rcases List.mem_cons.mp hp with rfl | hp
        · exact hi
        · exact hm p hp
      · rcases List.mem_cons.mp hp with rfl | hp
        · exact hk
        · exact ih hm p hp

/-- Setting a key keeps the canonical form. -/
theorem wf_set (i : Nat) (v : α) {m : Map α} (h : wf m = true) : wf (set i v m) = true := by
  induction m with
  | nil => rfl
  | cons p m ih =>
    obtain ⟨k, w⟩ := p
    obtain ⟨ha, hm⟩ := (wf_cons_iff _ _).mp h
    simp only [set]
    split
    · next hik =>
      exact (wf_cons_iff _ _).mpr ⟨fun q hq => by
        rcases List.mem_cons.mp hq with rfl | hq
        · exact hik
        · exact lt_trans hik (ha q hq), h⟩
    · split
      · next _ hk => exact (wf_cons_iff _ _).mpr ⟨by rw [hk]; exact ha, hm⟩
      · exact (wf_cons_iff _ _).mpr ⟨above_set v (by simp only; omega) ha, ih hm⟩

/-- Filtering keeps the canonical form. -/
theorem wf_filter (f : Nat × α → Bool) {m : Map α} (h : wf m = true) : wf (m.filter f) = true := by
  induction m with
  | nil => rfl
  | cons p m ih =>
    obtain ⟨ha, hm⟩ := (wf_cons_iff _ _).mp h
    rw [List.filter_cons]
    split
    · exact (wf_cons_iff _ _).mpr ⟨fun q hq => ha q (List.mem_filter.mp hq).1, ih hm⟩
    · exact ih hm

/-- Removing a key keeps the canonical form. -/
theorem wf_del (i : Nat) {m : Map α} (h : wf m = true) : wf (del i m) = true := wf_filter _ h

/-- Keeping the entries that pass a test keeps the canonical form. -/
theorem wf_keep (f : Nat → α → Bool) {m : Map α} (h : wf m = true) : wf (keep f m) = true := wf_filter _ h

/-- A change of values alone keeps the canonical form. -/
theorem wf_map {f : Nat × α → Nat × β} (hf : ∀ p, (f p).1 = p.1) {m : Map α} (h : wf m = true) :
    wf (m.map f) = true := by
  induction m with
  | nil => rfl
  | cons p m ih =>
    obtain ⟨ha, hm⟩ := (wf_cons_iff _ _).mp h
    refine (wf_cons_iff _ _).mpr ⟨fun q hq => ?_, ih hm⟩
    obtain ⟨r, hr, rfl⟩ := List.mem_map.mp hq
    rw [hf, hf]
    exact ha r hr

/-- Updating a key keeps the canonical form. -/
theorem wf_upd (i : Nat) (f : α → α) {m : Map α} (h : wf m = true) : wf (upd i f m) = true :=
  wf_map (f := fun p => if p.1 = i then (p.1, f p.2) else p) (fun p => by split <;> rfl) h

/-- Updating every value keeps the canonical form. -/
theorem wf_mapVals (f : Nat → α → β) {m : Map α} (h : wf m = true) : wf (mapVals f m) = true :=
  wf_map (f := fun p => (p.1, f p.1 p.2)) (fun _ => rfl) h

end Sys2Proof.Map
end

