-- ==== Sys2Proof/Laws/State.lean ====
section
/-! SUPPORT. What each update of the state leaves alone and what it changes, so that no proof unfolds a record update. -/

namespace Sys2Proof.Machine

variable (d : Dev)

/-- `updFn`: every part of the device. -/
@[simp] theorem Dev.updFn_frame (n : Nat) (f : Fn → Fn) :
    (d.updFn n f).out = d.out ∧ (d.updFn n f).freeN = d.freeN ∧ (d.updFn n f).cnt = d.cnt ∧
    (d.updFn n f).integ = d.integ ∧ (d.updFn n f).ports = d.ports ∧ (d.updFn n f).mgmt = d.mgmt ∧
    (d.updFn n f).pwr = d.pwr ∧ (d.updFn n f).objs = d.objs ∧ (d.updFn n f).tiers = d.tiers ∧
    (d.updFn n f).strs = d.strs ∧ (d.updFn n f).reds = d.reds ∧ (d.updFn n f).comp = d.comp ∧
    (d.updFn n f).sync = d.sync ∧ (d.updFn n f).qos = d.qos ∧ (d.updFn n f).mem = d.mem ∧
    (d.updFn n f).cxl = d.cxl ∧ (d.updFn n f).q.qps = d.q.qps ∧ (d.updFn n f).q.cmds = d.q.cmds ∧
    (d.updFn n f).q.nextCmd = d.q.nextCmd ∧ (d.updFn n f).q.ports = d.q.ports ∧
    (d.updFn n f).q.tenants = d.q.tenants ∧ (d.updFn n f).q.rrQp = d.q.rrQp ∧ (d.updFn n f).q.rrLeft = d.q.rrLeft ∧
    (d.updFn n f).q.fns = Map.set n (f (d.fn n)) d.q.fns :=
  ⟨rfl, rfl, rfl, rfl, rfl, rfl, rfl, rfl, rfl, rfl, rfl, rfl, rfl, rfl, rfl, rfl, rfl, rfl, rfl, rfl, rfl, rfl,
    rfl, rfl⟩

/-- `updFn`: the reads it does not touch. -/
@[simp] theorem Dev.updFn_reads (n : Nat) (f : Fn → Fn) :
    (∀ k : Nat, (d.updFn n f).hport k = d.hport k) ∧ (∀ k : Nat, (d.updFn n f).port k = d.port k) ∧
    (∀ k : Nat, (d.updFn n f).ctrl k = d.ctrl k) ∧ (∀ k : Nat, (d.updFn n f).cluster k = d.cluster k) ∧
    (∀ k : Nat, (d.updFn n f).group k = d.group k) ∧ (∀ k : Nat, (d.updFn n f).domain k = d.domain k) ∧
    (d.updFn n f).now = d.now ∧ (∀ k : Nat, (d.updFn n f).qp? k = d.qp? k) ∧
    (∀ k : Nat, (d.updFn n f).cmd? k = d.cmd? k) ∧ (∀ a b c : Nat, (d.updFn n f).feat a b c = d.feat a b c) ∧
    (∀ k : Nat, (d.updFn n f).run? k = d.run? k) ∧ (∀ k : Nat, (d.updFn n f).kernel? k = d.kernel? k) ∧
    (∀ k : Nat, (d.updFn n f).obj? k = d.obj? k) ∧ ∀ k : Nat, (d.updFn n f).str? k = d.str? k :=
  ⟨fun _ => rfl, fun _ => rfl, fun _ => rfl, fun _ => rfl, fun _ => rfl, fun _ => rfl, rfl, fun _ => rfl,
    fun _ => rfl, fun _ _ _ => rfl, fun _ => rfl, fun _ => rfl, fun _ => rfl, fun _ => rfl⟩

/-- `updHport`: every part of the device. -/
@[simp] theorem Dev.updHport_frame (n : Nat) (f : HPort → HPort) :
    (d.updHport n f).out = d.out ∧ (d.updHport n f).freeN = d.freeN ∧ (d.updHport n f).cnt = d.cnt ∧
    (d.updHport n f).integ = d.integ ∧ (d.updHport n f).ports = d.ports ∧ (d.updHport n f).mgmt = d.mgmt ∧
    (d.updHport n f).pwr = d.pwr ∧ (d.updHport n f).objs = d.objs ∧ (d.updHport n f).tiers = d.tiers ∧
    (d.updHport n f).strs = d.strs ∧ (d.updHport n f).reds = d.reds ∧ (d.updHport n f).comp = d.comp ∧
    (d.updHport n f).sync = d.sync ∧ (d.updHport n f).qos = d.qos ∧ (d.updHport n f).mem = d.mem ∧
    (d.updHport n f).cxl = d.cxl ∧ (d.updHport n f).q.qps = d.q.qps ∧ (d.updHport n f).q.cmds = d.q.cmds ∧
    (d.updHport n f).q.nextCmd = d.q.nextCmd ∧ (d.updHport n f).q.fns = d.q.fns ∧
    (d.updHport n f).q.tenants = d.q.tenants ∧ (d.updHport n f).q.rrQp = d.q.rrQp ∧
    (d.updHport n f).q.rrLeft = d.q.rrLeft ∧ (d.updHport n f).q.ports = Map.set n (f (d.hport n)) d.q.ports :=
  ⟨rfl, rfl, rfl, rfl, rfl, rfl, rfl, rfl, rfl, rfl, rfl, rfl, rfl, rfl, rfl, rfl, rfl, rfl, rfl, rfl, rfl, rfl,
    rfl, rfl⟩

/-- `updHport`: the reads it does not touch. -/
@[simp] theorem Dev.updHport_reads (n : Nat) (f : HPort → HPort) :
    (∀ k : Nat, (d.updHport n f).fn k = d.fn k) ∧ (∀ k : Nat, (d.updHport n f).port k = d.port k) ∧
    (∀ k : Nat, (d.updHport n f).ctrl k = d.ctrl k) ∧ (∀ k : Nat, (d.updHport n f).cluster k = d.cluster k) ∧
    (∀ k : Nat, (d.updHport n f).group k = d.group k) ∧ (∀ k : Nat, (d.updHport n f).domain k = d.domain k) ∧
    (d.updHport n f).now = d.now ∧ (∀ k : Nat, (d.updHport n f).qp? k = d.qp? k) ∧
    (∀ k : Nat, (d.updHport n f).cmd? k = d.cmd? k) ∧ (∀ a b c : Nat, (d.updHport n f).feat a b c = d.feat a b c) ∧
    (∀ k : Nat, (d.updHport n f).run? k = d.run? k) ∧ (∀ k : Nat, (d.updHport n f).kernel? k = d.kernel? k) ∧
    (∀ k : Nat, (d.updHport n f).obj? k = d.obj? k) ∧ ∀ k : Nat, (d.updHport n f).str? k = d.str? k :=
  ⟨fun _ => rfl, fun _ => rfl, fun _ => rfl, fun _ => rfl, fun _ => rfl, fun _ => rfl, rfl, fun _ => rfl,
    fun _ => rfl, fun _ _ _ => rfl, fun _ => rfl, fun _ => rfl, fun _ => rfl, fun _ => rfl⟩

/-- `updQp`: every part of the device. -/
@[simp] theorem Dev.updQp_frame (n : Nat) (f : QP → QP) :
    (d.updQp n f).out = d.out ∧ (d.updQp n f).freeN = d.freeN ∧ (d.updQp n f).cnt = d.cnt ∧
    (d.updQp n f).integ = d.integ ∧ (d.updQp n f).ports = d.ports ∧ (d.updQp n f).mgmt = d.mgmt ∧
    (d.updQp n f).pwr = d.pwr ∧ (d.updQp n f).objs = d.objs ∧ (d.updQp n f).tiers = d.tiers ∧
    (d.updQp n f).strs = d.strs ∧ (d.updQp n f).reds = d.reds ∧ (d.updQp n f).comp = d.comp ∧
    (d.updQp n f).sync = d.sync ∧ (d.updQp n f).qos = d.qos ∧ (d.updQp n f).mem = d.mem ∧
    (d.updQp n f).cxl = d.cxl ∧ (d.updQp n f).q.cmds = d.q.cmds ∧ (d.updQp n f).q.nextCmd = d.q.nextCmd ∧
    (d.updQp n f).q.fns = d.q.fns ∧ (d.updQp n f).q.ports = d.q.ports ∧ (d.updQp n f).q.tenants = d.q.tenants ∧
    (d.updQp n f).q.rrQp = d.q.rrQp ∧ (d.updQp n f).q.rrLeft = d.q.rrLeft ∧
    (d.updQp n f).q.qps = Map.upd n f d.q.qps :=
  ⟨rfl, rfl, rfl, rfl, rfl, rfl, rfl, rfl, rfl, rfl, rfl, rfl, rfl, rfl, rfl, rfl, rfl, rfl, rfl, rfl, rfl, rfl,
    rfl, rfl⟩

/-- `updQp`: the reads it does not touch. -/
@[simp] theorem Dev.updQp_reads (n : Nat) (f : QP → QP) :
    (∀ k : Nat, (d.updQp n f).fn k = d.fn k) ∧ (∀ k : Nat, (d.updQp n f).hport k = d.hport k) ∧
    (∀ k : Nat, (d.updQp n f).port k = d.port k) ∧ (∀ k : Nat, (d.updQp n f).ctrl k = d.ctrl k) ∧
    (∀ k : Nat, (d.updQp n f).cluster k = d.cluster k) ∧ (∀ k : Nat, (d.updQp n f).group k = d.group k) ∧
    (∀ k : Nat, (d.updQp n f).domain k = d.domain k) ∧ (d.updQp n f).now = d.now ∧
    (∀ k : Nat, (d.updQp n f).cmd? k = d.cmd? k) ∧ (∀ a b c : Nat, (d.updQp n f).feat a b c = d.feat a b c) ∧
    (∀ k : Nat, (d.updQp n f).run? k = d.run? k) ∧ (∀ k : Nat, (d.updQp n f).kernel? k = d.kernel? k) ∧
    (∀ k : Nat, (d.updQp n f).obj? k = d.obj? k) ∧ ∀ k : Nat, (d.updQp n f).str? k = d.str? k :=
  ⟨fun _ => rfl, fun _ => rfl, fun _ => rfl, fun _ => rfl, fun _ => rfl, fun _ => rfl, fun _ => rfl, rfl,
    fun _ => rfl, fun _ _ _ => rfl, fun _ => rfl, fun _ => rfl, fun _ => rfl, fun _ => rfl⟩

/-- `removeQp`: every part of the device. -/
@[simp] theorem Dev.removeQp_frame (n : Nat) :
    (d.removeQp n).out = d.out ∧ (d.removeQp n).freeN = d.freeN ∧ (d.removeQp n).cnt = d.cnt ∧
    (d.removeQp n).integ = d.integ ∧ (d.removeQp n).ports = d.ports ∧ (d.removeQp n).mgmt = d.mgmt ∧
    (d.removeQp n).pwr = d.pwr ∧ (d.removeQp n).objs = d.objs ∧ (d.removeQp n).tiers = d.tiers ∧
    (d.removeQp n).strs = d.strs ∧ (d.removeQp n).reds = d.reds ∧ (d.removeQp n).comp = d.comp ∧
    (d.removeQp n).sync = d.sync ∧ (d.removeQp n).qos = d.qos ∧ (d.removeQp n).mem = d.mem ∧
    (d.removeQp n).cxl = d.cxl ∧ (d.removeQp n).q.cmds = d.q.cmds ∧ (d.removeQp n).q.nextCmd = d.q.nextCmd ∧
    (d.removeQp n).q.fns = d.q.fns ∧ (d.removeQp n).q.ports = d.q.ports ∧ (d.removeQp n).q.tenants = d.q.tenants ∧
    (d.removeQp n).q.rrQp = d.q.rrQp ∧ (d.removeQp n).q.rrLeft = d.q.rrLeft ∧
    (d.removeQp n).q.qps = Map.del n d.q.qps :=
  ⟨rfl, rfl, rfl, rfl, rfl, rfl, rfl, rfl, rfl, rfl, rfl, rfl, rfl, rfl, rfl, rfl, rfl, rfl, rfl, rfl, rfl, rfl,
    rfl, rfl⟩

/-- `removeQp`: the reads it does not touch. -/
@[simp] theorem Dev.removeQp_reads (n : Nat) :
    (∀ k : Nat, (d.removeQp n).fn k = d.fn k) ∧ (∀ k : Nat, (d.removeQp n).hport k = d.hport k) ∧
    (∀ k : Nat, (d.removeQp n).port k = d.port k) ∧ (∀ k : Nat, (d.removeQp n).ctrl k = d.ctrl k) ∧
    (∀ k : Nat, (d.removeQp n).cluster k = d.cluster k) ∧ (∀ k : Nat, (d.removeQp n).group k = d.group k) ∧
    (∀ k : Nat, (d.removeQp n).domain k = d.domain k) ∧ (d.removeQp n).now = d.now ∧
    (∀ k : Nat, (d.removeQp n).cmd? k = d.cmd? k) ∧ (∀ a b c : Nat, (d.removeQp n).feat a b c = d.feat a b c) ∧
    (∀ k : Nat, (d.removeQp n).run? k = d.run? k) ∧ (∀ k : Nat, (d.removeQp n).kernel? k = d.kernel? k) ∧
    (∀ k : Nat, (d.removeQp n).obj? k = d.obj? k) ∧ ∀ k : Nat, (d.removeQp n).str? k = d.str? k :=
  ⟨fun _ => rfl, fun _ => rfl, fun _ => rfl, fun _ => rfl, fun _ => rfl, fun _ => rfl, fun _ => rfl, rfl,
    fun _ => rfl, fun _ _ _ => rfl, fun _ => rfl, fun _ => rfl, fun _ => rfl, fun _ => rfl⟩

/-- `updCmd`: every part of the device. -/
@[simp] theorem Dev.updCmd_frame (n : Nat) (f : Cmd → Cmd) :
    (d.updCmd n f).out = d.out ∧ (d.updCmd n f).freeN = d.freeN ∧ (d.updCmd n f).cnt = d.cnt ∧
    (d.updCmd n f).integ = d.integ ∧ (d.updCmd n f).ports = d.ports ∧ (d.updCmd n f).mgmt = d.mgmt ∧
    (d.updCmd n f).pwr = d.pwr ∧ (d.updCmd n f).objs = d.objs ∧ (d.updCmd n f).tiers = d.tiers ∧
    (d.updCmd n f).strs = d.strs ∧ (d.updCmd n f).reds = d.reds ∧ (d.updCmd n f).comp = d.comp ∧
    (d.updCmd n f).sync = d.sync ∧ (d.updCmd n f).qos = d.qos ∧ (d.updCmd n f).mem = d.mem ∧
    (d.updCmd n f).cxl = d.cxl ∧ (d.updCmd n f).q.qps = d.q.qps ∧ (d.updCmd n f).q.nextCmd = d.q.nextCmd ∧
    (d.updCmd n f).q.fns = d.q.fns ∧ (d.updCmd n f).q.ports = d.q.ports ∧ (d.updCmd n f).q.tenants = d.q.tenants ∧
    (d.updCmd n f).q.rrQp = d.q.rrQp ∧ (d.updCmd n f).q.rrLeft = d.q.rrLeft ∧
    (d.updCmd n f).q.cmds = Map.upd n f d.q.cmds :=
  ⟨rfl, rfl, rfl, rfl, rfl, rfl, rfl, rfl, rfl, rfl, rfl, rfl, rfl, rfl, rfl, rfl, rfl, rfl, rfl, rfl, rfl, rfl,
    rfl, rfl⟩

/-- `updCmd`: the reads it does not touch. -/
@[simp] theorem Dev.updCmd_reads (n : Nat) (f : Cmd → Cmd) :
    (∀ k : Nat, (d.updCmd n f).fn k = d.fn k) ∧ (∀ k : Nat, (d.updCmd n f).hport k = d.hport k) ∧
    (∀ k : Nat, (d.updCmd n f).port k = d.port k) ∧ (∀ k : Nat, (d.updCmd n f).ctrl k = d.ctrl k) ∧
    (∀ k : Nat, (d.updCmd n f).cluster k = d.cluster k) ∧ (∀ k : Nat, (d.updCmd n f).group k = d.group k) ∧
    (∀ k : Nat, (d.updCmd n f).domain k = d.domain k) ∧ (d.updCmd n f).now = d.now ∧
    (∀ k : Nat, (d.updCmd n f).qp? k = d.qp? k) ∧ (∀ a b c : Nat, (d.updCmd n f).feat a b c = d.feat a b c) ∧
    (∀ k : Nat, (d.updCmd n f).run? k = d.run? k) ∧ (∀ k : Nat, (d.updCmd n f).kernel? k = d.kernel? k) ∧
    (∀ k : Nat, (d.updCmd n f).obj? k = d.obj? k) ∧ ∀ k : Nat, (d.updCmd n f).str? k = d.str? k :=
  ⟨fun _ => rfl, fun _ => rfl, fun _ => rfl, fun _ => rfl, fun _ => rfl, fun _ => rfl, fun _ => rfl, rfl,
    fun _ => rfl, fun _ _ _ => rfl, fun _ => rfl, fun _ => rfl, fun _ => rfl, fun _ => rfl⟩

/-- `dropCmd`: every part of the device. -/
@[simp] theorem Dev.dropCmd_frame (n : Nat) :
    (d.dropCmd n).out = d.out ∧ (d.dropCmd n).freeN = d.freeN ∧ (d.dropCmd n).cnt = d.cnt ∧
    (d.dropCmd n).integ = d.integ ∧ (d.dropCmd n).ports = d.ports ∧ (d.dropCmd n).mgmt = d.mgmt ∧
    (d.dropCmd n).pwr = d.pwr ∧ (d.dropCmd n).objs = d.objs ∧ (d.dropCmd n).tiers = d.tiers ∧
    (d.dropCmd n).strs = d.strs ∧ (d.dropCmd n).reds = d.reds ∧ (d.dropCmd n).comp = d.comp ∧
    (d.dropCmd n).sync = d.sync ∧ (d.dropCmd n).qos = d.qos ∧ (d.dropCmd n).mem = d.mem ∧
    (d.dropCmd n).cxl = d.cxl ∧ (d.dropCmd n).q.qps = d.q.qps ∧ (d.dropCmd n).q.nextCmd = d.q.nextCmd ∧
    (d.dropCmd n).q.fns = d.q.fns ∧ (d.dropCmd n).q.ports = d.q.ports ∧ (d.dropCmd n).q.tenants = d.q.tenants ∧
    (d.dropCmd n).q.rrQp = d.q.rrQp ∧ (d.dropCmd n).q.rrLeft = d.q.rrLeft ∧
    (d.dropCmd n).q.cmds = Map.del n d.q.cmds :=
  ⟨rfl, rfl, rfl, rfl, rfl, rfl, rfl, rfl, rfl, rfl, rfl, rfl, rfl, rfl, rfl, rfl, rfl, rfl, rfl, rfl, rfl, rfl,
    rfl, rfl⟩

/-- `dropCmd`: the reads it does not touch. -/
@[simp] theorem Dev.dropCmd_reads (n : Nat) :
    (∀ k : Nat, (d.dropCmd n).fn k = d.fn k) ∧ (∀ k : Nat, (d.dropCmd n).hport k = d.hport k) ∧
    (∀ k : Nat, (d.dropCmd n).port k = d.port k) ∧ (∀ k : Nat, (d.dropCmd n).ctrl k = d.ctrl k) ∧
    (∀ k : Nat, (d.dropCmd n).cluster k = d.cluster k) ∧ (∀ k : Nat, (d.dropCmd n).group k = d.group k) ∧
    (∀ k : Nat, (d.dropCmd n).domain k = d.domain k) ∧ (d.dropCmd n).now = d.now ∧
    (∀ k : Nat, (d.dropCmd n).qp? k = d.qp? k) ∧ (∀ a b c : Nat, (d.dropCmd n).feat a b c = d.feat a b c) ∧
    (∀ k : Nat, (d.dropCmd n).run? k = d.run? k) ∧ (∀ k : Nat, (d.dropCmd n).kernel? k = d.kernel? k) ∧
    (∀ k : Nat, (d.dropCmd n).obj? k = d.obj? k) ∧ ∀ k : Nat, (d.dropCmd n).str? k = d.str? k :=
  ⟨fun _ => rfl, fun _ => rfl, fun _ => rfl, fun _ => rfl, fun _ => rfl, fun _ => rfl, fun _ => rfl, rfl,
    fun _ => rfl, fun _ _ _ => rfl, fun _ => rfl, fun _ => rfl, fun _ => rfl, fun _ => rfl⟩

/-- `updPort`: every part of the device. -/
@[simp] theorem Dev.updPort_frame (n : Nat) (f : Port → Port) :
    (d.updPort n f).out = d.out ∧ (d.updPort n f).freeN = d.freeN ∧ (d.updPort n f).cnt = d.cnt ∧
    (d.updPort n f).q = d.q ∧ (d.updPort n f).integ = d.integ ∧ (d.updPort n f).mgmt = d.mgmt ∧
    (d.updPort n f).pwr = d.pwr ∧ (d.updPort n f).objs = d.objs ∧ (d.updPort n f).tiers = d.tiers ∧
    (d.updPort n f).strs = d.strs ∧ (d.updPort n f).reds = d.reds ∧ (d.updPort n f).comp = d.comp ∧
    (d.updPort n f).sync = d.sync ∧ (d.updPort n f).qos = d.qos ∧ (d.updPort n f).mem = d.mem ∧
    (d.updPort n f).cxl = d.cxl ∧ (d.updPort n f).ports = Map.set n (f (d.port n)) d.ports :=
  ⟨rfl, rfl, rfl, rfl, rfl, rfl, rfl, rfl, rfl, rfl, rfl, rfl, rfl, rfl, rfl, rfl, rfl⟩

/-- `updPort`: the reads it does not touch. -/
@[simp] theorem Dev.updPort_reads (n : Nat) (f : Port → Port) :
    (∀ k : Nat, (d.updPort n f).fn k = d.fn k) ∧ (∀ k : Nat, (d.updPort n f).hport k = d.hport k) ∧
    (∀ k : Nat, (d.updPort n f).ctrl k = d.ctrl k) ∧ (∀ k : Nat, (d.updPort n f).cluster k = d.cluster k) ∧
    (∀ k : Nat, (d.updPort n f).group k = d.group k) ∧ (∀ k : Nat, (d.updPort n f).domain k = d.domain k) ∧
    (d.updPort n f).now = d.now ∧ (∀ k : Nat, (d.updPort n f).qp? k = d.qp? k) ∧
    (∀ k : Nat, (d.updPort n f).cmd? k = d.cmd? k) ∧ (∀ a b c : Nat, (d.updPort n f).feat a b c = d.feat a b c) ∧
    (∀ k : Nat, (d.updPort n f).run? k = d.run? k) ∧ (∀ k : Nat, (d.updPort n f).kernel? k = d.kernel? k) ∧
    (∀ k : Nat, (d.updPort n f).obj? k = d.obj? k) ∧ ∀ k : Nat, (d.updPort n f).str? k = d.str? k :=
  ⟨fun _ => rfl, fun _ => rfl, fun _ => rfl, fun _ => rfl, fun _ => rfl, fun _ => rfl, rfl, fun _ => rfl,
    fun _ => rfl, fun _ _ _ => rfl, fun _ => rfl, fun _ => rfl, fun _ => rfl, fun _ => rfl⟩

/-- `updCtrl`: every part of the device. -/
@[simp] theorem Dev.updCtrl_frame (n : Nat) (f : Ctrl → Ctrl) :
    (d.updCtrl n f).out = d.out ∧ (d.updCtrl n f).freeN = d.freeN ∧ (d.updCtrl n f).cnt = d.cnt ∧
    (d.updCtrl n f).q = d.q ∧ (d.updCtrl n f).integ = d.integ ∧ (d.updCtrl n f).ports = d.ports ∧
    (d.updCtrl n f).mgmt = d.mgmt ∧ (d.updCtrl n f).pwr = d.pwr ∧ (d.updCtrl n f).objs = d.objs ∧
    (d.updCtrl n f).tiers = d.tiers ∧ (d.updCtrl n f).strs = d.strs ∧ (d.updCtrl n f).reds = d.reds ∧
    (d.updCtrl n f).comp = d.comp ∧ (d.updCtrl n f).sync = d.sync ∧ (d.updCtrl n f).qos = d.qos ∧
    (d.updCtrl n f).cxl = d.cxl ∧
    (d.updCtrl n f).mem = { d.mem with ctrls := Map.set n (f (d.ctrl n)) d.mem.ctrls } :=
  ⟨rfl, rfl, rfl, rfl, rfl, rfl, rfl, rfl, rfl, rfl, rfl, rfl, rfl, rfl, rfl, rfl, rfl⟩

/-- `updCtrl`: the reads it does not touch. -/
@[simp] theorem Dev.updCtrl_reads (n : Nat) (f : Ctrl → Ctrl) :
    (∀ k : Nat, (d.updCtrl n f).fn k = d.fn k) ∧ (∀ k : Nat, (d.updCtrl n f).hport k = d.hport k) ∧
    (∀ k : Nat, (d.updCtrl n f).port k = d.port k) ∧ (∀ k : Nat, (d.updCtrl n f).cluster k = d.cluster k) ∧
    (∀ k : Nat, (d.updCtrl n f).group k = d.group k) ∧ (∀ k : Nat, (d.updCtrl n f).domain k = d.domain k) ∧
    (d.updCtrl n f).now = d.now ∧ (∀ k : Nat, (d.updCtrl n f).qp? k = d.qp? k) ∧
    (∀ k : Nat, (d.updCtrl n f).cmd? k = d.cmd? k) ∧ (∀ a b c : Nat, (d.updCtrl n f).feat a b c = d.feat a b c) ∧
    (∀ k : Nat, (d.updCtrl n f).run? k = d.run? k) ∧ (∀ k : Nat, (d.updCtrl n f).kernel? k = d.kernel? k) ∧
    (∀ k : Nat, (d.updCtrl n f).obj? k = d.obj? k) ∧ ∀ k : Nat, (d.updCtrl n f).str? k = d.str? k :=
  ⟨fun _ => rfl, fun _ => rfl, fun _ => rfl, fun _ => rfl, fun _ => rfl, fun _ => rfl, rfl, fun _ => rfl,
    fun _ => rfl, fun _ _ _ => rfl, fun _ => rfl, fun _ => rfl, fun _ => rfl, fun _ => rfl⟩

/-- `updCluster`: every part of the device. -/
@[simp] theorem Dev.updCluster_frame (n : Nat) (f : Cluster → Cluster) :
    (d.updCluster n f).out = d.out ∧ (d.updCluster n f).freeN = d.freeN ∧ (d.updCluster n f).cnt = d.cnt ∧
    (d.updCluster n f).q = d.q ∧ (d.updCluster n f).integ = d.integ ∧ (d.updCluster n f).ports = d.ports ∧
    (d.updCluster n f).mgmt = d.mgmt ∧ (d.updCluster n f).objs = d.objs ∧ (d.updCluster n f).tiers = d.tiers ∧
    (d.updCluster n f).strs = d.strs ∧ (d.updCluster n f).reds = d.reds ∧ (d.updCluster n f).comp = d.comp ∧
    (d.updCluster n f).sync = d.sync ∧ (d.updCluster n f).qos = d.qos ∧ (d.updCluster n f).mem = d.mem ∧
    (d.updCluster n f).cxl = d.cxl ∧
    (d.updCluster n f).pwr = { d.pwr with clusters := Map.set n (f (d.cluster n)) d.pwr.clusters } :=
  ⟨rfl, rfl, rfl, rfl, rfl, rfl, rfl, rfl, rfl, rfl, rfl, rfl, rfl, rfl, rfl, rfl, rfl⟩

/-- `updCluster`: the reads it does not touch. -/
@[simp] theorem Dev.updCluster_reads (n : Nat) (f : Cluster → Cluster) :
    (∀ k : Nat, (d.updCluster n f).fn k = d.fn k) ∧ (∀ k : Nat, (d.updCluster n f).hport k = d.hport k) ∧
    (∀ k : Nat, (d.updCluster n f).port k = d.port k) ∧ (∀ k : Nat, (d.updCluster n f).ctrl k = d.ctrl k) ∧
    (∀ k : Nat, (d.updCluster n f).group k = d.group k) ∧ (∀ k : Nat, (d.updCluster n f).domain k = d.domain k) ∧
    (d.updCluster n f).now = d.now ∧ (∀ k : Nat, (d.updCluster n f).qp? k = d.qp? k) ∧
    (∀ k : Nat, (d.updCluster n f).cmd? k = d.cmd? k) ∧
    (∀ a b c : Nat, (d.updCluster n f).feat a b c = d.feat a b c) ∧
    (∀ k : Nat, (d.updCluster n f).run? k = d.run? k) ∧ (∀ k : Nat, (d.updCluster n f).kernel? k = d.kernel? k) ∧
    (∀ k : Nat, (d.updCluster n f).obj? k = d.obj? k) ∧ ∀ k : Nat, (d.updCluster n f).str? k = d.str? k :=
  ⟨fun _ => rfl, fun _ => rfl, fun _ => rfl, fun _ => rfl, fun _ => rfl, fun _ => rfl, rfl, fun _ => rfl,
    fun _ => rfl, fun _ _ _ => rfl, fun _ => rfl, fun _ => rfl, fun _ => rfl, fun _ => rfl⟩

/-- `setDomain`: every part of the device. -/
@[simp] theorem Dev.setDomain_frame (n : Nat) (x : Domain) :
    (d.setDomain n x).out = d.out ∧ (d.setDomain n x).freeN = d.freeN ∧ (d.setDomain n x).cnt = d.cnt ∧
    (d.setDomain n x).q = d.q ∧ (d.setDomain n x).integ = d.integ ∧ (d.setDomain n x).ports = d.ports ∧
    (d.setDomain n x).mgmt = d.mgmt ∧ (d.setDomain n x).objs = d.objs ∧ (d.setDomain n x).tiers = d.tiers ∧
    (d.setDomain n x).strs = d.strs ∧ (d.setDomain n x).reds = d.reds ∧ (d.setDomain n x).comp = d.comp ∧
    (d.setDomain n x).sync = d.sync ∧ (d.setDomain n x).qos = d.qos ∧ (d.setDomain n x).mem = d.mem ∧
    (d.setDomain n x).cxl = d.cxl ∧ (d.setDomain n x).pwr = { d.pwr with domains := Map.set n x d.pwr.domains } :=
  ⟨rfl, rfl, rfl, rfl, rfl, rfl, rfl, rfl, rfl, rfl, rfl, rfl, rfl, rfl, rfl, rfl, rfl⟩

/-- `setDomain`: the reads it does not touch. -/
@[simp] theorem Dev.setDomain_reads (n : Nat) (x : Domain) :
    (∀ k : Nat, (d.setDomain n x).fn k = d.fn k) ∧ (∀ k : Nat, (d.setDomain n x).hport k = d.hport k) ∧
    (∀ k : Nat, (d.setDomain n x).port k = d.port k) ∧ (∀ k : Nat, (d.setDomain n x).ctrl k = d.ctrl k) ∧
    (∀ k : Nat, (d.setDomain n x).cluster k = d.cluster k) ∧ (∀ k : Nat, (d.setDomain n x).group k = d.group k) ∧
    (d.setDomain n x).now = d.now ∧ (∀ k : Nat, (d.setDomain n x).qp? k = d.qp? k) ∧
    (∀ k : Nat, (d.setDomain n x).cmd? k = d.cmd? k) ∧
    (∀ a b c : Nat, (d.setDomain n x).feat a b c = d.feat a b c) ∧
    (∀ k : Nat, (d.setDomain n x).run? k = d.run? k) ∧ (∀ k : Nat, (d.setDomain n x).kernel? k = d.kernel? k) ∧
    (∀ k : Nat, (d.setDomain n x).obj? k = d.obj? k) ∧ ∀ k : Nat, (d.setDomain n x).str? k = d.str? k :=
  ⟨fun _ => rfl, fun _ => rfl, fun _ => rfl, fun _ => rfl, fun _ => rfl, fun _ => rfl, rfl, fun _ => rfl,
    fun _ => rfl, fun _ _ _ => rfl, fun _ => rfl, fun _ => rfl, fun _ => rfl, fun _ => rfl⟩

/-- `updGroup`: every part of the device. -/
@[simp] theorem Dev.updGroup_frame (n : Nat) (f : Group → Group) :
    (d.updGroup n f).out = d.out ∧ (d.updGroup n f).freeN = d.freeN ∧ (d.updGroup n f).cnt = d.cnt ∧
    (d.updGroup n f).q = d.q ∧ (d.updGroup n f).integ = d.integ ∧ (d.updGroup n f).ports = d.ports ∧
    (d.updGroup n f).mgmt = d.mgmt ∧ (d.updGroup n f).pwr = d.pwr ∧ (d.updGroup n f).tiers = d.tiers ∧
    (d.updGroup n f).strs = d.strs ∧ (d.updGroup n f).reds = d.reds ∧ (d.updGroup n f).comp = d.comp ∧
    (d.updGroup n f).sync = d.sync ∧ (d.updGroup n f).qos = d.qos ∧ (d.updGroup n f).mem = d.mem ∧
    (d.updGroup n f).cxl = d.cxl ∧
    (d.updGroup n f).objs = { d.objs with groups := Map.set n (f (d.group n)) d.objs.groups } :=
  ⟨rfl, rfl, rfl, rfl, rfl, rfl, rfl, rfl, rfl, rfl, rfl, rfl, rfl, rfl, rfl, rfl, rfl⟩

/-- `updGroup`: the reads it does not touch. -/
@[simp] theorem Dev.updGroup_reads (n : Nat) (f : Group → Group) :
    (∀ k : Nat, (d.updGroup n f).fn k = d.fn k) ∧ (∀ k : Nat, (d.updGroup n f).hport k = d.hport k) ∧
    (∀ k : Nat, (d.updGroup n f).port k = d.port k) ∧ (∀ k : Nat, (d.updGroup n f).ctrl k = d.ctrl k) ∧
    (∀ k : Nat, (d.updGroup n f).cluster k = d.cluster k) ∧ (∀ k : Nat, (d.updGroup n f).domain k = d.domain k) ∧
    (d.updGroup n f).now = d.now ∧ (∀ k : Nat, (d.updGroup n f).qp? k = d.qp? k) ∧
    (∀ k : Nat, (d.updGroup n f).cmd? k = d.cmd? k) ∧ (∀ a b c : Nat, (d.updGroup n f).feat a b c = d.feat a b c) ∧
    (∀ k : Nat, (d.updGroup n f).run? k = d.run? k) ∧ (∀ k : Nat, (d.updGroup n f).kernel? k = d.kernel? k) ∧
    ∀ k : Nat, (d.updGroup n f).str? k = d.str? k :=
  ⟨fun _ => rfl, fun _ => rfl, fun _ => rfl, fun _ => rfl, fun _ => rfl, fun _ => rfl, rfl, fun _ => rfl,
    fun _ => rfl, fun _ _ _ => rfl, fun _ => rfl, fun _ => rfl, fun _ => rfl⟩

/-- `updPwr`: every part of the device. -/
@[simp] theorem Dev.updPwr_frame (f : Power → Power) :
    (d.updPwr f).out = d.out ∧ (d.updPwr f).freeN = d.freeN ∧ (d.updPwr f).cnt = d.cnt ∧ (d.updPwr f).q = d.q ∧
    (d.updPwr f).integ = d.integ ∧ (d.updPwr f).ports = d.ports ∧ (d.updPwr f).mgmt = d.mgmt ∧
    (d.updPwr f).objs = d.objs ∧ (d.updPwr f).tiers = d.tiers ∧ (d.updPwr f).strs = d.strs ∧
    (d.updPwr f).reds = d.reds ∧ (d.updPwr f).comp = d.comp ∧ (d.updPwr f).sync = d.sync ∧
    (d.updPwr f).qos = d.qos ∧ (d.updPwr f).mem = d.mem ∧ (d.updPwr f).cxl = d.cxl ∧ (d.updPwr f).pwr = f d.pwr :=
  ⟨rfl, rfl, rfl, rfl, rfl, rfl, rfl, rfl, rfl, rfl, rfl, rfl, rfl, rfl, rfl, rfl, rfl⟩

/-- `updPwr`: the reads it does not touch. -/
@[simp] theorem Dev.updPwr_reads (f : Power → Power) :
    (∀ k : Nat, (d.updPwr f).fn k = d.fn k) ∧ (∀ k : Nat, (d.updPwr f).hport k = d.hport k) ∧
    (∀ k : Nat, (d.updPwr f).port k = d.port k) ∧ (∀ k : Nat, (d.updPwr f).ctrl k = d.ctrl k) ∧
    (∀ k : Nat, (d.updPwr f).group k = d.group k) ∧ (∀ k : Nat, (d.updPwr f).qp? k = d.qp? k) ∧
    (∀ k : Nat, (d.updPwr f).cmd? k = d.cmd? k) ∧ (∀ a b c : Nat, (d.updPwr f).feat a b c = d.feat a b c) ∧
    (∀ k : Nat, (d.updPwr f).run? k = d.run? k) ∧ (∀ k : Nat, (d.updPwr f).kernel? k = d.kernel? k) ∧
    (∀ k : Nat, (d.updPwr f).obj? k = d.obj? k) ∧ ∀ k : Nat, (d.updPwr f).str? k = d.str? k :=
  ⟨fun _ => rfl, fun _ => rfl, fun _ => rfl, fun _ => rfl, fun _ => rfl, fun _ => rfl, fun _ => rfl,
    fun _ _ _ => rfl, fun _ => rfl, fun _ => rfl, fun _ => rfl, fun _ => rfl⟩

/-- `updInteg`: every part of the device. -/
@[simp] theorem Dev.updInteg_frame (f : Integ → Integ) :
    (d.updInteg f).out = d.out ∧ (d.updInteg f).freeN = d.freeN ∧ (d.updInteg f).cnt = d.cnt ∧
    (d.updInteg f).q = d.q ∧ (d.updInteg f).ports = d.ports ∧ (d.updInteg f).mgmt = d.mgmt ∧
    (d.updInteg f).pwr = d.pwr ∧ (d.updInteg f).objs = d.objs ∧ (d.updInteg f).tiers = d.tiers ∧
    (d.updInteg f).strs = d.strs ∧ (d.updInteg f).reds = d.reds ∧ (d.updInteg f).comp = d.comp ∧
    (d.updInteg f).sync = d.sync ∧ (d.updInteg f).qos = d.qos ∧ (d.updInteg f).mem = d.mem ∧
    (d.updInteg f).cxl = d.cxl ∧ (d.updInteg f).integ = f d.integ :=
  ⟨rfl, rfl, rfl, rfl, rfl, rfl, rfl, rfl, rfl, rfl, rfl, rfl, rfl, rfl, rfl, rfl, rfl⟩

/-- `updInteg`: the reads it does not touch. -/
@[simp] theorem Dev.updInteg_reads (f : Integ → Integ) :
    (∀ k : Nat, (d.updInteg f).fn k = d.fn k) ∧ (∀ k : Nat, (d.updInteg f).hport k = d.hport k) ∧
    (∀ k : Nat, (d.updInteg f).port k = d.port k) ∧ (∀ k : Nat, (d.updInteg f).ctrl k = d.ctrl k) ∧
    (∀ k : Nat, (d.updInteg f).cluster k = d.cluster k) ∧ (∀ k : Nat, (d.updInteg f).group k = d.group k) ∧
    (∀ k : Nat, (d.updInteg f).domain k = d.domain k) ∧ (d.updInteg f).now = d.now ∧
    (∀ k : Nat, (d.updInteg f).qp? k = d.qp? k) ∧ (∀ k : Nat, (d.updInteg f).cmd? k = d.cmd? k) ∧
    (∀ a b c : Nat, (d.updInteg f).feat a b c = d.feat a b c) ∧ (∀ k : Nat, (d.updInteg f).run? k = d.run? k) ∧
    (∀ k : Nat, (d.updInteg f).kernel? k = d.kernel? k) ∧ (∀ k : Nat, (d.updInteg f).obj? k = d.obj? k) ∧
    ∀ k : Nat, (d.updInteg f).str? k = d.str? k :=
  ⟨fun _ => rfl, fun _ => rfl, fun _ => rfl, fun _ => rfl, fun _ => rfl, fun _ => rfl, fun _ => rfl, rfl,
    fun _ => rfl, fun _ => rfl, fun _ _ _ => rfl, fun _ => rfl, fun _ => rfl, fun _ => rfl, fun _ => rfl⟩

/-- `updMgmt`: every part of the device. -/
@[simp] theorem Dev.updMgmt_frame (f : Mgmt → Mgmt) :
    (d.updMgmt f).out = d.out ∧ (d.updMgmt f).freeN = d.freeN ∧ (d.updMgmt f).cnt = d.cnt ∧ (d.updMgmt f).q = d.q ∧
    (d.updMgmt f).integ = d.integ ∧ (d.updMgmt f).ports = d.ports ∧ (d.updMgmt f).pwr = d.pwr ∧
    (d.updMgmt f).objs = d.objs ∧ (d.updMgmt f).tiers = d.tiers ∧ (d.updMgmt f).strs = d.strs ∧
    (d.updMgmt f).reds = d.reds ∧ (d.updMgmt f).comp = d.comp ∧ (d.updMgmt f).sync = d.sync ∧
    (d.updMgmt f).qos = d.qos ∧ (d.updMgmt f).mem = d.mem ∧ (d.updMgmt f).cxl = d.cxl ∧
    (d.updMgmt f).mgmt = f d.mgmt :=
  ⟨rfl, rfl, rfl, rfl, rfl, rfl, rfl, rfl, rfl, rfl, rfl, rfl, rfl, rfl, rfl, rfl, rfl⟩

/-- `updMgmt`: the reads it does not touch. -/
@[simp] theorem Dev.updMgmt_reads (f : Mgmt → Mgmt) :
    (∀ k : Nat, (d.updMgmt f).fn k = d.fn k) ∧ (∀ k : Nat, (d.updMgmt f).hport k = d.hport k) ∧
    (∀ k : Nat, (d.updMgmt f).port k = d.port k) ∧ (∀ k : Nat, (d.updMgmt f).ctrl k = d.ctrl k) ∧
    (∀ k : Nat, (d.updMgmt f).cluster k = d.cluster k) ∧ (∀ k : Nat, (d.updMgmt f).group k = d.group k) ∧
    (∀ k : Nat, (d.updMgmt f).domain k = d.domain k) ∧ (d.updMgmt f).now = d.now ∧
    (∀ k : Nat, (d.updMgmt f).qp? k = d.qp? k) ∧ (∀ k : Nat, (d.updMgmt f).cmd? k = d.cmd? k) ∧
    (∀ k : Nat, (d.updMgmt f).run? k = d.run? k) ∧ (∀ k : Nat, (d.updMgmt f).kernel? k = d.kernel? k) ∧
    (∀ k : Nat, (d.updMgmt f).obj? k = d.obj? k) ∧ ∀ k : Nat, (d.updMgmt f).str? k = d.str? k :=
  ⟨fun _ => rfl, fun _ => rfl, fun _ => rfl, fun _ => rfl, fun _ => rfl, fun _ => rfl, fun _ => rfl, rfl,
    fun _ => rfl, fun _ => rfl, fun _ => rfl, fun _ => rfl, fun _ => rfl, fun _ => rfl⟩

/-- `updObjs`: every part of the device. -/
@[simp] theorem Dev.updObjs_frame (f : Objs → Objs) :
    (d.updObjs f).out = d.out ∧ (d.updObjs f).freeN = d.freeN ∧ (d.updObjs f).cnt = d.cnt ∧ (d.updObjs f).q = d.q ∧
    (d.updObjs f).integ = d.integ ∧ (d.updObjs f).ports = d.ports ∧ (d.updObjs f).mgmt = d.mgmt ∧
    (d.updObjs f).pwr = d.pwr ∧ (d.updObjs f).tiers = d.tiers ∧ (d.updObjs f).strs = d.strs ∧
    (d.updObjs f).reds = d.reds ∧ (d.updObjs f).comp = d.comp ∧ (d.updObjs f).sync = d.sync ∧
    (d.updObjs f).qos = d.qos ∧ (d.updObjs f).mem = d.mem ∧ (d.updObjs f).cxl = d.cxl ∧
    (d.updObjs f).objs = f d.objs :=
  ⟨rfl, rfl, rfl, rfl, rfl, rfl, rfl, rfl, rfl, rfl, rfl, rfl, rfl, rfl, rfl, rfl, rfl⟩

/-- `updObjs`: the reads it does not touch. -/
@[simp] theorem Dev.updObjs_reads (f : Objs → Objs) :
    (∀ k : Nat, (d.updObjs f).fn k = d.fn k) ∧ (∀ k : Nat, (d.updObjs f).hport k = d.hport k) ∧
    (∀ k : Nat, (d.updObjs f).port k = d.port k) ∧ (∀ k : Nat, (d.updObjs f).ctrl k = d.ctrl k) ∧
    (∀ k : Nat, (d.updObjs f).cluster k = d.cluster k) ∧ (∀ k : Nat, (d.updObjs f).domain k = d.domain k) ∧
    (d.updObjs f).now = d.now ∧ (∀ k : Nat, (d.updObjs f).qp? k = d.qp? k) ∧
    (∀ k : Nat, (d.updObjs f).cmd? k = d.cmd? k) ∧ (∀ a b c : Nat, (d.updObjs f).feat a b c = d.feat a b c) ∧
    (∀ k : Nat, (d.updObjs f).run? k = d.run? k) ∧ (∀ k : Nat, (d.updObjs f).kernel? k = d.kernel? k) ∧
    ∀ k : Nat, (d.updObjs f).str? k = d.str? k :=
  ⟨fun _ => rfl, fun _ => rfl, fun _ => rfl, fun _ => rfl, fun _ => rfl, fun _ => rfl, rfl, fun _ => rfl,
    fun _ => rfl, fun _ _ _ => rfl, fun _ => rfl, fun _ => rfl, fun _ => rfl⟩

/-- `updTiers`: every part of the device. -/
@[simp] theorem Dev.updTiers_frame (f : Tiers → Tiers) :
    (d.updTiers f).out = d.out ∧ (d.updTiers f).freeN = d.freeN ∧ (d.updTiers f).cnt = d.cnt ∧
    (d.updTiers f).q = d.q ∧ (d.updTiers f).integ = d.integ ∧ (d.updTiers f).ports = d.ports ∧
    (d.updTiers f).mgmt = d.mgmt ∧ (d.updTiers f).pwr = d.pwr ∧ (d.updTiers f).objs = d.objs ∧
    (d.updTiers f).strs = d.strs ∧ (d.updTiers f).reds = d.reds ∧ (d.updTiers f).comp = d.comp ∧
    (d.updTiers f).sync = d.sync ∧ (d.updTiers f).qos = d.qos ∧ (d.updTiers f).mem = d.mem ∧
    (d.updTiers f).cxl = d.cxl ∧ (d.updTiers f).tiers = f d.tiers :=
  ⟨rfl, rfl, rfl, rfl, rfl, rfl, rfl, rfl, rfl, rfl, rfl, rfl, rfl, rfl, rfl, rfl, rfl⟩

/-- `updTiers`: the reads it does not touch. -/
@[simp] theorem Dev.updTiers_reads (f : Tiers → Tiers) :
    (∀ k : Nat, (d.updTiers f).fn k = d.fn k) ∧ (∀ k : Nat, (d.updTiers f).hport k = d.hport k) ∧
    (∀ k : Nat, (d.updTiers f).port k = d.port k) ∧ (∀ k : Nat, (d.updTiers f).ctrl k = d.ctrl k) ∧
    (∀ k : Nat, (d.updTiers f).cluster k = d.cluster k) ∧ (∀ k : Nat, (d.updTiers f).group k = d.group k) ∧
    (∀ k : Nat, (d.updTiers f).domain k = d.domain k) ∧ (d.updTiers f).now = d.now ∧
    (∀ k : Nat, (d.updTiers f).qp? k = d.qp? k) ∧ (∀ k : Nat, (d.updTiers f).cmd? k = d.cmd? k) ∧
    (∀ a b c : Nat, (d.updTiers f).feat a b c = d.feat a b c) ∧ (∀ k : Nat, (d.updTiers f).run? k = d.run? k) ∧
    (∀ k : Nat, (d.updTiers f).kernel? k = d.kernel? k) ∧ (∀ k : Nat, (d.updTiers f).obj? k = d.obj? k) ∧
    ∀ k : Nat, (d.updTiers f).str? k = d.str? k :=
  ⟨fun _ => rfl, fun _ => rfl, fun _ => rfl, fun _ => rfl, fun _ => rfl, fun _ => rfl, fun _ => rfl, rfl,
    fun _ => rfl, fun _ => rfl, fun _ _ _ => rfl, fun _ => rfl, fun _ => rfl, fun _ => rfl, fun _ => rfl⟩

/-- `updStrs`: every part of the device. -/
@[simp] theorem Dev.updStrs_frame (f : Streams → Streams) :
    (d.updStrs f).out = d.out ∧ (d.updStrs f).freeN = d.freeN ∧ (d.updStrs f).cnt = d.cnt ∧ (d.updStrs f).q = d.q ∧
    (d.updStrs f).integ = d.integ ∧ (d.updStrs f).ports = d.ports ∧ (d.updStrs f).mgmt = d.mgmt ∧
    (d.updStrs f).pwr = d.pwr ∧ (d.updStrs f).objs = d.objs ∧ (d.updStrs f).tiers = d.tiers ∧
    (d.updStrs f).reds = d.reds ∧ (d.updStrs f).comp = d.comp ∧ (d.updStrs f).sync = d.sync ∧
    (d.updStrs f).qos = d.qos ∧ (d.updStrs f).mem = d.mem ∧ (d.updStrs f).cxl = d.cxl ∧
    (d.updStrs f).strs = f d.strs :=
  ⟨rfl, rfl, rfl, rfl, rfl, rfl, rfl, rfl, rfl, rfl, rfl, rfl, rfl, rfl, rfl, rfl, rfl⟩

/-- `updStrs`: the reads it does not touch. -/
@[simp] theorem Dev.updStrs_reads (f : Streams → Streams) :
    (∀ k : Nat, (d.updStrs f).fn k = d.fn k) ∧ (∀ k : Nat, (d.updStrs f).hport k = d.hport k) ∧
    (∀ k : Nat, (d.updStrs f).port k = d.port k) ∧ (∀ k : Nat, (d.updStrs f).ctrl k = d.ctrl k) ∧
    (∀ k : Nat, (d.updStrs f).cluster k = d.cluster k) ∧ (∀ k : Nat, (d.updStrs f).group k = d.group k) ∧
    (∀ k : Nat, (d.updStrs f).domain k = d.domain k) ∧ (d.updStrs f).now = d.now ∧
    (∀ k : Nat, (d.updStrs f).qp? k = d.qp? k) ∧ (∀ k : Nat, (d.updStrs f).cmd? k = d.cmd? k) ∧
    (∀ a b c : Nat, (d.updStrs f).feat a b c = d.feat a b c) ∧ (∀ k : Nat, (d.updStrs f).run? k = d.run? k) ∧
    (∀ k : Nat, (d.updStrs f).kernel? k = d.kernel? k) ∧ ∀ k : Nat, (d.updStrs f).obj? k = d.obj? k :=
  ⟨fun _ => rfl, fun _ => rfl, fun _ => rfl, fun _ => rfl, fun _ => rfl, fun _ => rfl, fun _ => rfl, rfl,
    fun _ => rfl, fun _ => rfl, fun _ _ _ => rfl, fun _ => rfl, fun _ => rfl, fun _ => rfl⟩

/-- `updQos`: every part of the device. -/
@[simp] theorem Dev.updQos_frame (f : Qos → Qos) :
    (d.updQos f).out = d.out ∧ (d.updQos f).freeN = d.freeN ∧ (d.updQos f).cnt = d.cnt ∧ (d.updQos f).q = d.q ∧
    (d.updQos f).integ = d.integ ∧ (d.updQos f).ports = d.ports ∧ (d.updQos f).mgmt = d.mgmt ∧
    (d.updQos f).pwr = d.pwr ∧ (d.updQos f).objs = d.objs ∧ (d.updQos f).tiers = d.tiers ∧
    (d.updQos f).strs = d.strs ∧ (d.updQos f).reds = d.reds ∧ (d.updQos f).comp = d.comp ∧
    (d.updQos f).sync = d.sync ∧ (d.updQos f).mem = d.mem ∧ (d.updQos f).cxl = d.cxl ∧ (d.updQos f).qos = f d.qos :=
  ⟨rfl, rfl, rfl, rfl, rfl, rfl, rfl, rfl, rfl, rfl, rfl, rfl, rfl, rfl, rfl, rfl, rfl⟩

/-- `updQos`: the reads it does not touch. -/
@[simp] theorem Dev.updQos_reads (f : Qos → Qos) :
    (∀ k : Nat, (d.updQos f).fn k = d.fn k) ∧ (∀ k : Nat, (d.updQos f).hport k = d.hport k) ∧
    (∀ k : Nat, (d.updQos f).port k = d.port k) ∧ (∀ k : Nat, (d.updQos f).ctrl k = d.ctrl k) ∧
    (∀ k : Nat, (d.updQos f).cluster k = d.cluster k) ∧ (∀ k : Nat, (d.updQos f).group k = d.group k) ∧
    (∀ k : Nat, (d.updQos f).domain k = d.domain k) ∧ (d.updQos f).now = d.now ∧
    (∀ k : Nat, (d.updQos f).qp? k = d.qp? k) ∧ (∀ k : Nat, (d.updQos f).cmd? k = d.cmd? k) ∧
    (∀ a b c : Nat, (d.updQos f).feat a b c = d.feat a b c) ∧ (∀ k : Nat, (d.updQos f).run? k = d.run? k) ∧
    (∀ k : Nat, (d.updQos f).kernel? k = d.kernel? k) ∧ (∀ k : Nat, (d.updQos f).obj? k = d.obj? k) ∧
    ∀ k : Nat, (d.updQos f).str? k = d.str? k :=
  ⟨fun _ => rfl, fun _ => rfl, fun _ => rfl, fun _ => rfl, fun _ => rfl, fun _ => rfl, fun _ => rfl, rfl,
    fun _ => rfl, fun _ => rfl, fun _ _ _ => rfl, fun _ => rfl, fun _ => rfl, fun _ => rfl, fun _ => rfl⟩

/-- `updComp`: every part of the device. -/
@[simp] theorem Dev.updComp_frame (f : Comp → Comp) :
    (d.updComp f).out = d.out ∧ (d.updComp f).freeN = d.freeN ∧ (d.updComp f).cnt = d.cnt ∧ (d.updComp f).q = d.q ∧
    (d.updComp f).integ = d.integ ∧ (d.updComp f).ports = d.ports ∧ (d.updComp f).mgmt = d.mgmt ∧
    (d.updComp f).pwr = d.pwr ∧ (d.updComp f).objs = d.objs ∧ (d.updComp f).tiers = d.tiers ∧
    (d.updComp f).strs = d.strs ∧ (d.updComp f).reds = d.reds ∧ (d.updComp f).sync = d.sync ∧
    (d.updComp f).qos = d.qos ∧ (d.updComp f).mem = d.mem ∧ (d.updComp f).cxl = d.cxl ∧
    (d.updComp f).comp = f d.comp :=
  ⟨rfl, rfl, rfl, rfl, rfl, rfl, rfl, rfl, rfl, rfl, rfl, rfl, rfl, rfl, rfl, rfl, rfl⟩

/-- `updComp`: the reads it does not touch. -/
@[simp] theorem Dev.updComp_reads (f : Comp → Comp) :
    (∀ k : Nat, (d.updComp f).fn k = d.fn k) ∧ (∀ k : Nat, (d.updComp f).hport k = d.hport k) ∧
    (∀ k : Nat, (d.updComp f).port k = d.port k) ∧ (∀ k : Nat, (d.updComp f).ctrl k = d.ctrl k) ∧
    (∀ k : Nat, (d.updComp f).cluster k = d.cluster k) ∧ (∀ k : Nat, (d.updComp f).group k = d.group k) ∧
    (∀ k : Nat, (d.updComp f).domain k = d.domain k) ∧ (d.updComp f).now = d.now ∧
    (∀ k : Nat, (d.updComp f).qp? k = d.qp? k) ∧ (∀ k : Nat, (d.updComp f).cmd? k = d.cmd? k) ∧
    (∀ a b c : Nat, (d.updComp f).feat a b c = d.feat a b c) ∧ (∀ k : Nat, (d.updComp f).obj? k = d.obj? k) ∧
    ∀ k : Nat, (d.updComp f).str? k = d.str? k :=
  ⟨fun _ => rfl, fun _ => rfl, fun _ => rfl, fun _ => rfl, fun _ => rfl, fun _ => rfl, fun _ => rfl, rfl,
    fun _ => rfl, fun _ => rfl, fun _ _ _ => rfl, fun _ => rfl, fun _ => rfl⟩

/-- `updRun`: every part of the device. -/
@[simp] theorem Dev.updRun_frame (n : Nat) (f : Run → Run) :
    (d.updRun n f).out = d.out ∧ (d.updRun n f).freeN = d.freeN ∧ (d.updRun n f).cnt = d.cnt ∧
    (d.updRun n f).q = d.q ∧ (d.updRun n f).integ = d.integ ∧ (d.updRun n f).ports = d.ports ∧
    (d.updRun n f).mgmt = d.mgmt ∧ (d.updRun n f).pwr = d.pwr ∧ (d.updRun n f).objs = d.objs ∧
    (d.updRun n f).tiers = d.tiers ∧ (d.updRun n f).strs = d.strs ∧ (d.updRun n f).reds = d.reds ∧
    (d.updRun n f).sync = d.sync ∧ (d.updRun n f).qos = d.qos ∧ (d.updRun n f).mem = d.mem ∧
    (d.updRun n f).cxl = d.cxl ∧ (d.updRun n f).comp = { d.comp with runs := Map.upd n f d.comp.runs } :=
  ⟨rfl, rfl, rfl, rfl, rfl, rfl, rfl, rfl, rfl, rfl, rfl, rfl, rfl, rfl, rfl, rfl, rfl⟩

/-- `updRun`: the reads it does not touch. -/
@[simp] theorem Dev.updRun_reads (n : Nat) (f : Run → Run) :
    (∀ k : Nat, (d.updRun n f).fn k = d.fn k) ∧ (∀ k : Nat, (d.updRun n f).hport k = d.hport k) ∧
    (∀ k : Nat, (d.updRun n f).port k = d.port k) ∧ (∀ k : Nat, (d.updRun n f).ctrl k = d.ctrl k) ∧
    (∀ k : Nat, (d.updRun n f).cluster k = d.cluster k) ∧ (∀ k : Nat, (d.updRun n f).group k = d.group k) ∧
    (∀ k : Nat, (d.updRun n f).domain k = d.domain k) ∧ (d.updRun n f).now = d.now ∧
    (∀ k : Nat, (d.updRun n f).qp? k = d.qp? k) ∧ (∀ k : Nat, (d.updRun n f).cmd? k = d.cmd? k) ∧
    (∀ a b c : Nat, (d.updRun n f).feat a b c = d.feat a b c) ∧ (∀ k : Nat, (d.updRun n f).obj? k = d.obj? k) ∧
    ∀ k : Nat, (d.updRun n f).str? k = d.str? k :=
  ⟨fun _ => rfl, fun _ => rfl, fun _ => rfl, fun _ => rfl, fun _ => rfl, fun _ => rfl, fun _ => rfl, rfl,
    fun _ => rfl, fun _ => rfl, fun _ _ _ => rfl, fun _ => rfl, fun _ => rfl⟩

/-- `updSync`: every part of the device. -/
@[simp] theorem Dev.updSync_frame (f : Sync → Sync) :
    (d.updSync f).out = d.out ∧ (d.updSync f).freeN = d.freeN ∧ (d.updSync f).cnt = d.cnt ∧ (d.updSync f).q = d.q ∧
    (d.updSync f).integ = d.integ ∧ (d.updSync f).ports = d.ports ∧ (d.updSync f).mgmt = d.mgmt ∧
    (d.updSync f).pwr = d.pwr ∧ (d.updSync f).objs = d.objs ∧ (d.updSync f).tiers = d.tiers ∧
    (d.updSync f).strs = d.strs ∧ (d.updSync f).reds = d.reds ∧ (d.updSync f).comp = d.comp ∧
    (d.updSync f).qos = d.qos ∧ (d.updSync f).mem = d.mem ∧ (d.updSync f).cxl = d.cxl ∧
    (d.updSync f).sync = f d.sync :=
  ⟨rfl, rfl, rfl, rfl, rfl, rfl, rfl, rfl, rfl, rfl, rfl, rfl, rfl, rfl, rfl, rfl, rfl⟩

/-- `updSync`: the reads it does not touch. -/
@[simp] theorem Dev.updSync_reads (f : Sync → Sync) :
    (∀ k : Nat, (d.updSync f).fn k = d.fn k) ∧ (∀ k : Nat, (d.updSync f).hport k = d.hport k) ∧
    (∀ k : Nat, (d.updSync f).port k = d.port k) ∧ (∀ k : Nat, (d.updSync f).ctrl k = d.ctrl k) ∧
    (∀ k : Nat, (d.updSync f).cluster k = d.cluster k) ∧ (∀ k : Nat, (d.updSync f).group k = d.group k) ∧
    (∀ k : Nat, (d.updSync f).domain k = d.domain k) ∧ (d.updSync f).now = d.now ∧
    (∀ k : Nat, (d.updSync f).qp? k = d.qp? k) ∧ (∀ k : Nat, (d.updSync f).cmd? k = d.cmd? k) ∧
    (∀ a b c : Nat, (d.updSync f).feat a b c = d.feat a b c) ∧ (∀ k : Nat, (d.updSync f).run? k = d.run? k) ∧
    (∀ k : Nat, (d.updSync f).kernel? k = d.kernel? k) ∧ (∀ k : Nat, (d.updSync f).obj? k = d.obj? k) ∧
    ∀ k : Nat, (d.updSync f).str? k = d.str? k :=
  ⟨fun _ => rfl, fun _ => rfl, fun _ => rfl, fun _ => rfl, fun _ => rfl, fun _ => rfl, fun _ => rfl, rfl,
    fun _ => rfl, fun _ => rfl, fun _ _ _ => rfl, fun _ => rfl, fun _ => rfl, fun _ => rfl, fun _ => rfl⟩

/-- `updCxl`: every part of the device. -/
@[simp] theorem Dev.updCxl_frame (f : Cxl → Cxl) :
    (d.updCxl f).out = d.out ∧ (d.updCxl f).freeN = d.freeN ∧ (d.updCxl f).cnt = d.cnt ∧ (d.updCxl f).q = d.q ∧
    (d.updCxl f).integ = d.integ ∧ (d.updCxl f).ports = d.ports ∧ (d.updCxl f).mgmt = d.mgmt ∧
    (d.updCxl f).pwr = d.pwr ∧ (d.updCxl f).objs = d.objs ∧ (d.updCxl f).tiers = d.tiers ∧
    (d.updCxl f).strs = d.strs ∧ (d.updCxl f).reds = d.reds ∧ (d.updCxl f).comp = d.comp ∧
    (d.updCxl f).sync = d.sync ∧ (d.updCxl f).qos = d.qos ∧ (d.updCxl f).mem = d.mem ∧ (d.updCxl f).cxl = f d.cxl :=
  ⟨rfl, rfl, rfl, rfl, rfl, rfl, rfl, rfl, rfl, rfl, rfl, rfl, rfl, rfl, rfl, rfl, rfl⟩

/-- `updCxl`: the reads it does not touch. -/
@[simp] theorem Dev.updCxl_reads (f : Cxl → Cxl) :
    (∀ k : Nat, (d.updCxl f).fn k = d.fn k) ∧ (∀ k : Nat, (d.updCxl f).hport k = d.hport k) ∧
    (∀ k : Nat, (d.updCxl f).port k = d.port k) ∧ (∀ k : Nat, (d.updCxl f).ctrl k = d.ctrl k) ∧
    (∀ k : Nat, (d.updCxl f).cluster k = d.cluster k) ∧ (∀ k : Nat, (d.updCxl f).group k = d.group k) ∧
    (∀ k : Nat, (d.updCxl f).domain k = d.domain k) ∧ (d.updCxl f).now = d.now ∧
    (∀ k : Nat, (d.updCxl f).qp? k = d.qp? k) ∧ (∀ k : Nat, (d.updCxl f).cmd? k = d.cmd? k) ∧
    (∀ a b c : Nat, (d.updCxl f).feat a b c = d.feat a b c) ∧ (∀ k : Nat, (d.updCxl f).run? k = d.run? k) ∧
    (∀ k : Nat, (d.updCxl f).kernel? k = d.kernel? k) ∧ (∀ k : Nat, (d.updCxl f).obj? k = d.obj? k) ∧
    ∀ k : Nat, (d.updCxl f).str? k = d.str? k :=
  ⟨fun _ => rfl, fun _ => rfl, fun _ => rfl, fun _ => rfl, fun _ => rfl, fun _ => rfl, fun _ => rfl, rfl,
    fun _ => rfl, fun _ => rfl, fun _ _ _ => rfl, fun _ => rfl, fun _ => rfl, fun _ => rfl, fun _ => rfl⟩

/-- `updObj`: every part of the device. -/
@[simp] theorem Dev.updObj_frame (h : Nat) (f : Obj → Obj) :
    (d.updObj h f).out = d.out ∧ (d.updObj h f).freeN = d.freeN ∧ (d.updObj h f).cnt = d.cnt ∧
    (d.updObj h f).q = d.q ∧ (d.updObj h f).integ = d.integ ∧ (d.updObj h f).ports = d.ports ∧
    (d.updObj h f).mgmt = d.mgmt ∧ (d.updObj h f).pwr = d.pwr ∧ (d.updObj h f).tiers = d.tiers ∧
    (d.updObj h f).strs = d.strs ∧ (d.updObj h f).reds = d.reds ∧ (d.updObj h f).comp = d.comp ∧
    (d.updObj h f).sync = d.sync ∧ (d.updObj h f).qos = d.qos ∧ (d.updObj h f).mem = d.mem ∧
    (d.updObj h f).cxl = d.cxl :=
  ⟨rfl, rfl, rfl, rfl, rfl, rfl, rfl, rfl, rfl, rfl, rfl, rfl, rfl, rfl, rfl, rfl⟩

/-- `updObj`: the reads it does not touch. -/
@[simp] theorem Dev.updObj_reads (h : Nat) (f : Obj → Obj) :
    (∀ k : Nat, (d.updObj h f).fn k = d.fn k) ∧ (∀ k : Nat, (d.updObj h f).hport k = d.hport k) ∧
    (∀ k : Nat, (d.updObj h f).port k = d.port k) ∧ (∀ k : Nat, (d.updObj h f).ctrl k = d.ctrl k) ∧
    (∀ k : Nat, (d.updObj h f).cluster k = d.cluster k) ∧ (∀ k : Nat, (d.updObj h f).domain k = d.domain k) ∧
    (d.updObj h f).now = d.now ∧ (∀ k : Nat, (d.updObj h f).qp? k = d.qp? k) ∧
    (∀ k : Nat, (d.updObj h f).cmd? k = d.cmd? k) ∧ (∀ a b c : Nat, (d.updObj h f).feat a b c = d.feat a b c) ∧
    (∀ k : Nat, (d.updObj h f).run? k = d.run? k) ∧ (∀ k : Nat, (d.updObj h f).kernel? k = d.kernel? k) ∧
    ∀ k : Nat, (d.updObj h f).str? k = d.str? k :=
  ⟨fun _ => rfl, fun _ => rfl, fun _ => rfl, fun _ => rfl, fun _ => rfl, fun _ => rfl, rfl, fun _ => rfl,
    fun _ => rfl, fun _ _ _ => rfl, fun _ => rfl, fun _ => rfl, fun _ => rfl⟩

/-- `updVer`: every part of the device. -/
@[simp] theorem Dev.updVer_frame (h v : Nat) (f : Version → Version) :
    (d.updVer h v f).out = d.out ∧ (d.updVer h v f).freeN = d.freeN ∧ (d.updVer h v f).cnt = d.cnt ∧
    (d.updVer h v f).q = d.q ∧ (d.updVer h v f).integ = d.integ ∧ (d.updVer h v f).ports = d.ports ∧
    (d.updVer h v f).mgmt = d.mgmt ∧ (d.updVer h v f).pwr = d.pwr ∧ (d.updVer h v f).tiers = d.tiers ∧
    (d.updVer h v f).strs = d.strs ∧ (d.updVer h v f).reds = d.reds ∧ (d.updVer h v f).comp = d.comp ∧
    (d.updVer h v f).sync = d.sync ∧ (d.updVer h v f).qos = d.qos ∧ (d.updVer h v f).mem = d.mem ∧
    (d.updVer h v f).cxl = d.cxl :=
  ⟨rfl, rfl, rfl, rfl, rfl, rfl, rfl, rfl, rfl, rfl, rfl, rfl, rfl, rfl, rfl, rfl⟩

/-- `updVer`: the reads it does not touch. -/
@[simp] theorem Dev.updVer_reads (h v : Nat) (f : Version → Version) :
    (∀ k : Nat, (d.updVer h v f).fn k = d.fn k) ∧ (∀ k : Nat, (d.updVer h v f).hport k = d.hport k) ∧
    (∀ k : Nat, (d.updVer h v f).port k = d.port k) ∧ (∀ k : Nat, (d.updVer h v f).ctrl k = d.ctrl k) ∧
    (∀ k : Nat, (d.updVer h v f).cluster k = d.cluster k) ∧ (∀ k : Nat, (d.updVer h v f).domain k = d.domain k) ∧
    (d.updVer h v f).now = d.now ∧ (∀ k : Nat, (d.updVer h v f).qp? k = d.qp? k) ∧
    (∀ k : Nat, (d.updVer h v f).cmd? k = d.cmd? k) ∧ (∀ a b c : Nat, (d.updVer h v f).feat a b c = d.feat a b c) ∧
    (∀ k : Nat, (d.updVer h v f).run? k = d.run? k) ∧ (∀ k : Nat, (d.updVer h v f).kernel? k = d.kernel? k) ∧
    ∀ k : Nat, (d.updVer h v f).str? k = d.str? k :=
  ⟨fun _ => rfl, fun _ => rfl, fun _ => rfl, fun _ => rfl, fun _ => rfl, fun _ => rfl, rfl, fun _ => rfl,
    fun _ => rfl, fun _ _ _ => rfl, fun _ => rfl, fun _ => rfl, fun _ => rfl⟩

/-- `updStored`: every part of the device. -/
@[simp] theorem Dev.updStored_frame (k : Nat) (f : Stored → Stored) :
    (d.updStored k f).out = d.out ∧ (d.updStored k f).freeN = d.freeN ∧ (d.updStored k f).cnt = d.cnt ∧
    (d.updStored k f).q = d.q ∧ (d.updStored k f).integ = d.integ ∧ (d.updStored k f).ports = d.ports ∧
    (d.updStored k f).mgmt = d.mgmt ∧ (d.updStored k f).pwr = d.pwr ∧ (d.updStored k f).tiers = d.tiers ∧
    (d.updStored k f).strs = d.strs ∧ (d.updStored k f).reds = d.reds ∧ (d.updStored k f).comp = d.comp ∧
    (d.updStored k f).sync = d.sync ∧ (d.updStored k f).qos = d.qos ∧ (d.updStored k f).mem = d.mem ∧
    (d.updStored k f).cxl = d.cxl :=
  ⟨rfl, rfl, rfl, rfl, rfl, rfl, rfl, rfl, rfl, rfl, rfl, rfl, rfl, rfl, rfl, rfl⟩

/-- `updStored`: the reads it does not touch. -/
@[simp] theorem Dev.updStored_reads (k : Nat) (f : Stored → Stored) :
    (∀ k : Nat, (d.updStored k f).fn k = d.fn k) ∧ (∀ k : Nat, (d.updStored k f).hport k = d.hport k) ∧
    (∀ k : Nat, (d.updStored k f).port k = d.port k) ∧ (∀ k : Nat, (d.updStored k f).ctrl k = d.ctrl k) ∧
    (∀ k : Nat, (d.updStored k f).cluster k = d.cluster k) ∧ (∀ k : Nat, (d.updStored k f).domain k = d.domain k) ∧
    (d.updStored k f).now = d.now ∧ (∀ k : Nat, (d.updStored k f).qp? k = d.qp? k) ∧
    (∀ k : Nat, (d.updStored k f).cmd? k = d.cmd? k) ∧
    (∀ a b c : Nat, (d.updStored k f).feat a b c = d.feat a b c) ∧
    (∀ k : Nat, (d.updStored k f).run? k = d.run? k) ∧ (∀ k : Nat, (d.updStored k f).kernel? k = d.kernel? k) ∧
    ∀ k : Nat, (d.updStored k f).str? k = d.str? k :=
  ⟨fun _ => rfl, fun _ => rfl, fun _ => rfl, fun _ => rfl, fun _ => rfl, fun _ => rfl, rfl, fun _ => rfl,
    fun _ => rfl, fun _ _ _ => rfl, fun _ => rfl, fun _ => rfl, fun _ => rfl⟩

/-- `updSlice`: every part of the device. -/
@[simp] theorem Dev.updSlice_frame (n i : Nat) (f : Slice → Slice) :
    (d.updSlice n i f).out = d.out ∧ (d.updSlice n i f).freeN = d.freeN ∧ (d.updSlice n i f).cnt = d.cnt ∧
    (d.updSlice n i f).q = d.q ∧ (d.updSlice n i f).integ = d.integ ∧ (d.updSlice n i f).ports = d.ports ∧
    (d.updSlice n i f).mgmt = d.mgmt ∧ (d.updSlice n i f).pwr = d.pwr ∧ (d.updSlice n i f).objs = d.objs ∧
    (d.updSlice n i f).tiers = d.tiers ∧ (d.updSlice n i f).strs = d.strs ∧ (d.updSlice n i f).reds = d.reds ∧
    (d.updSlice n i f).sync = d.sync ∧ (d.updSlice n i f).qos = d.qos ∧ (d.updSlice n i f).mem = d.mem ∧
    (d.updSlice n i f).cxl = d.cxl :=
  ⟨rfl, rfl, rfl, rfl, rfl, rfl, rfl, rfl, rfl, rfl, rfl, rfl, rfl, rfl, rfl, rfl⟩

/-- `updSlice`: the reads it does not touch. -/
@[simp] theorem Dev.updSlice_reads (n i : Nat) (f : Slice → Slice) :
    (∀ k : Nat, (d.updSlice n i f).fn k = d.fn k) ∧ (∀ k : Nat, (d.updSlice n i f).hport k = d.hport k) ∧
    (∀ k : Nat, (d.updSlice n i f).port k = d.port k) ∧ (∀ k : Nat, (d.updSlice n i f).ctrl k = d.ctrl k) ∧
    (∀ k : Nat, (d.updSlice n i f).cluster k = d.cluster k) ∧ (∀ k : Nat, (d.updSlice n i f).group k = d.group k) ∧
    (∀ k : Nat, (d.updSlice n i f).domain k = d.domain k) ∧ (d.updSlice n i f).now = d.now ∧
    (∀ k : Nat, (d.updSlice n i f).qp? k = d.qp? k) ∧ (∀ k : Nat, (d.updSlice n i f).cmd? k = d.cmd? k) ∧
    (∀ a b c : Nat, (d.updSlice n i f).feat a b c = d.feat a b c) ∧
    (∀ k : Nat, (d.updSlice n i f).obj? k = d.obj? k) ∧ ∀ k : Nat, (d.updSlice n i f).str? k = d.str? k :=
  ⟨fun _ => rfl, fun _ => rfl, fun _ => rfl, fun _ => rfl, fun _ => rfl, fun _ => rfl, fun _ => rfl, rfl,
    fun _ => rfl, fun _ => rfl, fun _ _ _ => rfl, fun _ => rfl, fun _ => rfl⟩

/-- `updRed`: every part of the device. -/
@[simp] theorem Dev.updRed_frame (n : Nat) (f : Red → Red) :
    (d.updRed n f).out = d.out ∧ (d.updRed n f).freeN = d.freeN ∧ (d.updRed n f).cnt = d.cnt ∧
    (d.updRed n f).q = d.q ∧ (d.updRed n f).integ = d.integ ∧ (d.updRed n f).ports = d.ports ∧
    (d.updRed n f).mgmt = d.mgmt ∧ (d.updRed n f).pwr = d.pwr ∧ (d.updRed n f).objs = d.objs ∧
    (d.updRed n f).tiers = d.tiers ∧ (d.updRed n f).strs = d.strs ∧ (d.updRed n f).comp = d.comp ∧
    (d.updRed n f).sync = d.sync ∧ (d.updRed n f).qos = d.qos ∧ (d.updRed n f).mem = d.mem ∧
    (d.updRed n f).cxl = d.cxl :=
  ⟨rfl, rfl, rfl, rfl, rfl, rfl, rfl, rfl, rfl, rfl, rfl, rfl, rfl, rfl, rfl, rfl⟩

/-- `updRed`: the reads it does not touch. -/
@[simp] theorem Dev.updRed_reads (n : Nat) (f : Red → Red) :
    (∀ k : Nat, (d.updRed n f).fn k = d.fn k) ∧ (∀ k : Nat, (d.updRed n f).hport k = d.hport k) ∧
    (∀ k : Nat, (d.updRed n f).port k = d.port k) ∧ (∀ k : Nat, (d.updRed n f).ctrl k = d.ctrl k) ∧
    (∀ k : Nat, (d.updRed n f).cluster k = d.cluster k) ∧ (∀ k : Nat, (d.updRed n f).group k = d.group k) ∧
    (∀ k : Nat, (d.updRed n f).domain k = d.domain k) ∧ (d.updRed n f).now = d.now ∧
    (∀ k : Nat, (d.updRed n f).qp? k = d.qp? k) ∧ (∀ k : Nat, (d.updRed n f).cmd? k = d.cmd? k) ∧
    (∀ a b c : Nat, (d.updRed n f).feat a b c = d.feat a b c) ∧ (∀ k : Nat, (d.updRed n f).run? k = d.run? k) ∧
    (∀ k : Nat, (d.updRed n f).kernel? k = d.kernel? k) ∧ (∀ k : Nat, (d.updRed n f).obj? k = d.obj? k) ∧
    ∀ k : Nat, (d.updRed n f).str? k = d.str? k :=
  ⟨fun _ => rfl, fun _ => rfl, fun _ => rfl, fun _ => rfl, fun _ => rfl, fun _ => rfl, fun _ => rfl, rfl,
    fun _ => rfl, fun _ => rfl, fun _ _ _ => rfl, fun _ => rfl, fun _ => rfl, fun _ => rfl, fun _ => rfl⟩

/-- `updStr`: every part of the device. -/
@[simp] theorem Dev.updStr_frame (n : Nat) (f : Stream → Stream) :
    (d.updStr n f).out = d.out ∧ (d.updStr n f).freeN = d.freeN ∧ (d.updStr n f).cnt = d.cnt ∧
    (d.updStr n f).q = d.q ∧ (d.updStr n f).integ = d.integ ∧ (d.updStr n f).ports = d.ports ∧
    (d.updStr n f).mgmt = d.mgmt ∧ (d.updStr n f).pwr = d.pwr ∧ (d.updStr n f).objs = d.objs ∧
    (d.updStr n f).tiers = d.tiers ∧ (d.updStr n f).reds = d.reds ∧ (d.updStr n f).comp = d.comp ∧
    (d.updStr n f).sync = d.sync ∧ (d.updStr n f).qos = d.qos ∧ (d.updStr n f).mem = d.mem ∧
    (d.updStr n f).cxl = d.cxl :=
  ⟨rfl, rfl, rfl, rfl, rfl, rfl, rfl, rfl, rfl, rfl, rfl, rfl, rfl, rfl, rfl, rfl⟩

/-- `updStr`: the reads it does not touch. -/
@[simp] theorem Dev.updStr_reads (n : Nat) (f : Stream → Stream) :
    (∀ k : Nat, (d.updStr n f).fn k = d.fn k) ∧ (∀ k : Nat, (d.updStr n f).hport k = d.hport k) ∧
    (∀ k : Nat, (d.updStr n f).port k = d.port k) ∧ (∀ k : Nat, (d.updStr n f).ctrl k = d.ctrl k) ∧
    (∀ k : Nat, (d.updStr n f).cluster k = d.cluster k) ∧ (∀ k : Nat, (d.updStr n f).group k = d.group k) ∧
    (∀ k : Nat, (d.updStr n f).domain k = d.domain k) ∧ (d.updStr n f).now = d.now ∧
    (∀ k : Nat, (d.updStr n f).qp? k = d.qp? k) ∧ (∀ k : Nat, (d.updStr n f).cmd? k = d.cmd? k) ∧
    (∀ a b c : Nat, (d.updStr n f).feat a b c = d.feat a b c) ∧ (∀ k : Nat, (d.updStr n f).run? k = d.run? k) ∧
    (∀ k : Nat, (d.updStr n f).kernel? k = d.kernel? k) ∧ ∀ k : Nat, (d.updStr n f).obj? k = d.obj? k :=
  ⟨fun _ => rfl, fun _ => rfl, fun _ => rfl, fun _ => rfl, fun _ => rfl, fun _ => rfl, fun _ => rfl, rfl,
    fun _ => rfl, fun _ => rfl, fun _ _ _ => rfl, fun _ => rfl, fun _ => rfl, fun _ => rfl⟩

/-- `updExt`: every part of the device. -/
@[simp] theorem Dev.updExt_frame (n : Nat) (f : Extent → Extent) :
    (d.updExt n f).out = d.out ∧ (d.updExt n f).freeN = d.freeN ∧ (d.updExt n f).cnt = d.cnt ∧
    (d.updExt n f).q = d.q ∧ (d.updExt n f).integ = d.integ ∧ (d.updExt n f).ports = d.ports ∧
    (d.updExt n f).mgmt = d.mgmt ∧ (d.updExt n f).pwr = d.pwr ∧ (d.updExt n f).objs = d.objs ∧
    (d.updExt n f).tiers = d.tiers ∧ (d.updExt n f).strs = d.strs ∧ (d.updExt n f).reds = d.reds ∧
    (d.updExt n f).comp = d.comp ∧ (d.updExt n f).sync = d.sync ∧ (d.updExt n f).qos = d.qos ∧
    (d.updExt n f).mem = d.mem :=
  ⟨rfl, rfl, rfl, rfl, rfl, rfl, rfl, rfl, rfl, rfl, rfl, rfl, rfl, rfl, rfl, rfl⟩

/-- `updExt`: the reads it does not touch. -/
@[simp] theorem Dev.updExt_reads (n : Nat) (f : Extent → Extent) :
    (∀ k : Nat, (d.updExt n f).fn k = d.fn k) ∧ (∀ k : Nat, (d.updExt n f).hport k = d.hport k) ∧
    (∀ k : Nat, (d.updExt n f).port k = d.port k) ∧ (∀ k : Nat, (d.updExt n f).ctrl k = d.ctrl k) ∧
    (∀ k : Nat, (d.updExt n f).cluster k = d.cluster k) ∧ (∀ k : Nat, (d.updExt n f).group k = d.group k) ∧
    (∀ k : Nat, (d.updExt n f).domain k = d.domain k) ∧ (d.updExt n f).now = d.now ∧
    (∀ k : Nat, (d.updExt n f).qp? k = d.qp? k) ∧ (∀ k : Nat, (d.updExt n f).cmd? k = d.cmd? k) ∧
    (∀ a b c : Nat, (d.updExt n f).feat a b c = d.feat a b c) ∧ (∀ k : Nat, (d.updExt n f).run? k = d.run? k) ∧
    (∀ k : Nat, (d.updExt n f).kernel? k = d.kernel? k) ∧ (∀ k : Nat, (d.updExt n f).obj? k = d.obj? k) ∧
    ∀ k : Nat, (d.updExt n f).str? k = d.str? k :=
  ⟨fun _ => rfl, fun _ => rfl, fun _ => rfl, fun _ => rfl, fun _ => rfl, fun _ => rfl, fun _ => rfl, rfl,
    fun _ => rfl, fun _ => rfl, fun _ _ _ => rfl, fun _ => rfl, fun _ => rfl, fun _ => rfl, fun _ => rfl⟩

/-- `updReg`: every part of the device. -/
@[simp] theorem Dev.updReg_frame (r : Nat) (f : Reg → Reg) :
    (d.updReg r f).out = d.out ∧ (d.updReg r f).freeN = d.freeN ∧ (d.updReg r f).cnt = d.cnt ∧
    (d.updReg r f).q = d.q ∧ (d.updReg r f).integ = d.integ ∧ (d.updReg r f).ports = d.ports ∧
    (d.updReg r f).mgmt = d.mgmt ∧ (d.updReg r f).pwr = d.pwr ∧ (d.updReg r f).objs = d.objs ∧
    (d.updReg r f).tiers = d.tiers ∧ (d.updReg r f).strs = d.strs ∧ (d.updReg r f).reds = d.reds ∧
    (d.updReg r f).comp = d.comp ∧ (d.updReg r f).sync = d.sync ∧ (d.updReg r f).mem = d.mem ∧
    (d.updReg r f).cxl = d.cxl ∧ (d.updReg r f).qos = { d.qos with regs := Map.upd r f d.qos.regs } :=
  ⟨rfl, rfl, rfl, rfl, rfl, rfl, rfl, rfl, rfl, rfl, rfl, rfl, rfl, rfl, rfl, rfl, rfl⟩

/-- `updReg`: the reads it does not touch. -/
@[simp] theorem Dev.updReg_reads (r : Nat) (f : Reg → Reg) :
    (∀ k : Nat, (d.updReg r f).fn k = d.fn k) ∧ (∀ k : Nat, (d.updReg r f).hport k = d.hport k) ∧
    (∀ k : Nat, (d.updReg r f).port k = d.port k) ∧ (∀ k : Nat, (d.updReg r f).ctrl k = d.ctrl k) ∧
    (∀ k : Nat, (d.updReg r f).cluster k = d.cluster k) ∧ (∀ k : Nat, (d.updReg r f).group k = d.group k) ∧
    (∀ k : Nat, (d.updReg r f).domain k = d.domain k) ∧ (d.updReg r f).now = d.now ∧
    (∀ k : Nat, (d.updReg r f).qp? k = d.qp? k) ∧ (∀ k : Nat, (d.updReg r f).cmd? k = d.cmd? k) ∧
    (∀ a b c : Nat, (d.updReg r f).feat a b c = d.feat a b c) ∧ (∀ k : Nat, (d.updReg r f).run? k = d.run? k) ∧
    (∀ k : Nat, (d.updReg r f).kernel? k = d.kernel? k) ∧ (∀ k : Nat, (d.updReg r f).obj? k = d.obj? k) ∧
    ∀ k : Nat, (d.updReg r f).str? k = d.str? k :=
  ⟨fun _ => rfl, fun _ => rfl, fun _ => rfl, fun _ => rfl, fun _ => rfl, fun _ => rfl, fun _ => rfl, rfl,
    fun _ => rfl, fun _ => rfl, fun _ _ _ => rfl, fun _ => rfl, fun _ => rfl, fun _ => rfl, fun _ => rfl⟩

/-- `updBatch`: every part of the device. -/
@[simp] theorem Dev.updBatch_frame (n : Nat) (f : Batch → Batch) :
    (d.updBatch n f).out = d.out ∧ (d.updBatch n f).freeN = d.freeN ∧ (d.updBatch n f).cnt = d.cnt ∧
    (d.updBatch n f).q = d.q ∧ (d.updBatch n f).integ = d.integ ∧ (d.updBatch n f).ports = d.ports ∧
    (d.updBatch n f).mgmt = d.mgmt ∧ (d.updBatch n f).pwr = d.pwr ∧ (d.updBatch n f).objs = d.objs ∧
    (d.updBatch n f).tiers = d.tiers ∧ (d.updBatch n f).strs = d.strs ∧ (d.updBatch n f).reds = d.reds ∧
    (d.updBatch n f).sync = d.sync ∧ (d.updBatch n f).qos = d.qos ∧ (d.updBatch n f).mem = d.mem ∧
    (d.updBatch n f).cxl = d.cxl ∧ (d.updBatch n f).comp = { d.comp with batches := Map.upd n f d.comp.batches } :=
  ⟨rfl, rfl, rfl, rfl, rfl, rfl, rfl, rfl, rfl, rfl, rfl, rfl, rfl, rfl, rfl, rfl, rfl⟩

/-- `updBatch`: the reads it does not touch. -/
@[simp] theorem Dev.updBatch_reads (n : Nat) (f : Batch → Batch) :
    (∀ k : Nat, (d.updBatch n f).fn k = d.fn k) ∧ (∀ k : Nat, (d.updBatch n f).hport k = d.hport k) ∧
    (∀ k : Nat, (d.updBatch n f).port k = d.port k) ∧ (∀ k : Nat, (d.updBatch n f).ctrl k = d.ctrl k) ∧
    (∀ k : Nat, (d.updBatch n f).cluster k = d.cluster k) ∧ (∀ k : Nat, (d.updBatch n f).group k = d.group k) ∧
    (∀ k : Nat, (d.updBatch n f).domain k = d.domain k) ∧ (d.updBatch n f).now = d.now ∧
    (∀ k : Nat, (d.updBatch n f).qp? k = d.qp? k) ∧ (∀ k : Nat, (d.updBatch n f).cmd? k = d.cmd? k) ∧
    (∀ a b c : Nat, (d.updBatch n f).feat a b c = d.feat a b c) ∧ (∀ k : Nat, (d.updBatch n f).obj? k = d.obj? k) ∧
    ∀ k : Nat, (d.updBatch n f).str? k = d.str? k :=
  ⟨fun _ => rfl, fun _ => rfl, fun _ => rfl, fun _ => rfl, fun _ => rfl, fun _ => rfl, fun _ => rfl, rfl,
    fun _ => rfl, fun _ => rfl, fun _ _ _ => rfl, fun _ => rfl, fun _ => rfl⟩

/-- `updSched`: every part of the device. -/
@[simp] theorem Dev.updSched_frame (n : Nat) (f : Sched → Sched) :
    (d.updSched n f).out = d.out ∧ (d.updSched n f).freeN = d.freeN ∧ (d.updSched n f).cnt = d.cnt ∧
    (d.updSched n f).q = d.q ∧ (d.updSched n f).integ = d.integ ∧ (d.updSched n f).ports = d.ports ∧
    (d.updSched n f).mgmt = d.mgmt ∧ (d.updSched n f).pwr = d.pwr ∧ (d.updSched n f).objs = d.objs ∧
    (d.updSched n f).strs = d.strs ∧ (d.updSched n f).reds = d.reds ∧ (d.updSched n f).comp = d.comp ∧
    (d.updSched n f).sync = d.sync ∧ (d.updSched n f).qos = d.qos ∧ (d.updSched n f).mem = d.mem ∧
    (d.updSched n f).cxl = d.cxl ∧ (d.updSched n f).tiers = { d.tiers with scheds := Map.upd n f d.tiers.scheds } :=
  ⟨rfl, rfl, rfl, rfl, rfl, rfl, rfl, rfl, rfl, rfl, rfl, rfl, rfl, rfl, rfl, rfl, rfl⟩

/-- `updSched`: the reads it does not touch. -/
@[simp] theorem Dev.updSched_reads (n : Nat) (f : Sched → Sched) :
    (∀ k : Nat, (d.updSched n f).fn k = d.fn k) ∧ (∀ k : Nat, (d.updSched n f).hport k = d.hport k) ∧
    (∀ k : Nat, (d.updSched n f).port k = d.port k) ∧ (∀ k : Nat, (d.updSched n f).ctrl k = d.ctrl k) ∧
    (∀ k : Nat, (d.updSched n f).cluster k = d.cluster k) ∧ (∀ k : Nat, (d.updSched n f).group k = d.group k) ∧
    (∀ k : Nat, (d.updSched n f).domain k = d.domain k) ∧ (d.updSched n f).now = d.now ∧
    (∀ k : Nat, (d.updSched n f).qp? k = d.qp? k) ∧ (∀ k : Nat, (d.updSched n f).cmd? k = d.cmd? k) ∧
    (∀ a b c : Nat, (d.updSched n f).feat a b c = d.feat a b c) ∧ (∀ k : Nat, (d.updSched n f).run? k = d.run? k) ∧
    (∀ k : Nat, (d.updSched n f).kernel? k = d.kernel? k) ∧ (∀ k : Nat, (d.updSched n f).obj? k = d.obj? k) ∧
    ∀ k : Nat, (d.updSched n f).str? k = d.str? k :=
  ⟨fun _ => rfl, fun _ => rfl, fun _ => rfl, fun _ => rfl, fun _ => rfl, fun _ => rfl, fun _ => rfl, rfl,
    fun _ => rfl, fun _ => rfl, fun _ _ _ => rfl, fun _ => rfl, fun _ => rfl, fun _ => rfl, fun _ => rfl⟩

/-- `updFlag`: every part of the device. -/
@[simp] theorem Dev.updFlag_frame (n : Nat) (f : Flag → Flag) :
    (d.updFlag n f).out = d.out ∧ (d.updFlag n f).freeN = d.freeN ∧ (d.updFlag n f).cnt = d.cnt ∧
    (d.updFlag n f).q = d.q ∧ (d.updFlag n f).integ = d.integ ∧ (d.updFlag n f).ports = d.ports ∧
    (d.updFlag n f).mgmt = d.mgmt ∧ (d.updFlag n f).pwr = d.pwr ∧ (d.updFlag n f).objs = d.objs ∧
    (d.updFlag n f).tiers = d.tiers ∧ (d.updFlag n f).strs = d.strs ∧ (d.updFlag n f).reds = d.reds ∧
    (d.updFlag n f).comp = d.comp ∧ (d.updFlag n f).qos = d.qos ∧ (d.updFlag n f).mem = d.mem ∧
    (d.updFlag n f).cxl = d.cxl ∧ (d.updFlag n f).sync = { d.sync with flags := Map.upd n f d.sync.flags } :=
  ⟨rfl, rfl, rfl, rfl, rfl, rfl, rfl, rfl, rfl, rfl, rfl, rfl, rfl, rfl, rfl, rfl, rfl⟩

/-- `updFlag`: the reads it does not touch. -/
@[simp] theorem Dev.updFlag_reads (n : Nat) (f : Flag → Flag) :
    (∀ k : Nat, (d.updFlag n f).fn k = d.fn k) ∧ (∀ k : Nat, (d.updFlag n f).hport k = d.hport k) ∧
    (∀ k : Nat, (d.updFlag n f).port k = d.port k) ∧ (∀ k : Nat, (d.updFlag n f).ctrl k = d.ctrl k) ∧
    (∀ k : Nat, (d.updFlag n f).cluster k = d.cluster k) ∧ (∀ k : Nat, (d.updFlag n f).group k = d.group k) ∧
    (∀ k : Nat, (d.updFlag n f).domain k = d.domain k) ∧ (d.updFlag n f).now = d.now ∧
    (∀ k : Nat, (d.updFlag n f).qp? k = d.qp? k) ∧ (∀ k : Nat, (d.updFlag n f).cmd? k = d.cmd? k) ∧
    (∀ a b c : Nat, (d.updFlag n f).feat a b c = d.feat a b c) ∧ (∀ k : Nat, (d.updFlag n f).run? k = d.run? k) ∧
    (∀ k : Nat, (d.updFlag n f).kernel? k = d.kernel? k) ∧ (∀ k : Nat, (d.updFlag n f).obj? k = d.obj? k) ∧
    ∀ k : Nat, (d.updFlag n f).str? k = d.str? k :=
  ⟨fun _ => rfl, fun _ => rfl, fun _ => rfl, fun _ => rfl, fun _ => rfl, fun _ => rfl, fun _ => rfl, rfl,
    fun _ => rfl, fun _ => rfl, fun _ _ _ => rfl, fun _ => rfl, fun _ => rfl, fun _ => rfl, fun _ => rfl⟩

/-- `updHerd`: every part of the device. -/
@[simp] theorem Dev.updHerd_frame (n : Nat) (f : Herd → Herd) :
    (d.updHerd n f).out = d.out ∧ (d.updHerd n f).freeN = d.freeN ∧ (d.updHerd n f).cnt = d.cnt ∧
    (d.updHerd n f).q = d.q ∧ (d.updHerd n f).integ = d.integ ∧ (d.updHerd n f).ports = d.ports ∧
    (d.updHerd n f).mgmt = d.mgmt ∧ (d.updHerd n f).pwr = d.pwr ∧ (d.updHerd n f).objs = d.objs ∧
    (d.updHerd n f).tiers = d.tiers ∧ (d.updHerd n f).strs = d.strs ∧ (d.updHerd n f).reds = d.reds ∧
    (d.updHerd n f).comp = d.comp ∧ (d.updHerd n f).qos = d.qos ∧ (d.updHerd n f).mem = d.mem ∧
    (d.updHerd n f).cxl = d.cxl ∧ (d.updHerd n f).sync = { d.sync with herds := Map.upd n f d.sync.herds } :=
  ⟨rfl, rfl, rfl, rfl, rfl, rfl, rfl, rfl, rfl, rfl, rfl, rfl, rfl, rfl, rfl, rfl, rfl⟩

/-- `updHerd`: the reads it does not touch. -/
@[simp] theorem Dev.updHerd_reads (n : Nat) (f : Herd → Herd) :
    (∀ k : Nat, (d.updHerd n f).fn k = d.fn k) ∧ (∀ k : Nat, (d.updHerd n f).hport k = d.hport k) ∧
    (∀ k : Nat, (d.updHerd n f).port k = d.port k) ∧ (∀ k : Nat, (d.updHerd n f).ctrl k = d.ctrl k) ∧
    (∀ k : Nat, (d.updHerd n f).cluster k = d.cluster k) ∧ (∀ k : Nat, (d.updHerd n f).group k = d.group k) ∧
    (∀ k : Nat, (d.updHerd n f).domain k = d.domain k) ∧ (d.updHerd n f).now = d.now ∧
    (∀ k : Nat, (d.updHerd n f).qp? k = d.qp? k) ∧ (∀ k : Nat, (d.updHerd n f).cmd? k = d.cmd? k) ∧
    (∀ a b c : Nat, (d.updHerd n f).feat a b c = d.feat a b c) ∧ (∀ k : Nat, (d.updHerd n f).run? k = d.run? k) ∧
    (∀ k : Nat, (d.updHerd n f).kernel? k = d.kernel? k) ∧ (∀ k : Nat, (d.updHerd n f).obj? k = d.obj? k) ∧
    ∀ k : Nat, (d.updHerd n f).str? k = d.str? k :=
  ⟨fun _ => rfl, fun _ => rfl, fun _ => rfl, fun _ => rfl, fun _ => rfl, fun _ => rfl, fun _ => rfl, rfl,
    fun _ => rfl, fun _ => rfl, fun _ _ _ => rfl, fun _ => rfl, fun _ => rfl, fun _ => rfl, fun _ => rfl⟩

/-- `emit`: every part of the device. -/
@[simp] theorem emit_frame (o : Out) :
    (emit o d).freeN = d.freeN ∧ (emit o d).cnt = d.cnt ∧ (emit o d).q = d.q ∧ (emit o d).integ = d.integ ∧
    (emit o d).ports = d.ports ∧ (emit o d).mgmt = d.mgmt ∧ (emit o d).pwr = d.pwr ∧ (emit o d).objs = d.objs ∧
    (emit o d).tiers = d.tiers ∧ (emit o d).strs = d.strs ∧ (emit o d).reds = d.reds ∧ (emit o d).comp = d.comp ∧
    (emit o d).sync = d.sync ∧ (emit o d).qos = d.qos ∧ (emit o d).mem = d.mem ∧ (emit o d).cxl = d.cxl ∧
    (emit o d).out = d.out ++ [o] :=
  ⟨rfl, rfl, rfl, rfl, rfl, rfl, rfl, rfl, rfl, rfl, rfl, rfl, rfl, rfl, rfl, rfl, rfl⟩

/-- `emit`: the reads it does not touch. -/
@[simp] theorem emit_reads (o : Out) :
    (∀ k : Nat, (emit o d).fn k = d.fn k) ∧ (∀ k : Nat, (emit o d).hport k = d.hport k) ∧
    (∀ k : Nat, (emit o d).port k = d.port k) ∧ (∀ k : Nat, (emit o d).ctrl k = d.ctrl k) ∧
    (∀ k : Nat, (emit o d).cluster k = d.cluster k) ∧ (∀ k : Nat, (emit o d).group k = d.group k) ∧
    (∀ k : Nat, (emit o d).domain k = d.domain k) ∧ (emit o d).now = d.now ∧
    (∀ k : Nat, (emit o d).qp? k = d.qp? k) ∧ (∀ k : Nat, (emit o d).cmd? k = d.cmd? k) ∧
    (∀ a b c : Nat, (emit o d).feat a b c = d.feat a b c) ∧ (∀ k : Nat, (emit o d).run? k = d.run? k) ∧
    (∀ k : Nat, (emit o d).kernel? k = d.kernel? k) ∧ (∀ k : Nat, (emit o d).obj? k = d.obj? k) ∧
    ∀ k : Nat, (emit o d).str? k = d.str? k :=
  ⟨fun _ => rfl, fun _ => rfl, fun _ => rfl, fun _ => rfl, fun _ => rfl, fun _ => rfl, fun _ => rfl, rfl,
    fun _ => rfl, fun _ => rfl, fun _ _ _ => rfl, fun _ => rfl, fun _ => rfl, fun _ => rfl, fun _ => rfl⟩

/-- `nearAccess`: every part of the device. -/
@[simp] theorem nearAccess_frame (s : Nat) (ident : List Nat) (bytes label : Nat) (write : Bool) :
    (nearAccess s ident bytes label write d).out = d.out ∧
    (nearAccess s ident bytes label write d).freeN = d.freeN ∧
    (nearAccess s ident bytes label write d).cnt = d.cnt ∧ (nearAccess s ident bytes label write d).q = d.q ∧
    (nearAccess s ident bytes label write d).integ = d.integ ∧
    (nearAccess s ident bytes label write d).ports = d.ports ∧
    (nearAccess s ident bytes label write d).mgmt = d.mgmt ∧ (nearAccess s ident bytes label write d).pwr = d.pwr ∧
    (nearAccess s ident bytes label write d).objs = d.objs ∧
    (nearAccess s ident bytes label write d).tiers = d.tiers ∧
    (nearAccess s ident bytes label write d).strs = d.strs ∧
    (nearAccess s ident bytes label write d).reds = d.reds ∧
    (nearAccess s ident bytes label write d).comp = d.comp ∧
    (nearAccess s ident bytes label write d).sync = d.sync ∧ (nearAccess s ident bytes label write d).qos = d.qos ∧
    (nearAccess s ident bytes label write d).cxl = d.cxl :=
  ⟨rfl, rfl, rfl, rfl, rfl, rfl, rfl, rfl, rfl, rfl, rfl, rfl, rfl, rfl, rfl, rfl⟩

/-- `nearAccess`: the reads it does not touch. -/
@[simp] theorem nearAccess_reads (s : Nat) (ident : List Nat) (bytes label : Nat) (write : Bool) :
    (∀ k : Nat, (nearAccess s ident bytes label write d).fn k = d.fn k) ∧
    (∀ k : Nat, (nearAccess s ident bytes label write d).hport k = d.hport k) ∧
    (∀ k : Nat, (nearAccess s ident bytes label write d).port k = d.port k) ∧
    (∀ k : Nat, (nearAccess s ident bytes label write d).cluster k = d.cluster k) ∧
    (∀ k : Nat, (nearAccess s ident bytes label write d).group k = d.group k) ∧
    (∀ k : Nat, (nearAccess s ident bytes label write d).domain k = d.domain k) ∧
    (nearAccess s ident bytes label write d).now = d.now ∧
    (∀ k : Nat, (nearAccess s ident bytes label write d).qp? k = d.qp? k) ∧
    (∀ k : Nat, (nearAccess s ident bytes label write d).cmd? k = d.cmd? k) ∧
    (∀ a b c : Nat, (nearAccess s ident bytes label write d).feat a b c = d.feat a b c) ∧
    (∀ k : Nat, (nearAccess s ident bytes label write d).run? k = d.run? k) ∧
    (∀ k : Nat, (nearAccess s ident bytes label write d).kernel? k = d.kernel? k) ∧
    (∀ k : Nat, (nearAccess s ident bytes label write d).obj? k = d.obj? k) ∧
    ∀ k : Nat, (nearAccess s ident bytes label write d).str? k = d.str? k :=
  ⟨fun _ => rfl, fun _ => rfl, fun _ => rfl, fun _ => rfl, fun _ => rfl, fun _ => rfl, rfl, fun _ => rfl,
    fun _ => rfl, fun _ _ _ => rfl, fun _ => rfl, fun _ => rfl, fun _ => rfl, fun _ => rfl⟩

/-- A counter's change touches nothing else. -/
@[simp] theorem bump_frame (a b c n : Nat) :
    (bump a b c n d).out = d.out ∧ (bump a b c n d).freeN = d.freeN ∧ (bump a b c n d).q = d.q ∧ (bump a b c n d).integ = d.integ ∧
    (bump a b c n d).ports = d.ports ∧ (bump a b c n d).mgmt = d.mgmt ∧ (bump a b c n d).pwr = d.pwr ∧ (bump a b c n d).objs = d.objs ∧
    (bump a b c n d).tiers = d.tiers ∧ (bump a b c n d).strs = d.strs ∧ (bump a b c n d).reds = d.reds ∧ (bump a b c n d).comp = d.comp ∧
    (bump a b c n d).sync = d.sync ∧ (bump a b c n d).qos = d.qos ∧ (bump a b c n d).mem = d.mem ∧ (bump a b c n d).cxl = d.cxl := by
  unfold bump
  split <;> simp

/-- Nor any read but of counters. -/
@[simp] theorem bump_reads (a b c n : Nat) :
    (∀ k : Nat, (bump a b c n d).fn k = d.fn k) ∧ (∀ k : Nat, (bump a b c n d).hport k = d.hport k) ∧
    (∀ k : Nat, (bump a b c n d).port k = d.port k) ∧ (∀ k : Nat, (bump a b c n d).ctrl k = d.ctrl k) ∧
    (∀ k : Nat, (bump a b c n d).cluster k = d.cluster k) ∧ (∀ k : Nat, (bump a b c n d).group k = d.group k) ∧
    (∀ k : Nat, (bump a b c n d).domain k = d.domain k) ∧ (bump a b c n d).now = d.now ∧
    (∀ k : Nat, (bump a b c n d).qp? k = d.qp? k) ∧ (∀ k : Nat, (bump a b c n d).cmd? k = d.cmd? k) ∧
    (∀ i j k : Nat, (bump a b c n d).feat i j k = d.feat i j k) ∧ (∀ k : Nat, (bump a b c n d).run? k = d.run? k) ∧
    (∀ k : Nat, (bump a b c n d).kernel? k = d.kernel? k) ∧ (∀ k : Nat, (bump a b c n d).obj? k = d.obj? k) ∧
    (∀ k : Nat, (bump a b c n d).str? k = d.str? k) := by
  unfold bump
  split <;> exact ⟨fun _ => rfl, fun _ => rfl, fun _ => rfl, fun _ => rfl, fun _ => rfl, fun _ => rfl, fun _ => rfl, rfl, fun _ => rfl, fun _ => rfl, fun _ _ _ => rfl, fun _ => rfl, fun _ => rfl, fun _ => rfl, fun _ => rfl⟩

end Sys2Proof.Machine
end

