-- ==== Sys2Proof/Laws/Ops.lean ====
section
/-! SUPPORT. What the shared operations can do: trace and error records, function events, the settling after a command,
the completion of a command. -/

namespace Sys2Proof.Machine

/-! ## Trace records -/

/-- A trace record changes the export's buffer and counts and nothing else. -/
theorem trace_spec (source event : Nat) (t : Option Nat) (ident : Nat) (b : Bytes) (d : Dev) :
    ∃ x : Trace, trace source event t ident b d = d.updInteg fun i => { i with trace := x } := by
  unfold trace
  dsimp only
  split
  · exact ⟨d.integ.trace, rfl⟩
  · split
    · exact ⟨_, rfl⟩
    · exact ⟨_, rfl⟩

/-- With the export disabled a trace record leaves the device as it is. -/
theorem trace_off {d : Dev} (h : d.integ.trace.enabled = false) (source event : Nat) (t : Option Nat) (ident : Nat)
    (b : Bytes) : trace source event t ident b d = d := by
  simp [trace, h]

@[simp] theorem trace_frame (source event : Nat) (t : Option Nat) (ident : Nat) (b : Bytes) (d : Dev) :
    (trace source event t ident b d).out = d.out ∧ (trace source event t ident b d).freeN = d.freeN ∧
    (trace source event t ident b d).cnt = d.cnt ∧ (trace source event t ident b d).q = d.q ∧
    (trace source event t ident b d).ports = d.ports ∧ (trace source event t ident b d).mgmt = d.mgmt ∧
    (trace source event t ident b d).pwr = d.pwr ∧ (trace source event t ident b d).objs = d.objs ∧
    (trace source event t ident b d).tiers = d.tiers ∧ (trace source event t ident b d).strs = d.strs ∧
    (trace source event t ident b d).reds = d.reds ∧ (trace source event t ident b d).comp = d.comp ∧
    (trace source event t ident b d).sync = d.sync ∧ (trace source event t ident b d).qos = d.qos ∧
    (trace source event t ident b d).mem = d.mem ∧ (trace source event t ident b d).cxl = d.cxl ∧
    (trace source event t ident b d).integ.log = d.integ.log ∧
    (trace source event t ident b d).integ.lastId = d.integ.lastId := by
  obtain ⟨x, h⟩ := trace_spec source event t ident b d
  rw [h]
  simp

/-! ## Function events -/

/-- What function events may change: what has left the block, functions' registers, `WAKE_N`. -/
structure EventFrame (d e : Dev) : Prop where
  freeN : e.freeN = d.freeN
  cnt : e.cnt = d.cnt
  qps : e.q.qps = d.q.qps
  cmds : e.q.cmds = d.q.cmds
  nextCmd : e.q.nextCmd = d.q.nextCmd
  tenants : e.q.tenants = d.q.tenants
  integ : e.integ = d.integ
  ports : e.ports = d.ports
  mgmt : e.mgmt = d.mgmt
  pwr : e.pwr = d.pwr
  objs : e.objs = d.objs
  tiers : e.tiers = d.tiers
  strs : e.strs = d.strs
  reds : e.reds = d.reds
  comp : e.comp = d.comp
  sync : e.sync = d.sync
  qos : e.qos = d.qos
  mem : e.mem = d.mem
  cxl : e.cxl = d.cxl
  out : d.out <+: e.out

theorem EventFrame.refl (d : Dev) : EventFrame d d := by constructor <;> rfl

theorem EventFrame.trans {a b c : Dev} (h : EventFrame a b) (k : EventFrame b c) : EventFrame a c where
  freeN := k.freeN.trans h.freeN
  cnt := k.cnt.trans h.cnt
  qps := k.qps.trans h.qps
  cmds := k.cmds.trans h.cmds
  nextCmd := k.nextCmd.trans h.nextCmd
  tenants := k.tenants.trans h.tenants
  integ := k.integ.trans h.integ
  ports := k.ports.trans h.ports
  mgmt := k.mgmt.trans h.mgmt
  pwr := k.pwr.trans h.pwr
  objs := k.objs.trans h.objs
  tiers := k.tiers.trans h.tiers
  strs := k.strs.trans h.strs
  reds := k.reds.trans h.reds
  comp := k.comp.trans h.comp
  sync := k.sync.trans h.sync
  qos := k.qos.trans h.qos
  mem := k.mem.trans h.mem
  cxl := k.cxl.trans h.cxl
  out := h.out.trans k.out

theorem updFn_events (n : Nat) (f : Fn → Fn) (d : Dev) : EventFrame d (d.updFn n f) := by
  constructor <;> rfl

theorem updHport_events (n : Nat) (f : HPort → HPort) (d : Dev) : EventFrame d (d.updHport n f) := by
  constructor <;> rfl

theorem emit_events (o : Out) (d : Dev) : EventFrame d (emit o d) := by
  constructor <;> first | rfl | exact List.prefix_append _ _

/-- An MSI-X message of no queue pair is sent, pending or held. -/
theorem sendMsix_events (fn vec : Nat) (d : Dev) : EventFrame d (sendMsix fn vec [] d) := by
  unfold sendMsix Dev.updQps
  simp only [List.foldl_nil]
  split
  · exact updFn_events _ _ _
  · split
    · exact emit_events _ _
    · exact updFn_events _ _ _

theorem wake_events (d : Dev) : EventFrame d (wake d) := by
  unfold wake
  split
  · exact updHport_events _ _ _
  · exact .refl d

theorem setCause_events (fn bit : Nat) (d : Dev) : EventFrame d (setCause fn bit d) := by
  unfold setCause
  split
  · exact .refl d
  · have h1 := updFn_events fn (fun f => { f with irqCause := f.irqCause ||| BitVec.ofNat 32 (2 ^ bit) }) d
    dsimp only
    generalize d.updFn fn (fun f => { f with irqCause := f.irqCause ||| BitVec.ofNat 32 (2 ^ bit) }) = e at h1 ⊢
    have h2 : EventFrame d (if (bit = 1 || bit = 6) = true then wake e else e) := by
      split
      · exact h1.trans (wake_events e)
      · exact h1
    generalize (if (bit = 1 || bit = 6) = true then wake e else e) = e' at h2 ⊢
    split
    · exact h2
    · exact h2.trans (sendMsix_events _ _ _)

theorem setCauses_events (bit : Nat) (p : Fn → Bool) (d : Dev) : EventFrame d (setCauses bit p d) := by
  unfold setCauses
  suffices ∀ (l : List Nat) (e : Dev), EventFrame d e →
      EventFrame d (l.foldl (fun d fn => if p (d.fn fn) then setCause fn bit d else d) e) from this _ _ (.refl d)
  intro l
  induction l with
  | nil => exact fun e h => h
  | cons a l ih =>
    intro e h
    refine ih _ ?_
    dsimp only
    split
    · exact h.trans (setCause_events _ _ _)
    · exact h

/-! ## After every command -/

theorem foldl_id {α β : Type} (f : β → α → β) (l : List α) (b : β) (h : ∀ a ∈ l, f b a = b) : l.foldl f b = b := by
  induction l with
  | nil => rfl
  | cons a l ih =>
    rw [List.foldl_cons, h a (List.mem_cons_self ..)]
    exact ih fun x hx => h x (List.mem_cons_of_mem _ hx)

/-- Where no domain, thermal step, port or host link has changed, nothing is traced. -/
theorem traceDiff_same {d0 d : Dev} (hp : d.pwr = d0.pwr) (hl : d.ports = d0.ports) (hh : d.q.ports = d0.q.ports) :
    traceDiff d0 d = d := by
  have hd (k : Nat) : d0.domain k = d.domain k := by simp [Dev.domain, hp]
  have hq (k : Nat) : d0.port k = d.port k := by simp [Dev.port, hl]
  have hhp (k : Nat) : d0.hport k = d.hport k := by simp [Dev.hport, hh]
  unfold traceDiff
  split
  · rfl
  · dsimp only
    rw [foldl_id _ (List.range 40) d fun a _ => if_pos (hd a)]
    rw [foldl_id (fun a h => if d0.pwr.thermStep.getD h 0 = d.pwr.thermStep.getD h 0 then a
      else trace 6 3 none h (leBytes 1 (d.pwr.thermStep.getD h 0)) a) [0, 1] d fun a _ => if_pos (by rw [hp])]
    rw [foldl_id _ (List.range 56) d fun a _ => by simp [hq]]
    exact foldl_id _ _ d fun a _ => if_pos (by rw [hhp])

/-- A command that changes no power state, no port, no memory controller and no oversubscription settles at once. -/
theorem settle_same {d0 d : Dev} (hp : d.pwr = d0.pwr) (hl : d.ports = d0.ports) (hh : d.q.ports = d0.q.ports)
    (hm : d.mem = d0.mem) (hq : d.qos.oversub = d0.qos.oversub) : settle d0 d = d := by
  have hs : d0.dieStep = d.dieStep := by
    funext k
    simp [Dev.dieStep, hp]
  have hc : d0.clkStep = d.clkStep := by simp [Dev.clkStep, hs]
  have hg : d0.gst = d.gst := by simp [Dev.gst, Dev.degraded, hp, hl, hm, hq, hc]
  simp [settle, traceDiff_same hp hl hh, hg, hc]

/-- Trace records of a settling leave everything but the trace export alone. -/
structure TraceFrame (d e : Dev) : Prop where
  out : e.out = d.out
  freeN : e.freeN = d.freeN
  cnt : e.cnt = d.cnt
  q : e.q = d.q
  log : e.integ.log = d.integ.log
  lastId : e.integ.lastId = d.integ.lastId
  ports : e.ports = d.ports
  mgmt : e.mgmt = d.mgmt
  pwr : e.pwr = d.pwr
  objs : e.objs = d.objs
  tiers : e.tiers = d.tiers
  strs : e.strs = d.strs
  reds : e.reds = d.reds
  comp : e.comp = d.comp
  sync : e.sync = d.sync
  qos : e.qos = d.qos
  mem : e.mem = d.mem
  cxl : e.cxl = d.cxl

theorem TraceFrame.refl (d : Dev) : TraceFrame d d := by constructor <;> rfl

theorem TraceFrame.step {d e : Dev} (h : TraceFrame d e) (source event : Nat) (t : Option Nat) (ident : Nat)
    (b : Bytes) : TraceFrame d (trace source event t ident b e) := by
  constructor <;> simp [h.out, h.freeN, h.cnt, h.q, h.log, h.lastId, h.ports, h.mgmt, h.pwr, h.objs, h.tiers, h.strs,
    h.reds, h.comp, h.sync, h.qos, h.mem, h.cxl]

theorem foldl_keeps {α β : Type} {P : β → Prop} {f : β → α → β} (hf : ∀ b a, P b → P (f b a)) (l : List α) {b : β}
    (hb : P b) : P (l.foldl f b) := by
  induction l generalizing b with
  | nil => exact hb
  | cons a l ih => exact ih (hf b a hb)

theorem traceDiff_frame (d0 d : Dev) : TraceFrame d (traceDiff d0 d) := by
  unfold traceDiff
  split
  · exact .refl d
  · dsimp only
    refine foldl_keeps (fun e a h => ?_) _ (foldl_keeps (fun e a h => ?_) _ (foldl_keeps (fun e a h => ?_) _
      (foldl_keeps (fun e a h => ?_) _ (.refl d))))
    · split
      · exact h
      · exact h.step ..
    · split
      · split
        · exact h.step ..
        · exact (h.step ..).step ..
      · split
        · exact h
        · exact h.step ..
    · split
      · exact h
      · exact h.step ..
    · split
      · exact h
      · split
        · exact h.step ..
        · split
          · exact h.step ..
          · exact h

/-- A settling after a command: function events and trace records, and nothing else. -/
structure SettleFrame (d e : Dev) : Prop where
  freeN : e.freeN = d.freeN
  cnt : e.cnt = d.cnt
  qps : e.q.qps = d.q.qps
  cmds : e.q.cmds = d.q.cmds
  nextCmd : e.q.nextCmd = d.q.nextCmd
  tenants : e.q.tenants = d.q.tenants
  log : e.integ.log = d.integ.log
  lastId : e.integ.lastId = d.integ.lastId
  ports : e.ports = d.ports
  mgmt : e.mgmt = d.mgmt
  pwr : e.pwr = d.pwr
  objs : e.objs = d.objs
  tiers : e.tiers = d.tiers
  strs : e.strs = d.strs
  reds : e.reds = d.reds
  comp : e.comp = d.comp
  sync : e.sync = d.sync
  qos : e.qos = d.qos
  mem : e.mem = d.mem
  cxl : e.cxl = d.cxl
  out : d.out <+: e.out

theorem TraceFrame.events {d e f : Dev} (h : TraceFrame d e) (k : EventFrame e f) : SettleFrame d f where
  freeN := k.freeN.trans h.freeN
  cnt := k.cnt.trans h.cnt
  qps := k.qps.trans (by rw [h.q])
  cmds := k.cmds.trans (by rw [h.q])
  nextCmd := k.nextCmd.trans (by rw [h.q])
  tenants := k.tenants.trans (by rw [h.q])
  log := (by rw [k.integ, h.log])
  lastId := (by rw [k.integ, h.lastId])
  ports := k.ports.trans h.ports
  mgmt := k.mgmt.trans h.mgmt
  pwr := k.pwr.trans h.pwr
  objs := k.objs.trans h.objs
  tiers := k.tiers.trans h.tiers
  strs := k.strs.trans h.strs
  reds := k.reds.trans h.reds
  comp := k.comp.trans h.comp
  sync := k.sync.trans h.sync
  qos := k.qos.trans h.qos
  mem := k.mem.trans h.mem
  cxl := k.cxl.trans h.cxl
  out := h.out ▸ k.out

/-- What the settling after a command can do. -/
theorem settle_frame (d0 d : Dev) : SettleFrame d (settle d0 d) := by
  have h := traceDiff_frame d0 d
  unfold settle
  dsimp only
  generalize traceDiff d0 d = e at h ⊢
  split
  · split
    · exact h.events (.refl e)
    · exact h.events (setCauses_events _ _ _)
  · split
    · exact h.events (setCauses_events _ _ _)
    · exact h.events ((setCauses_events _ _ _).trans (setCauses_events _ _ _))

/-! ## Lifting to the state -/

theorem onMgmt_eq (f : Dev → Dev) (s : State) : onMgmt f s = .next { s with dev := settle s.dev (f s.dev) } := rfl

theorem onPort_eq {s : State} (hb : s.dev.pwr.bscan = false) (f : Dev → Dev) :
    onPort f s = .next { s with dev := settle s.dev (f s.dev) } := by simp [onPort, hb, onMgmt]

theorem onDev_eq {s : State} (hr : s.dev.pwr.retention = false) (hb : s.dev.pwr.bscan = false) (f : Dev → Dev) :
    onDev f s = .next { s with dev := settle s.dev (f s.dev) } := by simp [onDev, hr, onPort_eq hb]

/-- The data path stands still under boundary scan (R550). -/
theorem onPort_bscan {s : State} (hb : s.dev.pwr.bscan = true) (f : Dev → Dev) : onPort f s = .next s := by
  simp [onPort, hb]

theorem onDev_bscan {s : State} (hb : s.dev.pwr.bscan = true) (f : Dev → Dev) : onDev f s = .next s := by
  simp [onDev, onPort_bscan hb]

theorem onDev_retention {s : State} (hr : s.dev.pwr.retention = true) (f : Dev → Dev) : onDev f s = .next s := by
  simp [onDev, hr]

/-- A lifted meaning answers a next state with the queue and the HDM decoders as they were. -/
theorem onMgmt_next (f : Dev → Dev) (s : State) :
    ∃ t, onMgmt f s = .next t ∧ t.pending = s.pending ∧ t.hdm = s.hdm := ⟨_, rfl, rfl, rfl⟩

theorem onPort_next (f : Dev → Dev) (s : State) :
    ∃ t, onPort f s = .next t ∧ t.pending = s.pending ∧ t.hdm = s.hdm := by
  unfold onPort
  split
  · exact ⟨s, rfl, rfl, rfl⟩
  · exact onMgmt_next f s

theorem onDev_next (f : Dev → Dev) (s : State) :
    ∃ t, onDev f s = .next t ∧ t.pending = s.pending ∧ t.hdm = s.hdm := by
  unfold onDev
  split
  · exact ⟨s, rfl, rfl, rfl⟩
  · exact onPort_next f s

/-- Where a lifted meaning changes no power state, port, controller or oversubscription, the answer is its result. -/
theorem onDev_plain {s : State} (hr : s.dev.pwr.retention = false) (hb : s.dev.pwr.bscan = false) {f : Dev → Dev}
    (hp : (f s.dev).pwr = s.dev.pwr) (hl : (f s.dev).ports = s.dev.ports) (hh : (f s.dev).q.ports = s.dev.q.ports)
    (hm : (f s.dev).mem = s.dev.mem) (hq : (f s.dev).qos.oversub = s.dev.qos.oversub) :
    onDev f s = .next { s with dev := f s.dev } := by
  rw [onDev_eq hr hb, settle_same hp hl hh hm hq]

end Sys2Proof.Machine
end

