-- ==== Sys2Proof/Laws/Finish.lean ====
section
/-! SUPPORT. What the end of a command can do: error records, messages, the completion, and what waits for it. -/

namespace Sys2Proof.Machine

/-- What ending a command leaves alone: everything but what has left the block, counters, queues, functions, host and bulk
ports, records, the aborts that waited for it and the near-tier bytes of a deleted ring. -/
structure FinishFrame (d e : Dev) : Prop where
  freeN : e.freeN = d.freeN
  tenants : e.q.tenants = d.q.tenants
  nextCmd : e.q.nextCmd = d.q.nextCmd
  mgmt : e.mgmt = d.mgmt
  pwr : e.pwr = d.pwr
  objs : e.objs = d.objs
  strs : e.strs = d.strs
  reds : e.reds = d.reds
  sync : e.sync = d.sync
  qos : e.qos = d.qos
  mem : e.mem = d.mem
  cxl : e.cxl = d.cxl
  tiers : { e.tiers with extraNear := d.tiers.extraNear, extraHalf := d.tiers.extraHalf } = d.tiers
  comp : { e.comp with aborts := d.comp.aborts } = d.comp
  keys : e.integ.keys = d.integ.keys
  serial : e.integ.serial = d.integ.serial
  out : d.out <+: e.out

theorem FinishFrame.refl (d : Dev) : FinishFrame d d := by constructor <;> rfl

theorem FinishFrame.trans {a b c : Dev} (h : FinishFrame a b) (k : FinishFrame b c) : FinishFrame a c where
  freeN := k.freeN.trans h.freeN
  tenants := k.tenants.trans h.tenants
  nextCmd := k.nextCmd.trans h.nextCmd
  mgmt := k.mgmt.trans h.mgmt
  pwr := k.pwr.trans h.pwr
  objs := k.objs.trans h.objs
  strs := k.strs.trans h.strs
  reds := k.reds.trans h.reds
  sync := k.sync.trans h.sync
  qos := k.qos.trans h.qos
  mem := k.mem.trans h.mem
  cxl := k.cxl.trans h.cxl
  tiers := by rw [← h.tiers, ← k.tiers]
  comp := by rw [← h.comp, ← k.comp]
  keys := k.keys.trans h.keys
  serial := k.serial.trans h.serial
  out := h.out.trans k.out

theorem EventFrame.finish {d e : Dev} (h : EventFrame d e) : FinishFrame d e where
  freeN := h.freeN
  tenants := h.tenants
  nextCmd := h.nextCmd
  mgmt := h.mgmt
  pwr := h.pwr
  objs := h.objs
  strs := h.strs
  reds := h.reds
  sync := h.sync
  qos := h.qos
  mem := h.mem
  cxl := h.cxl
  tiers := by rw [h.tiers]
  comp := by rw [h.comp]
  keys := by rw [h.integ]
  serial := by rw [h.integ]
  out := h.out

theorem trace_finish (source event : Nat) (t : Option Nat) (ident : Nat) (b : Bytes) (d : Dev) :
    FinishFrame d (trace source event t ident b d) := by
  obtain ⟨x, h⟩ := trace_spec source event t ident b d
  rw [h]
  constructor <;> rfl

theorem updQp_finish (n : Nat) (f : QP → QP) (d : Dev) : FinishFrame d (d.updQp n f) := by constructor <;> rfl
theorem removeQp_finish (n : Nat) (d : Dev) : FinishFrame d (d.removeQp n) := by constructor <;> rfl
theorem updCmd_finish (n : Nat) (f : Cmd → Cmd) (d : Dev) : FinishFrame d (d.updCmd n f) := by constructor <;> rfl
theorem dropCmd_finish (n : Nat) (d : Dev) : FinishFrame d (d.dropCmd n) := by constructor <;> rfl
theorem updFn_finish (n : Nat) (f : Fn → Fn) (d : Dev) : FinishFrame d (d.updFn n f) := by constructor <;> rfl
theorem updPort_finish (n : Nat) (f : Port → Port) (d : Dev) : FinishFrame d (d.updPort n f) := by constructor <;> rfl
theorem emit_finish (o : Out) (d : Dev) : FinishFrame d (emit o d) := (emit_events o d).finish

theorem bump_finish (a b c n : Nat) (d : Dev) : FinishFrame d (bump a b c n d) := by
  unfold bump
  split
  · exact .refl d
  · constructor <;> rfl

theorem subNear_finish (t half n : Nat) (d : Dev) : FinishFrame d (subNear t half n d) := by constructor <;> rfl

/-- A fold of operations that each finish only. -/
theorem foldl_finish {α : Type} {f : Dev → α → Dev} (hf : ∀ d a, FinishFrame d (f d a)) (l : List α) (d : Dev) :
    FinishFrame d (l.foldl f d) := by
  induction l generalizing d with
  | nil => exact .refl d
  | cons a l ih => exact (hf d a).trans (ih _)

/-- An error record: the log, the function events, the trace. -/
theorem raise_finish (r : ErrRec) (d : Dev) : FinishFrame d (raise r d) := by
  unfold raise raiseRec
  dsimp only
  refine FinishFrame.trans ?_ (trace_finish ..)
  have h0 (g : Integ → Integ) (hk : ∀ i, (g i).keys = i.keys) (hs : ∀ i, (g i).serial = i.serial) :
      FinishFrame d (d.updInteg g) := by
    constructor <;> first | rfl | exact hk _ | exact hs _
  have h1 := h0 (fun i => { i with
    lastId := nextErrId d.integ.lastId
    log := (d.integ.log ++ [{ r with
      id := nextErrId d.integ.lastId, tick := d.now, flushed := decide (r.cls ≥ 2), detail := detail16 r.detail }]).drop
      ((d.integ.log ++ [{ r with
      id := nextErrId d.integ.lastId, tick := d.now, flushed := decide (r.cls ≥ 2), detail := detail16 r.detail }]).length - 65536) })
    (fun _ => rfl) (fun _ => rfl)
  generalize d.updInteg _ = e at h1 ⊢
  have h2 : FinishFrame d (if r.cls ≥ 2 then setCauses 1 (fun f => f.bound == some 0) e else e) := by
    split
    · exact h1.trans (setCauses_events _ _ _).finish
    · exact h1
  generalize (if r.cls ≥ 2 then setCauses 1 (fun f => f.bound == some 0) e else e) = e2 at h2 ⊢
  split
  · exact h2.trans (setCauses_events _ _ _).finish
  · exact h2

theorem sendMsgA_finish (after : OnTx) (qos due port cls tenant : Nat) (b : Bytes) (d : Dev) :
    FinishFrame d (sendMsgA after qos due port cls tenant b d) := by
  unfold sendMsgA
  dsimp only
  split
  · exact .refl d
  · split
    · exact bump_finish ..
    · exact updPort_finish ..

theorem sendMsgQ_finish (qos due port cls tenant : Nat) (b : Bytes) (d : Dev) :
    FinishFrame d (sendMsgQ qos due port cls tenant b d) := sendMsgA_finish ..

theorem sendMsg_finish (port cls tenant : Nat) (b : Bytes) (d : Dev) : FinishFrame d (sendMsg port cls tenant b d) :=
  sendMsgQ_finish ..

theorem cmdchWrite_finish (port tenant qp tag : Nat) (w : Wr) (d : Dev) :
    FinishFrame d (cmdchWrite port tenant qp tag w d) := foldl_finish (fun _ _ => sendMsg_finish ..) _ _

/-- An MSI-X message of queue pairs is sent and counted, pending or held. -/
theorem sendMsix_finish (fn vec : Nat) (qps : List Nat) (d : Dev) : FinishFrame d (sendMsix fn vec qps d) := by
  unfold sendMsix
  split
  · exact (updFn_finish ..).trans (foldl_finish (fun _ _ => updQp_finish ..) _ _)
  · split
    · exact (emit_finish ..).trans (foldl_finish (fun _ _ => bump_finish ..) _ _)
    · exact updFn_finish ..

theorem raiseVector_finish (qp : Nat) (d : Dev) : FinishFrame d (raiseVector qp d) := by
  unfold raiseVector
  split
  · split
    · exact (updQp_finish ..).trans (sendMsix_finish ..)
    · exact .refl d
  · exact .refl d

theorem writeCpl_finish (qp slot : Nat) (q : QP) (cmd : Cmd) (c : Cpl) (d : Dev) :
    FinishFrame d (writeCpl qp slot q cmd c d) := by
  unfold writeCpl
  dsimp only
  have last (e : Dev) (h : FinishFrame d e) (p : Bool) (f : QP → QP) (k1 k2 : Nat) :
      FinishFrame d (if p then raiseVector qp ((bump 2 qp 1 1 (bump 2 qp 2 k1 (bump 2 qp 3 k2 e))).updQp qp f)
        else (bump 2 qp 1 1 (bump 2 qp 2 k1 (bump 2 qp 3 k2 e))).updQp qp f) := by
    have h2 := (((h.trans (bump_finish 2 qp 3 k2 e)).trans (bump_finish 2 qp 2 k1 _)).trans
      (bump_finish 2 qp 1 1 _)).trans (updQp_finish qp f _)
    split
    · exact h2.trans (raiseVector_finish ..)
    · exact h2
  split
  · exact last _ ((((foldl_finish (fun _ _ => emit_finish ..) _ _).trans (bump_finish ..)).trans (emit_finish ..)).trans
      (emit_finish ..)) _ _ _ _
  · exact last _ ((foldl_finish (fun _ _ => cmdchWrite_finish ..) _ _).trans (sendMsg_finish ..)) _ _ _ _

theorem finish1_finish (n : Nat) (c : Cpl) (d : Dev) : FinishFrame d (finish1 n c d) := by
  unfold finish1
  split
  · exact .refl d
  · split
    · exact (dropCmd_finish ..).trans (emit_finish ..)
    · dsimp only
      split
      · exact dropCmd_finish ..
      · exact (dropCmd_finish ..).trans (raise_finish ..)
    · split
      · exact dropCmd_finish ..
      · dsimp only
        split
        · split
          · exact ((bump_finish ..).trans (updQp_finish ..)).trans (dropCmd_finish ..)
          · exact (updQp_finish ..).trans (dropCmd_finish ..)
        · have held (b : Bool) (fn : Nat) (x : Cpl) (e : Dev) (h : FinishFrame d e) :
              FinishFrame d (if b then ((d.updFn fn fun f => { f with held := f.held ++ [.cpl n x] }).updCmd n
                fun x => { x with phase := .held }) else e) := by
            split
            · exact (updFn_finish ..).trans (updCmd_finish ..)
            · exact h
          exact held _ _ _ _ (((trace_finish ..).trans (writeCpl_finish ..)).trans (dropCmd_finish ..))

theorem reapAborts_finish (d : Dev) : FinishFrame d (reapAborts d) := by
  refine foldl_finish (fun e p => ?_) _ _
  split
  · exact .refl e
  · exact FinishFrame.trans (b := { e with comp := { e.comp with aborts := e.comp.aborts.erase p } })
      (by constructor <;> rfl) (finish1_finish ..)

theorem reapQps_finish (d : Dev) : FinishFrame d (reapQps d) := by
  refine foldl_finish (fun e p => ?_) _ _
  split
  · exact .refl e
  · dsimp only
    split
    · exact .refl e
    · have h (b : Bool) : FinishFrame e (match p.2.loc with
          | .host fn 0 => if b then (e.removeQp p.1).updFn fn
              fun f => { f with aqReady := false, aqFault := false } else e.removeQp p.1
          | .host _ _ => e.removeQp p.1
          | .near port => subNear p.2.tenant (portHalf port) (ringBytes p.2.log2Depth) (e.removeQp p.1)) := by
        split
        · split
          · exact (removeQp_finish ..).trans (updFn_finish ..)
          · exact removeQp_finish ..
        · exact removeQp_finish ..
        · exact (removeQp_finish ..).trans (subNear_finish ..)
      cases p.2.admin
      · exact (h false).trans (finish1_finish ..)
      · exact h true

/-- What ending a command can do. -/
theorem finishCmd_finish (n : Nat) (c : Cpl) (d : Dev) : FinishFrame d (finishCmd n c d) :=
  (((finish1_finish ..).trans (reapAborts_finish _)).trans (reapQps_finish _)).trans (reapQps_finish _)

end Sys2Proof.Machine
end

