-- ==== Sys2Proof/Laws/Run.lean ====
section
/-! SUPPORT. How a ready command runs, how a slice's instruction runs, and what one step is: the lemmas that statements
about a single command cite. -/

namespace Sys2Proof.Machine

/-! ## Commands -/

theorem startCmd_ready {s : State} {n op : Nat} {c : Cmd} (h : Ready s n op c) (body : Body) :
    startCmd op body n s.dev = runBody body n [] s.dev := by
  simp [startCmd, h.cmd, h.code, h.phase, h.start, h.checks]

/-- A body that ends at once ends the command; a response of the management path holds 4,032 bytes (R494). -/
theorem runBody_done {n : Nat} {c : Cmd} {d d' : Dev} {body : Body} {cpl : Cpl} (hc : d.cmd? n = some c)
    (hb : body ⟨n, c⟩ [] none d = .ok (.done cpl d')) (hs : cpl.bytes ≤ 4032 ∨ ¬c.inl) :
    runBody body n [] d = finishCmd n cpl d' := by
  cases ho : c.origin with
  | queue qp slot => simp [runBody, hc, ho, hb]
  | mgmt b =>
    have hi : c.inl := fun qp slot h => by simp [ho] at h
    have : ¬cpl.bytes > 4032 := by have := hs.resolve_right (fun h => h hi); omega
    unfold Cpl.bytes at this
    simp [runBody, hc, ho, runInline, hb, this]
  | preset ix =>
    have hi : c.inl := fun qp slot h => by simp [ho] at h
    have : ¬cpl.bytes > 4032 := by have := hs.resolve_right (fun h => h hi); omega
    unfold Cpl.bytes at this
    simp [runBody, hc, ho, runInline, hb, this]

theorem runBody_error {n : Nat} {c : Cmd} {d : Dev} {body : Body} {cpl : Cpl} (hc : d.cmd? n = some c)
    (hb : body ⟨n, c⟩ [] none d = .error cpl) : runBody body n [] d = finishCmd n cpl d := by
  cases ho : c.origin <;> simp [runBody, hc, ho, runInline, hb]

theorem runBody_wait {n : Nat} {c : Cmd} {d d' : Dev} {body : Body} (hc : d.cmd? n = some c)
    (hb : body ⟨n, c⟩ [] none d = .ok (.wait d')) : runBody body n [] d = parkCmd n d' := by
  cases ho : c.origin <;> simp [runBody, hc, ho, runInline, hb]

/-- A ready command whose body ends at once ends in its step. -/
theorem ends_of_body {i : Instr} {s : State} {n op : Nat} {c : Cmd} {body : Body} {cpl : Cpl} {d : Dev}
    (hx : exec i s = onDev (startCmd op body n) s) (h : Ready s n op c)
    (hb : body ⟨n, c⟩ [] none s.dev = .ok (.done cpl d)) (hs : cpl.bytes ≤ 4032 ∨ ¬c.inl) : Ends i n s cpl d := by
  unfold Ends State.after
  rw [hx, onDev_eq h.live.1 h.live.2, startCmd_ready h, runBody_done h.cmd hb hs]

/-- A ready command whose body finds an error ends with it, the device unchanged (R108). -/
theorem ends_of_error {i : Instr} {s : State} {n op : Nat} {c : Cmd} {body : Body} {cpl : Cpl}
    (hx : exec i s = onDev (startCmd op body n) s) (h : Ready s n op c)
    (hb : body ⟨n, c⟩ [] none s.dev = .error cpl) : Ends i n s cpl s.dev := by
  unfold Ends State.after
  rw [hx, onDev_eq h.live.1 h.live.2, startCmd_ready h, runBody_error h.cmd hb]

/-- A ready command whose body waits waits. -/
theorem waits_of_body {i : Instr} {s : State} {n op : Nat} {c : Cmd} {body : Body} {d : Dev}
    (hx : exec i s = onDev (startCmd op body n) s) (h : Ready s n op c)
    (hb : body ⟨n, c⟩ [] none s.dev = .ok (.wait d)) : Waits i n s d := by
  unfold Waits State.after
  rw [hx, onDev_eq h.live.1 h.live.2, startCmd_ready h, runBody_wait h.cmd hb]

/-- A ready command of a host queue pair whose body reads starts its read. -/
theorem reads_of_body {i : Instr} {s : State} {n op : Nat} {c : Cmd} {body : Body} {off len : Nat}
    (hx : exec i s = onDev (startCmd op body n) s) (h : Ready s n op c)
    (hb : body ⟨n, c⟩ [] none s.dev = .ok (.read off len s.dev)) : Reads i n c s off len := by
  intro qp slot q fn db ho hq hl hm
  have hr : s.dev.readBarred n = false := by simp [Dev.readBarred, h.cmd, ho, hq, hl, hm]
  rw [hx, onDev_eq h.live.1 h.live.2, startCmd_ready h]
  simp [State.after, runBody, h.cmd, ho, hb, hr]

/-- A ready inline command whose body reads one piece and then ends. -/
theorem ends_of_inline {i : Instr} {s : State} {n op : Nat} {c : Cmd} {body : Body} {cpl : Cpl} {off len : Nat} {d : Dev}
    (hx : exec i s = onDev (startCmd op body n) s) (h : Ready s n op c) (hi : c.inl)
    (hr : body ⟨n, c⟩ [] none s.dev = .ok (.read off len s.dev)) (hl : off + len ≤ c.input.length)
    (hb : body ⟨n, c⟩ [(c.input.drop off).take len] none s.dev = .ok (.done cpl d)) (hs : cpl.bytes ≤ 4032) :
    Ends i n s cpl d := by
  unfold Ends State.after
  rw [hx, onDev_eq h.live.1 h.live.2, startCmd_ready h]
  have h1 : ¬off + len > c.input.length := by omega
  have h2 : ¬(cpl.data.map fun w => w.data.length).sum > 4032 := by unfold Cpl.bytes at hs; omega
  cases ho : c.origin with
  | queue qp slot => exact absurd ho (hi qp slot)
  | mgmt b => simp [runBody, h.cmd, ho, runInline, hr, h1, hb, h2]
  | preset ix => simp [runBody, h.cmd, ho, runInline, hr, h1, hb, h2]

/-- The same where the command then waits. -/
theorem waits_of_inline {i : Instr} {s : State} {n op : Nat} {c : Cmd} {body : Body} {off len : Nat} {d : Dev}
    (hx : exec i s = onDev (startCmd op body n) s) (h : Ready s n op c) (hi : c.inl)
    (hr : body ⟨n, c⟩ [] none s.dev = .ok (.read off len s.dev)) (hl : off + len ≤ c.input.length)
    (hb : body ⟨n, c⟩ [(c.input.drop off).take len] none s.dev = .ok (.wait d)) : Waits i n s d := by
  unfold Waits State.after
  rw [hx, onDev_eq h.live.1 h.live.2, startCmd_ready h]
  have h1 : ¬off + len > c.input.length := by omega
  cases ho : c.origin with
  | queue qp slot => exact absurd ho (hi qp slot)
  | mgmt b => simp [runBody, h.cmd, ho, runInline, hr, h1, hb]
  | preset ix => simp [runBody, h.cmd, ho, runInline, hr, h1, hb]

/-- Bytes of the data a completion of one piece carries. -/
theorem Cpl.carry_bytes (b : Bytes) (addr : Nat) (data : Bytes) : (Cpl.carry b addr data).bytes = data.length := by
  cases data <;> simp [Cpl.carry, Cpl.bytes]

theorem Cpl.ok_bytes (b : Bytes) : (Cpl.ok b).bytes = 0 := by simp [Cpl.ok, Cpl.bytes]

theorem checkPath_ok {a b : Nat} {d : Dev} (h : d.pwr.sable = false ∨ a = b) : checkPath a b d = .ok () := by
  rcases h with h | h <;> simp [checkPath, h]

/-- An object that is there is granted as its own grants say. -/
theorem granted_of {d : Dev} {h t ver : Nat} {o : Obj} (ho : d.obj? h = some o) (hl : o.lives = true)
    (hc : o.covers t ver = true) : d.granted t h ver = true := by
  have hm : (h, o) ∈ d.objs.objs := Map.mem_of_get? ho
  simp only [Dev.granted, List.any_eq_true]
  exact ⟨(h, o), hm, by simp [hl, hc]⟩

theorem objOf_sees {s : State} {n op ver : Nat} {c : Cmd} {o : Obj} (h : Ready s n op c) (w : Sees s c ver o) :
    objOf ⟨n, c⟩ ver s.dev = .ok o := by
  have hl := h.label
  have hp : checkPath c.half o.half s.dev = .ok () := checkPath_ok w.path
  have hm : ¬(hTenant c.entry.ha ≠ c.tenant ∧ (!s.dev.granted c.tenant c.entry.ha ver) = true) := by
    rcases w.may with h | h
    · simp [h]
    · simp [granted_of w.obj w.lives h]
  unfold objOf checkHandle
  simp only [Ctx.e, Ctx.t, Ctx.half, w.obj, w.lives, if_neg hm]
  simp [hl, hp, bind, Except.bind]

theorem Owns.sees {s : State} {c : Cmd} {o : Obj} (w : Owns s c o) (ver : Nat) : Sees s c ver o :=
  ⟨w.obj, w.lives, .inl w.names, w.path⟩

theorem ownObj_owns {s : State} {n op : Nat} {c : Cmd} {o : Obj} (h : Ready s n op c) (w : Owns s c o) (ver : Nat) :
    ownObj ⟨n, c⟩ ver s.dev = .ok o := by
  have := objOf_sees h (w.sees ver)
  unfold ownObj ownOf
  simp [this, Ctx.t, w.mine, need, bind, Except.bind]

/-! ## Slices -/

theorem fetch_stands {s : State} {op n i : Nat} {x : ICtx} (h : Stands s op n i x) :
    s.dev.fetch op n i = some (.ok x) := by
  obtain ⟨core, hr⟩ := h.runs
  obtain ⟨k, hk, hw, hh⟩ := h.kernel
  obtain ⟨hn, hi⟩ := h.names
  have hsl := h.slice
  have hrun := h.run
  have hc := h.code
  obtain ⟨xn, xi, xr, xs, xw, xh⟩ := x
  simp only at *
  subst hn hi hh
  simp [Dev.fetch, hrun, hsl, hk, hr, hw, hc]

theorem instr_stands {s : State} {op n i : Nat} {x : ICtx} (h : Stands s op n i x)
    (f : ICtx → Dev → Except TrapInfo Dev) :
    instr op n i f s.dev = match f x s.dev with
      | .ok d => d
      | .error t => takeTrap n i x.r x.s x.w t s.dev := by
  have he := fetch_stands h
  unfold instr
  generalize s.dev.fetch op n i = r at he ⊢
  subst he
  rfl

/-- An instruction that acts on its slice alone: the next state is the slice's, and nothing else changes. -/
theorem pureInstr_stands {s : State} {op n i : Nat} {x : ICtx} (h : Stands s op n i x) (f : ICtx → Slice → Slice) :
    onDev (pureInstr op n i f) s = .next (s.stepped n i (f x)) := by
  have he : pureInstr op n i f s.dev = x.advance (f x) s.dev := by
    unfold pureInstr
    rw [instr_stands h]
  rw [onDev_plain h.live.1 h.live.2] <;> rw [he] <;> try simp [ICtx.advance]
  simp [State.stepped, State.withDev, h.names.1, h.names.2]

/-- One that executes wholly if lane 0 is active. -/
theorem scalarInstr_stands {s : State} {op n i : Nat} {x : ICtx} (h : Stands s op n i x) (hl : x.lane 0 = true)
    (f : ICtx → Slice → Slice) : onDev (scalarInstr op n i f) s = .next (s.stepped n i (f x)) := by
  unfold scalarInstr
  rw [pureInstr_stands h]
  simp [hl]

/-- And does nothing but move on otherwise (R272). -/
theorem scalarInstr_off {s : State} {op n i : Nat} {x : ICtx} (h : Stands s op n i x) (hl : x.lane 0 = false)
    (f : ICtx → Slice → Slice) : onDev (scalarInstr op n i f) s = .next (s.stepped n i id) := by
  unfold scalarInstr
  rw [pureInstr_stands h]
  simp only [hl]
  rfl

/-- An instruction that executes wholly if lane 0 is active, where it is and nothing traps. -/
theorem wholeInstr_on {s : State} {op n i : Nat} {x : ICtx} (h : Stands s op n i x) (hl : x.lane 0 = true)
    {f : ICtx → Dev → Except TrapInfo Dev} {d : Dev} (hf : f x s.dev = .ok d) : wholeInstr op n i f s.dev = d := by
  unfold wholeInstr
  rw [instr_stands h]
  simp [hl, hf]

theorem wholeInstr_trap {s : State} {op n i : Nat} {x : ICtx} (h : Stands s op n i x) (hl : x.lane 0 = true)
    {f : ICtx → Dev → Except TrapInfo Dev} {t : TrapInfo} (hf : f x s.dev = .error t) :
    wholeInstr op n i f s.dev = takeTrap n i x.r x.s x.w t s.dev := by
  unfold wholeInstr
  rw [instr_stands h]
  simp [hl, hf]

/-- A load or store with an active lane, where nothing traps. -/
theorem memInstr_on {s : State} {op n i : Nat} {x : ICtx} (h : Stands s op n i x) (hm : x.mask ≠ 0)
    {f : ICtx → Dev → Except TrapInfo Dev} {d : Dev} (hf : f x s.dev = .ok d) : memInstr op n i f s.dev = d := by
  have hm' : ¬x.mask = 0#64 := hm
  unfold memInstr
  rw [instr_stands h]
  simp [ICtx.idle, hm', hf]

theorem memInstr_trap {s : State} {op n i : Nat} {x : ICtx} (h : Stands s op n i x) (hm : x.mask ≠ 0)
    {f : ICtx → Dev → Except TrapInfo Dev} {t : TrapInfo} (hf : f x s.dev = .error t) :
    memInstr op n i f s.dev = takeTrap n i x.r x.s x.w t s.dev := by
  have hm' : ¬x.mask = 0#64 := hm
  unfold memInstr
  rw [instr_stands h]
  simp [ICtx.idle, hm', hf]

/-- A slice that moves on over a device whose power, ports, controllers and oversubscription are as they were. -/
theorem onDev_advance {s : State} {op n i : Nat} {x : ICtx} (h : Stands s op n i x) {f : Dev → Dev} {g : Slice → Slice}
    {d : Dev} (hd : f s.dev = x.advance g d) (hp : d.pwr = s.dev.pwr) (hl : d.ports = s.dev.ports)
    (hh : d.q.ports = s.dev.q.ports) (hm : d.mem = s.dev.mem) (hq : d.qos.oversub = s.dev.qos.oversub) :
    onDev f s = .next ((s.withDev d).stepped n i g) := by
  rw [onDev_plain h.live.1 h.live.2] <;> rw [hd]
  · simp [State.stepped, State.withDev, ICtx.advance, h.names.1, h.names.2]
  all_goals simp [ICtx.advance, hp, hl, hh, hm, hq]

/-- An instruction that executes wholly or not at all moves on where lane 0 is not active (R272). -/
theorem wholeInstr_off {s : State} {op n i : Nat} {x : ICtx} (h : Stands s op n i x) (hl : x.lane 0 = false)
    (f : ICtx → Dev → Except TrapInfo Dev) : onDev (wholeInstr op n i f) s = .next (s.stepped n i id) := by
  refine onDev_advance h (f := wholeInstr op n i f) (d := s.dev) ?_ rfl rfl rfl rfl rfl
  unfold wholeInstr
  rw [instr_stands h]
  simp [hl]

/-! ## Events -/

/-- An event of the data path has its own effect while the data path runs. -/
theorem does_of_onDev {i : Instr} {s : State} {f : Dev → Dev} {d : Dev} (he : exec i s = onDev f s) (h : s.live)
    (hf : f s.dev = d) : Does i s d := by
  simp [Does, he, onDev, onPort, onMgmt, h.1, h.2, State.after, hf]

/-- What a host sends has its own effect while its link is up and the data path runs. -/
theorem does_of_onHost {i : Instr} {s : State} {fn : Nat} {f : Dev → Dev} {d : Dev} (he : exec i s = onHost fn f s)
    (h : s.live) (hl : (s.dev.hport (fn / 256)).linkUp = true) (hf : f s.dev = d) : Does i s d :=
  does_of_onDev (by rw [he, onHost, if_pos hl]) h hf

/-- An event of the ports has its own effect while boundary scan does not run. -/
theorem does_of_onPort {i : Instr} {s : State} {f : Dev → Dev} {d : Dev} (he : exec i s = onPort f s)
    (h : s.dev.pwr.bscan = false) (hf : f s.dev = d) : Does i s d := by
  simp [Does, he, onPort, onMgmt, h, State.after, hf]

/-- An event of the management path always has its own effect. -/
theorem does_of_onMgmt {i : Instr} {s : State} {f : Dev → Dev} {d : Dev} (he : exec i s = onMgmt f s)
    (hf : f s.dev = d) : Does i s d := by
  simp [Does, he, onMgmt, State.after, hf]

end Sys2Proof.Machine
end

