-- ==== Sys2Proof/Laws/Events.lean ====
section
/-! SUPPORT. Operations that messages and accesses share: what they can change. -/

namespace Sys2Proof.Machine

/-- A count changes the counters alone. -/
theorem bump_cnt (scope inst idx n : Nat) (d : Dev) : ∃ c, bump scope inst idx n d = { d with cnt := c } := by
  unfold bump
  split
  · exact ⟨d.cnt, rfl⟩
  · exact ⟨_, rfl⟩

/-- Bytes accounted to a regulator change the counters and the regulators alone. -/
theorem grantBytes_frame (label res inst n : Nat) (d : Dev) :
    ∃ c q, grantBytes label res inst n d = { d with cnt := c, qos := q } := by
  have same : ∃ c q, d = { d with cnt := c, qos := q } := ⟨d.cnt, d.qos, rfl⟩
  simp only [grantBytes]
  split
  · exact same
  · split
    · exact same
    · rename_i g _ _
      generalize (if (g.cls == 3 && _) = true then n else 0) = k
      obtain ⟨c, hc⟩ := bump_cnt 6 (label % 1024) 4 k d
      obtain ⟨c', hc'⟩ := bump_cnt 6 (label % 1024) 1 n { d with cnt := c }
      rw [hc, hc']
      exact ⟨_, _, rfl⟩

/-- No bytes are accounted to nobody. -/
theorem grantBytes_zero (label res inst : Nat) (d : Dev) : grantBytes label res inst 0 d = d := by
  simp only [grantBytes]
  split
  · rfl
  · simp

/-- A whole message of a row's code is handed to its port. -/
theorem msgRow_whole {code port : Nat} {m : Bytes} {d : Dev} (h : msgLen m = some m.length) (hc : fld m 0 0 8 = code) :
    msgRow code port m d = portMsg port m d := by
  simp [msgRow, h, hc]

end Sys2Proof.Machine
end

