-- ==== Sys2Proof/Laws/Memory.lean ====
section
/-! SUPPORT. What an access to the memories can change: controllers, counters, regulators and the trace, and nothing of what
is stored, of the reads and writes that wait or of the faults injected. -/

namespace Sys2Proof.Machine

/-- A device that differs from another only in what an access to a controller may change. -/
def Touched (d e : Dev) : Prop :=
  ∃ c q m n t, e = { d with
    cnt := c, qos := q, mem := { d.mem with ctrls := m, nearQ := n }, integ := { d.integ with trace := t } }

theorem Touched.refl (d : Dev) : Touched d d := ⟨d.cnt, d.qos, d.mem.ctrls, d.mem.nearQ, d.integ.trace, rfl⟩

theorem Touched.trans {a b c : Dev} (h : Touched a b) (k : Touched b c) : Touched a c := by
  obtain ⟨c1, q1, m1, n1, t1, rfl⟩ := h
  obtain ⟨c2, q2, m2, n2, t2, rfl⟩ := k
  exact ⟨c2, q2, m2, n2, t2, rfl⟩

theorem bump_touched (a b i n : Nat) (d : Dev) : Touched d (bump a b i n d) := by
  obtain ⟨c, h⟩ := bump_cnt a b i n d
  exact ⟨c, d.qos, d.mem.ctrls, d.mem.nearQ, d.integ.trace, h⟩

theorem trace_touched (source event : Nat) (t : Option Nat) (ident : Nat) (b : Bytes) (d : Dev) :
    Touched d (trace source event t ident b d) := by
  obtain ⟨x, h⟩ := trace_spec source event t ident b d
  exact ⟨d.cnt, d.qos, d.mem.ctrls, d.mem.nearQ, x, h⟩

theorem updCtrl_touched (n : Nat) (f : Ctrl → Ctrl) (d : Dev) : Touched d (d.updCtrl n f) := ⟨_, _, _, _, _, rfl⟩

theorem updQos_touched (f : Qos → Qos) (d : Dev) : Touched d (d.updQos f) := ⟨_, _, _, _, _, rfl⟩

theorem foldl_touched {α : Type} {f : Dev → α → Dev} (hf : ∀ d a, Touched d (f d a)) (l : List α) (d : Dev) :
    Touched d (l.foldl f d) :=
  foldl_keeps (P := Touched d) (fun b a h => h.trans (hf b a)) l (.refl d)

theorem ite_touched {p : Prop} [Decidable p] {d e f : Dev} (h : Touched d e) (k : Touched d f) :
    Touched d (if p then e else f) := by
  split <;> assumption

/-- The effective guarantees recomputed. -/
theorem requalify_touched (d : Dev) : Touched d (requalify d) :=
  (updQos_touched ..).trans ((foldl_touched (fun _ _ => trace_touched ..) _ _).trans
    (foldl_touched (fun _ _ => trace_touched ..) _ _))

/-- A request put into a near stack's queues. -/
theorem nearAccess_touched (s : Nat) (ident : List Nat) (bytes label : Nat) (write : Bool) (d : Dev) :
    Touched d (nearAccess s ident bytes label write d) := ⟨_, _, _, _, _, rfl⟩

@[simp] theorem nearAccess_ctrl (s : Nat) (ident : List Nat) (bytes label : Nat) (write : Bool) (d : Dev) (n : Nat) :
    (nearAccess s ident bytes label write d).ctrl n = d.ctrl n := rfl

/-- One entry issued. -/
theorem issueLine_touched (a : Access) (next : Option Nat) (d : Dev) : Touched d (issueLine a next d) := by
  have cut (n bank : Nat) (d : Dev) : Touched d (disturbed n bank d) := by
    unfold disturbed
    dsimp only
    split
    · exact (bump_touched ..).trans (bump_touched ..)
    · exact ((bump_touched ..).trans (bump_touched ..)).trans
        (((updQos_touched ..).trans (requalify_touched _)).trans (trace_touched ..))
  unfold issueLine
  dsimp only
  have plain {e : Dev} (h : Touched d e) (i j k l m : Nat) (n : Nat) :
      Touched d (bumpCtl a.ctl i j (bumpCtl a.ctl 8 k (bumpCtl a.ctl 3 l (bumpCtl a.ctl m n e)))) :=
    h.trans ((bump_touched ..).trans ((bump_touched ..).trans ((bump_touched ..).trans (bump_touched ..))))
  exact ite_touched ((plain (updCtrl_touched ..) _ _ _ _ _ _).trans (cut ..)) (plain (updCtrl_touched ..) _ _ _ _ _ _)

/-- Accesses issued. -/
theorem issueAll_touched (more l : List Access) (d : Dev) : Touched d (issueAll more l d) := by
  induction l generalizing d with
  | nil => exact .refl d
  | cons a l ih => exact (ite_touched (issueLine_touched ..) (.refl d)).trans (ih _)

/-- Lines of a group accessed. -/
theorem issueLines_touched (g label : Nat) (write : Bool) (ls : List (Nat × Nat)) (d : Dev) :
    Touched d (issueLines g label write ls d) := issueAll_touched ..

/-- What waits at the near stacks issued. -/
theorem nearTick_touched (d : Dev) : Touched d (nearTick d) :=
  Touched.trans ⟨_, _, _, _, _, rfl⟩ (issueAll_touched ..)

/-- A request of a label served at a resource. -/
theorem serveAt_touched (res inst unit q bytes : Nat) (d : Dev) : Touched d (serveAt res inst unit q bytes d) := by
  obtain ⟨c, x, h⟩ := grantBytes_frame ((d.updQos fun y => { y with
    served := Map.set (turnKey res unit ((d.stand q res inst).getD 0)) (d.label q % 1024) y.served }).label q) res inst
      bytes (d.updQos fun y => { y with
        served := Map.set (turnKey res unit ((d.stand q res inst).getD 0)) (d.label q % 1024) y.served })
  exact ⟨c, x, d.mem.ctrls, d.mem.nearQ, d.integ.trace, h⟩

/-- What stays where only an access was made: what is stored and waits, the faults injected, and whether a tile can be
read. -/
theorem Touched.keeps {d e : Dev} (h : Touched d e) : e.objs = d.objs ∧ e.strs = d.strs ∧ e.tiers = d.tiers ∧ e.pwr = d.pwr ∧
    e.q = d.q ∧ e.comp = d.comp ∧ e.reds = d.reds ∧ e.cxl = d.cxl ∧ e.mgmt = d.mgmt ∧ e.out = d.out ∧ e.freeN = d.freeN ∧
    e.integ.injects = d.integ.injects ∧ e.integ.log = d.integ.log ∧ e.mem.parity = d.mem.parity ∧
    ∀ s, e.unreadable s = d.unreadable s := by
  obtain ⟨c, q, m, n, t, rfl⟩ := h
  exact ⟨rfl, rfl, rfl, rfl, rfl, rfl, rfl, rfl, rfl, rfl, rfl, rfl, rfl, rfl, fun _ => rfl⟩

end Sys2Proof.Machine
end

