-- ==== Sys2Proof/Tests/Slice0.lean ====
section
/-! SUPPORT. Tests of the model: ill-formed commands refused, values worked out by hand from the spec, and for every
statement with premises a state and operands that meet them. -/

namespace Sys2Proof.Tests

open Sys2Proof Sys2Proof.Machine

set_option Elab.async false

/-! ## Ill-formed commands (one for each check of `Instr.wf`) -/

theorem test_wf_queue : (Instr.submissionEntryTake 32768 0).wf = false ∧ (Instr.coalesceTimerExpiry 32768).wf = false ∧
    (Instr.submissionEntryTake 32767 0).wf = true := by decide

theorem test_wf_function : [Instr.doorbellWrite 1024 0 (.tail 0), .doorbellWrite 0 8192 (.tail 0), .irqCauseWrite 1024 0,
    .irqMaskWrite 1024 0, .aqEnable 1024 0, .aqDisable 1024 0, .registerWrite 1024 .bar0 0 4 0,
    .registerWrite 0 .bar0 0 3 0, .registerWrite 0 .bar0 2 4 0, .flr 1024, .flrComplete 1024, .busMasterEnableClear 1024,
    .busMasterEnableSet 1024, .d3hotEntry 1024, .d0Return 1024, .dmaCompletion 1024 0 .abort,
    .completionTimeout 1024 (.tag 0), .tagQuarantineEnd 1024 0, .atsInvalidation 1024 0 0].all (·.wf == false) = true := by
  decide

theorem test_wf_host_port : [Instr.hdmCommit 4 0, .hdmDecommit 4 0, .perstNAssert 4, .perstNDeassert 4, .hotReset 4,
    .linkDown 4, .hostLinkUp 4, .aspmL1Entry 4, .l0pNarrow 4, .l0pRestore 4].all (·.wf == false) = true := by decide

theorem test_wf_coherent : [Instr.cxlMemRead 4 0 .owned, .cxlMemRead 0 (2 ^ 52) .owned, .cxlMemRead 0 1 .owned,
    .cxlMemWrite 4 0 (zeros 64) 0 false, .cxlMemWrite 0 0 (zeros 63) 0 false, .cxlMemWrite 0 32 (zeros 64) 0 false,
    .writeBack 0 0 (zeros 65) false true, .writeBack 4 0 (zeros 64) false true, .writeBack 0 8 (zeros 64) false true,
    .cleanEvict 4 0, .cleanEvict 0 63, .snoopResponse 4 0 .invalid, .snoopResponse 0 65 .invalid, .recallTimeout 4 0,
    .recallTimeout 0 (2 ^ 53)].all (·.wf == false) = true := by decide

theorem test_wf_management : [Instr.managementCommand 12 0 [], .pldmRequest 12 [] .other, .spdmRequest 12 [] .other].all
    (·.wf == false) = true := by decide

theorem test_wf_message : [Instr.cmd 56 [], .cmd 0 [0], .tileRdReq 56 [], .tileRdReq 0 [0], .tileWr 56 [], .tileWr 0 [0],
    .reduceContrib 56 [], .reduceContrib 0 [0], .execTokens 56 [], .execTokens 0 [0], .signalMsg 56 [], .signalMsg 0 [0],
    .credit 56 [], .credit 0 [0], .cmdchTileData 56 [], .cmdchTileData 0 [0], .commandChannelTimeout 56 0].all
    (·.wf == false) = true := by decide

/-- A received flit of zeros, `k` bytes long. -/
def flitOfLen (k : Nat) : RxFlit := { data := zeros k, corrected := 0, badCodeword := false, lost := 0, buffer := .clean }

theorem test_wf_flit : [Instr.payloadFlit 56 (flitOfLen 256), .payloadFlit 0 (flitOfLen 255), .idleFlit 0 (flitOfLen 257),
    .nakFlit 0 (flitOfLen 0), .identExchange 0 (flitOfLen 1), .quietFlit 0 (flitOfLen 2), .idleFlit 56 (flitOfLen 256),
    .nakFlit 56 (flitOfLen 256), .identExchange 56 (flitOfLen 256), .quietFlit 56 (flitOfLen 256)].all
    (·.wf == false) = true := by decide +kernel

theorem test_wf_link : [Instr.replayTimeout 56, .nakOutstandingExpiry 56, .ackSendDue 56, .quietTimeExpiry 56, .linkWake 56,
    .linkDetectLock 56 0, .equalisationComplete 56 0 0, .codewordLock 56, .alignTimeout 56 0, .lossOfSignal 56,
    .powerGroupOn 4, .linkLoss 56, .partnerEntersTraining 56].all (·.wf == false) = true := by decide

theorem test_wf_stream : [Instr.streamContextRestored ⟨2 ^ 32, true⟩, .hardwareContextAvailable (2 ^ 32), .tileReady (2 ^ 32) 0,
    .streamClosed (2 ^ 32)].all (·.wf == false) = true := by decide

/-- The result of a training at a rate, with `k` lines that no setting passes. -/
def trainAt (rate k : Nat) : TrainResult :=
  { ok := true, present := true, rate := rate, sizeGib := 64, ranks := 1, sweeps := List.replicate k [], repaired := 0 }

theorem test_wf_start : [Instr.nearTierTrainingDone 6 (trainAt 0 0), .nearTierTrainingDone 0 (trainAt 3 0),
    .farChannelTrainingDone 32 (trainAt 0 0), .farChannelTrainingDone 0 (trainAt 0 65),
    .retrainingDone (.far 0) (trainAt 3 0)].all (·.wf == false) = true := by decide

theorem test_wf_power : [Instr.thermalTrip 15, .sensorSample 65536 0, .thermalStepReturn 2, .refclkLoss 12, .railFault 1,
    .railFault 16, .vrTimeout 1, .vrTimeout 16, .regulatorPowerGood 1, .regulatorPowerGood 16, .domainPowerGood 40,
    .domainPowerGoodTimeout 40, .domainSwitchOff 40, .clusterIdleHoldExpiry 1, .clusterIdleHoldExpiry 18, .pllLock 1,
    .pllLock 18].all (·.wf == false) = true := by decide

theorem test_wf_memory : [Instr.farSelfRefreshIdle 32, .nearSelfRefreshIdle 6, .selfRefreshExit (.far 32),
    .selfRefreshExit (.near 6), .parityAlert (.far 32), .dqsTracking 32, .retrainingDone (.near 6) (trainAt 0 0),
    .refreshDue ⟨.near 6, 0⟩, .rowIdleClose ⟨.far 32, 0⟩, .sealAsWrittenWaitExpiry 2, .stripeWriteDone 4 0, .reclaimStripe 4 0,
    .rebuildTile 4, .rebuildResume 4, .windowBoundary 0, .windowBoundary 1024, .queueLevelReport 38 0,
    .queueLevelReport 0 65, .panic 38, .drainHoldLimit 38, .bridgeRetrainingDone 6 true].all (·.wf == false) = true := by
  decide

theorem test_wf_open : (Instr.nop 0).wf = true ∧ (Instr.sadd 0 0).wf = true ∧ Instr.aoPowerGood.wf = true := by decide

/-! ## States for the witnesses -/

/-- A state over a device, with nothing waiting. -/
def over' (d : Dev) : State := { pending := [], hdm := State.reset.hdm, dev := d }

/-- The device in service mode, started. -/
def serv : Dev := Dev.reset.updPwr fun p => { p with mode := .service, step := 8 }

/-- An entry with values at byte and bit offsets. -/
def ent (l : List (Nat × Nat)) : Entry := BitVec.ofNat 512 (l.foldl (fun a p => a + p.2 * 2 ^ (8 * p.1)) 0)

/-- A taken command of tenant `t` over the management path. -/
def cmdOf (e : Entry) (t : Nat) (data : Bytes := []) : Cmd :=
  { origin := .mgmt 4, entry := e, tenant := t, half := 0, started := true, dup := false, phase := .taken, tick := 0,
    input := data, ends := none, jobs := [], tiles := [] }

/-- A device with one command, number 0. -/
def withCmd (c : Cmd) (d : Dev) : State := over' { d with q := { d.q with cmds := [(0, c)], nextCmd := 1 } }

/-- Whether a command is ready to run. -/
def readyNow (s : State) (n op : Nat) : Bool :=
  match s.dev.cmd? n with
  | some c => !s.dev.pwr.retention && !s.dev.pwr.bscan && c.entry.op == op && c.phase == .taken && c.started &&
      (match precheck ⟨n, c⟩ s.dev with | .ok _ => true | .error _ => false) &&
      (match checkQos ⟨n, c⟩ s.dev with | .ok _ => true | .error _ => false)
  | none => false

theorem ready_of {s : State} {n op : Nat} {c : Cmd} (hc : s.dev.cmd? n = some c) (h : readyNow s n op = true) :
    Ready s n op c := by
  simp only [readyNow, hc, Bool.and_eq_true, Bool.not_eq_true', beq_iff_eq] at h
  obtain ⟨⟨⟨⟨⟨⟨h1, h2⟩, h3⟩, h4⟩, h5⟩, h6⟩, h7⟩ := h
  refine ⟨⟨h1, h2⟩, hc, h3, h4, h5, ?_, ?_⟩
  · revert h6; cases precheck ⟨n, c⟩ s.dev <;> simp
  · revert h7; cases checkQos ⟨n, c⟩ s.dev <;> simp

/-- A device with one run, number 0, of the kernel 7 whose one word is `w`, and the run's slice 0. -/
def stage (d : Dev) (r : Run) (sl : Slice) (h : Bytes) (w : BitVec 64) : State :=
  over' { d with comp := { d.comp with
    runs := [(0, { r with kernel := 7, slices := [(0, sl)] })]
    kernels := [(7, { tenant := 0, header := h, code := [w], charge := 0, lib := 0, copies := [] })] } }

/-- What the instruction sees there. -/
def seen (r : Run) (sl : Slice) (h : Bytes) (w : BitVec 64) : ICtx :=
  ⟨0, 0, { r with kernel := 7, slices := [(0, sl)] }, sl, w, h⟩

theorem stage_stands {d : Dev} {r : Run} {sl : Slice} {h : Bytes} {w : BitVec 64} {core op : Nat}
    (hl : d.pwr.retention = false ∧ d.pwr.bscan = false) (hs : sl.st = .running core) (hp : sl.pc = 0)
    (hw : wOp w = op) : Stands (stage d r sl h w) op 0 0 (seen r sl h w) :=
  ⟨hl, rfl, rfl, ⟨core, hs⟩, ⟨_, rfl, by rw [show (seen r sl h w).s.pc = 0 from hp]; rfl, rfl⟩, hw, ⟨rfl, rfl⟩⟩

/-- A slice at its first word, with nothing in its registers. -/
def sl0 : Slice :=
  { st := .running 0, phase := 0, x := 0, y := 0, pc := 0, v := List.replicate 32 (List.replicate 64 0)
    s := List.replicate 16 0, p := List.replicate 8 0, t := List.replicate 8 (List.replicate 1024 0), scratch := []
    bufs := [], started := 0, core := 0, since := 0, holdFrom := none }

/-- A run of one phase of two slices, of tenant `t`. -/
def run0 (t : Nat) : Run :=
  { by' := .cmd 0, qp := 0, tag := 0, tenant := t, fn := none, kernel := 7, unit := 0, cores := [0], args := []
    params := [], seed := 0, gx := 2, gy := 1, qos := 0, half := 0, deadline := none, timeout := none, sealOut := false
    grids := [(2, 1)], slices := [], phase := 0, nextIdx := 1, doneN := 0, preempts := 0, written := [], windows := []
    accs := [], staged := [], jobs := [], since := 0, parts := [], tcCh := 0, ending := false, sealIx := 0
    degraded := false, coreTime := 0 }

/-- An instruction word: opcode, modifier, destination, sources, predicate negation and immediate. -/
def word (op m d a b c : Nat) (neg : Bool) (imm : Nat) : BitVec 64 :=
  BitVec.ofNat 64 (op * 2 ^ 56 + m * 2 ^ 52 + d * 2 ^ 47 + a * 2 ^ 42 + b * 2 ^ 37 + c * 2 ^ 32 + b2n neg * 2 ^ 28 + imm)

/-- A command of the admin queue of function 0. -/
def cmdQ (e : Entry) (t : Nat) : Cmd := { cmdOf e t with origin := .queue 0 0 }

/-- A device with that command and the queue pairs 0, the admin queue of function 0, and 1, a queue of its doorbell 1. -/
def withCmdQ (c : Cmd) (d : Dev) : State := over' { d with q := { d.q with
  cmds := [(0, c)], nextCmd := 1
  qps := [(0, QP.fresh (.host 0 0) true 0 4 255 0 1 0 0x1000 0x2000 0),
          (1, QP.fresh (.host 0 1) false 0 4 1 0 1 0 0x3000 0x4000 0)] } }

/-- Whether a result is this one. -/
def okIs {ε α : Type} [DecidableEq α] (r : Except ε α) (v : α) : Bool :=
  match r with
  | .ok a => decide (a = v)
  | .error _ => false

theorem ok_of {ε α : Type} [DecidableEq α] {r : Except ε α} {v : α} (h : okIs r v = true) : r = .ok v := by
  cases r with
  | error c => simp [okIs] at h
  | ok a => simp only [okIs, decide_eq_true_eq] at h; rw [h]

/-- Whether there is a result. -/
def isOk {ε α : Type} (r : Except ε α) : Bool :=
  match r with
  | .ok _ => true
  | .error _ => false

theorem some_ok {ε α : Type} {r : Except ε α} (h : isOk r = true) : ∃ v, r = .ok v := by
  cases r with
  | error c => simp [isOk] at h
  | ok a => exact ⟨a, rfl⟩

/-- Whether a command's body ends its command at once with data that fits. -/
def isDone (r : Except Cpl Res) : Bool :=
  match r with
  | .ok (.done c _) => decide (c.bytes ≤ 4032)
  | _ => false

theorem done_of {r : Except Cpl Res} (h : isDone r = true) : ∃ c d, r = .ok (.done c d) ∧ c.bytes ≤ 4032 := by
  unfold isDone at h
  split at h
  · rename_i c d; exact ⟨c, d, rfl, by simpa using h⟩
  · cases h

/-- Whether a command's body waits. -/
def isWait (r : Except Cpl Res) : Bool :=
  match r with
  | .ok (.wait _) => true
  | _ => false

theorem wait_of {r : Except Cpl Res} (h : isWait r = true) : ∃ d, r = .ok (.wait d) := by
  unfold isWait at h
  split at h
  · rename_i d; exact ⟨d, rfl⟩
  · cases h

theorem some_of {α : Type} {o : Option α} (h : o.isSome = true) : ∃ a, o = some a := Option.isSome_iff_exists.mp h

/-- Whether there is a result of that kind. -/
def someSat {α : Type} (o : Option α) (p : α → Prop) [DecidablePred p] : Bool :=
  match o with
  | some a => decide (p a)
  | none => false

theorem some_sat {α : Type} {o : Option α} {p : α → Prop} [DecidablePred p] (h : someSat o p = true) :
    ∃ a, o = some a ∧ p a := by
  cases o with
  | none => simp [someSat] at h
  | some a => exact ⟨a, rfl, of_decide_eq_true h⟩

/-- Whether a command's body ends its command at once with nothing to answer. -/
def isDoneOk (r : Except Cpl Res) : Bool :=
  match r with
  | .ok (.done c _) => decide (c = Cpl.ok [])
  | _ => false

theorem done_ok {r : Except Cpl Res} (h : isDoneOk r = true) : ∃ d, r = .ok (.done (Cpl.ok []) d) := by
  unfold isDoneOk at h
  split at h
  · rename_i c d; exact ⟨d, by rw [of_decide_eq_true h]⟩
  · cases h

theorem leBytes_length (n v : Nat) : (leBytes n v).length = n := by
  induction n generalizing v with
  | zero => rfl
  | succ n ih => simp [leBytes, ih]

/-- The report of `ATTEST` fits a response of the management path, with slots of 64 bytes. -/
theorem report_fits (d : Dev) (nonce : Bytes) (hn : nonce.length ≤ 32)
    (hs : (((List.range 8).map fun k => d.mgmt.slots.getD k (zeros 64)).flatten).length ≤ 512) :
    (d.report nonce).length ≤ 4032 := by
  have h1 : (ascii "SPXATT01").length = 8 := by decide
  have h2 : idKeyDigest.length ≤ 64 := by decide +kernel
  have h3 : ∀ k, (zeros k).length = k := by simp [zeros]
  simp only [Dev.report, List.length_append, leBytes_length, h3]
  omega

/-! ## Instructions of kernels -/

theorem stands_at {w : BitVec 64} {op : Nat} (hw : wOp w = op) :
    Stands (stage serv (run0 0) sl0 [] w) op 0 0 (seen (run0 0) sl0 [] w) := stage_stands ⟨rfl, rfl⟩ rfl rfl hw

theorem lane0_on (op m d a b c imm : Nat) (h : wPred (word op m d a b c false imm) = 0)
    (h2 : wNeg (word op m d a b c false imm) = false) :
    (seen (run0 0) sl0 [] (word op m d a b c false imm)).lane 0 = true := by
  simp only [ICtx.lane, ICtx.mask, seen, h, h2, Slice.pred]
  decide

/-- Every opcode of the scalar, vector, predicate, reduction, matrix and conversion statements, each at its lowest
operands. -/
theorem test_witness_opcodes : ∀ op ∈ [0x00, 0x01, 0x02, 0x03] ++ fromTo 0x10 12 ++ fromTo 0x20 10 ++ [0x30, 0x31] ++
    fromTo 0x40 12 ++ fromTo 0x50 6 ++ fromTo 0x60 15 ++ fromTo 0x70 7 ++ fromTo 0x80 4 ++ fromTo 0x90 4 ++
    fromTo 0xA0 9 ++ [0xB0, 0xF0, 0xF1, 0xF2],
    Stands (stage serv (run0 0) sl0 [] (word op 0 0 0 0 0 false 0)) op 0 0
      (seen (run0 0) sl0 [] (word op 0 0 0 0 0 false 0)) ∧
    (seen (run0 0) sl0 [] (word op 0 0 0 0 0 false 0)).lane 0 = true := by
  have h : ∀ op ∈ [0x00, 0x01, 0x02, 0x03] ++ fromTo 0x10 12 ++ fromTo 0x20 10 ++ [0x30, 0x31] ++
      fromTo 0x40 12 ++ fromTo 0x50 6 ++ fromTo 0x60 15 ++ fromTo 0x70 7 ++ fromTo 0x80 4 ++ fromTo 0x90 4 ++
      fromTo 0xA0 9 ++ [0xB0, 0xF0, 0xF1, 0xF2],
      wOp (word op 0 0 0 0 0 false 0) = op ∧ wPred (word op 0 0 0 0 0 false 0) = 0 ∧
        wNeg (word op 0 0 0 0 0 false 0) = false := by decide
  intro op ho
  obtain ⟨h1, h2, h3⟩ := h op ho
  exact ⟨stands_at h1, lane0_on _ _ _ _ _ _ _ h2 h3⟩

/-- The clauses that read the modifier or the immediate: `SMOVI` in both forms, `SRD` of each selector, `PLOG`, `PSET`, each
as (opcode, modifier, destination, immediate). -/
def forms : List (Nat × Nat × Nat × Nat) :=
  [(0x10, 0, 1, 0xffffff), (0x10, 1, 1, 0), (0x1B, 0, 0, 0), (0x1B, 0, 0, 1), (0x1B, 0, 0, 2), (0x1B, 0, 0, 5), (0x1B, 0, 0, 6), (0x1B, 0, 0, 7), (0x1B, 0, 0, 8), (0x73, 0, 1, 0), (0x73, 1, 1, 0), (0x73, 2, 1, 0), (0x73, 3, 1, 0), (0x74, 0, 1, 0), (0x74, 1, 1, 0), (0x74, 2, 1, 64)]

/-- The word of a form. -/
def formWord (f : Nat × Nat × Nat × Nat) : BitVec 64 := word f.1 f.2.1 f.2.2.1 0 0 0 false f.2.2.2

theorem test_witness_forms : (forms.all fun f => wPred (formWord f) == 0 && !wNeg (formWord f) &&
    wOp (formWord f) == f.1 && wMod (formWord f) == f.2.1 && wD (formWord f) == f.2.2.1 && wImm (formWord f) == f.2.2.2) =
    true := by decide +kernel

/-- A run's argument: an input in role 1, an output in role 2, of object 0x100. -/
def arg (role : Nat) : RunArg := { role := role, obj := 0x100, ver := 1, layout := 0, map := 0, prod := 0 }

/-- `SRD` of an argument's version, at the lowest selector. -/
theorem test_witness_srd_argument : Stands (stage serv { run0 0 with args := [arg 1] } sl0 [] (word 0x1B 0 0 0 0 0 false 32))
      0x1B 0 0 (seen { run0 0 with args := [arg 1] } sl0 [] (word 0x1B 0 0 0 0 0 false 32)) ∧
    wImm (word 0x1B 0 0 0 0 0 false 32) = 32 ∧ [arg 1][32 - 32]? = some (arg 1) := by
  exact ⟨stage_stands ⟨rfl, rfl⟩ rfl rfl (by decide), by decide, by decide⟩

/-- Instructions with lane 0 not active: p0 negated. -/
theorem test_witness_excluded : ∀ op ∈ [0x01, 0x02, 0x03, 0x11, 0x22, 0x29, 0x91, 0xA0, 0xA2, 0xA4, 0xA7, 0xA8],
    Stands (stage serv (run0 0) sl0 [] (word op 0 0 0 0 0 true 0)) op 0 0
      (seen (run0 0) sl0 [] (word op 0 0 0 0 0 true 0)) ∧
    (seen (run0 0) sl0 [] (word op 0 0 0 0 0 true 0)).lane 0 = false := by
  have h : ∀ op ∈ [0x01, 0x02, 0x03, 0x11, 0x22, 0x29, 0x91, 0xA0, 0xA2, 0xA4, 0xA7, 0xA8],
      wOp (word op 0 0 0 0 0 true 0) = op ∧ wPred (word op 0 0 0 0 0 true 0) = 0 ∧
        wNeg (word op 0 0 0 0 0 true 0) = true := by decide
  intro op ho
  obtain ⟨h1, h2, h3⟩ := h op ho
  refine ⟨stands_at h1, ?_⟩
  simp only [ICtx.lane, ICtx.mask, seen, h2, h3, Slice.pred]
  decide

/-- `BR` to its own word; `END` of the first of two slices. -/
theorem test_witness_control :
    (∃ k, (stage serv (run0 0) sl0 [] (word 0x02 0 0 0 0 0 false 0)).dev.kernel? 7 = some k ∧
      (sl0.pc : Int) + sext24 (wImm (word 0x02 0 0 0 0 0 false 0)) = (0 : Nat) ∧ 0 < k.code.length) ∧
    sl0.bufs = [] ∧ (run0 0).doneN + 1 < (run0 0).total := by
  exact ⟨⟨_, rfl, by decide, by decide⟩, rfl, by decide⟩

theorem test_witness_past_last : ∃ k, (stage serv (run0 0) { sl0 with pc := 1 } [] 0).live ∧
    (stage serv (run0 0) { sl0 with pc := 1 } [] 0).dev.run? 0 =
      some { run0 0 with slices := [(0, { sl0 with pc := 1 })] } ∧
    (stage serv (run0 0) { sl0 with pc := 1 } [] 0).dev.kernel? 7 = some k ∧ k.code.length ≤ 1 :=
  ⟨_, ⟨rfl, rfl⟩, rfl, rfl, by decide⟩

/-- The lanes at both ends, and a register that stays. -/
theorem test_witness_lanes : wD (word 0x40 0 31 0 0 0 false 0) < sl0.v.length ∧ 63 < 64 ∧
    0 ≠ wD (word 0x40 0 31 0 0 0 false 0) := by decide

/-- A kernel header with 260 bytes of scratch, 256 of window and 4 of parameters, of an expert kernel. -/
def hdr : Bytes := [0, 0, 0, 1] ++ zeros 8 ++ leBytes 4 260 ++ leBytes 4 256 ++ leBytes 4 0 ++ leBytes 2 4

/-- The last load of a scratch of 260 bytes. -/
theorem test_witness_lds :
    let s := stage serv (run0 0) sl0 hdr (word 0x23 0 0 0 0 0 false 4)
    let x := seen (run0 0) sl0 hdr (word 0x23 0 0 0 0 0 false 4)
    Stands s 0x23 0 0 x ∧
    x.mask ≠ 0 ∧
    (x.s.sreg (wA x.w) + BitVec.ofNat 64 (wImm x.w)).toNat + 256 ≤ hScratch x.h ∧
    (x.s.sreg (wA x.w) + BitVec.ofNat 64 (wImm x.w)).toNat % 4 = 0 :=
  ⟨stage_stands ⟨rfl, rfl⟩ rfl rfl (by decide), by decide +kernel⟩

/-- A load one byte past it. -/
theorem test_witness_lds_bounds :
    let s := stage serv (run0 0) sl0 hdr (word 0x23 0 0 0 0 0 false 5)
    let x := seen (run0 0) sl0 hdr (word 0x23 0 0 0 0 0 false 5)
    Stands s 0x23 0 0 x ∧
    x.mask ≠ 0 ∧
    (x.s.sreg (wA x.w) + BitVec.ofNat 64 (wImm x.w)).toNat + 256 > hScratch x.h :=
  ⟨stage_stands ⟨rfl, rfl⟩ rfl rfl (by decide), by decide +kernel⟩

/-- A load within it that is not aligned. -/
theorem test_witness_lds_align :
    let s := stage serv (run0 0) sl0 hdr (word 0x23 0 0 0 0 0 false 3)
    let x := seen (run0 0) sl0 hdr (word 0x23 0 0 0 0 0 false 3)
    Stands s 0x23 0 0 x ∧
    x.mask ≠ 0 ∧
    (x.s.sreg (wA x.w) + BitVec.ofNat 64 (wImm x.w)).toNat + 256 ≤ hScratch x.h ∧
    (x.s.sreg (wA x.w) + BitVec.ofNat 64 (wImm x.w)).toNat % 4 ≠ 0 :=
  ⟨stage_stands ⟨rfl, rfl⟩ rfl rfl (by decide), by decide +kernel⟩

/-- The last store. -/
theorem test_witness_sts :
    let s := stage serv (run0 0) sl0 hdr (word 0x24 0 0 0 0 0 false 4)
    let x := seen (run0 0) sl0 hdr (word 0x24 0 0 0 0 0 false 4)
    Stands s 0x24 0 0 x ∧
    x.mask ≠ 0 ∧
    (x.s.sreg (wB x.w) + BitVec.ofNat 64 (wImm x.w)).toNat + 256 ≤ hScratch x.h ∧
    (x.s.sreg (wB x.w) + BitVec.ofNat 64 (wImm x.w)).toNat % 4 = 0 :=
  ⟨stage_stands ⟨rfl, rfl⟩ rfl rfl (by decide), by decide +kernel⟩

/-- The slice's own window, of exactly 256 bytes. -/
theorem test_witness_ldw :
    let s := stage serv (run0 0) sl0 hdr (word 0x25 0 0 0 0 0 false 0)
    let x := seen (run0 0) sl0 hdr (word 0x25 0 0 0 0 0 false 0)
    Stands s 0x25 0 0 x ∧
    x.mask ≠ 0 ∧
    (x.s.sreg (wA x.w)).toNat < x.r.total ∧
    (x.s.sreg (wB x.w) + BitVec.ofNat 64 (wImm x.w)).toNat + 256 ≤ hWindow x.h ∧
    (x.s.sreg (wB x.w) + BitVec.ofNat 64 (wImm x.w)).toNat % 4 = 0 ∧
    ((x.s.sreg (wA x.w)).toNat = 0 ∨ x.r.phaseOf (x.s.sreg (wA x.w)).toNat < x.s.phase) :=
  ⟨stage_stands ⟨rfl, rfl⟩ rfl rfl (by decide), by decide +kernel⟩

/-- A store into it. -/
theorem test_witness_stw :
    let s := stage serv (run0 0) sl0 hdr (word 0x26 0 0 0 0 0 false 0)
    let x := seen (run0 0) sl0 hdr (word 0x26 0 0 0 0 0 false 0)
    Stands s 0x26 0 0 x ∧
    x.mask ≠ 0 ∧
    (x.s.sreg (wB x.w) + BitVec.ofNat 64 (wImm x.w)).toNat + 256 ≤ hWindow x.h ∧
    (x.s.sreg (wB x.w) + BitVec.ofNat 64 (wImm x.w)).toNat % 4 = 0 :=
  ⟨stage_stands ⟨rfl, rfl⟩ rfl rfl (by decide), by decide +kernel⟩

/-- The first of 4 parameter bytes. -/
theorem test_witness_ldp :
    let s := stage serv (run0 0) sl0 hdr (word 0x29 0 0 0 0 0 false 0)
    let x := seen (run0 0) sl0 hdr (word 0x29 0 0 0 0 0 false 0)
    Stands s 0x29 0 0 x ∧
    x.lane 0 = true ∧
    wImm x.w < hParams x.h ∧
    wImm x.w % 4 = 0 :=
  ⟨stage_stands ⟨rfl, rfl⟩ rfl rfl (by decide), by decide +kernel⟩

/-- A version without tiles, in a state. -/
def ver1 (st : VState) : Version := { Version.fresh true 0 0 0 0 with st := st }

/-- An object of one FP32 tile, with version 1 in a state. -/
def obj (st : VState) : Obj :=
  { tenant := 0, typ := 1, num := 1, fmt := 1, tr := 0, tc := 0, rows := 1, cols := 1, half := 0
    vers := [(1, ver1 st)], top := 1, grants := [] }

/-- A device with that object, handle 0x100. -/
def withObj (o : Obj) (d : Dev) : Dev := d.updObjs fun t => { t with objs := [(0x100, o)] }

/-- A run with one argument, its tile 0 staged. -/
def runArg (role : Nat) : Run := { run0 0 with args := [arg role], staged := [(0, 0)] }

/-- A slice with an open buffer for tile 0 of argument 0. -/
def slBuf : Slice := { sl0 with bufs := [{ arg := 0, tile := 0, data := zeros 1024 }] }

/-- `LDT` of the last tile, staged. -/
theorem test_witness_ldt :
    let s := stage (withObj (obj .opened) serv) (runArg 1) sl0 hdr (word 0x20 0 0 0 0 0 false 0)
    let x := seen (runArg 1) sl0 hdr (word 0x20 0 0 0 0 0 false 0)
    Stands s 0x20 0 0 x ∧
    x.r.args[wImm x.w % 16]? = some (arg 1) ∧
    s.dev.obj? 0x100 = some (obj .opened) ∧
    x.mask ≠ 0 ∧
    (arg 1).role = 1 ∧
    (x.s.sreg (wA x.w)).toNat < (obj .opened).count ∧
    (x.s.sreg (wB x.w) + BitVec.ofNat 64 (wImm x.w / 16)).toNat < delivSize (obj .opened).fmt (obj .opened).th (obj .opened).tw ∧
    x.r.staged.contains (wImm x.w % 16, (x.s.sreg (wA x.w)).toNat) = true :=
  ⟨stage_stands ⟨rfl, rfl⟩ rfl rfl (by decide), by decide +kernel⟩

/-- `STT` that opens a buffer. -/
theorem test_witness_stt :
    let s := stage (withObj (obj .opened) serv) (runArg 2) sl0 hdr (word 0x21 0 0 0 0 0 false 0)
    let x := seen (runArg 2) sl0 hdr (word 0x21 0 0 0 0 0 false 0)
    Stands s 0x21 0 0 x ∧
    x.r.args[wImm x.w % 16]? = some (arg 2) ∧
    s.dev.obj? 0x100 = some (obj .opened) ∧
    x.mask ≠ 0 ∧
    (arg 2).role = 2 ∧
    (x.s.sreg (wB x.w)).toNat < (obj .opened).count ∧
    (x.s.sreg (wC x.w) + BitVec.ofNat 64 (wImm x.w / 16)).toNat < (obj .opened).canon ∧
    rewrites x (wImm x.w % 16) (x.s.sreg (wB x.w)).toNat = false ∧
    x.s.bufs.length < 8 ∧
    x.s.buf? (wImm x.w % 16) (x.s.sreg (wB x.w)).toNat = none :=
  ⟨stage_stands ⟨rfl, rfl⟩ rfl rfl (by decide), by decide +kernel⟩

/-- `TCOMMIT` of an open buffer. -/
theorem test_witness_tcommit :
    let s := stage (withObj (obj .opened) serv) (runArg 2) slBuf hdr (word 0x22 0 0 0 0 0 false 0)
    let x := seen (runArg 2) slBuf hdr (word 0x22 0 0 0 0 0 false 0)
    Stands s 0x22 0 0 x ∧
    x.r.args[wImm x.w % 16]? = some (arg 2) ∧
    s.dev.obj? 0x100 = some (obj .opened) ∧
    x.lane 0 = true ∧
    (x.s.sreg (wA x.w)).toNat < (obj .opened).count ∧
    rewrites x (wImm x.w % 16) (x.s.sreg (wA x.w)).toNat = false ∧
    x.s.buf? (wImm x.w % 16) (x.s.sreg (wA x.w)).toNat = some { arg := 0, tile := 0, data := zeros 1024 } ∧
    (obj .opened).scalesOk ((obj .opened).mask 0 (zeros 1024)) = true :=
  ⟨stage_stands ⟨rfl, rfl⟩ rfl rfl (by decide), by decide +kernel⟩

/-- The device in recovery mode. -/
def recov : Dev := Dev.reset.updPwr fun p => { p with mode := .recovery, step := 8 }

/-- A slice whose s1 names the last 256 bytes of stack 0 before its reserve. -/
def slRaw : Slice := { sl0 with s := [0, BitVec.ofNat 64 (60 * gib - 256)] ++ List.replicate 14 0 }

/-- `LDR` of them in recovery mode. -/
theorem test_witness_ldr :
    let s := stage recov (run0 0) slRaw hdr (word 0x27 0 0 1 0 0 false 0)
    let x := seen (run0 0) slRaw hdr (word 0x27 0 0 1 0 0 false 0)
    Stands s 0x27 0 0 x ∧
    x.mask ≠ 0 ∧
    (x.r.tenant = 0 ∧ s.dev.pwr.mode ≠ .service) ∧
    s.dev.hasMem (x.s.sreg (wA x.w)).toNat 256 = true ∧
    (x.s.sreg (wA x.w)).toNat % 256 = 0 :=
  ⟨stage_stands ⟨rfl, rfl⟩ rfl rfl (by decide), by decide +kernel⟩

/-- `LDR` in service mode. -/
theorem test_witness_ldr_priv :
    let s := stage serv (run0 0) sl0 hdr (word 0x27 0 0 0 0 0 false 0)
    let x := seen (run0 0) sl0 hdr (word 0x27 0 0 0 0 0 false 0)
    Stands s 0x27 0 0 x ∧
    x.mask ≠ 0 ∧
    ¬(x.r.tenant = 0 ∧ s.dev.pwr.mode ≠ .service) :=
  ⟨stage_stands ⟨rfl, rfl⟩ rfl rfl (by decide), by decide +kernel⟩

/-- `STR` of them in recovery mode. -/
theorem test_witness_str :
    let s := stage recov (run0 0) slRaw hdr (word 0x28 0 0 0 1 0 false 0)
    let x := seen (run0 0) slRaw hdr (word 0x28 0 0 0 1 0 false 0)
    Stands s 0x28 0 0 x ∧
    x.mask ≠ 0 ∧
    (x.r.tenant = 0 ∧ s.dev.pwr.mode ≠ .service) ∧
    s.dev.hasMem (x.s.sreg (wB x.w)).toNat 256 = true ∧
    (x.s.sreg (wB x.w)).toNat % 256 = 0 ∧
    (fromTo (x.s.sreg (wB x.w)).toNat 256).any s.dev.rawBarred = false :=
  ⟨stage_stands ⟨rfl, rfl⟩ rfl rfl (by decide), by decide +kernel⟩

/-- `STR` in service mode. -/
theorem test_witness_str_priv :
    let s := stage serv (run0 0) sl0 hdr (word 0x28 0 0 0 0 0 false 0)
    let x := seen (run0 0) sl0 hdr (word 0x28 0 0 0 0 0 false 0)
    Stands s 0x28 0 0 x ∧
    x.mask ≠ 0 ∧
    ¬(x.r.tenant = 0 ∧ s.dev.pwr.mode ≠ .service) :=
  ⟨stage_stands ⟨rfl, rfl⟩ rfl rfl (by decide), by decide +kernel⟩

/-- A batch of one token, 128 bytes in and out. -/
def batch : Batch :=
  { stream := 0, tag := 0, expert := 0, set := 0, tokens := 1, din := 64, dout := 64, acts := zeros 128, dest := 0, sig := []
    run := 0, blocks := 1, cluster := 0, wver := 1, pushed := [], result := none, answered := false, accTick := 0 }

/-- A device with that batch, number 1. -/
def withBatch : Dev := serv.updComp fun k => { k with batches := [(1, batch)] }

/-- A slice with the last offset of a row in s1 and the last unit's in s2. -/
def slOff : Slice := { sl0 with s := [0, 124, 64] ++ List.replicate 13 0 }

/-- `POP` of the last lane of the last token. -/
theorem test_witness_pop :
    let s := stage withBatch { run0 0 with by' := .batch 1 } slOff hdr (word 0x30 0 0 0 1 0 false 0)
    let x := seen { run0 0 with by' := .batch 1 } slOff hdr (word 0x30 0 0 0 1 0 false 0)
    Stands s 0x30 0 0 x ∧
    x.mask ≠ 0 ∧
    x.r.by' = .batch 1 ∧
    s.dev.batch? 1 = some batch ∧
    hExec x.h = true ∧
    (x.s.sreg (wA x.w)).toNat < batch.tokens ∧
    (x.s.sreg (wB x.w)).toNat < 2 * batch.din ∧
    (x.s.sreg (wB x.w)).toNat % 4 = 0 :=
  ⟨stage_stands ⟨rfl, rfl⟩ rfl rfl (by decide), by decide +kernel⟩

/-- `PUSH` of the last unit of the last token. -/
theorem test_witness_push :
    let s := stage withBatch { run0 0 with by' := .batch 1 } slOff hdr (word 0x31 0 0 0 0 2 false 0)
    let x := seen { run0 0 with by' := .batch 1 } slOff hdr (word 0x31 0 0 0 0 2 false 0)
    Stands s 0x31 0 0 x ∧
    x.mask ≠ 0 ∧
    x.r.by' = .batch 1 ∧
    s.dev.batch? 1 = some batch ∧
    hExec x.h = true ∧
    (x.s.sreg (wB x.w)).toNat < batch.tokens ∧
    (x.s.sreg (wC x.w)).toNat < 2 * batch.dout ∧
    (x.s.sreg (wC x.w)).toNat % 64 = 0 ∧
    (((List.range 4).filter fun u => decide ((x.s.sreg (wC x.w)).toNat + 64 * u < 2 * batch.dout) && (fromTo (16 * u) 16).any x.lane).any
      fun u => batch.pushed.any (·.1 == ((x.s.sreg (wB x.w)).toNat * (2 * batch.dout) + (x.s.sreg (wC x.w)).toNat) / 64 + u)) = false :=
  ⟨stage_stands ⟨rfl, rfl⟩ rfl rfl (by decide), by decide +kernel⟩

/-- `AADDF` that opens a buffer of an FP32 output. -/
theorem test_witness_aaddf :
    let s := stage (withObj (obj .opened) serv) (runArg 2) sl0 hdr (word 0xF2 0 0 0 0 0 false 0)
    let x := seen (runArg 2) sl0 hdr (word 0xF2 0 0 0 0 0 false 0)
    Stands s 0xF2 0 0 x ∧
    x.r.args[wImm x.w % 16]? = some (arg 2) ∧
    s.dev.obj? 0x100 = some (obj .opened) ∧
    x.mask ≠ 0 ∧
    (x.s.sreg (wB x.w)).toNat < (obj .opened).count ∧
    (x.s.sreg (wC x.w) + BitVec.ofNat 64 (wImm x.w / 16)).toNat < 4 * (obj .opened).n ∧
    ((obj .opened).fmt = 1 ∨ (obj .opened).fmt = 2) ∧
    x.r.written.contains (wImm x.w % 16, (x.s.sreg (wB x.w)).toNat) = false ∧
    (x.r.slices.any fun p => (p.2.buf? (wImm x.w % 16) (x.s.sreg (wB x.w)).toNat).isSome) = false ∧
    (x.r.accs.find? fun a => a.arg == wImm x.w % 16 && a.tile == (x.s.sreg (wB x.w)).toNat) = none ∧
    x.r.accs.length < 256 :=
  ⟨stage_stands ⟨rfl, rfl⟩ rfl rfl (by decide), by decide +kernel⟩

/-- A flag that is set or clear. -/
def flagAt (vid : Nat) (set : Bool) : Flag := { tenant := 0, vid := vid, set := set, quar := false }

/-- A herd of participants 0 and 1. -/
def herd : Herd :=
  { tenant := 0, home := 0, mask := [0, 1], g := 0, a := [], n := [], broken := false, relFlag := 0xFFFF, notify := []
    timeout := 0, dueAt := none }

/-- A device with two flags of tenant 0, a counter at 3 and a herd. -/
def withSync : Dev := serv.updSync fun y => { y with
  flags := [(5, flagAt 0 true), (6, flagAt 1 false)], counters := [(0, { tenant := 0, val := 3 })], herds := [(0, herd)] }

/-- A slice with a counter's target in s1 and one more in s2. -/
def slTarget : Slice := { sl0 with s := [0, 3, 4] ++ List.replicate 13 0 }

/-- `FSET` of a set flag. -/
theorem test_witness_fset :
    let s := stage withSync (run0 0) sl0 hdr (word 0xA0 0 0 0 0 0 false 0)
    let x := seen (run0 0) sl0 hdr (word 0xA0 0 0 0 0 0 false 0)
    Stands s 0xA0 0 0 x ∧
    x.lane 0 = true ∧
    s.dev.pwr.sable = false ∧
    s.dev.sliceBusy 0 0 = false ∧
    s.dev.physFlag x.r.tenant (wImm x.w) = some 5 ∧
    s.dev.flag? 5 = some (flagAt 0 true) ∧
    (flagAt 0 true).quar = false ∧
    s.dev.sync.waits.length < 1048576 :=
  ⟨stage_stands ⟨rfl, rfl⟩ rfl rfl (by decide), by decide +kernel⟩

/-- `FCLR` of a set flag. -/
theorem test_witness_fclr :
    let s := stage withSync (run0 0) sl0 hdr (word 0xA1 0 0 0 0 0 false 0)
    let x := seen (run0 0) sl0 hdr (word 0xA1 0 0 0 0 0 false 0)
    Stands s 0xA1 0 0 x ∧
    x.lane 0 = true ∧
    s.dev.pwr.sable = false ∧
    s.dev.sliceBusy 0 0 = false ∧
    s.dev.physFlag x.r.tenant (wImm x.w) = some 5 ∧
    s.dev.flag? 5 = some (flagAt 0 true) ∧
    (flagAt 0 true).quar = false ∧
    s.dev.sync.waits.length < 1048576 :=
  ⟨stage_stands ⟨rfl, rfl⟩ rfl rfl (by decide), by decide +kernel⟩

/-- `FWAIT` of a set flag. -/
theorem test_witness_fwait :
    let s := stage withSync (run0 0) sl0 hdr (word 0xA2 0 0 0 0 0 false 0)
    let x := seen (run0 0) sl0 hdr (word 0xA2 0 0 0 0 0 false 0)
    Stands s 0xA2 0 0 x ∧
    x.lane 0 = true ∧
    s.dev.pwr.sable = false ∧
    s.dev.sliceBusy 0 0 = false ∧
    s.dev.physFlag x.r.tenant (wImm x.w) = some 5 ∧
    s.dev.flag? 5 = some (flagAt 0 true) ∧
    (flagAt 0 true).quar = false ∧
    s.dev.sync.waits.length < 1048576 :=
  ⟨stage_stands ⟨rfl, rfl⟩ rfl rfl (by decide), by decide +kernel⟩

/-- `FTAKE` of a set flag. -/
theorem test_witness_ftake :
    let s := stage withSync (run0 0) sl0 hdr (word 0xA3 0 0 0 0 0 false 0)
    let x := seen (run0 0) sl0 hdr (word 0xA3 0 0 0 0 0 false 0)
    Stands s 0xA3 0 0 x ∧
    x.lane 0 = true ∧
    s.dev.pwr.sable = false ∧
    s.dev.sliceBusy 0 0 = false ∧
    s.dev.physFlag x.r.tenant (wImm x.w) = some 5 ∧
    s.dev.flag? 5 = some (flagAt 0 true) ∧
    (flagAt 0 true).quar = false ∧
    s.dev.sync.waits.length < 1048576 :=
  ⟨stage_stands ⟨rfl, rfl⟩ rfl rfl (by decide), by decide +kernel⟩

/-- `FWAIT` of a clear one. -/
theorem test_witness_fwait_waits :
    let s := stage withSync (run0 0) sl0 hdr (word 0xA2 0 0 0 0 0 false 1)
    let x := seen (run0 0) sl0 hdr (word 0xA2 0 0 0 0 0 false 1)
    Stands s 0xA2 0 0 x ∧
    x.lane 0 = true ∧
    s.dev.pwr.sable = false ∧
    s.dev.sliceBusy 0 0 = false ∧
    s.dev.physFlag x.r.tenant (wImm x.w) = some 6 ∧
    s.dev.flag? 6 = some (flagAt 1 false) ∧
    (flagAt 1 false).quar = false ∧
    s.dev.sync.waits.length < 1048576 :=
  ⟨stage_stands ⟨rfl, rfl⟩ rfl rfl (by decide), by decide +kernel⟩

/-- `FTAKE` of a clear one. -/
theorem test_witness_ftake_waits :
    let s := stage withSync (run0 0) sl0 hdr (word 0xA3 0 0 0 0 0 false 1)
    let x := seen (run0 0) sl0 hdr (word 0xA3 0 0 0 0 0 false 1)
    Stands s 0xA3 0 0 x ∧
    x.lane 0 = true ∧
    s.dev.pwr.sable = false ∧
    s.dev.sliceBusy 0 0 = false ∧
    s.dev.physFlag x.r.tenant (wImm x.w) = some 6 ∧
    s.dev.flag? 6 = some (flagAt 1 false) ∧
    (flagAt 1 false).quar = false ∧
    s.dev.sync.waits.length < 1048576 :=
  ⟨stage_stands ⟨rfl, rfl⟩ rfl rfl (by decide), by decide +kernel⟩

/-- `CADD` of 3. -/
theorem test_witness_cadd :
    let s := stage withSync (run0 0) slTarget hdr (word 0xA4 0 0 1 0 0 false 0)
    let x := seen (run0 0) slTarget hdr (word 0xA4 0 0 1 0 0 false 0)
    Stands s 0xA4 0 0 x ∧
    x.lane 0 = true ∧
    s.dev.pwr.sable = false ∧
    s.dev.sliceBusy 0 0 = false ∧
    s.dev.sync.counters.get? (wImm x.w) = some { tenant := 0, val := 3 } ∧
    x.r.tenant = 0 ∧
    1 ≤ (x.s.sreg (wA x.w)).toNat ∧
    (x.s.sreg (wA x.w)).toNat ≤ 2 ^ 20 ∧
    s.dev.retireCtr (wImm x.w) = false :=
  ⟨stage_stands ⟨rfl, rfl⟩ rfl rfl (by decide), by decide +kernel⟩

/-- `CRD`. -/
theorem test_witness_crd :
    let s := stage withSync (run0 0) slTarget hdr (word 0xA5 0 0 0 0 0 false 0)
    let x := seen (run0 0) slTarget hdr (word 0xA5 0 0 0 0 0 false 0)
    Stands s 0xA5 0 0 x ∧
    x.lane 0 = true ∧
    s.dev.pwr.sable = false ∧
    s.dev.sliceBusy 0 0 = false ∧
    s.dev.sync.counters.get? (wImm x.w) = some { tenant := 0, val := 3 } ∧
    x.r.tenant = 0 :=
  ⟨stage_stands ⟨rfl, rfl⟩ rfl rfl (by decide), by decide +kernel⟩

/-- `CWAIT` of the value the counter has. -/
theorem test_witness_cwait :
    let s := stage withSync (run0 0) slTarget hdr (word 0xA6 0 0 1 0 0 false 0)
    let x := seen (run0 0) slTarget hdr (word 0xA6 0 0 1 0 0 false 0)
    Stands s 0xA6 0 0 x ∧
    x.lane 0 = true ∧
    s.dev.pwr.sable = false ∧
    s.dev.sliceBusy 0 0 = false ∧
    s.dev.sync.counters.get? (wImm x.w) = some { tenant := 0, val := 3 } ∧
    x.r.tenant = 0 ∧
    0 ≤ serialDiff (3 : BitVec 48).toNat ((x.s.sreg (wA x.w)).toNat % 2 ^ 48) :=
  ⟨stage_stands ⟨rfl, rfl⟩ rfl rfl (by decide), by decide +kernel⟩

/-- `CWAIT` of one more. -/
theorem test_witness_cwait_waits :
    let s := stage withSync (run0 0) slTarget hdr (word 0xA6 0 0 2 0 0 false 0)
    let x := seen (run0 0) slTarget hdr (word 0xA6 0 0 2 0 0 false 0)
    Stands s 0xA6 0 0 x ∧
    x.lane 0 = true ∧
    s.dev.pwr.sable = false ∧
    s.dev.sliceBusy 0 0 = false ∧
    s.dev.sync.counters.get? (wImm x.w) = some { tenant := 0, val := 3 } ∧
    x.r.tenant = 0 ∧
    serialDiff (3 : BitVec 48).toNat ((x.s.sreg (wA x.w)).toNat % 2 ^ 48) < 0 ∧
    s.dev.sync.waits.length < 1048576 :=
  ⟨stage_stands ⟨rfl, rfl⟩ rfl rfl (by decide), by decide +kernel⟩

/-- `HARR` of the first participant. -/
theorem test_witness_harr :
    let s := stage withSync (run0 0) sl0 hdr (word 0xA7 0 0 0 0 0 false 0)
    let x := seen (run0 0) sl0 hdr (word 0xA7 0 0 0 0 0 false 0)
    Stands s 0xA7 0 0 x ∧
    x.lane 0 = true ∧
    s.dev.pwr.sable = false ∧
    s.dev.sliceBusy 0 0 = false ∧
    s.dev.herdOf x.r.tenant (wImm x.w) = some herd ∧
    herd.broken = false ∧
    (x.s.sreg (wB x.w)).toNat ∈ herd.mask ∧
    (x.s.sreg (wB x.w)).toNat ∉ herd.a ∧
    insertNat (x.s.sreg (wB x.w)).toNat herd.a ≠ herd.mask ∧
    s.dev.sync.waits.length < 1048576 :=
  ⟨stage_stands ⟨rfl, rfl⟩ rfl rfl (by decide), by decide +kernel⟩

/-- `FENCE` with a tile of the run still being made durable. -/
theorem test_witness_fence_waits :
    let s := stage (serv.updObjs fun t => { t with acks := [{ who := .run 0 0, obj := 0x100, ver := 1, tile := 0, data := [], sid := 1, prod := 0, stripes := [(0, 0)] }] }) (run0 0) sl0 hdr (word 0xA8 0 0 0 0 0 false 0)
    let x := seen (run0 0) sl0 hdr (word 0xA8 0 0 0 0 0 false 0)
    Stands s 0xA8 0 0 x ∧
    x.lane 0 = true ∧
    s.dev.sliceBusy 0 0 = true :=
  ⟨stage_stands ⟨rfl, rfl⟩ rfl rfl (by decide), by decide +kernel⟩

/-- `FENCE` with none. -/
theorem test_witness_fence :
    let s := stage serv (run0 0) sl0 hdr (word 0xA8 0 0 0 0 0 false 0)
    let x := seen (run0 0) sl0 hdr (word 0xA8 0 0 0 0 0 false 0)
    Stands s 0xA8 0 0 x ∧
    x.lane 0 = true ∧
    s.dev.sliceBusy 0 0 = false :=
  ⟨stage_stands ⟨rfl, rfl⟩ rfl rfl (by decide), by decide +kernel⟩

/-! ## Commands -/

/-- `NOP`. -/
theorem test_witness_nop :
    let c := cmdOf (ent [(0, 0x00)]) 0
    let s := withCmd c (serv)
    Ready s 0 0x00 c := by
  intros; exact ready_of rfl (by decide +kernel)

/-- `IDENTIFY` of page 0. -/
theorem test_witness_identify_0 :
    let c := cmdQ (ent [(0, 0x01)]) 0
    let s := withCmdQ c (serv)
    let e := c.entry
    Ready s 0 0x01 c ∧
    ¬c.inl ∧
    e.b20 = 0 := by
  intros; exact ⟨ready_of rfl (by decide +kernel), fun h => h 0 0 rfl, by decide +kernel⟩

/-- `IDENTIFY` of page 1. -/
theorem test_witness_identify_1 :
    let c := cmdQ (ent [(0, 0x01), (32, 1)]) 0
    let s := withCmdQ c (serv)
    let e := c.entry
    Ready s 0 0x01 c ∧
    ¬c.inl ∧
    e.b20 = 1 := by
  intros; exact ⟨ready_of rfl (by decide +kernel), fun h => h 0 0 rfl, by decide +kernel⟩

/-- `IDENTIFY` of page 2. -/
theorem test_witness_identify_2 :
    let c := cmdQ (ent [(0, 0x01), (32, 2)]) 0
    let s := withCmdQ c (serv)
    let e := c.entry
    Ready s 0 0x01 c ∧
    ¬c.inl ∧
    e.b20 = 2 := by
  intros; exact ⟨ready_of rfl (by decide +kernel), fun h => h 0 0 rfl, by decide +kernel⟩

/-- `IDENTIFY` of the cost table of an expert set without bindings. -/
theorem test_witness_identify_3 :
    let c := cmdQ (ent [(0, 0x01), (32, 3), (36, 1)]) 0
    let s := withCmdQ c (serv.updComp fun k => { k with sets := [(1, { tenant := 0, binds := [] })] })
    let d := s.dev
    let e := c.entry
    let x : Ctx := ⟨0, c⟩
    Ready s 0 0x01 c ∧
    (∃ a, d.costPage x = .ok a) ∧
    ¬c.inl ∧
    e.b20 = 3 := by
  intros; exact ⟨ready_of rfl (by decide +kernel), some_ok (by decide +kernel), fun h => h 0 0 rfl, by decide +kernel⟩

/-- `GET_FEATURE` of the last feature. -/
theorem test_witness_get_feature :
    let c := cmdOf (ent [(0, 0x02), (32, 19)]) 0
    let s := withCmd c (serv)
    let d := s.dev
    let e := c.entry
    Ready s 0 0x02 c ∧
    c.fits ((d.featureLayer e.b20).1 ++ leBytes 1 (d.featureLayer e.b20).2 ++ zeros 7) ∧
    (featureDefault e.b20).isSome = true := by
  intros; exact ⟨ready_of rfl (by decide +kernel), .inl (by decide +kernel), by decide +kernel⟩

/-- `SET_FEATURE` of the tile cache's split. -/
theorem test_witness_set_feature :
    let c := cmdOf (ent [(0, 0x03), (32, 1), (40, 100)]) 0
    let s := withCmd c (serv)
    let d := s.dev
    let e := c.entry
    Ready s 0 0x03 c ∧
    (featureDefault e.b20).isSome = true ∧
    presetOnly e.b20 = false ∧
    featBad e.b20 ((e.bytes.drop 0x28).take 24) = none ∧
    e.b20 = 0x01 ∧
    d.splitShrinks ((List.range 4).map fun k => fld ((e.bytes.drop 0x28).take 24) k 0 8) = false := by
  intros; exact ⟨ready_of rfl (by decide +kernel), by decide +kernel⟩

/-- `SET_FEATURE` of the trace clock. -/
theorem test_witness_set_feature_trace :
    let c := cmdOf (ent [(0, 0x03), (32, 3), (40, 1), (41, 100)]) 0
    let s := withCmd c (serv)
    let d := s.dev
    let e := c.entry
    Ready s 0 0x03 c ∧
    (featureDefault e.b20).isSome = true ∧
    presetOnly e.b20 = false ∧
    featBad e.b20 ((e.bytes.drop 0x28).take 24) = none ∧
    e.b20 = 0x03 ∧
    fld ((e.bytes.drop 0x28).take 24) 0 0 8 = 1 ∧
    d.integ.trace.clock = false ∧
    presetHolds ⟨0, c⟩ 3 d = false := by
  intros; exact ⟨ready_of rfl (by decide +kernel), by decide +kernel⟩

/-- `STATS_READ` of the device's last counter. -/
theorem test_witness_stats_read :
    let c := cmdOf (ent [(0, 0x09), (40, 29), (42, 1)]) 0
    let s := withCmd c (serv)
    let d := s.dev
    let e := c.entry
    Ready s 0 0x09 c ∧
    c.fits (leBytes 8 d.now ++ leBytes 2 1 ++ leBytes 1 e.b20 ++ zeros 5 ++ ((fromTo 29 1).flatMap fun j => leBytes 8 (d.count e.b20 0 j)) ++ leBytes 32 0) ∧
    c.tenant = 0 ∧
    d.statThere e.b20 (e.w32 0x24) = true ∧
    e.w16 0x28 + e.w16 0x2A ≤ catalogues.getD e.b20 0 := by
  intros; exact ⟨ready_of rfl (by decide +kernel), .inl (by decide +kernel), by decide +kernel⟩

/-- `SENSOR_READ` of one sensor. -/
theorem test_witness_sensor_read :
    let c := cmdOf (ent [(0, 0xA8), (34, 1)]) 0
    let s := withCmd c (serv)
    let d := s.dev
    let e := c.entry
    Ready s 0 0xA8 c ∧
    c.fits ((fromTo (e.w16 0x20) (e.w16 0x22)).flatMap d.sensorRecord) := by
  intros; exact ⟨ready_of rfl (by decide +kernel), .inl (by decide +kernel)⟩

/-- `ATTEST`. -/
theorem test_witness_attest :
    let c := cmdOf (ent [(0, 0xA0)]) 0
    let s := withCmd c (serv)
    let d := s.dev
    let e := c.entry
    Ready s 0 0xA0 c ∧
    c.fits (d.report ((e.bytes.drop 0x20).take 32)) := by
  intros; exact ⟨ready_of rfl (by decide +kernel), .inl (report_fits _ _ (by decide +kernel) (by decide +kernel))⟩

/-- `ERRLOG_READ` of an empty log. -/
theorem test_witness_errlog_read :
    let c := cmdOf (ent [(0, 0x82), (40, 1)]) 0
    let s := withCmd c (serv)
    let d := s.dev
    let e := c.entry
    Ready s 0 0x82 c ∧
    c.fits (((((d.logFrom (e.w32 0x24)).filter fun r => r.seenBy c.tenant).take (e.w16 0x28)).map fun r => r.bytes c.tenant).flatten) ∧
    e.b20 = 0 := by
  intros; exact ⟨ready_of rfl (by decide +kernel), .inl (by decide +kernel), by decide +kernel⟩

/-- `TIME_CORRELATE`. -/
theorem test_witness_time_correlate :
    let c := cmdOf (ent [(0, 0xA7)]) 0
    let s := withCmd c (serv)
    let e := c.entry
    Ready s 0 0xA7 c ∧
    e.b20 = 0 := by
  intros; exact ⟨ready_of rfl (by decide +kernel), by decide +kernel⟩

/-- `QP_CREATE` at a free doorbell of the same port. -/
theorem test_witness_qp_create :
    let c := cmdQ (ent [(0, 0x04), (36, 2), (40, 4), (41, 1), (44, 1)]) 0
    let s := withCmdQ c (serv)
    let d := s.dev
    let e := c.entry
    let x : Ctx := ⟨0, c⟩
    Ready s 0 0x04 c ∧
    (∀ f, x.fn? d = some f → e.w16 0x22 / 256 = f / 256) ∧
    e.b20 = 0 ∧
    (d.fn (e.w16 0x22)).bound = some 0 ∧
    e.addr % 4096 = 0 ∧
    e.w64 0x30 % 4096 = 0 ∧
    d.qpAt (e.w16 0x22) (e.w16 0x24) = none ∧
    d.q.qps.length < 32768 ∧
    d.qpsOf (.host (e.w16 0x22) (e.w16 0x24)) < 8192 := by
  intros; exact ⟨ready_of rfl (by decide +kernel), by intro f h; cases h; decide, by decide +kernel⟩

/-- The queue of doorbell 1. -/
def q1 : QP := QP.fresh (.host 0 1) false 0 4 1 0 1 0 0x3000 0x4000 0

/-- `QP_DELETE` of queue pair 1 by the admin queue. -/
theorem test_witness_qp_delete :
    let c := cmdQ (ent [(0, 0x05), (32, 1)]) 0
    let s := withCmdQ c (serv)
    let d := s.dev
    let e := c.entry
    let x : Ctx := ⟨0, c⟩
    Ready s 0 0x05 c ∧
    (∀ f b g, q1.loc = .host f b → x.fn? d = some g → f / 256 = g / 256) ∧
    d.qp? (e.w16 0x20) = some q1 ∧
    q1.admin = false ∧
    q1.deleter = none ∧
    c.tenant = 0 ∧
    e.fld 0x22 0 1 = 0 := by
  intros; exact ⟨ready_of rfl (by decide +kernel), by rintro f b g ⟨⟩ ⟨⟩; rfl, by decide +kernel⟩

/-- `TENANT_SET` of the highest tenant. -/
theorem test_witness_tenant_define :
    let c := cmdOf (ent [(0, 0x06), (34, 1023)]) 0
    let s := withCmd c (serv)
    let d := s.dev
    let e := c.entry
    Ready s 0 0x06 c ∧
    e.b20 = 0 ∧
    d.defined (e.fld 0x22 0 10) = false := by
  intros; exact ⟨ready_of rfl (by decide +kernel), by decide +kernel⟩

/-- `TENANT_SET` that removes it. -/
theorem test_witness_tenant_remove :
    let c := cmdOf (ent [(0, 0x06), (32, 1), (34, 1023)]) 0
    let s := withCmd c ({ serv with q := { serv.q with tenants := [1023] } })
    let d := s.dev
    let e := c.entry
    Ready s 0 0x06 c ∧
    e.b20 = 1 ∧
    e.fld 0x22 0 10 ≠ 0 ∧
    d.defined (e.fld 0x22 0 10) = true ∧
    d.tenantHeld (e.fld 0x22 0 10) = false := by
  intros; exact ⟨ready_of rfl (by decide +kernel), by decide +kernel⟩

/-- `TENANT_SET` that binds the highest function to tenant 0. -/
theorem test_witness_tenant_bind :
    let c := cmdOf (ent [(0, 0x06), (32, 2), (36, 1023)]) 0
    let s := withCmd c (serv)
    let d := s.dev
    let e := c.entry
    Ready s 0 0x06 c ∧
    e.b20 = 2 ∧
    e.w16 0x24 < 1024 ∧
    d.defined (e.fld 0x22 0 10) = true ∧
    d.fnBusy (e.w16 0x24) = false := by
  intros; exact ⟨ready_of rfl (by decide +kernel), by decide +kernel⟩

/-- `TENANT_SET` that unbinds function 0. -/
theorem test_witness_tenant_unbind :
    let c := cmdOf (ent [(0, 0x06), (32, 3)]) 0
    let s := withCmd c (serv)
    let d := s.dev
    let e := c.entry
    Ready s 0 0x06 c ∧
    e.b20 = 3 ∧
    e.w16 0x24 < 1024 ∧
    (d.fn (e.w16 0x24)).bound.isSome = true ∧
    d.fnBusy (e.w16 0x24) = false := by
  intros; exact ⟨ready_of rfl (by decide +kernel), by decide +kernel⟩

/-- `PORT_BIND` that reads the highest port. -/
theorem test_witness_port_query :
    let c := cmdOf (ent [(0, 0x07), (32, 3), (33, 55)]) 0
    let s := withCmd c (serv)
    let d := s.dev
    let e := c.entry
    Ready s 0 0x07 c ∧
    c.fits ((d.port (e.fld 0x21 0 8)).record) ∧
    e.b20 = 3 := by
  intros; exact ⟨ready_of rfl (by decide +kernel), .inl (by decide +kernel), by decide +kernel⟩

/-- `PORT_BIND` that unbinds port 0. -/
theorem test_witness_port_unbind :
    let c := cmdOf (ent [(0, 0x07), (32, 1)]) 0
    let s := withCmd c (serv.updPort 0 fun p => { p with bound := true })
    let d := s.dev
    let e := c.entry
    Ready s 0 0x07 c ∧
    e.b20 = 1 ∧
    (d.port (e.fld 0x21 0 8)).retired = false ∧
    (d.port (e.fld 0x21 0 8)).bound = true := by
  intros; exact ⟨ready_of rfl (by decide +kernel), by decide +kernel⟩

/-- `PORT_BIND` of port 55 to tenant 0. -/
theorem test_witness_port_bind :
    let c := cmdOf (ent [(0, 0x07), (33, 55)]) 0 ([1] ++ zeros 127)
    let s := withCmd c (serv)
    let d := s.dev
    let e := c.entry
    Ready s 0 0x07 c ∧
    c.inl ∧
    e.b20 = 0 ∧
    (d.port (e.fld 0x21 0 8)).retired = false ∧
    (d.port (e.fld 0x21 0 8)).bound = false ∧
    128 ≤ c.input.length ∧
    (setBits 1024 (leNat (c.input.take 128))).isEmpty = false ∧
    (setBits 1024 (leNat (c.input.take 128))).all d.defined = true ∧
    d.integ.trace.enabled = false ∧
    e.fld 0x21 0 8 = 55 ∧
    presetHolds ⟨0, c⟩ 1 d = false := by
  intros; exact ⟨ready_of rfl (by decide +kernel), by rintro _ _ ⟨⟩, by decide +kernel⟩

/-- `UNIT_GROUP` of one core. -/
theorem test_witness_unit_group :
    let c := cmdOf (ent [(0, 0x08), (33, 1), (36, 268435456)]) 0
    let s := withCmd c (serv)
    let d := s.dev
    let e := c.entry
    Ready s 0 0x08 c ∧
    checkMembers c.tenant d 0x24 ((List.range (e.fld 0x21 0 8)).map fun k => e.w32 (0x24 + 4 * k)) = .ok () ∧
    e.b20 = 0 ∧
    d.comp.groups.length < 4096 := by
  intros; exact ⟨ready_of rfl (by decide +kernel), ok_of (by decide +kernel), by decide +kernel⟩

/-- `QUOTA_SET`. -/
theorem test_witness_quota_set :
    let c := cmdOf (ent [(0, 0x26)]) 0
    let s := withCmd c (serv)
    let d := s.dev
    let e := c.entry
    Ready s 0 0x26 c ∧
    d.defined (e.fld 0x22 0 10) = true := by
  intros; exact ⟨ready_of rfl (by decide +kernel), by decide +kernel⟩

/-- The device in service mode with modules of 64 GiB in its four parity groups. -/
def dFar : Dev := serv.updObjs fun t => { t with groups := (List.range 4).map fun g => (g, { Group.reset with modGib := 64 }) }

/-- `OBJ_CREATE` of an object of one FP32 tile. -/
theorem test_witness_obj_create :
    let c := cmdOf (ent [(0, 0x10), (33, 1), (34, 1), (36, 1), (40, 1)]) 0
    let s := withCmd c (dFar)
    let d := s.dev
    let e := c.entry
    let x : Ctx := ⟨0, c⟩
    Ready s 0 0x10 c ∧
    checkShape e (newObj x) = .ok () ∧
    halvesFor c.half (e.fld 0x2D 0 8) d = .ok [0, 1] ∧
    checkRoom (newObj x) true d = .ok () ∧
    checkQuota c.tenant 0 (newObj x).nearWorst (d.farCost (newObj x).worst) d = .ok () ∧
    chooseHalf (newObj x).nearWorst (d.farCost (newObj x).worst) d [0, 1] = .ok 0 ∧
    e.b20 = 0 := by
  intros; exact ⟨ready_of rfl (by decide +kernel), ok_of (by decide +kernel), ok_of (by decide +kernel), ok_of (by decide +kernel), ok_of (by decide +kernel), ok_of (by decide +kernel), by decide +kernel⟩

/-- `OBJ_CREATE` of version 2. -/
theorem test_witness_obj_version :
    let c := cmdOf (ent [(0, 0x10), (32, 1), (8, 256)]) 0
    let s := withCmd c (withObj (obj .sealed) dFar)
    let d := s.dev
    let e := c.entry
    Ready s 0 0x10 c ∧
    Owns s c (obj .sealed) ∧
    checkBase (obj .sealed) (e.w32 0x30) = .ok () ∧
    checkRoom (obj .sealed) false d = .ok () ∧
    checkQuota c.tenant 0 (obj .sealed).nearWorst (d.farCost (obj .sealed).worst) d = .ok () ∧
    e.b20 = 1 ∧
    (obj .sealed).openVer = none ∧
    (obj .sealed).top < 0xFFFFFFFF ∧
    d.short 0 (obj .sealed).nearWorst (d.farCost (obj .sealed).worst) = (0, 0) := by
  intros; exact ⟨ready_of rfl (by decide +kernel), ⟨by decide +kernel, by decide +kernel, by decide +kernel, by decide +kernel, .inl (by decide +kernel)⟩, ok_of (by decide +kernel), ok_of (by decide +kernel), ok_of (by decide +kernel), by decide +kernel⟩

/-- `OBJ_GRANT` of version 1 to tenant 5. -/
theorem test_witness_obj_grant :
    let c := cmdOf (ent [(0, 0x1A), (8, 256), (34, 5), (36, 1)]) 0
    let s := withCmd c (withObj (obj .sealed) { serv with q := { serv.q with tenants := [5] } })
    let d := s.dev
    let e := c.entry
    Ready s 0 0x1A c ∧
    Owns s c (obj .sealed) ∧
    e.b20 = 0 ∧
    e.fld 0x22 0 10 ≠ c.tenant ∧
    d.defined (e.fld 0x22 0 10) = true ∧
    ((obj .sealed).grants.any fun y => y.grantee == e.fld 0x22 0 10 && y.version == e.w32 0x24) = false ∧
    (obj .sealed).vers.get? (e.w32 0x24) = some (ver1 .sealed) ∧
    (obj .sealed).grants.length < 64 ∧
    d.grantCount < 65536 := by
  intros; exact ⟨ready_of rfl (by decide +kernel), ⟨by decide +kernel, by decide +kernel, by decide +kernel, by decide +kernel, .inl (by decide +kernel)⟩, by decide +kernel⟩

/-- `OBJ_GRANT` that takes it away. -/
theorem test_witness_obj_revoke :
    let c := cmdOf (ent [(0, 0x1A), (8, 256), (32, 1), (34, 5), (36, 1)]) 0
    let s := withCmd c (withObj { obj .sealed with grants := [⟨5, 1⟩] } { serv with q := { serv.q with tenants := [5] } })
    let d := s.dev
    let e := c.entry
    Ready s 0 0x1A c ∧
    Owns s c { obj .sealed with grants := [⟨5, 1⟩] } ∧
    e.b20 = 1 ∧
    e.fld 0x22 0 10 ≠ c.tenant ∧
    d.defined (e.fld 0x22 0 10) = true ∧
    ([⟨5, 1⟩].any fun y : Grant => y.grantee == e.fld 0x22 0 10 && y.version == e.w32 0x24) = true := by
  intros; exact ⟨ready_of rfl (by decide +kernel), ⟨by decide +kernel, by decide +kernel, by decide +kernel, by decide +kernel, .inl (by decide +kernel)⟩, by decide +kernel⟩

/-- `OBJ_WRITE` of the last tile of an open version, its data inline. -/
theorem test_witness_obj_write :
    let c := cmdOf (ent [(0, 0x11), (8, 256), (32, 1), (40, 1), (44, 1)]) 0 (zeros 1024)
    let s := withCmd c (withObj (obj .opened) serv)
    let d := s.dev
    let e := c.entry
    let x : Ctx := ⟨0, c⟩
    Ready s 0 0x11 c ∧
    Owns s c (obj .opened) ∧
    writeChecks x d = .ok ((obj .opened), 1) ∧
    (∃ a, (ver1 .opened).external = some a) ∧
    c.inl ∧
    d.ver? e.ha 1 = some (ver1 .opened) ∧
    (ver1 .opened).staged = true ∧
    e.w16 0x28 = 1 ∧
    (obj .opened).canon ≤ c.input.length ∧
    (obj .opened).scalesOk ((obj .opened).mask (e.w32 0x24) (c.input.take (obj .opened).canon)) = true ∧
    d.cmdTiles 0 = false ∧ c.tiles = [] ∧ (d.objs.acks.any fun a => a.who == .cmd 0) = false := by
  intros; exact ⟨ready_of rfl (by decide +kernel), ⟨by decide +kernel, by decide +kernel, by decide +kernel, by decide +kernel, .inl (by decide +kernel)⟩, ok_of (by decide +kernel), some_of (by decide +kernel), by rintro _ _ ⟨⟩, by decide +kernel⟩

/-- `OBJ_READ` of a tile never written, which is there at once. -/
theorem test_witness_obj_read :
    let c := cmdQ (ent [(0, 0x12), (8, 256), (32, 1), (40, 1), (44, 1)]) 0
    let s := withCmdQ c (withObj (obj .sealed) serv)
    let d := s.dev
    let e := c.entry
    Ready s 0 0x12 c ∧
    Sees s c (e.w32 0x20) (obj .sealed) ∧
    resolveRead (obj .sealed) c.tenant (e.w32 0x20) 0x20 = .ok 1 ∧
    layoutOk (e.w32 0x2C) (obj .sealed).th (obj .sealed).tw = true ∧
    e.w32 0x24 + e.w16 0x28 ≤ (obj .sealed).count ∧
    d.keyless (obj .sealed).tenant = false ∧
    d.verDamaged e.ha 1 = false ∧
    ¬c.inl ∧
    (askRange e.qos (d.deadlineOf e.qos) c.half e.ha 1 (e.w32 0x24) (delivSize (e.w32 0x2C) (obj .sealed).th (obj .sealed).tw) e.addr (e.w16 0x28) 0 [] [] d).2.2.1 = [] := by
  intros; exact ⟨ready_of rfl (by decide +kernel), ⟨by decide +kernel, by decide +kernel, .inl (by decide +kernel), .inl (by decide +kernel)⟩, ok_of (by decide +kernel), by decide +kernel, by decide +kernel, by decide +kernel, by decide +kernel, fun h => h 0 0 rfl, by decide +kernel⟩

/-- `OBJ_SEAL` of an open version. -/
theorem test_witness_obj_seal :
    let c := cmdOf (ent [(0, 0x13), (8, 256), (32, 1)]) 0
    let s := withCmd c (withObj (obj .opened) serv)
    let d := s.dev
    let e := c.entry
    Ready s 0 0x13 c ∧
    Owns s c (obj .opened) ∧
    e.w32 0x20 ≠ 0 ∧
    (obj .opened).vers.get? (e.w32 0x20) = some (ver1 .opened) ∧
    (ver1 .opened).st = .opened ∧
    (ver1 .opened).damaged = false ∧
    d.keyless (obj .opened).tenant = false ∧
    d.redTarget e.ha (e.w32 0x20) = false ∧
    d.runOutput e.ha (e.w32 0x20) = false ∧
    d.anyDamaged e.ha (e.w32 0x20) = false := by
  intros; exact ⟨ready_of rfl (by decide +kernel), ⟨by decide +kernel, by decide +kernel, by decide +kernel, by decide +kernel, .inl (by decide +kernel)⟩, by decide +kernel⟩

/-- `OBJ_RELEASE` of a sealed version. -/
theorem test_witness_obj_release :
    let c := cmdOf (ent [(0, 0x14), (8, 256), (32, 1)]) 0
    let s := withCmd c (withObj (obj .sealed) serv)
    let d := s.dev
    let e := c.entry
    Ready s 0 0x14 c ∧
    Owns s c (obj .sealed) ∧
    e.fld 0x24 0 1 = 0 ∧
    e.w32 0x20 ≠ 0 ∧
    (obj .sealed).vers.get? (e.w32 0x20) = some (ver1 .sealed) ∧
    (ver1 .sealed).st ≠ .released ∧
    d.releaseStop e.ha (e.w32 0x20) (ver1 .sealed) = none := by
  intros; exact ⟨ready_of rfl (by decide +kernel), ⟨by decide +kernel, by decide +kernel, by decide +kernel, by decide +kernel, .inl (by decide +kernel)⟩, by decide +kernel⟩

/-- `OBJ_RELEASE` of every version. -/
theorem test_witness_obj_release_all :
    let c := cmdOf (ent [(0, 0x14), (8, 256), (36, 1)]) 0
    let s := withCmd c (withObj (obj .sealed) serv)
    let d := s.dev
    let e := c.entry
    Ready s 0 0x14 c ∧
    Owns s c (obj .sealed) ∧
    e.fld 0x24 0 1 = 1 ∧
    e.w32 0x20 = 0 ∧
    (∀ p ∈ (obj .sealed).releasable, d.releaseStop e.ha p.1 p.2 = none) := by
  intros; exact ⟨ready_of rfl (by decide +kernel), ⟨by decide +kernel, by decide +kernel, by decide +kernel, by decide +kernel, .inl (by decide +kernel)⟩, by decide +kernel⟩

/-- `OBJ_CLONE` of a sealed version without tiles. -/
theorem test_witness_obj_clone :
    let c := cmdOf (ent [(0, 0x15), (8, 256), (32, 1)]) 0
    let s := withCmd c (withObj (obj .sealed) dFar)
    let d := s.dev
    let e := c.entry
    Ready s 0 0x15 c ∧
    Sees s c (e.w32 0x20) (obj .sealed) ∧
    resolveSealed (obj .sealed) c.tenant (e.w32 0x20) 0x20 = .ok 1 ∧
    halvesFor c.half (e.fld 0x25 0 8) d = .ok [0, 1] ∧
    checkRoom (obj .sealed) true d = .ok () ∧
    checkQuota c.tenant 0 0 (d.farCost (((ver1 .sealed).tiles.map fun p => d.sectors p.2.sid).sum)) d = .ok () ∧
    chooseHalf 0 (d.farCost (((ver1 .sealed).tiles.map fun p => d.sectors p.2.sid).sum)) d [0, 1] = .ok 0 ∧
    (∃ a, copyTiles (addObj { obj .sealed with tenant := c.tenant, half := 0, vers := [], top := 1, grants := [] } d).1 { obj .sealed with tenant := c.tenant, half := 0, vers := [], top := 1, grants := [] } (ver1 .sealed).tiles [] [] (addObj { obj .sealed with tenant := c.tenant, half := 0, vers := [], top := 1, grants := [] } d).2 = some a) ∧
    d.keyless (obj .sealed).tenant = false ∧
    d.anyDamaged e.ha 1 = false ∧
    (obj .sealed).vers.get? 1 = some (ver1 .sealed) := by
  intros; exact ⟨ready_of rfl (by decide +kernel), ⟨by decide +kernel, by decide +kernel, .inl (by decide +kernel), .inl (by decide +kernel)⟩, ok_of (by decide +kernel), ok_of (by decide +kernel), ok_of (by decide +kernel), ok_of (by decide +kernel), ok_of (by decide +kernel), some_of (by decide +kernel), by decide +kernel⟩

/-- `OBJ_QUERY` of the object. -/
theorem test_witness_obj_query_object :
    let c := cmdOf (ent [(0, 0x16), (8, 256), (32, 1)]) 0
    let s := withCmd c (withObj (obj .sealed) serv)
    let d := s.dev
    let e := c.entry
    let x : Ctx := ⟨0, c⟩
    Ready s 0 0x16 c ∧
    Sees s c 0 (obj .sealed) ∧
    c.fits (objRecord x e.ha (obj .sealed) d) ∧
    e.b20 = 1 := by
  intros; exact ⟨ready_of rfl (by decide +kernel), ⟨by decide +kernel, by decide +kernel, .inl (by decide +kernel), .inl (by decide +kernel)⟩, .inl (by decide +kernel), by decide +kernel⟩

/-- `OBJ_QUERY` of its version. -/
theorem test_witness_obj_query_version :
    let c := cmdOf (ent [(0, 0x16), (8, 256), (32, 2), (36, 1)]) 0
    let s := withCmd c (withObj (obj .sealed) serv)
    let e := c.entry
    Ready s 0 0x16 c ∧
    Sees s c (e.w32 0x24) (obj .sealed) ∧
    resolveRead (obj .sealed) c.tenant (e.w32 0x24) 0x24 = .ok 1 ∧
    c.fits (verRecord (ver1 .sealed)) ∧
    e.b20 = 2 ∧
    (obj .sealed).vers.get? 1 = some (ver1 .sealed) := by
  intros; exact ⟨ready_of rfl (by decide +kernel), ⟨by decide +kernel, by decide +kernel, .inl (by decide +kernel), .inl (by decide +kernel)⟩, ok_of (by decide +kernel), .inl (by decide +kernel), by decide +kernel⟩

/-- `OBJ_QUERY` of its tile as coded. -/
theorem test_witness_obj_query_tile :
    let c := cmdOf (ent [(0, 0x16), (8, 256), (32, 3)]) 0
    let s := withCmd c (withObj (obj .sealed) serv)
    let d := s.dev
    let e := c.entry
    Ready s 0 0x16 c ∧
    Sees s c 0 (obj .sealed) ∧
    c.fits ((codeTile (obj .sealed).fmt (obj .sealed).tr (obj .sealed).tc (d.tileAt e.ha 1 (e.w32 0x28)).1).1) ∧
    e.b20 = 3 ∧
    (obj .sealed).latest c.tenant = some 1 ∧
    e.w32 0x28 < (obj .sealed).count := by
  intros; exact ⟨ready_of rfl (by decide +kernel), ⟨by decide +kernel, by decide +kernel, .inl (by decide +kernel), .inl (by decide +kernel)⟩, .inl (by decide +kernel), by decide +kernel⟩

/-- `OBJ_QUERY` of its provenance. -/
theorem test_witness_obj_query_prov :
    let c := cmdOf (ent [(0, 0x16), (8, 256), (32, 4), (36, 1), (40, 192)]) 0
    let s := withCmd c (withObj (obj .sealed) serv)
    let e := c.entry
    let x : Ctx := ⟨0, c⟩
    Ready s 0 0x16 c ∧
    Sees s c (e.w32 0x24) (obj .sealed) ∧
    resolveSealed (obj .sealed) c.tenant (e.w32 0x24) 0x24 = .ok 1 ∧
    c.fits ((provRecord x (ver1 .sealed) (e.w32 0x28)).1) ∧
    e.b20 = 4 ∧
    (obj .sealed).vers.get? 1 = some (ver1 .sealed) ∧
    192 ≤ e.w32 0x28 := by
  intros; exact ⟨ready_of rfl (by decide +kernel), ⟨by decide +kernel, by decide +kernel, .inl (by decide +kernel), .inl (by decide +kernel)⟩, ok_of (by decide +kernel), .inl (by decide +kernel), by decide +kernel⟩

/-- `SHARE_GROUP_SET` of a group. -/
theorem test_witness_share_define :
    let c := cmdOf (ent [(0, 0x93), (33, 2), (34, 3)]) 0
    let s := withCmd c (serv)
    let d := s.dev
    let e := c.entry
    Ready s 0 0x93 c ∧
    e.b20 = 0 ∧
    d.cxl.groups.has (e.fld 0x21 0 8) = false := by
  intros; exact ⟨ready_of rfl (by decide +kernel), by decide +kernel⟩

/-- `SHARE_GROUP_SET` that removes it. -/
theorem test_witness_share_remove :
    let c := cmdOf (ent [(0, 0x93), (32, 1), (33, 2)]) 0
    let s := withCmd c (serv.updCxl fun k => { k with groups := [(2, 3)] })
    let d := s.dev
    let e := c.entry
    Ready s 0 0x93 c ∧
    e.b20 = 1 ∧
    d.cxl.groups.has (e.fld 0x21 0 8) = true ∧
    (d.cxl.exts.any fun p => p.2.target == 0x10 + e.fld 0x21 0 8) = false := by
  intros; exact ⟨ready_of rfl (by decide +kernel), by decide +kernel⟩

/-- `EXTENT_ASSIGN` of a window of 2 MiB. -/
theorem test_witness_extent_window :
    let c := cmdOf (ent [(0, 0x90), (32, 1), (33, 3), (48, 2097152)]) 0
    let s := withCmd c (serv)
    let d := s.dev
    let e := c.entry
    Ready s 0 0x90 c ∧
    e.b20 = 1 ∧
    d.defined (e.fld 0x22 0 10) = true ∧
    (e.fld 0x21 0 8 < 4 ∨ d.cxl.groups.has (e.fld 0x21 0 8 - 0x10) = true) ∧
    e.w64 0x28 % 2 ^ 21 = 0 ∧
    e.w64 0x30 % 2 ^ 21 = 0 ∧
    e.w64 0x30 ≠ 0 ∧
    e.w64 0x28 + e.w64 0x30 ≤ windowLimit ∧
    d.labelOf (e.fld 0x22 0 10) (e.fld 0x24 0 12) = true ∧
    (d.cxl.exts.find? fun p => d.extOverlaps (d.targetHosts (e.fld 0x21 0 8)) (e.w64 0x28) (e.w64 0x30) p.2) = none ∧
    d.cxl.exts.length < 4096 ∧
    d.objectCount < 16777216 := by
  intros; exact ⟨ready_of rfl (by decide +kernel), by decide +kernel⟩

/-- `EXTENT_ASSIGN` of a writable extent of 2 MiB. -/
theorem test_witness_extent_writable :
    let c := cmdOf (ent [(0, 0x90), (33, 3), (48, 2097152)]) 0
    let s := withCmd c (serv)
    let d := s.dev
    let e := c.entry
    Ready s 0 0x90 c ∧
    halvesFor c.half (e.fld 0x26 0 8) d = .ok [0, 1] ∧
    checkQuota (e.fld 0x22 0 10) 0 (e.w64 0x30) 0 d = .ok () ∧
    chooseHalf (e.w64 0x30) 0 d [0, 1] = .ok 0 ∧
    e.b20 = 0 ∧
    d.defined (e.fld 0x22 0 10) = true ∧
    (e.fld 0x21 0 8 < 4 ∨ d.cxl.groups.has (e.fld 0x21 0 8 - 0x10) = true) ∧
    e.w64 0x28 % 2 ^ 21 = 0 ∧
    e.w64 0x30 % 2 ^ 21 = 0 ∧
    e.w64 0x30 ≠ 0 ∧
    e.w64 0x28 + e.w64 0x30 ≤ windowLimit ∧
    d.labelOf (e.fld 0x22 0 10) (e.fld 0x24 0 12) = true ∧
    (d.cxl.exts.find? fun p => d.extOverlaps (d.targetHosts (e.fld 0x21 0 8)) (e.w64 0x28) (e.w64 0x30) p.2) = none ∧
    d.cxl.exts.length < 4096 ∧
    d.objectCount < 16777216 := by
  intros; exact ⟨ready_of rfl (by decide +kernel), ok_of (by decide +kernel), ok_of (by decide +kernel), ok_of (by decide +kernel), by decide +kernel⟩

/-- An extent of 2 MiB of host 0, writable or a window, of tenant 0. -/
def ext (writable : Bool) : Extent :=
  { writable := writable, target := 0, tenant := 0, qos := 0, half := 0, offset := 0, length := 2097152, serial := 0, lines := []
    poison := [], revoker := none, lostIn := 0, hostLost := false }

/-- The first extent handle of tenant 0. -/
def extH : Nat := mkHandle 0 6 1

/-- A device with that extent. -/
def withExt (w : Extent) (d : Dev) : Dev := d.updCxl fun k => { k with exts := [(extH, w)] }

/-- `EXTENT_REVOKE`. -/
theorem test_witness_extent_revoke :
    let c := cmdOf (ent [(0, 0x91), (8, extH)]) 0
    let s := withCmd c (withExt (ext true) serv)
    let d := s.dev
    let e := c.entry
    Ready s 0 0x91 c ∧
    hTenant e.ha = c.tenant ∧
    d.ext? e.ha = some (ext true) ∧
    (ext true).revoker = none := by
  intros; exact ⟨ready_of rfl (by decide +kernel), by decide +kernel⟩

/-- `OBJ_MAP_HOST` of a sealed version at the start of a window. -/
theorem test_witness_obj_map :
    let c := cmdQ (ent [(0, 0x17), (8, 256), (16, extH), (32, 1)]) 0
    let s := withCmdQ c (withObj (obj .sealed) (withExt (ext false) serv))
    let d := s.dev
    let e := c.entry
    let x : Ctx := ⟨0, c⟩
    Ready s 0 0x17 c ∧
    Sees s c (e.w32 0x20) (obj .sealed) ∧
    resolveSealed (obj .sealed) c.tenant (e.w32 0x20) 0x20 = .ok 1 ∧
    hTenant e.hb = c.tenant ∧
    d.ext? e.hb = some (ext false) ∧
    (ext false).writable = false ∧
    (ext false).tenant = c.tenant ∧
    (ext false).revoker = none ∧
    (x.fn? d).map (· / 256) = some (ext false).target ∧
    d.keyless (obj .sealed).tenant = false ∧
    e.w64 0x28 % 4096 = 0 ∧
    e.w64 0x28 + roundUp ((obj .sealed).count * (obj .sealed).canon) 4096 ≤ (ext false).length ∧
    (d.cxl.maps.find? fun p => p.2.ext == e.hb && overlaps p.2.offset p.2.length (e.w64 0x28) 4096) = none ∧
    d.cxl.maps.length < 65536 := by
  intros; exact ⟨ready_of rfl (by decide +kernel), ⟨by decide +kernel, by decide +kernel, .inl (by decide +kernel), .inl (by decide +kernel)⟩, ok_of (by decide +kernel), by decide +kernel⟩

/-- `OBJ_UNMAP_HOST`. -/
theorem test_witness_obj_unmap :
    let c := cmdQ (ent [(0, 0x18)]) 0
    let s := withCmdQ c ((withExt (ext false) serv).updCxl fun k => { k with maps := [(0, { ext := extH, obj := 0x100, ver := 1, offset := 0, length := 4096, tenant := 0, closer := none })] })
    let d := s.dev
    let e := c.entry
    Ready s 0 0x18 c ∧
    d.cxl.maps.get? (e.w32 0x20) = some { ext := extH, obj := 0x100, ver := 1, offset := 0, length := 4096, tenant := 0, closer := none } := by
  intros; exact ⟨ready_of rfl (by decide +kernel), by decide +kernel⟩

/-- The loss of host port 0. -/
def lossEv : LossEvent := { port := 0, whole := true, lines := [] }

/-- `HOST_LOSS_ACK` that closes an event. -/
theorem test_witness_loss_ack :
    let c := cmdOf (ent [(0, 0x92), (32, 1), (36, 7)]) 0
    let s := withCmd c ((serv.updCxl fun k => { k with events := [(7, lossEv)] }))
    let d := s.dev
    let e := c.entry
    Ready s 0 0x92 c ∧
    e.b20 = 1 ∧
    d.cxl.events.get? (e.w32 0x24) = some lossEv := by
  intros; exact ⟨ready_of rfl (by decide +kernel), by decide +kernel⟩

/-- `HOST_LOSS_ACK` that lists its ranges. -/
theorem test_witness_loss_list :
    let c := cmdOf (ent [(0, 0x92), (36, 7), (44, 1)]) 0
    let s := withCmd c ((serv.updCxl fun k => { k with events := [(7, lossEv)] }))
    let d := s.dev
    let e := c.entry
    Ready s 0 0x92 c ∧
    c.fits (((lossEv.ranges.1.drop (e.w32 0x28)).take (e.w32 0x2C)).flatMap (rangeEntry lossEv.ranges.2)) ∧
    e.b20 = 0 ∧
    d.cxl.events.get? (e.w32 0x24) = some lossEv := by
  intros; exact ⟨ready_of rfl (by decide +kernel), .inl (by decide +kernel), by decide +kernel⟩

/-- `POISON_CLEAR` of an extent's last line. -/
theorem test_witness_poison_extent :
    let c := cmdOf (ent [(0, 0x84), (8, extH), (40, 2097088), (48, 64)]) 0
    let s := withCmd c (withExt (ext true) serv)
    let d := s.dev
    let e := c.entry
    Ready s 0 0x84 c ∧
    isExtent e.ha = true ∧
    hTenant e.ha = c.tenant ∧
    d.ext? e.ha = some (ext true) ∧
    (ext true).writable = true ∧
    (ext true).revoker = none ∧
    d.pwr.sable = false ∧
    e.w64 0x28 % 64 = 0 ∧
    e.w64 0x30 % 64 = 0 ∧
    e.w64 0x28 + e.w64 0x30 ≤ (ext true).length ∧
    d.keyless (ext true).tenant = false := by
  intros; exact ⟨ready_of rfl (by decide +kernel), by decide +kernel⟩

/-- An object whose open version has its one tile marked damaged. -/
def objDmg : Obj := { obj .opened with
  vers := [(1, { Version.fresh true 0 0 0 0 with tiles := [(0, { data := [], sid := 0, dmg := true, prod := 0 })] })] }

/-- `POISON_CLEAR` of a damaged tile. -/
theorem test_witness_poison_tiles :
    let c := cmdOf (ent [(0, 0x84), (8, (mkHandle 0 1 1)), (32, 1), (40, 1)]) 0
    let s := withCmd c (serv.updObjs fun t => { t with objs := [(mkHandle 0 1 1, objDmg)] })
    let d := s.dev
    let e := c.entry
    Ready s 0 0x84 c ∧
    Owns s c objDmg ∧
    (∃ w : Version, objDmg.vers.get? (e.w32 0x20) = some w ∧ w.st = .opened ∧ w.damaged = false ∧ w.external.isSome = true) ∧
    isExtent e.ha = false ∧
    e.w32 0x20 ≠ 0 ∧
    e.w32 0x24 + e.w32 0x28 ≤ objDmg.count ∧
    d.keyless objDmg.tenant = false ∧
    d.damagedIn e.ha (e.w32 0x20) (e.w32 0x24) (e.w32 0x28) ≠ [] := by
  intros; exact ⟨ready_of rfl (by decide +kernel), ⟨by decide +kernel, by decide +kernel, by decide +kernel, by decide +kernel, .inl (by decide +kernel)⟩, some_sat (p := fun w : Version => w.st = .opened ∧ w.damaged = false ∧ w.external.isSome = true) (by decide +kernel), by decide +kernel⟩

/-- `RESIDE` that does not wait. -/
theorem test_witness_reside :
    let c := cmdOf (ent [(0, 0x20), (8, 256), (32, 1), (40, 1)]) 0
    let s := withCmd c (withObj (obj .sealed) serv)
    let d := s.dev
    let e := c.entry
    Ready s 0 0x20 c ∧
    Sees s c (e.w32 0x20) (obj .sealed) ∧
    resolveSealed (obj .sealed) c.tenant (e.w32 0x20) 0x20 = .ok 1 ∧
    checkQuota c.tenant 0 (((fromTo (e.w32 0x24) (e.w32 0x28)).map (d.sidOf e.ha 1)).map d.copySize).sum 0 d = .ok () ∧
    e.w32 0x24 + e.w32 0x28 ≤ (obj .sealed).count ∧
    d.tiers.claims.length < 1048576 ∧
    d.short (obj .sealed).half (d.absentBytes ((fromTo (e.w32 0x24) (e.w32 0x28)).map (d.sidOf e.ha 1))) 0 = (0, 0) ∧
    e.fld 0x2C 0 1 = 0 := by
  intros; exact ⟨ready_of rfl (by decide +kernel), ⟨by decide +kernel, by decide +kernel, .inl (by decide +kernel), .inl (by decide +kernel)⟩, ok_of (by decide +kernel), ok_of (by decide +kernel), by decide +kernel⟩

/-- `RESIDE` that waits, of a tile never written. -/
theorem test_witness_reside_ready :
    let c := cmdOf (ent [(0, 0x20), (8, 256), (32, 1), (40, 1), (44, 1)]) 0
    let s := withCmd c (withObj (obj .sealed) serv)
    let d := s.dev
    let e := c.entry
    let k : Claim := { tenant := c.tenant, obj := e.ha, ver := 1, first := e.w32 0x24, count := e.w32 0x28, charge := (((fromTo (e.w32 0x24) (e.w32 0x28)).map (d.sidOf e.ha 1)).map d.copySize).sum, qos := e.qos, waiter := none }
    let d0 := d.updTiers fun t => { t with claims := Map.set (d.tiers.claims.firstFree 0) k t.claims }
    let d1 := holdRange e.qos e.ha 1 (e.w32 0x24) (e.w32 0x28) (d0.pickStack 0 []) d0
    Ready s 0 0x20 c ∧
    Sees s c (e.w32 0x20) (obj .sealed) ∧
    resolveSealed (obj .sealed) c.tenant (e.w32 0x20) 0x20 = .ok 1 ∧
    checkQuota c.tenant 0 (((fromTo (e.w32 0x24) (e.w32 0x28)).map (d.sidOf e.ha 1)).map d.copySize).sum 0 d = .ok () ∧
    e.w32 0x24 + e.w32 0x28 ≤ (obj .sealed).count ∧
    d.tiers.claims.length < 1048576 ∧
    d.short (obj .sealed).half (d.absentBytes ((fromTo (e.w32 0x24) (e.w32 0x28)).map (d.sidOf e.ha 1))) 0 = (0, 0) ∧
    e.fld 0x2C 0 1 = 1 ∧
    d1.claimReady k = true := by
  intros; exact ⟨ready_of rfl (by decide +kernel), ⟨by decide +kernel, by decide +kernel, .inl (by decide +kernel), .inl (by decide +kernel)⟩, ok_of (by decide +kernel), ok_of (by decide +kernel), by decide +kernel⟩

/-- A sealed object whose one tile is stored in one sector of group 0, and its stored form in a state of the near tier. -/
def objStored : Obj := { obj .sealed with
  vers := [(1, { Version.fresh true 0 0 0 0 with
    st := .sealed, tiles := [(0, { data := [1] ++ zeros 1023, sid := 1, dmg := false, prod := 0 })] })] }

def storedAs (n : Near) : Stored :=
  { obj := 0x100, tile := 0, data := [1] ++ zeros 1023, fmt := 1, tr := 0, tc := 0, len := 200, sectors := 1, damaged := false, serial := 0, group := 0
    places := [(0, 0, 1)], near := n, stack := 0, fixed := false }

/-- A device that holds them. -/
def withStored (n : Near) : Dev := (withObj objStored dFar).updObjs fun t => { t with
  stored := [(1, storedAs n)], nextSid := 2 }

/-- `RESIDE` that waits, of a tile in the far tier. -/
theorem test_witness_reside_waits :
    let c := cmdOf (ent [(0, 0x20), (8, 256), (32, 1), (40, 1), (44, 1)]) 0
    let s := withCmd c (withStored .absent)
    let d := s.dev
    let e := c.entry
    let k : Claim := { tenant := c.tenant, obj := e.ha, ver := 1, first := e.w32 0x24, count := e.w32 0x28, charge := (((fromTo (e.w32 0x24) (e.w32 0x28)).map (d.sidOf e.ha 1)).map d.copySize).sum, qos := e.qos, waiter := none }
    let d0 := d.updTiers fun t => { t with claims := Map.set (d.tiers.claims.firstFree 0) k t.claims }
    let d1 := holdRange e.qos e.ha 1 (e.w32 0x24) (e.w32 0x28) (d0.pickStack 0 []) d0
    Ready s 0 0x20 c ∧
    Sees s c (e.w32 0x20) objStored ∧
    resolveSealed objStored c.tenant (e.w32 0x20) 0x20 = .ok 1 ∧
    checkQuota c.tenant 0 (((fromTo (e.w32 0x24) (e.w32 0x28)).map (d.sidOf e.ha 1)).map d.copySize).sum 0 d = .ok () ∧
    d.short objStored.half (d.absentBytes ((fromTo (e.w32 0x24) (e.w32 0x28)).map (d.sidOf e.ha 1))) 0 = (0, 0) ∧
    e.fld 0x2C 0 1 = 1 ∧
    d1.claimReady k = false := by
  intros; exact ⟨ready_of rfl (by decide +kernel), ⟨by decide +kernel, by decide +kernel, .inl (by decide +kernel), .inl (by decide +kernel)⟩, ok_of (by decide +kernel), ok_of (by decide +kernel), by decide +kernel⟩

/-- `OBJ_READ` of a tile in the far tier. -/
theorem test_witness_obj_read_waits :
    let c := cmdOf (ent [(0, 0x12), (8, 256), (32, 1), (40, 1), (44, 1)]) 0
    let s := withCmd c (withStored .absent)
    let d := s.dev
    let e := c.entry
    Ready s 0 0x12 c ∧
    Sees s c (e.w32 0x20) objStored ∧
    resolveRead objStored c.tenant (e.w32 0x20) 0x20 = .ok 1 ∧
    layoutOk (e.w32 0x2C) objStored.th objStored.tw = true ∧
    e.w32 0x24 + e.w16 0x28 ≤ objStored.count ∧
    d.keyless objStored.tenant = false ∧
    d.verDamaged e.ha 1 = false ∧
    (askRange e.qos (d.deadlineOf e.qos) c.half e.ha 1 (e.w32 0x24) (delivSize (e.w32 0x2C) objStored.th objStored.tw) e.addr (e.w16 0x28) 0 [] [] d).2.2.1 ≠ [] := by
  intros; exact ⟨ready_of rfl (by decide +kernel), ⟨by decide +kernel, by decide +kernel, .inl (by decide +kernel), .inl (by decide +kernel)⟩, ok_of (by decide +kernel), by decide +kernel⟩

/-- `UNRESIDE`. -/
theorem test_witness_unreside :
    let c := cmdOf (ent [(0, 0x21)]) 0
    let s := withCmd c (serv.updTiers fun t => { t with claims := [(0, { tenant := 0, obj := 0x100, ver := 1, first := 0, count := 1, charge := 0, qos := 0, waiter := none })] })
    let d := s.dev
    let e := c.entry
    Ready s 0 0x21 c ∧
    d.tiers.claims.get? (e.w32 0x20) = some { tenant := 0, obj := 0x100, ver := 1, first := 0, count := 1, charge := 0, qos := 0, waiter := none } := by
  intros; exact ⟨ready_of rfl (by decide +kernel), by decide +kernel⟩

/-- `SCHEDULE_LOAD` of one entry, its data inline. -/
theorem test_witness_schedule_load :
    let c := cmdOf (ent [(0, 0x22), (32, 1), (40, 1)]) 0 (leBytes 8 0x100 ++ leBytes 4 1 ++ leBytes 4 0 ++ leBytes 4 1 ++ zeros 12)
    let s := withCmd c (withObj (obj .sealed) (serv.updSync fun y => { y with counters := [(0, { tenant := 0, val := 0 })] }))
    let d := s.dev
    let e := c.entry
    let x : Ctx := ⟨0, c⟩
    Ready s 0 0x22 c ∧
    c.inl ∧
    (∃ a, schedEnts x d (e.fld 0x30 0 48) (e.fld 0x28 0 8) (e.w32 0x2C) 0 0 (chunks 32 (e.w32 0x20) (c.input.take (32 * e.w32 0x20))) = .ok a) ∧
    d.ownsCounter c.tenant (e.fld 0x24 0 17) = true ∧
    d.pwr.sable = false ∧
    e.w32 0x20 ≠ 0 ∧
    32 * e.w32 0x20 ≤ c.input.length ∧
    d.tiers.scheds.length < 4096 ∧
    d.schedEntries + e.w32 0x20 ≤ 16777216 := by
  intros; exact ⟨ready_of rfl (by decide +kernel), by rintro _ _ ⟨⟩, some_ok (by decide +kernel), by decide +kernel⟩

/-- A schedule of tenant 0 on counter 0 with one entry, of a layer. -/
def sched : Sched :=
  { tenant := 0, half := 0, counter := 0, ahead := 0, stageA := 0, early := false, layout := 0, period := 0, port := 0, qos := 0
    ents := [{ obj := 0x100, ver := 1, first := 0, count := 1, expert := 0xFFFF, follow := false, stage := false, marker := 0, layer := 3, dead := false, occ := none, early := false, resv := 0, held := [], skips := [], staged := 0 }], hints := [], stopped := false }

/-- `SCHEDULE_DROP`. -/
theorem test_witness_schedule_drop :
    let c := cmdOf (ent [(0, 0x23)]) 0
    let s := withCmd c (withObj (obj .sealed) ((serv.updSync fun y => { y with counters := [(0, { tenant := 0, val := 0 })] }).updTiers fun t => { t with scheds := [(0, sched)] }))
    let d := s.dev
    let e := c.entry
    Ready s 0 0x23 c ∧
    d.sched? (e.w32 0x20) = some sched ∧
    sched.tenant = c.tenant := by
  intros; exact ⟨ready_of rfl (by decide +kernel), by decide +kernel⟩

/-- `ROUTE_HINT` of a layer that comes. -/
theorem test_witness_route_hint :
    let c := cmdOf (ent [(0, 0x24), (36, 3), (38, 1)]) 0
    let s := withCmd c (withObj (obj .sealed) ((serv.updSync fun y => { y with counters := [(0, { tenant := 0, val := 0 })] }).updTiers fun t => { t with scheds := [(0, sched)] }))
    let d := s.dev
    let e := c.entry
    Ready s 0 0x24 c ∧
    (∃ a, sched.layerOcc (e.w16 0x24) (d.ctrVal sched.counter) = some a) ∧
    d.sched? (e.w32 0x20) = some sched ∧
    sched.tenant = c.tenant ∧
    e.addr = 0 ∧
    badPair (hintPairs (e.bytes.drop 0x28) (e.w16 0x26)) = none := by
  intros; exact ⟨ready_of rfl (by decide +kernel), some_of (by decide +kernel), by decide +kernel⟩

/-- `ROUTE_HINT` of a layer the schedule does not have. -/
theorem test_witness_route_hint_past :
    let c := cmdOf (ent [(0, 0x24), (36, 4), (38, 1)]) 0
    let s := withCmd c (withObj (obj .sealed) ((serv.updSync fun y => { y with counters := [(0, { tenant := 0, val := 0 })] }).updTiers fun t => { t with scheds := [(0, sched)] }))
    let d := s.dev
    let e := c.entry
    Ready s 0 0x24 c ∧
    d.sched? (e.w32 0x20) = some sched ∧
    sched.tenant = c.tenant ∧
    e.addr = 0 ∧
    badPair (hintPairs (e.bytes.drop 0x28) (e.w16 0x26)) = none ∧
    sched.layerOcc (e.w16 0x24) (d.ctrVal sched.counter) = none := by
  intros; exact ⟨ready_of rfl (by decide +kernel), by decide +kernel⟩

/-- `PLACE` that reads the last 64 raw bytes before stack 0's reserve. -/
theorem test_witness_raw_read :
    let c := cmdOf (ent [(0, 0x25), (32, 2), (48, (60 * gib - 64)), (56, 64)]) 0
    let s := withCmd c (recov)
    let d := s.dev
    let e := c.entry
    Ready s 0 0x25 c ∧
    c.fits ((rawRead (e.w64 0x30) (e.w32 0x38) d).1) ∧
    e.w64 0x30 % 64 = 0 ∧
    e.w32 0x38 % 64 = 0 ∧
    e.w32 0x38 ≤ 2 ^ 24 ∧
    d.hasMem (e.w64 0x30) (e.w32 0x38) = true ∧
    e.b20 = 2 := by
  intros; exact ⟨ready_of rfl (by decide +kernel), .inl (by decide +kernel), by decide +kernel⟩

/-- `PLACE` that writes them. -/
theorem test_witness_raw_write :
    let c := cmdOf (ent [(0, 0x25), (32, 3), (48, (60 * gib - 64)), (56, 64)]) 0 (zeros 64)
    let s := withCmd c (recov)
    let d := s.dev
    let e := c.entry
    Ready s 0 0x25 c ∧
    c.inl ∧
    e.w64 0x30 % 64 = 0 ∧
    e.w32 0x38 % 64 = 0 ∧
    e.w32 0x38 ≤ 2 ^ 24 ∧
    d.hasMem (e.w64 0x30) (e.w32 0x38) = true ∧
    e.b20 = 3 ∧
    e.w32 0x38 ≠ 0 ∧
    (fromTo (e.w64 0x30) (e.w32 0x38)).any d.rawBarred = false ∧
    e.w32 0x38 ≤ c.input.length := by
  intros; exact ⟨ready_of rfl (by decide +kernel), by rintro _ _ ⟨⟩, by decide +kernel⟩

/-- `PLACE` that pins a tile in the near tier. -/
theorem test_witness_place_pin :
    let c := cmdOf (ent [(0, 0x25), (8, 256), (36, 1), (44, 1), (32, 0)]) 0
    let s := withCmd c (((withStored .absent).updPwr fun p => { p with mode := .recovery }))
    let d := s.dev
    let e := c.entry
    let x : Ctx := ⟨0, c⟩
    Ready s 0 0x25 c ∧
    Sees s c (e.w32 0x24) objStored ∧
    resolveSealed objStored c.tenant (e.w32 0x24) 0x24 = .ok 1 ∧
    (∃ a b, pinTiles x objStored 1 d = .ok (.done a b) ∧ a.bytes ≤ 4032) ∧
    e.w32 0x28 + e.w32 0x2C ≤ objStored.count ∧
    e.b20 = 0 := by
  intros; exact ⟨ready_of rfl (by decide +kernel), ⟨by decide +kernel, by decide +kernel, .inl (by decide +kernel), .inl (by decide +kernel)⟩, ok_of (by decide +kernel), done_of (by decide +kernel), by decide +kernel⟩

/-- `PLACE` that takes the pin away. -/
theorem test_witness_place_unpin :
    let c := cmdOf (ent [(0, 0x25), (8, 256), (36, 1), (44, 1), (32, 1)]) 0
    let s := withCmd c (((withStored .absent).updPwr fun p => { p with mode := .recovery }).updTiers fun t => { t with pins := [{ obj := 0x100, ver := 1, first := 0, count := 1, near := true, fixed := false, qos := 0, set := [], charge := 0 }] })
    let d := s.dev
    let e := c.entry
    Ready s 0 0x25 c ∧
    Sees s c (e.w32 0x24) objStored ∧
    resolveSealed objStored c.tenant (e.w32 0x24) 0x24 = .ok 1 ∧
    (∃ a b, unpinTiles e 1 d = .ok (.done a b) ∧ a.bytes ≤ 4032) ∧
    e.w32 0x28 + e.w32 0x2C ≤ objStored.count ∧
    e.b20 = 1 := by
  intros; exact ⟨ready_of rfl (by decide +kernel), ⟨by decide +kernel, by decide +kernel, .inl (by decide +kernel), .inl (by decide +kernel)⟩, ok_of (by decide +kernel), done_of (by decide +kernel), by decide +kernel⟩

/-- `EVACUATE` of a device without objects. -/
theorem test_witness_evacuate :
    let c := cmdOf (ent [(0, 0x19), (40, 64)]) 0
    let s := withCmd c (serv)
    let d := s.dev
    let e := c.entry
    Ready s 0 0x19 c ∧
    (let all := d.evacList fun h o => e.b20 == 0 || (e.b20 == 1 && o.tenant == e.fld 0x22 0 10) || (e.b20 == 2 && h == e.ha)
     let seen := all.filter fun p => e.b20 != 2 || (match d.obj? p.2.1 with
       | some o => o.tenant == c.tenant || o.covers c.tenant p.2.2
       | none => false)
     let r := (evacAll d c.half (e.w64 0x28 - 64) seen { data := [], vers := 0, path := 0, keys := 0, tiles := 0, dmg := 0 }).1
     c.fits (r.data ++ (leBytes 8 r.data.length ++ leBytes 8 0 ++ leBytes 4 r.vers ++ leBytes 4 r.path ++ leBytes 4 r.keys ++
       leBytes 4 r.tiles ++ leBytes 4 r.dmg ++ zeros 28))) ∧
    e.b20 = 0 ∧
    64 ≤ e.w64 0x28 ∧
    e.w64 0x30 = 0 := by
  intros; exact ⟨ready_of rfl (by decide +kernel), .inl (by decide +kernel), by decide +kernel⟩

/-- Port 0 bound, with tenant 0. -/
def portUp (d : Dev) : Dev := d.updPort 0 fun p => { p with bound := true, tenants := [0] }

/-- An idle TILE_RD stream of tenant 0, a REDUCE one of reduction 0, and one. -/
def strm (st : StrState) (hw : Bool) : Stream :=
  { kind := 0, unord := false, port := 0, tenant := 0, half := 0, obj := 0x100, ver := 1, layout := 0, maxOut := 1, binding := 0
    source := 0, qos := 0, opener := none, openCmd := none, st := st, hw := hw, hstat := 0, herr := 0, done := 0, touch := 0
    reqs := [], parts := [], drops := [], acks := [], batchIn := [], batches := [], closeCmd := none, abortC := false
    restoring := false, stall := none, held := [], nextReq := 0 }

/-- A device with a stream, number 0, over a sealed version. -/
def withStr (s : Stream) : Dev := (portUp (withObj (obj .sealed) serv)).updStrs fun t => { t with strs := [(0, s)] }

/-- `STREAM_OPEN` of a TILE_RD stream. -/
theorem test_witness_stream_open :
    let c := cmdOf (ent [(0, 0x30), (8, 256), (36, 1), (44, 1)]) 0
    let s := withCmd c (portUp (withObj (obj .sealed) serv))
    let d := s.dev
    let x : Ctx := ⟨0, c⟩
    Ready s 0 0x30 c ∧
    openChecks x d = .ok 1 := by
  intros; exact ⟨ready_of rfl (by decide +kernel), ok_of (by decide +kernel)⟩

/-- `STREAM_OPEN` of a TILE_WR stream. -/
theorem test_witness_stream_open_write :
    let c := cmdOf (ent [(0, 0x30), (32, 1), (8, 256), (36, 1), (44, 1)]) 0
    let s := withCmd c (portUp (withObj (obj .opened) serv))
    let d := s.dev
    let x : Ctx := ⟨0, c⟩
    Ready s 0 0x30 c ∧
    openChecks x d = .ok 1 := by
  intros; exact ⟨ready_of rfl (by decide +kernel), ok_of (by decide +kernel)⟩

/-- `STREAM_CLOSE` of an active stream. -/
theorem test_witness_stream_close :
    let c := cmdOf (ent [(0, 0x31)]) 0
    let s := withCmd c (withStr (strm .active true))
    let d := s.dev
    let e := c.entry
    Ready s 0 0x31 c ∧
    d.str? (e.w32 0x20) = some (strm .active true) ∧
    (strm .active true).tenant = c.tenant ∧
    (strm .active true).hw = true ∧
    (strm .active true).st ≠ .opening ∧
    (strm .active true).st ≠ .closing := by
  intros; exact ⟨ready_of rfl (by decide +kernel), by decide +kernel⟩

/-- `STREAM_CLOSE` of a parked one, with abort. -/
theorem test_witness_stream_close_abort :
    let c := cmdOf (ent [(0, 0x31), (36, 1)]) 0
    let s := withCmd c (withStr (strm .parked false))
    let d := s.dev
    let e := c.entry
    Ready s 0 0x31 c ∧
    d.str? (e.w32 0x20) = some (strm .parked false) ∧
    (strm .parked false).tenant = c.tenant ∧
    (strm .parked false).hw = false ∧
    (strm .parked false).st ≠ .opening ∧
    (strm .parked false).st ≠ .closing ∧
    e.fld 0x24 0 1 = 1 := by
  intros; exact ⟨ready_of rfl (by decide +kernel), by decide +kernel⟩

/-- `STREAM_QUERY`. -/
theorem test_witness_stream_query :
    let c := cmdOf (ent [(0, 0x32)]) 0
    let s := withCmd c (withStr (strm .active true))
    let d := s.dev
    let e := c.entry
    Ready s 0 0x32 c ∧
    c.fits (d.streamRecord { strm .active true with touch := d.now }) ∧
    d.str? (e.w32 0x20) = some (strm .active true) ∧
    (strm .active true).tenant = c.tenant ∧
    (strm .active true).hw = true := by
  intros; exact ⟨ready_of rfl (by decide +kernel), .inl (by decide +kernel), by decide +kernel⟩

/-- `STREAM_QUERY` of a parked stream. -/
theorem test_witness_stream_query_parked :
    let c := cmdOf (ent [(0, 0x32)]) 0
    let s := withCmd c (withStr (strm .parked false))
    let d := s.dev
    let e := c.entry
    Ready s 0 0x32 c ∧
    d.str? (e.w32 0x20) = some (strm .parked false) ∧
    (strm .parked false).tenant = c.tenant ∧
    (strm .parked false).hw = false ∧
    (strm .parked false).st ≠ .opening := by
  intros; exact ⟨ready_of rfl (by decide +kernel), by decide +kernel⟩

/-- An accumulator of one tile with version 1 open, type 3. -/
def objRed : Obj := { obj .opened with typ := 3 }

/-- A device that holds it, and a counter of tenant 0. -/
def withAcc : Dev := (withObj objRed serv).updSync fun y => { y with counters := [(0, { tenant := 0, val := 0 })] }

/-- A reduction over it, with one source. -/
def red0 : Red :=
  { tenant := 0, obj := 0x100, ver := 1, first := 0, count := 1, n := 1, e := 0, cfmt := 1, window := 1, fast := true, counter := 0, qos := 0
    base := 0, retired := 0, slots := [], charge := 0, sources := [{ target := 0, batch := 0, owed := 0, stream := none }]
    tiles := [], done := [], finish := none, finTick := 0, finSeal := false, ended := none, prod := 0 }

/-- A device with it, number 0. -/
def withRed : Dev := { withAcc with reds := { reds := [(0, red0)], gens := [(0, 0)] } }

/-- `REDUCE_OPEN` without sources' data. -/
theorem test_witness_reduce_open :
    let c := cmdOf (ent [(0, 0x40), (8, 256), (32, 1), (40, 1), (44, 1), (47, 1), (48, 1), (50, 1)]) 0
    let s := withCmd c (withAcc)
    let d := s.dev
    let e := c.entry
    let x : Ctx := ⟨0, c⟩
    Ready s 0 0x40 c ∧
    redChecks x d = .ok (objRed, ver1 .opened) ∧
    checkQuota c.tenant (slotsFor (e.w16 0x30) objRed.n * 262144) 0 0 d = .ok () ∧
    e.addr = 0 ∧
    (ver1 .opened).staged = true ∧
    (d.strs.strs.any fun p => p.2.kind == 1 && p.2.obj == e.ha && p.2.ver == e.w32 0x20) = false ∧
    d.runOutput e.ha (e.w32 0x20) = false ∧
    d.reds.reds = [] ∧
    d.retireCtr (e.fld 0x34 0 17) = false ∧
    d.tiers.scheds = [] ∧
    (ver1 .opened).full = false ∧
    (d.takeSlots objRed.half (slotsFor (e.w16 0x30) objRed.n)).length = slotsFor (e.w16 0x30) objRed.n := by
  intros; exact ⟨ready_of rfl (by decide +kernel), ok_of (by decide +kernel), ok_of (by decide +kernel), by decide +kernel⟩

/-- `REDUCE_OPEN` whose sources come from the host. -/
theorem test_witness_reduce_open_read :
    let c := cmdQ (ent [(0, 0x40), (8, 256), (32, 1), (40, 1), (44, 1), (47, 1), (48, 1), (50, 1), (24, 4096)]) 0
    let s := withCmdQ c (withAcc)
    let d := s.dev
    let e := c.entry
    let x : Ctx := ⟨0, c⟩
    Ready s 0 0x40 c ∧
    redChecks x d = .ok (objRed, ver1 .opened) ∧
    e.addr ≠ 0 ∧
    e.w16 0x2C ≠ 0 := by
  intros; exact ⟨ready_of rfl (by decide +kernel), ok_of (by decide +kernel), by decide +kernel⟩

/-- `REDUCE_FINISH`. -/
theorem test_witness_reduce_finish :
    let c := cmdOf (ent [(0, 0x41), (36, 1)]) 0
    let s := withCmd c (withRed)
    let d := s.dev
    let e := c.entry
    Ready s 0 0x41 c ∧
    d.red? (e.w32 0x20) = some red0 ∧
    red0.tenant = c.tenant ∧
    red0.finish = none := by
  intros; exact ⟨ready_of rfl (by decide +kernel), by decide +kernel⟩

/-- `REDUCE_ABORT`. -/
theorem test_witness_reduce_abort :
    let c := cmdOf (ent [(0, 0x42)]) 0
    let s := withCmd c (withRed)
    let d := s.dev
    let e := c.entry
    Ready s 0 0x42 c ∧
    d.red? (e.w32 0x20) = some red0 ∧
    red0.tenant = c.tenant ∧
    red0.finish = none := by
  intros; exact ⟨ready_of rfl (by decide +kernel), by decide +kernel⟩

/-- A kernel header of one phase of one slice, one word of code, 4 bytes of parameters and no arguments, with a digest. -/
def hdrOf (exec : Nat) (digest : Bytes) : Bytes :=
  [1, 1, 0] ++ leBytes 1 exec ++ leBytes 4 1 ++ zeros 16 ++ leBytes 2 4 ++ zeros 6 ++ digest ++ zeros 128 ++
    leBytes 8 (2 ^ 24 + 2 ^ 44) ++ zeros 24

/-- Its code: `END`. -/
def endCode : Bytes := leBytes 8 (word 0x01 0 0 0 0 0 false 0).toNat

/-- The binary of an executable kernel of a run, with its digest. -/
def binary : Bytes := hdrOf 0 (kernelDigest (hdrOf 0 (zeros 64)) endCode) ++ endCode

/-- A loaded kernel and a device with it, its handle, and an empty binding set 0. -/
def kern (exec : Nat) : Kernel :=
  { tenant := 0, header := hdrOf exec (zeros 64), code := wordsOf endCode, charge := 0, lib := 0, copies := [some 0, some 3] }

def kernH : Nat := mkHandle 0 5 1

def withKern (exec : Nat) : Dev := serv.updComp fun m => { m with
  kernels := [(kernH, kern exec)], sets := [(0, { tenant := 0, binds := [] })] }

/-- `KERNEL_LOAD` of the first library kernel; whether there is room depends on its length, which is open (log entry 7). -/
theorem test_witness_kernel_load_lib :
    let c := cmdOf (ent [(0, 0x50), (36, 1), (38, 16)]) 0
    let s := withCmd c (serv)
    let d := s.dev
    let e := c.entry
    Ready s 0 0x50 c ∧
    d.comp.kernels.length < 16384 ∧
    d.objectCount < 16777216 ∧
    e.fld 0x24 0 8 = 1 ∧
    e.w16 0x26 ∈ libIds := by
  intros; exact ⟨ready_of rfl (by decide +kernel), by decide +kernel⟩

/-- `KERNEL_LOAD` of a binary of one word, its data inline. -/
theorem test_witness_kernel_load :
    let c := cmdOf (ent [(0, 0x50), (32, 264)]) 0 binary
    let s := withCmd c (serv)
    let d := s.dev
    let e := c.entry
    Ready s 0 0x50 c ∧
    c.inl ∧
    checkQuota c.tenant 0 (roundUp (2 * 264) 4096) 0 d = .ok () ∧
    d.comp.kernels.length < 16384 ∧
    d.objectCount < 16777216 ∧
    e.fld 0x24 0 8 = 0 ∧
    264 ≤ e.w32 0x20 ∧
    e.w32 0x20 ≤ 256 + 8 * 65536 ∧
    e.w32 0x20 ≤ c.input.length ∧
    badHeader ((c.input.take (e.w32 0x20)).take 256) = none ∧
    e.w32 0x20 = 256 + 8 * hWords ((c.input.take (e.w32 0x20)).take 256) ∧
    ((wordsOf ((c.input.take (e.w32 0x20)).drop 256)).findIdx? fun w => !wordOk ((c.input.take (e.w32 0x20)).take 256) w) = none ∧
    kernelDigest ((c.input.take (e.w32 0x20)).take 256) ((c.input.take (e.w32 0x20)).drop 256) = hDigest ((c.input.take (e.w32 0x20)).take 256) ∧
    d.pwr.sable = false ∧
    (∀ half ∈ [0, 1], d.short half (roundUp 264 4096) 0 = (0, 0)) := by
  intros; exact ⟨ready_of rfl (by decide +kernel), by rintro _ _ ⟨⟩, ok_of (by decide +kernel), by decide +kernel⟩

/-- `KERNEL_RUN` on the device, its data inline. -/
theorem test_witness_kernel_run :
    let c := cmdOf (ent [(0, 0x51), (8, kernH), (60, 4)]) 0 (zeros 4)
    let s := withCmd c (withKern 0)
    let d := s.dev
    let e := c.entry
    let x : Ctx := ⟨0, c⟩
    Ready s 0 0x51 c ∧
    runKernel x d = .ok (kern 0) ∧
    (∃ a, checkRunUnit c.tenant (kern 0) (e.w32 0x20) 0x20 d = .ok a) ∧
    c.inl ∧
    (∃ a, startRun x (kern 0) [0] false (c.input.take (16 * hArgs (kern 0).header + hParams (kern 0).header)) d = .ok (.wait a)) ∧
    16 * hArgs (kern 0).header + hParams (kern 0).header ≠ 0 ∧
    16 * hArgs (kern 0).header + hParams (kern 0).header ≤ c.input.length := by
  intros; exact ⟨ready_of rfl (by decide +kernel), ok_of (by decide +kernel), some_ok (by decide +kernel), by rintro _ _ ⟨⟩, wait_of (by decide +kernel), by decide +kernel⟩

/-- `KERNEL_ABORT` of a run whose command ended with it, and of one whose command is still there. -/
theorem test_witness_kernel_abort :
    let c := cmdQ (ent [(0, 0x52)]) 0
    let s := withCmdQ c (serv.updComp fun k => { k with runs := [(0, run0 0)] })
    let d := s.dev
    let e := c.entry
    Ready s 0 0x52 c ∧
    d.comp.runs.find? (fun p => p.2.qp == e.w16 0x20 && p.2.tag == e.w16 0x22 && e.w16 0x20 != 0xFFFF) = some (0, run0 0) ∧
    (run0 0).tenant = c.tenant ∧
    (run0 0).by' = .cmd 0 ∧
    (run0 0).ending = false ∧
    ((endRun 0 .aborted 0 d).cmd? 0).isNone = false := by
  intros; exact ⟨ready_of rfl (by decide +kernel), by decide +kernel⟩

/-- `KERNEL_ABORT` of a run whose command is no longer there. -/
theorem test_witness_kernel_abort_preset :
    let c := cmdQ (ent [(0, 0x52)]) 0
    let s := withCmdQ c (serv.updComp fun k => { k with runs := [(0, { run0 0 with by' := .cmd 5 })] })
    let d := s.dev
    let e := c.entry
    Ready s 0 0x52 c ∧
    d.comp.runs.find? (fun p => p.2.qp == e.w16 0x20 && p.2.tag == e.w16 0x22 && e.w16 0x20 != 0xFFFF) = some (0, { run0 0 with by' := .cmd 5 }) ∧
    ((endRun 0 .aborted 0 d).cmd? 5).isNone = true := by
  intros; exact ⟨ready_of rfl (by decide +kernel), by decide +kernel⟩

/-- `KERNEL_UNLOAD`. -/
theorem test_witness_kernel_unload :
    let c := cmdOf (ent [(0, 0x53), (8, kernH)]) 0
    let s := withCmd c (withKern 0)
    let d := s.dev
    let e := c.entry
    Ready s 0 0x53 c ∧
    d.kernel? e.ha = some (kern 0) ∧
    (kern 0).tenant = c.tenant ∧
    (d.comp.runs.any fun p => p.2.kernel == e.ha) = false ∧
    (d.comp.sets.any fun p => p.2.binds.any fun b => b.2.kernel == e.ha) = false := by
  intros; exact ⟨ready_of rfl (by decide +kernel), by decide +kernel⟩

/-- `EXPERT_BIND` that makes a set. -/
theorem test_witness_new_set :
    let c := cmdOf (ent [(0, 0x54)]) 0
    let s := withCmd c (serv)
    let d := s.dev
    let e := c.entry
    Ready s 0 0x54 c ∧
    e.b20 = 0 ∧
    d.comp.sets.length < 4096 := by
  intros; exact ⟨ready_of rfl (by decide +kernel), by decide +kernel⟩

/-- `EXPERT_BIND` of expert 0, its data inline. -/
theorem test_witness_bind :
    let c := cmdOf (ent [(0, 0x54), (32, 1), (8, kernH), (48, 1)]) 0 (zeros 4)
    let s := withCmd c (withKern 1)
    let d := s.dev
    let e := c.entry
    let x : Ctx := ⟨0, c⟩
    Ready s 0 0x54 c ∧
    bindKernel x d = .ok (kern 1) ∧
    ownSet x d = .ok { tenant := 0, binds := [] } ∧
    c.inl ∧
    (∃ a, bindExpert x (c.input.take (16 * hArgs (kern 1).header + hParams (kern 1).header)) d = .ok (.done (Cpl.ok []) a)) ∧
    e.b20 = 1 ∧
    16 * hArgs (kern 1).header + hParams (kern 1).header ≠ 0 ∧
    16 * hArgs (kern 1).header + hParams (kern 1).header ≤ c.input.length := by
  intros; exact ⟨ready_of rfl (by decide +kernel), ok_of (by decide +kernel), ok_of (by decide +kernel), by rintro _ _ ⟨⟩, done_ok (by decide +kernel), by decide +kernel⟩

/-- A binding of an expert to it. -/
def bnd : Binding :=
  { kernel := kernH, follow := false, small := 0, large := 0, thresh := 1, din := 0, dout := 0, weights := [], params := [], times := [] }

/-- A device with set 0 of expert 0. -/
def withSet : Dev := (withKern 1).updComp fun m => { m with sets := [(0, { tenant := 0, binds := [(0, bnd)] })] }

/-- `EXPERT_BIND` that takes it away. -/
theorem test_witness_unbind :
    let c := cmdOf (ent [(0, 0x54), (32, 2)]) 0
    let s := withCmd c (withSet)
    let d := s.dev
    let e := c.entry
    let x : Ctx := ⟨0, c⟩
    Ready s 0 0x54 c ∧
    ownSet x d = .ok { tenant := 0, binds := [(0, bnd)] } ∧
    e.b20 = 2 ∧
    (d.comp.batches.any fun b => b.2.set == e.w32 0x24 && b.2.expert == e.w16 0x22 && b.2.run != 0) = false := by
  intros; exact ⟨ready_of rfl (by decide +kernel), ok_of (by decide +kernel), by decide +kernel⟩

/-- `EXPERT_BIND` that waits for its batch. -/
theorem test_witness_unbind_busy :
    let c := cmdOf (ent [(0, 0x54), (32, 2)]) 0
    let s := withCmd c (withSet.updComp fun k => { k with batches := [(1, { batch with set := 0, expert := 0, run := 1 })] })
    let d := s.dev
    let e := c.entry
    let x : Ctx := ⟨0, c⟩
    Ready s 0 0x54 c ∧
    ownSet x d = .ok { tenant := 0, binds := [(0, bnd)] } ∧
    e.b20 = 2 ∧
    (d.comp.batches.any fun b => b.2.set == e.w32 0x24 && b.2.expert == e.w16 0x22 && b.2.run != 0) = true := by
  intros; exact ⟨ready_of rfl (by decide +kernel), ok_of (by decide +kernel), by decide +kernel⟩

/-- `EXPERT_BIND` that deletes the set. -/
theorem test_witness_delete_set :
    let c := cmdOf (ent [(0, 0x54), (32, 3)]) 0
    let s := withCmd c (withSet)
    let d := s.dev
    let e := c.entry
    let x : Ctx := ⟨0, c⟩
    Ready s 0 0x54 c ∧
    ownSet x d = .ok { tenant := 0, binds := [(0, bnd)] } ∧
    e.b20 = 3 ∧
    (d.strs.strs.any fun p => p.2.kind == 3 && p.2.binding == e.w32 0x24) = false := by
  intros; exact ⟨ready_of rfl (by decide +kernel), ok_of (by decide +kernel), by decide +kernel⟩

/-- `FLAG_ALLOC` of one flag, at the lowest free ID. -/
theorem test_witness_flag_alloc :
    let c := cmdOf (ent [(0, 0x60), (32, 1), (34, 65535), (36, 255)]) 0
    let s := withCmd c (serv)
    let d := s.dev
    let e := c.entry
    Ready s 0 0x60 c ∧
    e.w16 0x22 = 0xFFFF ∧
    (d.flagIds c.tenant).length + e.w16 0x20 ≤ d.syncLimit 0 32 ∧
    (d.freeFlags (d.bestFlagDie c.half) (e.w16 0x20)).length = e.w16 0x20 ∧
    e.fld 0x24 0 8 = 0xFF ∧
    d.pwr.sable = false ∧
    firstGap (d.flagIds c.tenant) 0 0xFFFF (e.w16 0x20) = some 0 := by
  intros; exact ⟨ready_of rfl (by decide +kernel), by decide +kernel⟩

/-- `FLAG_ALLOC` of the last ID on die 0. -/
theorem test_witness_flag_alloc_at :
    let c := cmdOf (ent [(0, 0x60), (32, 1), (34, 65534)]) 0
    let s := withCmd c (serv)
    let d := s.dev
    let e := c.entry
    Ready s 0 0x60 c ∧
    e.w16 0x22 + e.w16 0x20 ≤ 0xFFFF ∧
    ((d.flagIds c.tenant).any fun i => decide (e.w16 0x22 ≤ i ∧ i < e.w16 0x22 + e.w16 0x20)) = false ∧
    (d.flagIds c.tenant).length + e.w16 0x20 ≤ d.syncLimit 0 32 ∧
    (d.freeFlags 0 (e.w16 0x20)).length = e.w16 0x20 := by
  intros; exact ⟨ready_of rfl (by decide +kernel), by decide +kernel⟩

/-- `FLAG_FREE` of a clear flag. -/
theorem test_witness_flag_free :
    let c := cmdOf (ent [(0, 0x61), (32, 1), (34, 1)]) 0
    let s := withCmd c (withSync)
    let d := s.dev
    let e := c.entry
    Ready s 0 0x61 c ∧
    d.flagRange c.tenant (e.w16 0x22) (e.w16 0x20) = some [6] ∧
    d.pwr.sable = false ∧
    d.sync.waits = [] ∧
    d.flag? 6 = some (flagAt 1 false) := by
  intros; exact ⟨ready_of rfl (by decide +kernel), by decide +kernel⟩

/-- `FLAG_SET`. -/
theorem test_witness_flag_set :
    let c := cmdOf (ent [(0, 0x62)]) 0
    let s := withCmd c (withSync)
    let d := s.dev
    let e := c.entry
    Ready s 0 0x62 c ∧
    d.physFlag c.tenant (e.w16 0x20) = some 5 ∧
    d.flag? 5 = some (flagAt 0 true) ∧
    d.pwr.sable = false ∧
    e.fld 0x22 0 8 = 0 ∧
    (flagAt 0 true).quar = false := by
  intros; exact ⟨ready_of rfl (by decide +kernel), by decide +kernel⟩

/-- `FLAG_CLEAR`. -/
theorem test_witness_flag_clear :
    let c := cmdOf (ent [(0, 0x63)]) 0
    let s := withCmd c (withSync)
    let d := s.dev
    let e := c.entry
    Ready s 0 0x63 c ∧
    d.physFlag c.tenant (e.w16 0x20) = some 5 ∧
    d.flag? 5 = some (flagAt 0 true) ∧
    d.pwr.sable = false := by
  intros; exact ⟨ready_of rfl (by decide +kernel), by decide +kernel⟩

/-- `FLAG_SET` and `FLAG_CLEAR` of an ID that names no flag of the tenant. -/
theorem test_witness_flag_refused : ∀ op ∈ [0x62, 0x63],
    let c := cmdOf (ent [(0, op), (32, 9)]) 0
    let s := withCmd c (withSync)
    Ready s 0 op c ∧
    s.dev.physFlag c.tenant (c.entry.w16 0x20) = none ∧
    c.entry.fld 0x22 0 8 = 0 := by
  intro op h
  simp only [List.mem_cons, List.not_mem_nil, or_false] at h
  rcases h with rfl | rfl <;> exact ⟨ready_of rfl (by decide +kernel), by decide +kernel⟩

/-- `FLAG_SET` that adds to a counter. -/
theorem test_witness_flag_add :
    let c := cmdOf (ent [(0, 0x62), (34, 1), (40, 1)]) 0
    let s := withCmd c (withSync)
    let d := s.dev
    let e := c.entry
    Ready s 0 0x62 c ∧
    e.fld 0x22 0 8 = 1 ∧
    d.ownsCounter c.tenant (e.fld 0x24 0 17) = true ∧
    d.pwr.sable = false ∧
    d.retireCtr (e.fld 0x24 0 17) = false := by
  intros; exact ⟨ready_of rfl (by decide +kernel), by decide +kernel⟩

/-- `COUNTER_ALLOC` of one counter on die 0. -/
theorem test_witness_counter_alloc :
    let c := cmdOf (ent [(0, 0x64), (32, 1)]) 0
    let s := withCmd c (serv)
    let d := s.dev
    let e := c.entry
    Ready s 0 0x64 c ∧
    (∃ a, oldestRun d.sync.counters.keys 0 (e.w16 0x20) d.sync.freed = some a) ∧
    d.pwr.sable = false ∧
    (d.sync.counters.filter fun p => p.2.tenant == c.tenant).length + e.w16 0x20 ≤ d.syncLimit 4 32 ∧
    e.fld 0x28 0 8 = 0 := by
  intros; exact ⟨ready_of rfl (by decide +kernel), some_of (by decide +kernel), by decide +kernel⟩

/-- `COUNTER_FREE` of counter 0. -/
theorem test_witness_counter_free :
    let c := cmdOf (ent [(0, 0x65), (32, 1)]) 0
    let s := withCmd c (withSync)
    let d := s.dev
    let e := c.entry
    Ready s 0 0x65 c ∧
    (fromTo (e.fld 0x24 0 17) (e.w16 0x20)).all (d.ownsCounter c.tenant) = true ∧
    d.pwr.sable = false ∧
    d.sync.waits = [] ∧
    d.tiers.scheds = [] ∧
    d.reds.reds = [] := by
  intros; exact ⟨ready_of rfl (by decide +kernel), by decide +kernel⟩

/-- `HERD_DEFINE` of participant 0, its data inline. -/
theorem test_witness_herd_define :
    let c := cmdOf (ent [(0, 0x66), (36, 65535), (40, 1)]) 0 ([1] ++ zeros 127)
    let s := withCmd c (serv)
    let d := s.dev
    let e := c.entry
    Ready s 0 0x66 c ∧
    c.inl ∧
    notifyList c.tenant d (c.input.take (128 + 8 * e.fld 0x26 0 8)) (e.fld 0x26 0 8) = .ok [] ∧
    e.b20 = 0 ∧
    128 + 8 * e.fld 0x26 0 8 ≤ c.input.length ∧
    setBits 1024 (leNat ((c.input.take (128 + 8 * e.fld 0x26 0 8)).take 128)) ≠ [] ∧
    e.w16 0x24 = 0xFFFF ∧
    d.pwr.sable = false ∧
    d.sync.herds.length < 4096 ∧
    (d.sync.herds.filter fun p => p.2.tenant == c.tenant).length < d.syncLimit 8 16 := by
  intros; exact ⟨ready_of rfl (by decide +kernel), by rintro _ _ ⟨⟩, ok_of (by decide +kernel), by decide +kernel⟩

/-- `HERD_FREE`. -/
theorem test_witness_herd_free :
    let c := cmdOf (ent [(0, 0x67)]) 0
    let s := withCmd c (withSync)
    let d := s.dev
    let e := c.entry
    Ready s 0 0x67 c ∧
    d.herdOf c.tenant (e.w16 0x20) = some herd ∧
    d.pwr.sable = false ∧
    d.sync.waits = [] := by
  intros; exact ⟨ready_of rfl (by decide +kernel), by decide +kernel⟩

/-- `WAIT` that polls a flag. -/
theorem test_witness_wait_flag_poll :
    let c := cmdOf (ent [(0, 0x68), (33, 2)]) 0
    let s := withCmd c (withSync)
    let d := s.dev
    let e := c.entry
    Ready s 0 0x68 c ∧
    e.b20 = 0 ∧
    d.physFlag c.tenant (e.w16 0x22) = some 5 ∧
    d.flag? 5 = some (flagAt 0 true) ∧
    (flagAt 0 true).quar = false ∧
    d.pwr.sable = false ∧
    e.fld 0x21 0 8 = 2 := by
  intros; exact ⟨ready_of rfl (by decide +kernel), by decide +kernel⟩

/-- `WAIT` on a set flag. -/
theorem test_witness_wait_flag :
    let c := cmdOf (ent [(0, 0x68), (52, 1)]) 0
    let s := withCmd c (withSync)
    let d := s.dev
    let e := c.entry
    Ready s 0 0x68 c ∧
    e.b20 = 0 ∧
    d.physFlag c.tenant (e.w16 0x22) = some 5 ∧
    d.flag? 5 = some (flagAt 0 true) ∧
    (flagAt 0 true).quar = false ∧
    d.pwr.sable = false ∧
    e.fld 0x21 0 8 = 0 := by
  intros; exact ⟨ready_of rfl (by decide +kernel), by decide +kernel⟩

/-- `WAIT` that takes it. -/
theorem test_witness_wait_flag_take :
    let c := cmdOf (ent [(0, 0x68), (33, 1), (52, 1)]) 0
    let s := withCmd c (withSync)
    let d := s.dev
    let e := c.entry
    Ready s 0 0x68 c ∧
    e.b20 = 0 ∧
    d.physFlag c.tenant (e.w16 0x22) = some 5 ∧
    d.flag? 5 = some (flagAt 0 true) ∧
    (flagAt 0 true).quar = false ∧
    d.pwr.sable = false ∧
    e.fld 0x21 0 8 = 1 := by
  intros; exact ⟨ready_of rfl (by decide +kernel), by decide +kernel⟩

/-- `WAIT` on a clear one. -/
theorem test_witness_wait_flag_clear :
    let c := cmdOf (ent [(0, 0x68), (34, 1), (52, 1)]) 0
    let s := withCmd c (withSync)
    let d := s.dev
    let e := c.entry
    Ready s 0 0x68 c ∧
    e.b20 = 0 ∧
    d.physFlag c.tenant (e.w16 0x22) = some 6 ∧
    d.flag? 6 = some (flagAt 1 false) ∧
    (flagAt 1 false).quar = false ∧
    d.pwr.sable = false ∧
    e.fld 0x21 0 8 ≠ 2 ∧
    d.sync.waits.length < 1048576 := by
  intros; exact ⟨ready_of rfl (by decide +kernel), by decide +kernel⟩

/-- `WAIT` that polls a counter. -/
theorem test_witness_wait_counter_poll :
    let c := cmdOf (ent [(0, 0x68), (32, 1), (33, 2)]) 0
    let s := withCmd c (withSync)
    let d := s.dev
    let e := c.entry
    Ready s 0 0x68 c ∧
    e.b20 = 1 ∧
    d.ownsCounter c.tenant (e.fld 0x24 0 17) = true ∧
    d.pwr.sable = false ∧
    e.fld 0x21 0 8 = 2 := by
  intros; exact ⟨ready_of rfl (by decide +kernel), by decide +kernel⟩

/-- `WAIT` on the value it has. -/
theorem test_witness_wait_counter :
    let c := cmdOf (ent [(0, 0x68), (32, 1), (40, 3), (52, 1)]) 0
    let s := withCmd c (withSync)
    let d := s.dev
    let e := c.entry
    Ready s 0 0x68 c ∧
    e.b20 = 1 ∧
    d.ownsCounter c.tenant (e.fld 0x24 0 17) = true ∧
    d.pwr.sable = false ∧
    e.fld 0x21 0 8 = 0 ∧
    0 ≤ serialDiff (d.ctrVal (e.fld 0x24 0 17)) (e.fld 0x28 0 48) := by
  intros; exact ⟨ready_of rfl (by decide +kernel), by decide +kernel⟩

/-- `WAIT` on one more. -/
theorem test_witness_wait_counter_later :
    let c := cmdOf (ent [(0, 0x68), (32, 1), (40, 4), (52, 1)]) 0
    let s := withCmd c (withSync)
    let d := s.dev
    let e := c.entry
    Ready s 0 0x68 c ∧
    e.b20 = 1 ∧
    d.ownsCounter c.tenant (e.fld 0x24 0 17) = true ∧
    d.pwr.sable = false ∧
    e.fld 0x21 0 8 = 0 ∧
    serialDiff (d.ctrVal (e.fld 0x24 0 17)) (e.fld 0x28 0 48) < 0 ∧
    d.sync.waits.length < 1048576 := by
  intros; exact ⟨ready_of rfl (by decide +kernel), by decide +kernel⟩

/-- `WAIT` that polls a herd. -/
theorem test_witness_wait_herd_poll :
    let c := cmdOf (ent [(0, 0x68), (32, 2), (33, 2)]) 0
    let s := withCmd c (withSync)
    let d := s.dev
    let e := c.entry
    Ready s 0 0x68 c ∧
    e.b20 = 2 ∧
    e.fld 0x21 0 8 = 2 ∧
    d.herdOf c.tenant (e.fld 0x22 0 12) = some herd ∧
    d.pwr.sable = false := by
  intros; exact ⟨ready_of rfl (by decide +kernel), by decide +kernel⟩

/-- A regulator of tenant 0, Blue, with a window of 250 ticks and no entries. -/
def reg : Reg := { tenant := 0, cls := 1, window := 250, win := 0, ents := [], cuts := [], next := none, lastMiss := 0, lastRec := none }

/-- A device with near-tier stack 0 in service. -/
def nearUp : Dev := serv.updCtrl 32 fun c => { c with inServ := true }

/-- The entries a command reads. -/
def qEs (e : Entry) (d : Dev) (c : Cmd) : List QEntry :=
  match qEntries (e.fld 0x28 0 10) d 0 [] (chunks 16 (e.fld 0x26 0 8) (c.input.take (16 * e.fld 0x26 0 8))) with
  | .ok es => es
  | .error _ => []

/-- A device with it. -/
def withReg : Dev := nearUp.updQos fun q => { q with regs := [(1, reg)] }

/-- `QOS_RESERVE` of one entry, its data inline. -/
theorem test_witness_qos_reserve :
    let c := cmdOf (ent [(0, 0x70), (32, 1), (36, 250), (38, 1)]) 0 (leBytes 1 1 ++ leBytes 1 0 ++ zeros 6 ++ leBytes 8 100)
    let s := withCmd c (nearUp)
    let d := s.dev
    let e := c.entry
    let x : Ctx := ⟨0, c⟩
    Ready s 0 0x70 c ∧
    reserveTarget x d = .ok none ∧
    c.inl ∧
    (∃ a, qEntries (e.fld 0x28 0 10) d 0 [] (chunks 16 (e.fld 0x26 0 8) (c.input.take (16 * e.fld 0x26 0 8))) = .ok a) ∧
    d.admission 1024 (e.w16 0x24) (qEs e d c) = .ok () ∧
    e.fld 0x20 0 2 ≠ 0 ∧
    e.fld 0x26 0 8 ≠ 0 ∧
    16 * e.fld 0x26 0 8 ≤ c.input.length ∧
    (fromTo 1 1023).find? d.regFree = some 1 := by
  intros; exact ⟨ready_of rfl (by decide +kernel), ok_of (by decide +kernel), by rintro _ _ ⟨⟩, some_ok (by decide +kernel), ok_of (by decide +kernel), by decide +kernel⟩

/-- `QOS_RESERVE` that changes it. -/
theorem test_witness_qos_modify :
    let c := cmdOf (ent [(0, 0x70), (32, 1), (36, 250), (38, 1), (33, 1), (34, 1)]) 0 (leBytes 1 1 ++ leBytes 1 0 ++ zeros 6 ++ leBytes 8 100)
    let s := withCmd c (withReg)
    let d := s.dev
    let e := c.entry
    let x : Ctx := ⟨0, c⟩
    Ready s 0 0x70 c ∧
    reserveTarget x d = .ok (some 1) ∧
    c.inl ∧
    (∃ a, qEntries (e.fld 0x28 0 10) d 0 [] (chunks 16 (e.fld 0x26 0 8) (c.input.take (16 * e.fld 0x26 0 8))) = .ok a) ∧
    d.admission 1 (e.w16 0x24) (qEs e d c) = .ok () ∧
    e.fld 0x20 0 2 ≠ 0 ∧
    e.fld 0x26 0 8 ≠ 0 ∧
    16 * e.fld 0x26 0 8 ≤ c.input.length := by
  intros; exact ⟨ready_of rfl (by decide +kernel), ok_of (by decide +kernel), by rintro _ _ ⟨⟩, some_ok (by decide +kernel), ok_of (by decide +kernel), by decide +kernel⟩

/-- `QOS_RELEASE`. -/
theorem test_witness_qos_release :
    let c := cmdOf (ent [(0, 0x71), (32, 1)]) 0
    let s := withCmd c (withReg)
    let d := s.dev
    let e := c.entry
    Ready s 0 0x71 c ∧
    d.qos.regs.get? (e.w16 0x20) = some reg := by
  intros; exact ⟨ready_of rfl (by decide +kernel), by decide +kernel⟩

/-- `QOS_QUERY` of a regulator. -/
theorem test_witness_qos_query :
    let c := cmdOf (ent [(0, 0x72), (34, 1)]) 0
    let s := withCmd c (withReg)
    let d := s.dev
    let e := c.entry
    Ready s 0 0x72 c ∧
    c.fits (regRecord reg d) ∧
    e.b20 = 0 ∧
    d.qos.regs.get? (e.w16 0x22) = some reg := by
  intros; exact ⟨ready_of rfl (by decide +kernel), .inl (by decide +kernel), by decide +kernel⟩

/-- `QOS_QUERY` of a resource. -/
theorem test_witness_qos_query_resource :
    let c := cmdOf (ent [(0, 0x72), (32, 1)]) 0
    let s := withCmd c (serv)
    let d := s.dev
    let e := c.entry
    Ready s 0 0x72 c ∧
    c.fits (resRecord (e.fld 0x22 0 8) (e.fld 0x23 0 8) d) ∧
    e.b20 = 1 ∧
    e.fld 0x22 0 8 ≤ 2 ∧
    resOk (e.fld 0x22 0 8) (e.fld 0x23 0 8) = true := by
  intros; exact ⟨ready_of rfl (by decide +kernel), .inl (by decide +kernel), by decide +kernel⟩

/-- `SCRUB_RANGE` of the last 4 KiB before stack 0's reserve. -/
theorem test_witness_scrub :
    let c := cmdQ (ent [(0, 0x80), (32, (60 * gib - 4096)), (40, 4096)]) 0
    let s := withCmdQ c (serv)
    let d := s.dev
    let e := c.entry
    Ready s 0 0x80 c ∧
    ¬c.inl ∧
    e.w64 0x20 % 4096 = 0 ∧
    e.w64 0x28 ≠ 0 ∧
    e.w64 0x28 % 4096 = 0 ∧
    d.hasMem (e.w64 0x20) (e.w64 0x28) = true ∧
    d.pasrOverlap (e.w64 0x20) (e.w64 0x28) = false ∧
    d.integ.injects = [] := by
  intros; exact ⟨ready_of rfl (by decide +kernel), fun h => h 0 0 rfl, by decide +kernel⟩

/-- `RETIRE` that lists. -/
theorem test_witness_retire_list :
    let c := cmdOf (ent [(0, 0x81), (32, 1)]) 0
    let s := withCmd c (serv)
    let d := s.dev
    let e := c.entry
    Ready s 0 0x81 c ∧
    c.fits (d.mgmt.flash.retire.flatMap RetireEntry.bytes) ∧
    e.b20 = 1 := by
  intros; exact ⟨ready_of rfl (by decide +kernel), .inl (by decide +kernel), by decide +kernel⟩

/-- `RETIRE` that clears, before service. -/
theorem test_witness_retire_clear :
    let c := cmdOf (ent [(0, 0x81), (32, 2)]) 0
    let s := withCmd c (recov)
    let d := s.dev
    let e := c.entry
    Ready s 0 0x81 c ∧
    e.b20 = 2 ∧
    d.pwr.mode ≠ .service := by
  intros; exact ⟨ready_of rfl (by decide +kernel), by decide +kernel⟩

/-- `RETIRE` of the last grain before stack 0's reserve. -/
theorem test_witness_retire :
    let c := cmdOf (ent [(0, 0x81), (40, (60 * gib - 4096)), (48, 1)]) 0
    let s := withCmd c (serv)
    let d := s.dev
    let e := c.entry
    Ready s 0 0x81 c ∧
    (∃ a, (if e.w64 0x28 < 2 ^ 44 then retireNear e d else retireFar e d) = .ok a) ∧
    e.b20 = 0 ∧
    d.hasMem (e.w64 0x28) 1 = true ∧
    inReserve (e.w64 0x28) = false ∧
    d.hasMem (e.w64 0x28) (d.retireEnd (e.w64 0x28) (e.fld 0x21 0 8) (e.w32 0x30) - e.w64 0x28) = true ∧
    d.mgmt.flash.retire.length < 4096 := by
  intros; exact ⟨ready_of rfl (by decide +kernel), some_ok (by decide +kernel), by decide +kernel⟩

/-- `REBUILD` that asks after a group that rebuilds. -/
theorem test_witness_rebuild_query :
    let c := cmdOf (ent [(0, 0x83), (33, 3)]) 0
    let s := withCmd c (serv.updGroup 3 fun y => { y with st := .rebuilding })
    let d := s.dev
    let e := c.entry
    Ready s 0 0x83 c ∧
    e.b20 = 0 ∧
    (d.group (e.fld 0x21 0 2)).st = .rebuilding := by
  intros; exact ⟨ready_of rfl (by decide +kernel), by decide +kernel⟩

/-- `REBUILD` that asks after one that does not. -/
theorem test_witness_rebuild_idle :
    let c := cmdOf (ent [(0, 0x83), (33, 2)]) 0
    let s := withCmd c (serv.updGroup 3 fun y => { y with st := .rebuilding })
    let d := s.dev
    let e := c.entry
    Ready s 0 0x83 c ∧
    e.b20 = 0 ∧
    (d.group (e.fld 0x21 0 2)).st = .inService := by
  intros; exact ⟨ready_of rfl (by decide +kernel), by decide +kernel⟩

/-- `REBUILD` that gives it a label. -/
theorem test_witness_rebuild_label :
    let c := cmdOf (ent [(0, 0x83), (32, 1), (33, 3)]) 0
    let s := withCmd c (serv.updGroup 3 fun y => { y with st := .rebuilding })
    let d := s.dev
    let e := c.entry
    Ready s 0 0x83 c ∧
    e.b20 = 1 ∧
    (d.group (e.fld 0x21 0 2)).st = .rebuilding := by
  intros; exact ⟨ready_of rfl (by decide +kernel), by decide +kernel⟩

/-- `DIAG_INJECT` into the last byte of the near tier. -/
theorem test_witness_inject :
    let c := cmdOf (ent [(0, 0xF0), (48, (6 * 2 ^ 36 - 1)), (33, 1), (36, 1)]) 0
    let s := withCmd c (recov)
    let d := s.dev
    let e := c.entry
    Ready s 0 0xF0 c ∧
    e.b20 ≤ 1 ∧
    d.hasMem (e.w64 0x30) 1 = true := by
  intros; exact ⟨ready_of rfl (by decide +kernel), by decide +kernel⟩

/-- `DIAG_INJECT` into a core. -/
theorem test_witness_inject_core :
    let c := cmdOf (ent [(0, 0xF0), (32, 4), (36, 1), (44, 268435456)]) 0
    let s := withCmd c (recov)
    let e := c.entry
    Ready s 0 0xF0 c ∧
    e.b20 = 4 ∧
    unitLevel (e.w32 0x2C) = 1 ∧
    unitOk (e.w32 0x2C) = true := by
  intros; exact ⟨ready_of rfl (by decide +kernel), by decide +kernel⟩

/-- `TRACE_CTL` that asks. -/
theorem test_witness_trace_query :
    let c := cmdOf (ent [(0, 0xF1), (32, 2)]) 0
    let s := withCmd c (serv)
    let e := c.entry
    Ready s 0 0xF1 c ∧
    e.b20 = 2 := by
  intros; exact ⟨ready_of rfl (by decide +kernel), by decide +kernel⟩

/-- `TRACE_CTL` that stops the export. -/
theorem test_witness_trace_off :
    let c := cmdOf (ent [(0, 0xF1), (32, 1)]) 0
    let s := withCmd c (serv.updInteg fun i => { i with trace := { i.trace with enabled := true } })
    let d := s.dev
    let e := c.entry
    Ready s 0 0xF1 c ∧
    e.b20 = 1 ∧
    d.integ.trace.enabled = true := by
  intros; exact ⟨ready_of rfl (by decide +kernel), by decide +kernel⟩

/-- `TRACE_CTL` that starts it. -/
theorem test_witness_trace_on :
    let c := cmdOf (ent [(0, 0xF1), (36, 1)]) 0
    let s := withCmd c (serv)
    let d := s.dev
    let e := c.entry
    let x : Ctx := ⟨0, c⟩
    Ready s 0 0xF1 c ∧
    e.b20 = 0 ∧
    d.integ.trace.enabled = false ∧
    (d.port 55).bound = false ∧
    presetHolds ⟨0, c⟩ 1 d = false ∧
    e.fld 0x21 0 1 = 0 ∧
    e.fld 0x24 0 8 ≠ 0 ∧
    e.fld 0x21 2 1 = 0 := by
  intros; exact ⟨ready_of rfl (by decide +kernel), by decide +kernel⟩

/-- `SELF_TEST` of the last link. -/
theorem test_witness_self_test :
    let c := cmdOf (ent [(0, 0xF2), (32, 1), (33, 55)]) 0
    let s := withCmd c (serv)
    let e := c.entry
    Ready s 0 0xF2 c ∧
    1 ≤ e.b20 ∧
    e.b20 ≤ 8 ∧
    e.fld 0x21 0 8 < blockUnits e.b20 := by
  intros; exact ⟨ready_of rfl (by decide +kernel), by decide +kernel⟩

/-- `POWER_POLICY` that reads. -/
theorem test_witness_policy_read :
    let c := cmdOf (ent [(0, 0xB0), (32, 1)]) 0
    let s := withCmd c (serv)
    let e := c.entry
    Ready s 0 0xB0 c ∧
    e.b20 = 1 := by
  intros; exact ⟨ready_of rfl (by decide +kernel), by decide +kernel⟩

/-- `POWER_POLICY` that sets. -/
theorem test_witness_policy_set :
    let c := cmdOf (ent [(0, 0xB0), (36, 250)]) 0
    let s := withCmd c (serv)
    let e := c.entry
    Ready s 0 0xB0 c ∧
    e.b20 = 0 := by
  intros; exact ⟨ready_of rfl (by decide +kernel), by decide +kernel⟩

/-- `PASR_SET` that adds a segment. -/
theorem test_witness_pasr_add :
    let c := cmdOf (ent [(0, 0xB1), (33, 3), (34, 128)]) 0
    let s := withCmd c (dFar)
    let d := s.dev
    let e := c.entry
    Ready s 0 0xB1 c ∧
    (d.group (e.fld 0x21 0 2)).st = .inService ∧
    (d.group (e.fld 0x21 0 2)).modGib ≠ 0 ∧
    d.mem.order ≠ 2 ∧
    e.b20 = 0 ∧
    d.pwr.pasr.getD (e.fld 0x21 0 2) 0 &&& e.fld 0x22 0 8 = 0 := by
  intros; exact ⟨ready_of rfl (by decide +kernel), by decide +kernel⟩

/-- `PASR_SET` that takes it away. -/
theorem test_witness_pasr_take :
    let c := cmdOf (ent [(0, 0xB1), (32, 1), (33, 3), (34, 128)]) 0
    let s := withCmd c (dFar.updPwr fun p => { p with pasr := [(3, 0x80)] })
    let d := s.dev
    let e := c.entry
    Ready s 0 0xB1 c ∧
    (d.group (e.fld 0x21 0 2)).st = .inService ∧
    (d.group (e.fld 0x21 0 2)).modGib ≠ 0 ∧
    d.mem.order ≠ 2 ∧
    e.b20 = 1 ∧
    e.fld 0x22 0 8 &&& d.pwr.pasr.getD (e.fld 0x21 0 2) 0 = e.fld 0x22 0 8 := by
  intros; exact ⟨ready_of rfl (by decide +kernel), by decide +kernel⟩

/-- `PASR_SET` that asks. -/
theorem test_witness_pasr_query :
    let c := cmdOf (ent [(0, 0xB1), (32, 2)]) 0
    let s := withCmd c (dFar)
    let d := s.dev
    let e := c.entry
    Ready s 0 0xB1 c ∧
    (d.group (e.fld 0x21 0 2)).st = .inService ∧
    (d.group (e.fld 0x21 0 2)).modGib ≠ 0 ∧
    d.mem.order ≠ 2 ∧
    e.b20 = 2 := by
  intros; exact ⟨ready_of rfl (by decide +kernel), by decide +kernel⟩

/-- `IDLE_ENTER`. -/
theorem test_witness_idle_enter :
    let c := cmdOf (ent [(0, 0xB2)]) 0
    let s := withCmd c (serv)
    Ready s 0 0xB2 c := by
  intros; exact ready_of rfl (by decide +kernel)

/-! Firmware, preset images, the owner: whether a signature holds is an open function (log entry 6), so what needs one is
given with it. -/

/-- `FW_STAGE` that begins an image of 16 MiB. -/
theorem test_witness_fw_begin :
    let c := cmdOf (ent [(0, 0xA1), (40, 16777216)]) 0
    let s := withCmd c (serv)
    let d := s.dev
    let e := c.entry
    Ready s 0 0xA1 c ∧
    e.b20 = 0 ∧
    d.mgmt.staging = none ∧
    e.w64 0x28 ≤ 16777216 ∧
    e.w64 0x28 % 4096 = 0 := by
  intros; exact ⟨ready_of rfl (by decide +kernel), by decide +kernel⟩

/-- The staging area with an image of one block, staged. -/
def staged : Staging := { owner := .mgmt 4, len := 4096, blocks := [(0, zeros 4096)], last := 0 }

def withStaged : Dev := serv.updMgmt fun m => { m with staging := some staged }

/-- `FW_STAGE` of the block. -/
theorem test_witness_fw_data :
    let c := cmdOf (ent [(0, 0xA1), (32, 1), (48, 4096)]) 0 (zeros 4096)
    let s := withCmd c (withStaged)
    let d := s.dev
    let e := c.entry
    let x : Ctx := ⟨0, c⟩
    Ready s 0 0xA1 c ∧
    d.mgmt.staging = some staged ∧
    c.inl ∧
    staged.owner = x.stager ∧
    e.b20 = 1 ∧
    chunkBad staged (e.w64 0x28) (e.w32 0x30) = none ∧
    e.w32 0x30 ≤ c.input.length := by
  intros; exact ⟨ready_of rfl (by decide +kernel), rfl, by rintro _ _ ⟨⟩, by decide +kernel⟩

/-- `FW_STAGE` that drops it. -/
theorem test_witness_fw_drop :
    let c := cmdOf (ent [(0, 0xA1), (32, 2)]) 0
    let s := withCmd c (withStaged)
    let d := s.dev
    let e := c.entry
    let x : Ctx := ⟨0, c⟩
    Ready s 0 0xA1 c ∧
    d.mgmt.staging = some staged ∧
    staged.owner = x.stager ∧
    e.b20 = 2 := by
  intros; exact ⟨ready_of rfl (by decide +kernel), rfl, by decide +kernel⟩

/-- A staged image of 4 KiB whose header says 0x200 bytes, with security version 1. -/
def fwImage : Bytes := zeros 8 ++ leBytes 4 0x200 ++ zeros 4 ++ leBytes 4 1 ++ zeros 12 ++ shake256 [] ++ zeros 4000

def withImage (rom : Bool) : Dev := serv.updMgmt fun m => { m with
  romRec := rom, staging := some { owner := .mgmt 4, len := 4096, blocks := [(0, fwImage)], last := 0 } }

/-- `FW_COMMIT` of it, where its signature holds: the rest of its premises. -/
theorem test_witness_fw_commit : ∀ rom,
    let c := cmdOf (ent [(0, 0xA2)]) 0
    let s := withCmd c (withImage rom)
    let d := s.dev
    let g : Staging := { owner := .mgmt 4, len := 4096, blocks := [(0, fwImage)], last := 0 }
    Ready s 0 0xA2 c ∧ d.mgmt.staging = some g ∧ g.owner = (Ctx.mk 0 c).stager ∧ g.full = true ∧
    d.mgmt.flash.minSvn.2 ≤ imageSvn g.image ∧ d.mgmt.flashOp = none ∧ d.mgmt.romRec = rom := by
  intro rom
  exact ⟨ready_of rfl (by cases rom <;> decide +kernel), rfl, rfl, by decide +kernel, by cases rom <;> decide +kernel, rfl, rfl⟩

/-- `PRESET_READ`. -/
theorem test_witness_preset_read :
    let c := cmdOf (ent [(0, 0xA3)]) 0
    let s := withCmd c (serv)
    let d := s.dev
    Ready s 0 0xA3 c ∧
    c.fits (d.mgmt.preset) := by
  intros; exact ⟨ready_of rfl (by decide +kernel), .inl (by decide +kernel)⟩

/-- `PRESET_WRITE` of an image without entries, but for its signature. -/
theorem test_witness_preset_write :
    let c := cmdOf (ent [(0, 0xA4), (40, 216)]) 0 (ascii "SPXPRST1" ++ leBytes 4 216 ++ leBytes 2 0 ++ leBytes 2 1 ++ leBytes 8 1 ++ zeros 192)
    let s := withCmd c ((serv.updMgmt fun m => { m with flash := { m.flash with ownerA := some { key := some (zeros 57), seq := 1 } } }))
    let d := s.dev
    let e := c.entry
    Ready s 0 0xA4 c ∧
    c.inl ∧
    d.mgmt.flash.owner.key = some (zeros 57) ∧
    1 ≤ e.w32 0x28 ∧
    e.w32 0x28 ≤ 262144 ∧
    e.w32 0x28 ≤ c.input.length ∧
    (presetEntries (c.input.take (e.w32 0x28))).isSome = true ∧
    d.mgmt.flash.newestPreset = none ∧
    d.mgmt.flashOp = none := by
  intros; exact ⟨ready_of rfl (by decide +kernel), by rintro _ _ ⟨⟩, by decide +kernel⟩

/-- `OWNER_ENROL` without an owner. -/
theorem test_witness_owner_enrol :
    let c := cmdOf (ent [(0, 0xA5)]) 0 (zeros 57)
    let s := withCmd c (serv)
    let d := s.dev
    let e := c.entry
    Ready s 0 0xA5 c ∧
    c.inl ∧
    e.b20 = 0 ∧
    d.mgmt.flash.owner.key = none ∧
    57 ≤ c.input.length ∧
    d.mgmt.flashOp = none := by
  intros; exact ⟨ready_of rfl (by decide +kernel), by rintro _ _ ⟨⟩, by decide +kernel⟩

/-- `OWNER_ENROL` that erases, but for its signature. -/
theorem test_witness_owner_erase :
    let c := cmdOf (ent [(0, 0xA5), (32, 2)]) 0 (zeros 114)
    let s := withCmd c ((serv.updMgmt fun m => { m with flash := { m.flash with ownerA := some { key := some (zeros 57), seq := 1 } } }))
    let d := s.dev
    let e := c.entry
    Ready s 0 0xA5 c ∧
    c.inl ∧
    d.mgmt.flash.owner.key = some (zeros 57) ∧
    e.b20 = 2 ∧
    114 ≤ c.input.length ∧
    d.mgmt.flashOp = none := by
  intros; exact ⟨ready_of rfl (by decide +kernel), by rintro _ _ ⟨⟩, by decide +kernel⟩

/-- `KEY_SET` of a tenant that holds nothing in the tiers. -/
theorem test_witness_key_first :
    let c := cmdQ (ent [(0, 0xA6)]) 0
    let s := withCmdQ c (serv)
    let d := s.dev
    let e := c.entry
    Ready s 0 0xA6 c ∧
    e.b20 = 0 ∧
    d.integ.keys.get? c.tenant = none ∧
    d.charge c.tenant 1 = 0 ∧
    d.charge c.tenant 2 = 0 := by
  intros; exact ⟨ready_of rfl (by decide +kernel), by decide +kernel⟩

/-- `KEY_SET` that destroys a key. -/
theorem test_witness_key_drop :
    let c := cmdQ (ent [(0, 0xA6), (32, 1)]) 0
    let s := withCmdQ c (serv.updInteg fun i => { i with keys := [(0, { key := some (zeros 32), check := zeros 8 })] })
    let d := s.dev
    let e := c.entry
    Ready s 0 0xA6 c ∧
    e.b20 = 1 ∧
    (d.integ.keys.get? c.tenant).isSome = true := by
  intros; exact ⟨ready_of rfl (by decide +kernel), by decide +kernel⟩

/-- `KEY_SET` that forgets it. -/
theorem test_witness_key_forget :
    let c := cmdQ (ent [(0, 0xA6), (32, 2)]) 0
    let s := withCmdQ c (serv.updInteg fun i => { i with keys := [(0, { key := some (zeros 32), check := zeros 8 })] })
    let d := s.dev
    let e := c.entry
    Ready s 0 0xA6 c ∧
    e.b20 = 2 ∧
    d.holdsObject c.tenant = false := by
  intros; exact ⟨ready_of rfl (by decide +kernel), by decide +kernel⟩

/-! ## Events of queues and functions -/

/-- A queue pair of function 0 at doorbell 1, of depth 16, with one entry to take. -/
def qpDb : QP := { QP.fresh (.host 0 1) false 0 4 1 0 1 0 0x3000 0x4000 0 with sqTail := 1 }

/-- A device with it as queue pair 1. -/
def withQp (q : QP) (d : Dev) : Dev := { d with q := { d.q with qps := [(1, q)] } }

/-- A host port's link up. -/
def hostUp (port : Nat) (d : Dev) : Dev := d.updHport port fun h => { h with linkUp := true, perst := true }

/-- Function 0 able to write and read, changed, over a link that is up. -/
def fnUp (f : Fn → Fn) (d : Dev) : Dev := hostUp 0 (d.updFn 0 fun x => f { x with bme := true })

/-- SUBMISSION_ENTRY_TAKE. -/
theorem test_witness_take :
    let s := over' (fnUp id (withQp qpDb serv))
    let d := s.dev
    s.live ∧
    d.qp? 1 = some qpDb ∧
    qpDb.loc = .host 0 1 ∧
    d.mayTake qpDb = true ∧
    d.qpTurn = some 1 := by
  intros; exact ⟨⟨rfl, rfl⟩, by decide +kernel⟩

/-- ORDERED_COMMAND_START of the only command. -/
theorem test_witness_ordered :
    let s := over' ({ serv with q := { serv.q with cmds := [(0, { cmdOf (ent []) 0 with started := false })], nextCmd := 1 } })
    let d := s.dev
    s.live ∧
    d.cmd? 0 = some { cmdOf (ent []) 0 with started := false } ∧
    fencePassed 0 { cmdOf (ent []) 0 with started := false } d = true := by
  intros; exact ⟨⟨rfl, rfl⟩, by decide +kernel⟩

/-- COALESCE_TIMER_EXPIRY. -/
theorem test_witness_coalesce :
    let s := over' (withQp { qpDb with unsig := 1, coalTicks := 1 } (serv.updPwr fun p => { p with tick := 1 }))
    let d := s.dev
    s.live ∧
    d.qp? 1 = some { qpDb with unsig := 1, coalTicks := 1 } ∧
    { qpDb with unsig := 1, coalTicks := 1 }.loc = .host 0 1 ∧
    { qpDb with unsig := 1, coalTicks := 1 }.admin = false ∧
    { qpDb with unsig := 1, coalTicks := 1 }.unsigTick + 1 ≤ d.now := by
  intros; exact ⟨⟨rfl, rfl⟩, by decide +kernel⟩

/-- A tail of the last slot that fits: one entry short of full. -/
theorem test_witness_doorbell_tail :
    let s := over' (fnUp id (withQp qpDb serv))
    let d := s.dev
    let q := qpDb
    s.live ∧ (d.hport 0).linkUp = true ∧
    (d.fn 0).d3hot = false ∧
    (d.fn 0).flr = false ∧
    d.qpAt 0 1 = some (1, q) ∧
    q.deleter = none ∧
    q.log2Depth ≤ 16 ∧
    14 < 2 ^ q.log2Depth ∧
    (q.sqTail + 16 - q.sqHead) % 16 + (14 + 16 - q.sqTail) % 16 < 16 := by
  intros; exact ⟨⟨rfl, rfl⟩, by decide +kernel⟩

/-- A head that frees every used slot. -/
theorem test_witness_doorbell_head :
    let s := over' (fnUp id (withQp { qpDb with cqUsed := 15 } serv))
    let d := s.dev
    let q := { qpDb with cqUsed := 15 }
    s.live ∧ (d.hport 0).linkUp = true ∧
    (d.fn 0).d3hot = false ∧
    (d.fn 0).flr = false ∧
    d.qpAt 0 1 = some (1, q) ∧
    q.deleter = none ∧
    q.log2Depth ≤ 16 ∧
    15 < 2 ^ q.log2Depth ∧
    q.cqUsed < 16 ∧
    (15 + 16 - q.cqHead) % 16 ≤ q.cqUsed := by
  intros; exact ⟨⟨rfl, rfl⟩, by decide +kernel⟩

/-- A doorbell value of the depth. -/
theorem test_witness_doorbell_past :
    let s := over' (fnUp id (withQp qpDb serv))
    let d := s.dev
    let q := qpDb
    s.live ∧ (d.hport 0).linkUp = true ∧
    (d.fn 0).d3hot = false ∧
    (d.fn 0).flr = false ∧
    d.qpAt 0 1 = some (1, q) ∧
    q.deleter = none ∧
    q.log2Depth ≤ 16 ∧
    2 ^ q.log2Depth ≤ 16 := by
  intros; exact ⟨⟨rfl, rfl⟩, by decide +kernel⟩

/-- A doorbell without a queue pair. -/
theorem test_witness_doorbell_none :
    let s := over' (hostUp 3 serv)
    let d := s.dev
    s.live ∧ (d.hport 3).linkUp = true ∧
    (d.fn 1023).d3hot = false ∧
    (d.fn 1023).flr = false ∧
    d.qpAt 1023 8191 = none := by
  intros; exact ⟨⟨rfl, rfl⟩, by decide +kernel⟩

/-- Registers of the last physical function. -/
theorem test_witness_registers :
    let s := over' (hostUp 3 serv)
    let d := s.dev
    s.live ∧ (d.hport 3).linkUp = true ∧
    (d.fn 768).d3hot = false ∧
    (d.fn 768).flr = false ∧
    768 % 256 = 0 ∧
    (d.fn 768).irqCause &&& (d.fn 768).irqMask &&& ~~~(0x7F#32) = 0 ∧
    (d.fn 768).aqCtrl.getLsbD 0 = false ∧
    (d.fn 768).aqReady = false ∧
    (d.fn 768).bme = false ∧
    768 < 1024 := by
  intros; exact ⟨⟨rfl, rfl⟩, by decide +kernel⟩

/-- IRQ_MASK_WRITE that uncovers a cause. -/
theorem test_witness_unmask :
    let s := over' (hostUp 0 <| serv.updFn 0 fun f => { f with irqCause := 1 })
    let d := s.dev
    s.live ∧ (d.hport 0).linkUp = true ∧
    (d.fn 0).d3hot = false ∧
    (d.fn 0).flr = false ∧
    (d.fn 0).irqCause &&& (d.fn 0).irqMask &&& ~~~(0x7E#32 &&& 0x7F#32) ≠ 0 := by
  intros; exact ⟨⟨rfl, rfl⟩, by decide +kernel⟩

/-- AQ_ENABLE at the smallest depth. -/
theorem test_witness_aq_enable :
    let s := over' (hostUp 3 serv)
    let d := s.dev
    s.live ∧ (d.hport 3).linkUp = true ∧
    (d.fn 768).d3hot = false ∧
    (d.fn 768).flr = false ∧
    768 % 256 = 0 ∧
    (d.fn 768).aqCtrl.getLsbD 0 = false ∧
    (0x401#32).getLsbD 0 = true ∧
    (d.fn 768).bound = some 0 ∧
    (d.fn 768).aqReady = false ∧
    bits (0x401#32).toNat 8 5 = 4 ∧
    d.q.qps.length < 32768 := by
  intros; exact ⟨⟨rfl, rfl⟩, by decide +kernel⟩

/-- AQ_DISABLE. -/
theorem test_witness_aq_disable :
    let s := over' (withQp (QP.fresh (.host 0 0) true 0 4 255 0 1 0 0x1000 0x2000 0) (hostUp 0 (serv.updFn 0 fun f => { f with aqCtrl := 0x401, aqReady := true })))
    let d := s.dev
    s.live ∧ (d.hport 0).linkUp = true ∧
    (d.fn 0).d3hot = false ∧
    (d.fn 0).flr = false ∧
    (d.fn 0).aqCtrl.getLsbD 0 = true ∧
    (0#32).getLsbD 0 = false ∧
    d.qpAt 0 0 = some (1, QP.fresh (.host 0 0) true 0 4 255 0 1 0 0x1000 0x2000 0) := by
  intros; exact ⟨⟨rfl, rfl⟩, by decide +kernel⟩

/-- FLR, D0_RETURN of both kinds, BUS_MASTER_ENABLE_SET and _CLEAR. -/
theorem test_witness_flr :
    let s := over' (hostUp 0 <| (serv.updFn 0 fun f => { f with d3hot := true, bme := true }).updFn 1 fun f => { f with d3hot := true })
    let d := s.dev
    s.live ∧ (d.hport 0).linkUp = true ∧
    (d.fn 0).flr = false ∧
    (d.fn 0).d3hot = true ∧
    (d.fn 0).bme = true ∧
    (d.fn 0).held = [] ∧
    (d.fn 1).d3hot = true ∧
    (d.fn 1).bme = false ∧
    (d.fn 2).d3hot = false ∧
    (d.fn 2).flr = false := by
  intros; exact ⟨⟨rfl, rfl⟩, by decide +kernel⟩

/-- A device whose command 0, of an opcode, reads 57 bytes under the last tag of function 0. -/
def withRead (op : Nat) (d : Dev) : Dev :=
  { d with q := { d.q with
      cmds := [(0, { cmdOf (ent [(0, op)]) 0 with phase := .reading [] })], nextCmd := 1
      fns := [(0, { Fn.reset true with bme := true, reads := [(767, { cmd := 0, addr := 0x1000, len := 57 })] })] } }

/-- A read that ends, of a command that has nothing yet. -/
theorem test_witness_read_ends :
    let s := over' (hostUp 0 (withRead 0xA5 serv))
    let d := s.dev
    s.live ∧ (d.hport 0).linkUp = true ∧
    (bodyOf 0xA5).isSome = true ∧
    (d.fn 0).reads.get? 767 = some { cmd := 0, addr := 0x1000, len := 57 } ∧
    (zeros 57).length = 57 ∧
    (d.cmd? 0).isSome = true ∧
    (cmdOf (ent [(0, 0xA5)]) 0).got = [] ∧
    (d.fn 0).reads.get? 0 = none := by
  intros; exact ⟨⟨rfl, rfl⟩, rfl, by decide +kernel⟩

/-- A timeout of the read of an entry. -/
theorem test_witness_ring_timeout :
    let s := over' (fnUp (fun f => { f with reads := [(0, { cmd := 0, addr := 0, len := 4 })] }) (withQp qpDb serv))
    let d := s.dev
    s.live ∧ (d.hport 0).linkUp = true ∧
    (d.fn 0).reads.get? 0 = some { cmd := 0, addr := 0, len := 4 } ∧
    d.qp? 1 = some qpDb ∧
    d.mayTake qpDb = true := by
  intros; exact ⟨⟨rfl, rfl⟩, by decide +kernel⟩

/-- Host port 3 up, not narrow, and narrow. -/
theorem test_witness_host_link :
    let s := over' ((serv.updHport 3 fun h => { h with linkUp := true, perst := true }).updHport 2 fun h => { h with linkUp := true, perst := true, narrow := true })
    let d := s.dev
    s.live ∧
    (d.hport 3).linkUp = true ∧
    (d.hport 3).narrow = false ∧
    (d.hport 2).narrow = true := by
  intros; exact ⟨⟨rfl, rfl⟩, by decide +kernel⟩

/-- PERST_N of port 3 falls, and that of port 0 rises. -/
theorem test_witness_perst :
    let s := over' (serv.updHport 3 fun h => { h with perst := true })
    let d := s.dev
    s.live ∧
    (d.hport 3).perst = true ∧
    (d.hport 3).linkUp = false ∧
    d.retains 3 = false ∧
    (d.hport 0).perst = false ∧
    d.pwr.step ≠ 0 := by
  intros; exact ⟨⟨rfl, rfl⟩, by decide +kernel⟩

/-- HOST_LINK_UP of port 3. -/
theorem test_witness_link_rises :
    let s := over' ((serv.updHport 3 fun h => { h with perst := true }).setDomain 27 .on)
    let d := s.dev
    s.live ∧
    d.linkMayRise 3 = true := by
  intros; exact ⟨⟨rfl, rfl⟩, by decide +kernel⟩

/-- HDM_COMMIT. -/
theorem test_witness_hdm_commit :
    let s := over' (hostUp 3 serv)
    let d := s.dev
    s.live ∧ (d.hport 3).linkUp = true ∧
    (d.fn 768).d3hot = false ∧
    (d.fn 768).flr = false ∧
    (s.hdmOf 3).locked = false ∧
    (0x200#32).getLsbD 9 = true ∧
    (s.hdmOf 3).ctrl.getLsbD 9 = false := by
  intros; exact ⟨⟨rfl, rfl⟩, by decide +kernel⟩

/-- HDM_DECOMMIT. -/
theorem test_witness_hdm_decommit :
    let s := over' (hostUp 3 serv)
    let s2 := s.setHdm 3 { Hdm.reset with ctrl := 0x200 }
    s2.live ∧ (s2.dev.hport 3).linkUp = true ∧
    (s2.dev.fn 768).d3hot = false ∧
    (s2.dev.fn 768).flr = false ∧
    (s2.hdmOf 3).locked = false ∧
    (0#32).getLsbD 9 = false ∧
    (s2.hdmOf 3).ctrl.getLsbD 9 = true := by
  intros; exact ⟨⟨rfl, rfl⟩, by decide +kernel⟩

/-! ## Coherent accesses -/

/-- A state in which port 0's window is committed at 0, 256 MiB long, over a device. -/
def overHdm (d : Dev) : State :=
  (over' { d with q := { d.q with ports := [(0, { HPort.reset with linkUp := true, perst := true })] } }).setHdm 0
    { Hdm.reset with sizeLow := 0x10000000, ctrl := 0x600 }

/-- A writable extent of port 0, and a device that holds it, its last line in a state of the directory. -/
def ext0 : Extent := { ext true with target := 0 }

def coh (l : Option DirEnt) : State := overHdm ((withExt ext0 serv).updCxl fun k => { k with dir :=
  match l with
  | some x => [(lineKey extH 32767, x)]
  | none => [] })

/-- Host 0 the owner of a line, or a sharer that is asked. -/
def entOwned : DirEnt := { line := .owned 0, stamp := 0, snoops := [], inv := false, since := 0 }

def entAsked : DirEnt := { line := .shared [0], stamp := 0, snoops := [0], inv := false, since := 0 }

/-- CXL.mem reads and a write of the last line of an extent, which nobody holds. -/
theorem test_witness_cxl_read :
    let s := coh (none)
    let d := s.dev
    s.live ∧ d.cxl.reqs = [] ∧
    d.cxl.dir.wf = true ∧
    (s.hdmOf 0).offset? 2097088 = some 2097088 ∧
    s.decoded 0 2097088 = some 2097088 ∧
    okIs (d.hostExtent 0 2097088) (extH, ext0) = true ∧
    d.ext? extH = some ext0 ∧
    ext0.writable = true ∧
    lineKey extH ((2097088 / 64 * 64 - ext0.offset) / 64) = lineKey extH 32767 ∧
    d.cxl.dir.get? (lineKey extH 32767) = none ∧
    32767 < 2 ^ 32 ∧
    d.sliceUsed ext0.half < sliceEntries ∧
    ext0.poison.contains 32767 = false ∧
    d.keyless ext0.tenant = false := by
  intros; exact ⟨⟨rfl, rfl⟩, by decide +kernel⟩

/-- A write-back and a clean eviction of its owner. -/
theorem test_witness_cxl_owner :
    let s := coh (some entOwned)
    let d := s.dev
    s.live ∧ d.cxl.reqs = [] ∧
    d.cxl.dir.wf = true ∧
    (s.hdmOf 0).offset? 2097088 = some 2097088 ∧
    s.decoded 0 2097088 = some 2097088 ∧
    okIs (d.hostExtent 0 2097088) (extH, ext0) = true ∧
    d.ext? extH = some ext0 ∧
    ext0.writable = true ∧
    lineKey extH ((2097088 / 64 * 64 - ext0.offset) / 64) = lineKey extH 32767 ∧
    d.cxl.dir.get? (lineKey extH 32767) = some entOwned ∧
    entOwned.line = .owned 0 ∧
    entOwned.snoops = [] ∧
    d.lineOf 0 2097088 = some (lineKey extH 32767, entOwned) := by
  intros; exact ⟨⟨rfl, rfl⟩, by decide +kernel⟩

/-- A snoop's answers, and no answer for the recall timeout. -/
theorem test_witness_cxl_snoop :
    let s := coh (some entAsked)
    let d := s.dev
    s.live ∧ d.cxl.reqs = [] ∧
    d.cxl.dir.wf = true ∧
    (s.hdmOf 0).offset? 2097088 = some 2097088 ∧
    d.lineOf 0 2097088 = some (lineKey extH 32767, entAsked) ∧
    entAsked.snoops.contains 0 = true ∧
    entAsked.inv = false ∧
    entAsked.line.holders.contains 0 = true := by
  intros; exact ⟨⟨rfl, rfl⟩, by decide +kernel⟩

/-- A recall that times out. -/
theorem test_witness_cxl_timeout :
    let s := overHdm ((coh (some entAsked)).dev.updPwr fun p => { p with tick := 0xFFFFFFFF })
    let d := s.dev
    s.live ∧ d.cxl.reqs = [] ∧ d.cxl.dir.wf = true ∧ (s.hdmOf 0).offset? 2097088 = some 2097088 ∧
    d.lineOf 0 2097088 = some (lineKey extH 32767, entAsked) ∧ entAsked.since + d.feat 0x0A 0 32 ≤ d.now := by
  intros; exact ⟨⟨rfl, rfl⟩, by decide +kernel⟩

/-- A read past every extent. -/
theorem test_witness_cxl_refused :
    let s := coh none
    s.live ∧ s.decoded 0 2097152 = some 2097152 ∧ isOk (s.dev.hostExtent 0 2097152) = false := by
  intros; exact ⟨⟨rfl, rfl⟩, by decide +kernel⟩

/-! ## Management path, log, trace -/

/-- A device whose management processor answers. -/
def mpUp : Dev := serv.updMgmt fun m => { m with mpRunning := true }

/-- MANAGEMENT_COMMAND of `SENSOR_READ`. -/
theorem test_witness_mgmt_cmd :
    let s := over' (mpUp)
    let d := s.dev
    let e := ent [(0, 0xA8), (0x22, 1)]
    let c : Cmd := { origin := .mgmt 4, entry := e, tenant := 0, half := 0, started := true, dup := false, phase := .taken, tick := d.now, input := [], ends := none, jobs := [], tiles := [] }
    let d1 := match bodyOf e.op with
      | some b => startCmd e.op b d.q.nextCmd (addInline c (d.updMgmt fun m => { m with mgmtTick := d.now }))
      | none => d
    d.mgmtHears 4 = true ∧
    d.pwr.retention = false ∧
    d.mgmtFront 4 = none ∧
    mgmtOps.contains e.op = true ∧
    e.addr = 0 ∧
    (bodyOf e.op).isSome = true ∧
    (match d1.mgmtFront 4 with | some p => decide (p.2.phase ≠ .taken) | none => true) = true := by
  intros; decide +kernel

/-- MANAGEMENT_COMMAND of an opcode the path does not carry. -/
theorem test_witness_mgmt_refused :
    let s := over' (mpUp)
    let d := s.dev
    let e := ent [(0, 0x10)]
    let c : Cmd := { origin := .mgmt 4, entry := e, tenant := 0, half := 0, started := true, dup := false, phase := .taken, tick := d.now, input := [], ends := none, jobs := [], tiles := [] }
    let d1 := finishCmd d.q.nextCmd (errS .notPermitted) (addInline c (d.updMgmt fun m => { m with mgmtTick := d.now }))
    d.mgmtHears 4 = true ∧
    d.pwr.retention = false ∧
    d.mgmtFront 4 = none ∧
    mgmtOps.contains e.op = false ∧
    (match d1.mgmtFront 4 with | some p => decide (p.2.phase ≠ .taken) | none => true) = true := by
  intros; decide +kernel

/-- MANAGEMENT_COMMAND over a port whose function is another tenant's. -/
theorem test_witness_mgmt_other_tenant :
    let s := over' ((mpUp.updHport 3 fun h => { h with linkUp := true }).updFn 768 fun f => { f with bound := some 5 })
    let d := s.dev
    d.mgmtHears 3 = true ∧
    (d.fn 768).bound ≠ some 0 ∧
    d.pwr.retention = false := by
  intros; decide +kernel

/-- PLDM_REQUEST that begins an update of 16 MiB, SPDM_REQUEST below the session limit. -/
theorem test_witness_pldm :
    let s := over' (mpUp)
    let d := s.dev
    d.mgmtHears 4 = true ∧
    d.pwr.retention = false ∧
    d.mgmt.staging = none ∧
    d.mgmt.romRec = false ∧
    16777216 % 4096 = 0 ∧
    d.mgmt.sessions < 4 := by
  intros; decide +kernel

/-- SPDM_REQUEST for a fifth session. -/
theorem test_witness_spdm_full :
    let s := over' (mpUp.updMgmt fun m => { m with sessions := 4 })
    let d := s.dev
    d.mgmtHears 4 = true ∧
    4 ≤ d.mgmt.sessions := by
  intros; decide +kernel

/-- An update session over PLDM. -/
def pldmSt : Staging := { owner := .pldm 4, len := 4096, blocks := [], last := 0 }

/-- PLDM_REQUEST with the last byte's block, and its end. -/
theorem test_witness_pldm_data :
    let s := over' (mpUp.updMgmt fun m => { m with staging := some pldmSt })
    let d := s.dev
    d.mgmtHears 4 = true ∧
    d.mgmt.staging = some pldmSt ∧
    pldmSt.owner = .pldm 4 ∧
    chunkBad pldmSt 0 4096 = none := by
  intros; decide +kernel

/-- FW_STAGING_TIMEOUT. -/
theorem test_witness_staging_timeout :
    let s := over' ((mpUp.updMgmt fun m => { m with staging := some pldmSt }).updPwr fun p => { p with tick := 2 ^ 30 })
    let d := s.dev
    d.mgmt.staging = some pldmSt ∧
    pldmSt.last + 2 ^ 30 ≤ d.now := by
  intros; decide +kernel

/-- FLASH_PROGRAM_DONE of a preset image. -/
theorem test_witness_flash_done :
    let s := over' (mpUp.updMgmt fun m => { m with flashOp := some (.preset 0 [1]) })
    s.dev.mgmt.flashOp = some (.preset 0 [1]) := rfl

/-- MANAGEMENT_RESTART at the first event of its threshold. -/
theorem test_witness_restart :
    let s := over' (mpUp.updMgmt fun m => { m with copies := [0] })
    let d := s.dev
    d.mgmt.mpRunning = true ∧
    d.mgmt.romRec = false ∧
    5 ≤ d.pwr.step ∧
    d.mgmt.copies ≠ [] ∧
    (raise (restartRec 1 0) (countEvent 12 0 (restartEnds d)).2).reached 12 4 (countEvent 12 0 (restartEnds d)).1 = false := by
  intros; decide +kernel

/-- SERVICE_MODE_ENTRY. -/
theorem test_witness_service_entry :
    let s := over' (Dev.reset.updPwr fun p => { p with step := 8, trained := [3] })
    let d := s.dev
    8 ≤ d.pwr.step ∧
    d.pwr.mode = .bringUp ∧
    d.pwr.trained ≠ [] ∧
    d.mem.order ≠ 2 ∧
    d.pwr.fatal = false ∧
    d.mgmt.romRec = false ∧
    d.pwr.retention = false ∧
    d.pwr.bscan = false := by
  intros; decide +kernel

/-- DEBUG_UNLOCK, where the owner's signature holds (an open function, log entry 6). -/
theorem test_witness_unlock :
    (over' (serv.updMgmt fun m => { m with flash := { m.flash with ownerA := some ⟨some (zeros 57), 1⟩ } })).dev.mgmt.flash.owner.key =
      some (zeros 57) := by decide +kernel

/-- CE_SUMMARY_WINDOW. -/
theorem test_witness_ce_window :
    let s := over' ((serv.updInteg fun i => { i with ce := [(256, 3)], ceStart := [(256, 0)] }).updPwr fun p => { p with tick := 2 ^ 20 })
    let d := s.dev
    s.live ∧
    d.integ.ceStart = [(256, 0)] ∧
    0 + 2 ^ 20 ≤ d.now := by
  intros; exact ⟨⟨rfl, rfl⟩, by decide +kernel⟩

/-- TRACE_PATTERN_END. -/
theorem test_witness_trace_pattern :
    let s := over' ((serv.updInteg fun i => { i with trace := { i.trace with enabled := true, sending := false } }).setDomain 25 .on)
    let d := s.dev
    s.live ∧
    d.integ.trace.enabled = true ∧
    d.integ.trace.sending = false ∧
    d.domain 25 = .on := by
  intros; exact ⟨⟨rfl, rfl⟩, by decide +kernel⟩

/-- TRACE_FRAME. -/
theorem test_witness_trace_frame :
    let s := over' ((serv.updInteg fun i => { i with trace := { i.trace with enabled := true, sending := true } }).setDomain 25 .on)
    let d := s.dev
    s.live ∧
    d.integ.trace.enabled = true ∧
    d.integ.trace.sending = true ∧
    d.domain 25 = .on := by
  intros; exact ⟨⟨rfl, rfl⟩, by decide +kernel⟩

/-! ## Links and flits -/

/-- A device with port 55 in a state. -/
def portIn (st : LinkState) (f : Port → Port) : Dev := serv.updPort 55 fun p => f { p with st := st }

/-- LINK_DETECT_LOCK with the last pair. -/
theorem test_witness_detect :
    let s := over' (portIn .detect id)
    let d := s.dev
    s.live ∧
    (d.port 55).st = .detect ∧
    (d.port 55).pairsOf (0xC0#8).toNat ≠ 0 := by
  intros; exact ⟨⟨rfl, rfl⟩, by decide +kernel⟩

/-- EQUALISATION_COMPLETE of a port never ACTIVE. -/
theorem test_witness_equalise_first :
    let s := over' (portIn .equalise fun p => { p with everActive := false, width := 0 })
    let d := s.dev
    let lanes : BitVec 8 := 0xFF
    s.live ∧
    (d.port 55).st = .equalise ∧
    (d.port 55).everActive = false ∧
    chooseWidth ((d.port 55).pairsOf lanes.toNat &&& (0xF#4).toNat) (d.port 55).maxWidth = some (0, 0xFF) ∧
    (d.port 55).width = 0 := by
  intros; exact ⟨⟨rfl, rfl⟩, by decide +kernel⟩

/-- EQUALISATION_COMPLETE of one that was, at its width. -/
theorem test_witness_equalise_same :
    let s := over' (portIn .equalise fun p => { p with everActive := true, width := 0 })
    let d := s.dev
    let lanes : BitVec 8 := 0xFF
    s.live ∧
    (d.port 55).st = .equalise ∧
    (d.port 55).everActive = true ∧
    chooseWidth ((d.port 55).pairsOf lanes.toNat &&& (0xF#4).toNat) (d.port 55).maxWidth = some (0, 0xFF) ∧
    (d.port 55).width = 0 := by
  intros; exact ⟨⟨rfl, rfl⟩, by decide +kernel⟩

/-- EQUALISATION_COMPLETE of one that was, narrower. -/
theorem test_witness_equalise_narrower :
    let s := over' (portIn .equalise fun p => { p with everActive := true, width := 0 })
    let d := s.dev
    let lanes : BitVec 8 := 0x0F
    s.live ∧
    (d.port 55).st = .equalise ∧
    (d.port 55).everActive = true ∧
    chooseWidth ((d.port 55).pairsOf lanes.toNat &&& (0xF#4).toNat) (d.port 55).maxWidth = some (1, 0x0F) ∧
    (d.port 55).width = 0 := by
  intros; exact ⟨⟨rfl, rfl⟩, by decide +kernel⟩

/-- EQUALISATION_COMPLETE without a pair. -/
theorem test_witness_equalise_none :
    let s := over' (portIn .retrain id)
    let d := s.dev
    s.live ∧
    (d.port 55).st = .retrain ∧
    chooseWidth ((d.port 55).pairsOf 0x55 &&& 15) (d.port 55).maxWidth = none := by
  intros; exact ⟨⟨rfl, rfl⟩, by decide +kernel⟩

/-- CODEWORD_LOCK and ALIGN_TIMEOUT. -/
theorem test_witness_align :
    let s := over' ((portIn .align id).updPwr fun p => { p with tick := 4096 })
    let d := s.dev
    s.live ∧
    (d.port 55).st = .align ∧
    (d.port 55).since + 4096 ≤ d.now := by
  intros; exact ⟨⟨rfl, rfl⟩, by decide +kernel⟩

/-- LOSS_OF_SIGNAL, PARTNER_ENTERS_TRAINING, QUIET_TIME_EXPIRY, ACK_SEND_DUE. -/
theorem test_witness_active :
    let s := over' ((portIn .active id).updPwr fun p => { p with tick := 2500 })
    let d := s.dev
    s.live ∧
    (d.port 55).st ≠ .disabled ∧
    (d.port 55).st ≠ .detect ∧
    (d.port 55).st ≠ .quiet ∧
    (d.port 55).st = .active ∧
    (d.port 55).quietReq = false ∧
    (d.port 55).txq = [] ∧
    (d.port 55).replay = [] ∧
    (d.port 55).rxPart = [] ∧
    d.pwr.policy.ylQuiet ≠ 0 ∧
    (d.port 55).lastMsg + d.pwr.policy.ylQuiet ≤ d.now := by
  intros; exact ⟨⟨rfl, rfl⟩, by decide +kernel⟩

/-- LINK_LOSS. -/
theorem test_witness_link_loss :
    let s := over' ((portIn .detect fun p => { p with downSince := some 0 }).updPwr fun p => { p with tick := 2 ^ 63 })
    let d := s.dev
    s.live ∧
    (d.port 55).downSince = some 0 ∧
    0 + 2 ^ d.feat 0x09 0 8 ≤ d.now := by
  intros; exact ⟨⟨rfl, rfl⟩, by decide +kernel⟩

/-- LINK_WAKE. -/
theorem test_witness_wake :
    let s := over' (portIn .quiet id)
    let d := s.dev
    s.live ∧
    (d.port 55).st = .quiet := by
  intros; exact ⟨⟨rfl, rfl⟩, by decide +kernel⟩

/-- POWER_GROUP_ON of the last group. -/
theorem test_witness_group_on :
    let s := over' (serv.setDomain 25 .switchingOn)
    let d := s.dev
    s.live ∧
    3 < 4 ∧
    d.domain (22 + 3) ≠ .off := by
  intros; exact ⟨⟨rfl, rfl⟩, by decide +kernel⟩

/-- A flit received without an error. -/
def rxOf (typ seq : Nat) (payload : Bytes) : RxFlit :=
  { data := flitOf typ seq 0xFFFF [] [] payload, corrected := 0, badCodeword := false, lost := 0, buffer := .clean }

theorem flatMap_leBytes_length (f : Nat → Nat) (l : List Nat) : (l.flatMap fun k => leBytes 1 (f k)).length = l.length := by
  induction l with
  | nil => rfl
  | cons a l ih => simp only [List.flatMap_cons, List.length_append, leBytes_length, ih, List.length_cons]; omega

/-- A flit the model builds passes the check of its CRC. -/
theorem flitOf_good (typ seq ack : Nat) (starts credit : List Nat) (payload : Bytes) :
    crcFails (flitOf typ seq ack starts credit payload) = false := by
  have key : ∀ body : Bytes, body.length = 248 → crcFails (body ++ leBytes 8 (crc64 body).toNat) = false := by
    intro body h
    have h2 : (body ++ leBytes 8 (crc64 body).toNat).take 248 = body := by
      rw [List.take_append_of_le_length (by omega)]; exact List.take_of_length_le (by omega)
    have h3 : (body ++ leBytes 8 (crc64 body).toNat).drop 248 = leBytes 8 (crc64 body).toNat := by
      rw [List.drop_append, List.drop_of_length_le (by omega), h]; rfl
    simp only [crcFails, h2, h3, List.length_append, h, leBytes_length, bne_self_eq_false, Bool.or_self]
  refine key _ ?_
  simp only [List.length_append, leBytes_length, flatMap_leBytes_length, List.length_take, List.length_range, zeros,
    List.length_replicate]
  omega

/-- Of two ends of a flit at most one is the CRC. -/
theorem bad_flit (b : Bytes) (h : b.length = 248) : ∃ x ∈ [zeros 8, (1 : Byte) :: zeros 7], crcFails (b ++ x) = true := by
  have cut (x : Bytes) : (b ++ x).drop 248 = x ∧ (b ++ x).take 248 = b := by
    constructor
    · rw [List.drop_append, List.drop_of_length_le (by omega), h]; rfl
    · rw [List.take_append_of_le_length (by omega)]; exact List.take_of_length_le (by omega)
  by_cases hz : zeros 8 = leBytes 8 (crc64 b).toNat
  · refine ⟨(1 : Byte) :: zeros 7, by simp, ?_⟩
    simp only [crcFails, (cut _).1, (cut _).2, Bool.or_eq_true, bne_iff_ne]
    right; intro h2; rw [← hz] at h2; revert h2; decide
  · refine ⟨zeros 8, by simp, ?_⟩
    simp only [crcFails, (cut _).1, (cut _).2, Bool.or_eq_true, bne_iff_ne]
    exact .inr hz

/-- PAYLOAD_FLIT in order. -/
theorem test_witness_flit_payload :
    let s := over' (portIn .active id)
    let d := s.dev
    let rx := rxOf 0 0 []
    s.live ∧
    crcFails rx.data = false ∧
    d.inject? (fun j => j.target == 3 && j.inst == 55) = none ∧
    (d.port 55).st = .active ∧
    rx.badCodeword = false ∧
    fld rx.data 4 0 3 = 0 ∧
    fld rx.data 0 0 16 = (d.port 55).expected := by
  intros; exact ⟨⟨rfl, rfl⟩, flitOf_good _ _ _ _ _ _, by decide +kernel⟩

/-- PAYLOAD_FLIT as far ahead as counts as ahead. -/
theorem test_witness_flit_ahead :
    let s := over' (portIn .active id)
    let d := s.dev
    let rx := rxOf 0 32767 []
    s.live ∧
    crcFails rx.data = false ∧
    d.inject? (fun j => j.target == 3 && j.inst == 55) = none ∧
    (d.port 55).st = .active ∧
    rx.badCodeword = false ∧
    fld rx.data 4 0 3 = 0 ∧
    fld rx.data 0 0 16 ≠ (d.port 55).expected ∧
    (fld rx.data 0 0 16 + 65536 - (d.port 55).expected) % 65536 < 32768 := by
  intros; exact ⟨⟨rfl, rfl⟩, flitOf_good _ _ _ _ _ _, by decide +kernel⟩

/-- PAYLOAD_FLIT one further, which is behind. -/
theorem test_witness_flit_behind :
    let s := over' (portIn .active id)
    let d := s.dev
    let rx := rxOf 0 32768 []
    s.live ∧
    crcFails rx.data = false ∧
    d.inject? (fun j => j.target == 3 && j.inst == 55) = none ∧
    (d.port 55).st = .active ∧
    rx.badCodeword = false ∧
    fld rx.data 4 0 3 = 0 ∧
    32768 ≤ (fld rx.data 0 0 16 + 65536 - (d.port 55).expected) % 65536 := by
  intros; exact ⟨⟨rfl, rfl⟩, flitOf_good _ _ _ _ _ _, by decide +kernel⟩

/-- IDLE_FLIT. -/
theorem test_witness_flit_idle :
    let s := over' (portIn .active id)
    let d := s.dev
    let rx := rxOf 1 0 []
    s.live ∧
    crcFails rx.data = false ∧
    d.inject? (fun j => j.target == 3 && j.inst == 55) = none ∧
    (d.port 55).st = .active ∧
    rx.badCodeword = false ∧
    fld rx.data 4 0 3 = 1 := by
  intros; exact ⟨⟨rfl, rfl⟩, flitOf_good _ _ _ _ _ _, by decide +kernel⟩

/-- NAK_FLIT. -/
theorem test_witness_flit_nak :
    let s := over' (portIn .active id)
    let d := s.dev
    let rx := rxOf 2 0 []
    s.live ∧
    crcFails rx.data = false ∧
    d.inject? (fun j => j.target == 3 && j.inst == 55) = none ∧
    (d.port 55).st = .active ∧
    rx.badCodeword = false ∧
    fld rx.data 4 0 3 = 2 := by
  intros; exact ⟨⟨rfl, rfl⟩, flitOf_good _ _ _ _ _ _, by decide +kernel⟩

/-- QUIET_FLIT that agrees. -/
theorem test_witness_flit_quiet :
    let s := over' (portIn .active id)
    let d := s.dev
    let rx := rxOf 4 0 [2]
    s.live ∧
    crcFails rx.data = false ∧
    d.inject? (fun j => j.target == 3 && j.inst == 55) = none ∧
    (d.port 55).st = .active ∧
    rx.badCodeword = false ∧
    fld rx.data 4 0 3 = 4 ∧
    fld rx.data 16 0 8 = 2 := by
  intros; exact ⟨⟨rfl, rfl⟩, flitOf_good _ _ _ _ _ _, by decide +kernel⟩

/-- IDENT_EXCHANGE. -/
theorem test_witness_flit_ident :
    let s := over' (portIn .ident id)
    let d := s.dev
    let rx := rxOf 3 0 (zeros 8 ++ [1])
    s.live ∧
    crcFails rx.data = false ∧
    d.inject? (fun j => j.target == 3 && j.inst == 55) = none ∧
    (d.port 55).st = .ident ∧
    rx.badCodeword = false ∧
    fld rx.data 4 0 3 = 3 ∧
    fld ((rx.data.drop 16).take 16) 8 0 8 = 1 ∧
    (d.port 55).keep = false := by
  intros; exact ⟨⟨rfl, rfl⟩, flitOf_good _ _ _ _ _ _, by decide +kernel⟩

/-- A bad flit of zeros. -/
theorem test_witness_flit_bad : ∃ x : Bytes,
    let s := over' (portIn .active id)
    let d := s.dev
    let rx : RxFlit := { data := zeros 248 ++ x, corrected := 0, badCodeword := false, lost := 0, buffer := .clean }
    s.live ∧ d.inject? (fun j => j.target == 3 && j.inst == 55) = none ∧ (d.port 55).st = .active ∧ crcFails rx.data = true ∧
      rx.lost = 0 ∧ (d.port 55).uncorr = [] ∧ (d.port 55).nakOut = false := by
  obtain ⟨x, _, h⟩ := bad_flit (zeros 248) List.length_replicate
  exact ⟨x, ⟨rfl, rfl⟩, rfl, rfl, h, rfl, rfl, rfl⟩

/-- REPLAY_TIMEOUT at the last resend before training. -/
theorem test_witness_replay :
    let s := over' (portIn .active fun p => { p with replay := [(0, zeros 256)], resends := 6 })
    let d := s.dev
    s.live ∧
    d.inject? (fun j => j.target == 3 && j.inst == 55) = none ∧
    (d.port 55).st = .active ∧
    (d.port 55).replay ≠ [] ∧
    (d.port 55).resends < 7 := by
  intros; exact ⟨⟨rfl, rfl⟩, by decide +kernel⟩

/-! ## Messages and streams -/

/-- Values at byte offsets of a message of `k` bytes. -/
def msgOf (k : Nat) (l : List (Nat × Nat)) : Bytes := leBytes k (l.foldl (fun a p => a + p.2 * 2 ^ (8 * p.1)) 0)

/-- Port 0 of a device ACTIVE and bound, with tenant 0. -/
def active (d : Dev) : Dev := d.updPort 0 fun p => { p with st := .active, bound := true, tenants := [0] }

/-- CREDIT that initialises. -/
theorem test_witness_credit_init :
    let s := over' (active serv)
    let d := s.dev
    let m := msgOf 24 [(0, 0xB), (1, 1), (4, 100)]
    s.live ∧
    msgLen m = some m.length ∧
    (d.port 0).st = .active ∧
    fld m 0 0 8 = 0xB ∧
    fld m 1 0 1 = 1 := by
  intros; exact ⟨⟨rfl, rfl⟩, by decide +kernel⟩

/-- CREDIT that returns. -/
theorem test_witness_credit :
    let s := over' (active serv)
    let d := s.dev
    let m := msgOf 24 [(0, 0xB), (4, 1)]
    s.live ∧
    msgLen m = some m.length ∧
    (d.port 0).st = .active ∧
    fld m 0 0 8 = 0xB ∧
    fld m 1 0 1 = 0 := by
  intros; exact ⟨⟨rfl, rfl⟩, by decide +kernel⟩

/-- SIGNAL_MSG with nothing before it. -/
theorem test_witness_signal :
    let s := over' (active serv)
    let d := s.dev
    let m := msgOf 32 [(0, 8)]
    s.live ∧
    msgLen m = some m.length ∧
    (d.port 0).st = .active ∧
    (d.port 0).bound = true ∧
    (d.port 0).idFail = false ∧
    fld m 0 0 8 = 8 ∧
    (d.port 0).tenants.contains (fld m 2 0 10) = true ∧
    (noteRx 0 m d).sigBlockers 0 (fld m 2 0 10) = [] := by
  intros; exact ⟨⟨rfl, rfl⟩, by decide +kernel⟩

/-- SIGNAL_MSG behind a write not acknowledged. -/
theorem test_witness_signal_waits :
    let s := over' (active (withStr { strm .active true with acks := [{ tag := 1, tile := 0, status := none }] }))
    let d := s.dev
    let m := msgOf 32 [(0, 8)]
    s.live ∧
    msgLen m = some m.length ∧
    (d.port 0).st = .active ∧
    (d.port 0).bound = true ∧
    (d.port 0).idFail = false ∧
    fld m 0 0 8 = 8 ∧
    (d.port 0).tenants.contains (fld m 2 0 10) = true ∧
    (noteRx 0 m d).sigBlockers 0 (fld m 2 0 10) ≠ [] := by
  intros; exact ⟨⟨rfl, rfl⟩, by decide +kernel⟩

/-- A near-tier queue pair of port 0, depth 16. -/
def qpNear : QP := QP.fresh (.near 0) false 0 4 255 0 1 0 0 0 0

/-- CMD into the last free slot. -/
theorem test_witness_cmd :
    let s := over' (active (withQp { qpNear with sqTail := 14, ring := (List.range 14).map fun k => (k, 0) } serv))
    let d := s.dev
    let m := msgOf 80 [(0, 9), (2, 1)]
    let q := { qpNear with sqTail := 14, ring := (List.range 14).map fun k => (k, 0) }
    s.live ∧
    msgLen m = some m.length ∧
    (d.port 0).st = .active ∧
    (d.port 0).bound = true ∧
    (d.port 0).idFail = false ∧
    fld m 0 0 8 = 9 ∧
    d.qp? (fld m 2 0 15) = some q ∧
    q.loc = .near 0 ∧
    q.discard = false ∧
    q.deleter = none ∧
    (d.port 0).tenants.contains q.tenant = true ∧
    q.untaken < 2 ^ q.log2Depth - 1 := by
  intros; exact ⟨⟨rfl, rfl⟩, by decide +kernel⟩

/-- CMD into a full ring. -/
theorem test_witness_cmd_full :
    let s := over' (active (withQp { qpNear with sqTail := 15, ring := (List.range 15).map fun k => (k, 0) } serv))
    let d := s.dev
    let m := msgOf 80 [(0, 9), (2, 1)]
    let q := { qpNear with sqTail := 15, ring := (List.range 15).map fun k => (k, 0) }
    s.live ∧
    msgLen m = some m.length ∧
    (d.port 0).st = .active ∧
    (d.port 0).bound = true ∧
    (d.port 0).idFail = false ∧
    fld m 0 0 8 = 9 ∧
    d.qp? (fld m 2 0 15) = some q ∧
    q.loc = .near 0 ∧
    q.discard = false ∧
    q.deleter = none ∧
    (d.port 0).tenants.contains q.tenant = true ∧
    2 ^ q.log2Depth - 1 ≤ q.untaken := by
  intros; exact ⟨⟨rfl, rfl⟩, by decide +kernel⟩

/-- CMDCH_TILE_DATA that answers a read whole. -/
theorem test_witness_cmdch_data :
    let s := over' ((active { serv with q := { serv.q with cmds := [(0, { cmdOf (ent [(0, 0xA5)]) 0 with phase := .reading [] })], nextCmd := 1 } }).updPort 0 fun p => { p with reads := [(255, { cmd := 0, addr := 0x1000, len := 4, got := [], since := 0 })] })
    let d := s.dev
    let m := msgOf 36 [(0, 2), (1, 2), (4, 0xFFFFFFFF), (8, 255), (0xA, 4)]
    s.live ∧
    msgLen m = some m.length ∧
    (d.port 0).st = .active ∧
    (d.port 0).bound = true ∧
    (d.port 0).idFail = false ∧
    fld m 0 0 8 = 2 ∧
    fld m 4 0 32 = 0xFFFFFFFF ∧
    fld m 8 0 16 < 256 ∧
    (d.port 0).reads.get? (fld m 8 0 16) = some { cmd := 0, addr := 0x1000, len := 4, got := [], since := 0 } ∧
    fld m 2 0 8 = 0 ∧
    fld m 1 1 1 = 1 ∧
    4 ≤ cmdReadMax ∧
    fld m 0xA 0 16 = 4 ∧
    (d.cmd? 0).isSome = true ∧
    ((endCmdRead 0 255 (grantBytes (d.label 0) 2 0 4 (noteRx 0 m d))).cmd? 0).isSome = true ∧
    (bodyOf 0xA5).isSome = true := by
  exact ⟨⟨rfl, rfl⟩, by decide +kernel, by decide +kernel, by decide +kernel, by decide +kernel, by decide +kernel,
    by decide +kernel, by decide +kernel, by decide +kernel, by decide +kernel, by decide +kernel, by decide +kernel,
    by decide +kernel, by decide +kernel, by decide +kernel, rfl⟩

/-- COMMAND_CHANNEL_TIMEOUT. -/
theorem test_witness_cmdch_timeout :
    let s := over' (((active { serv with q := { serv.q with cmds := [(0, { cmdOf (ent [(0, 0xA5)]) 0 with phase := .reading [] })], nextCmd := 1 } }).updPort 0 fun p => { p with reads := [(255, { cmd := 0, addr := 0x1000, len := 4, got := [], since := 0 })] }).updPwr fun p => { p with tick := 2 ^ 18 })
    let d := s.dev
    s.live ∧
    255 < 256 ∧
    (d.port 0).reads.get? 255 = some { cmd := 0, addr := 0x1000, len := 4, got := [], since := 0 } ∧
    0 + 2 ^ 18 ≤ d.now := by
  intros; exact ⟨⟨rfl, rfl⟩, by decide +kernel⟩

/-- TILE_RD_REQ of a tile never written. -/
theorem test_witness_tile_rd :
    let s := over' (active (withStr (strm .active true)))
    let d := s.dev
    let m := msgOf 48 [(0, 1), (8, 1), (0xA, 1), (0x10, 0x1000)]
    let st := (strm .active true)
    s.live ∧
    msgLen m = some m.length ∧
    (d.port 0).st = .active ∧
    (d.port 0).bound = true ∧
    (d.port 0).idFail = false ∧
    fld m 4 0 32 = 0 ∧
    d.strOn 0 0 = some st ∧
    st.hw = true ∧
    st.st = .active ∧
    fld m 0 0 8 = 1 ∧
    isExtent st.obj = false ∧
    d.obj? st.obj = some (obj .sealed) ∧
    d.ver? st.obj st.ver = some (ver1 .sealed) ∧
    d.keyless (obj .sealed).tenant = false ∧
    (ver1 .sealed).damaged = false ∧
    d.pwr.sable = false ∧
    refuseRead st (obj .sealed).count (delivSize (st.lay (obj .sealed)) (obj .sealed).th (obj .sealed).tw) ((ver1 .sealed).st != .opened && (ver1 .sealed).st != .sealing) m = none ∧
    (∀ y ∈ (askTiles 0 st (obj .sealed) ((reqOf m st.nextReq d.now (d.clsOf st.qos == 3)).deadline.getD 0) (reqOf m st.nextReq d.now (d.clsOf st.qos == 3)).first (fld m 0xA 0 16) [] ((grantBytes st.qos 2 st.port 0 (noteRx 0 m d)).updStr 0 fun x => { x with touch := d.now })).1, (match y with | .failed _ => false | _ => true) = true) := by
  intros; exact ⟨⟨rfl, rfl⟩, by decide +kernel⟩

/-- TILE_WR of a first segment. -/
theorem test_witness_tile_wr_part :
    let s := over' (active ((withStr { strm .active true with kind := 1 }).updObjs fun t => { t with objs := [(0x100, obj .opened)] }))
    let d := s.dev
    let m := msgOf 48 [(0, 3), (0xA, 16)]
    let st : Stream := { strm .active true with kind := 1 }
    s.live ∧
    msgLen m = some m.length ∧
    (d.port 0).st = .active ∧
    (d.port 0).bound = true ∧
    (d.port 0).idFail = false ∧
    fld m 4 0 32 = 0 ∧
    d.strOn 0 0 = some st ∧
    st.hw = true ∧
    st.st = .active ∧
    fld m 0 0 8 = 3 ∧
    isExtent st.obj = false ∧
    d.obj? st.obj = some (obj .opened) ∧
    st.kind = 1 ∧
    st.parts = [] ∧
    st.drops = [] ∧
    d.pwr.sable = false ∧
    wrReserved m = false ∧
    fld m 0xC 0 32 < (obj .opened).count ∧
    fld m 0x18 0 32 = 0 ∧
    fld m 0xA 0 16 ≤ 16384 ∧
    (st.acks.filter (·.status.isNone)).length < st.maxOut ∧
    fld m 1 0 1 ≠ 1 ∧
    fld m 1 2 1 = 0 ∧
    fld m 0xA 0 16 ≤ (obj .opened).canon := by
  intros; exact ⟨⟨rfl, rfl⟩, by decide +kernel⟩

/-- TILE_WR of a whole tile. -/
theorem test_witness_tile_wr_last :
    let s := over' (active ((withStr { strm .active true with kind := 1 }).updObjs fun t => { t with objs := [(0x100, obj .opened)] }))
    let d := s.dev
    let m := msgOf 32 [(0, 3), (1, 1), (0xA, 1024)] ++ zeros 1024
    let st : Stream := { strm .active true with kind := 1 }
    s.live ∧
    msgLen m = some m.length ∧
    (d.port 0).st = .active ∧
    (d.port 0).bound = true ∧
    (d.port 0).idFail = false ∧
    fld m 4 0 32 = 0 ∧
    d.strOn 0 0 = some st ∧
    st.hw = true ∧
    st.st = .active ∧
    fld m 0 0 8 = 3 ∧
    isExtent st.obj = false ∧
    d.obj? st.obj = some (obj .opened) ∧
    st.kind = 1 ∧
    st.parts = [] ∧
    st.drops = [] ∧
    d.pwr.sable = false ∧
    wrReserved m = false ∧
    fld m 0xC 0 32 < (obj .opened).count ∧
    fld m 0x18 0 32 = 0 ∧
    fld m 0xA 0 16 ≤ 16384 ∧
    (st.acks.filter (·.status.isNone)).length < st.maxOut ∧
    fld m 1 0 1 = 1 ∧
    fld m 1 2 1 = 0 ∧
    fld m 0xA 0 16 = (obj .opened).canon := by
  intros; exact ⟨⟨rfl, rfl⟩, by decide +kernel⟩

/-- REDUCE_CONTRIB of a tile's one segment. -/
theorem test_witness_reduce_contrib :
    let s := over' (active (portUp (withRed.updStrs fun t => { t with strs := [(0, { strm .active true with kind := 2, obj := 0 })] })))
    let d := s.dev
    let m := msgOf 32 [(0, 5), (0xA, 1024)] ++ zeros 1024
    let st : Stream := { strm .active true with kind := 2, obj := 0 }
    s.live ∧
    msgLen m = some m.length ∧
    (d.port 0).st = .active ∧
    (d.port 0).bound = true ∧
    (d.port 0).idFail = false ∧
    fld m 4 0 32 = 0 ∧
    d.strOn 0 0 = some st ∧
    st.hw = true ∧
    st.st = .active ∧
    fld m 0 0 8 = 5 ∧
    st.kind = 2 ∧
    d.red? st.binding = some red0 ∧
    d.obj? red0.obj = some objRed ∧
    red0.ended = none ∧
    fld m 1 2 6 = 0 ∧
    fld m 3 0 8 = 0 ∧
    fld m 8 0 16 = 0 ∧
    ((m.drop 0x10).take 16).all (· == 0) = true ∧
    red0.first ≤ fld m 0xC 0 32 ∧
    fld m 0xC 0 32 - red0.first < red0.count ∧
    red0.retired ≤ 0 ∧
    0 - red0.retired < red0.window ∧
    red0.done = [] ∧
    fld m 2 0 8 < red0.segs objRed.n ∧
    fld m 1 1 1 = 0 ∧
    fld m 0xA 0 16 = min 16384 (objRed.n * fmtBits red0.cfmt / 8 - 0) := by
  intros; exact ⟨⟨rfl, rfl⟩, by decide +kernel⟩

/-- EXEC_TOKENS of a first segment, of as many tokens as there may be. -/
theorem test_witness_tokens_part :
    let s := over' (active (withSet.updStrs fun t => { t with strs := [(0, { strm .active true with kind := 3, obj := 0 })] }))
    let d := s.dev
    let m := msgOf 48 [(0, 6), (0xE, 16), (0x1C, 256)]
    let st : Stream := { strm .active true with kind := 3, obj := 0 }
    s.live ∧
    msgLen m = some m.length ∧
    (d.port 0).st = .active ∧
    (d.port 0).bound = true ∧
    (d.port 0).idFail = false ∧
    fld m 4 0 32 = 0 ∧
    d.strOn 0 0 = some st ∧
    st.hw = true ∧
    st.st = .active ∧
    fld m 0 0 8 = 6 ∧
    st.kind = 3 ∧
    st.batchIn = [] ∧
    st.drops = [] ∧
    tokReserved m = false ∧
    fld m 0x18 0 32 = 0 ∧
    fld m 0xE 0 16 ≤ 16384 ∧
    fld m 0x1C 0 9 ≠ 0 ∧
    fld m 0x1C 0 9 ≤ 256 ∧
    fld m 1 0 1 ≠ 1 ∧
    fld m 1 1 1 = 0 := by
  intros; exact ⟨⟨rfl, rfl⟩, by decide +kernel⟩

/-- EXEC_TOKENS of a last one. -/
theorem test_witness_tokens_last :
    let s := over' (active (withSet.updStrs fun t => { t with strs := [(0, { strm .active true with kind := 3, obj := 0 })] }))
    let d := s.dev
    let m := msgOf 48 [(0, 6), (1, 1), (0xE, 16), (0x1C, 1)]
    let st : Stream := { strm .active true with kind := 3, obj := 0 }
    s.live ∧
    msgLen m = some m.length ∧
    (d.port 0).st = .active ∧
    (d.port 0).bound = true ∧
    (d.port 0).idFail = false ∧
    fld m 4 0 32 = 0 ∧
    d.strOn 0 0 = some st ∧
    st.hw = true ∧
    st.st = .active ∧
    fld m 0 0 8 = 6 ∧
    st.kind = 3 ∧
    st.batchIn = [] ∧
    st.drops = [] ∧
    tokReserved m = false ∧
    fld m 0x18 0 32 = 0 ∧
    fld m 0xE 0 16 ≤ 16384 ∧
    fld m 0x1C 0 9 ≠ 0 ∧
    fld m 0x1C 0 9 ≤ 256 ∧
    fld m 1 0 1 = 1 := by
  intros; exact ⟨⟨rfl, rfl⟩, by decide +kernel⟩

/-! Events of streams -/

/-- HARDWARE_CONTEXT_AVAILABLE. -/
theorem test_witness_str_opens :
    let s := over' (withStr { strm .opening false with openCmd := some 0 })
    let d := s.dev
    let st : Stream := { strm .opening false with openCmd := some 0 }
    s.live ∧
    d.str? 0 = some st ∧
    st.st = .opening ∧
    st.openCmd = some 0 ∧
    d.hwUsed < hwContexts := by
  intros; exact ⟨⟨rfl, rfl⟩, by decide +kernel⟩

/-- STREAM_CONTEXT_RESTORED, with a command that waits for it, its bits read and not. -/
theorem test_witness_str_restored :
    let st : Stream := { strm .parked false with restoring := true, held := [.cmd 0] }
    let s := over' (withStr st)
    let d := s.dev
    s.live ∧
    d.str? 0 = some st ∧
    st.st = .parked ∧
    st.hw = false ∧
    st.restoring = true ∧
    d.hwUsed < hwContexts ∧
    ((traceStr 5 0 (d.updStr 0 fun s => { s with
        hw := true, st := .active, restoring := false, touch := d.now })).str? 0).isSome = true := by
  intros; exact ⟨⟨rfl, rfl⟩, by decide +kernel⟩

/-- TILE_READY of a request's last tile. -/
theorem test_witness_tile_ready :
    let s := over' (withStr { strm .active true with reqs := [{ tag := 1, first := 0, tiles := [.ready [1]], dest := 0, stride := 0, sig := [], trailer := false, trSent := false, deadline := none, refused := none, clean := true, num := 0, late := none }] })
    let d := s.dev
    let q : Req := { tag := 1, first := 0, tiles := [.ready [1]], dest := 0, stride := 0, sig := [], trailer := false, trSent := false, deadline := none, refused := none, clean := true, num := 0, late := none }
    let st : Stream := { strm .active true with reqs := [{ tag := 1, first := 0, tiles := [.ready [1]], dest := 0, stride := 0, sig := [], trailer := false, trSent := false, deadline := none, refused := none, clean := true, num := 0, late := none }] }
    s.live ∧
    d.str? 0 = some st ∧
    st.reqs = [q] ∧
    q.tiles = [.ready [1]] ∧
    q.trailer = false ∧
    q.deadline = none ∧
    q.refused = none := by
  intros; exact ⟨⟨rfl, rfl⟩, by decide +kernel⟩

/-- STREAM_CLOSED. -/
theorem test_witness_str_closed :
    let s := over' (withStr { strm .closing true with closeCmd := some 0 })
    let d := s.dev
    let st : Stream := { strm .closing true with closeCmd := some 0 }
    s.live ∧
    d.str? 0 = some st ∧
    st.st = .closing ∧
    st.busy = false ∧
    st.held = [] ∧
    st.kind ≠ 2 ∧
    st.closeCmd = some 0 := by
  intros; exact ⟨⟨rfl, rfl⟩, by decide +kernel⟩

/-- REDUCE_TILE_SETTLE. -/
theorem test_witness_tile_settle :
    let s := over' ({ withRed with reds := { reds := [(0, { red0 with done := [{ idx := 0, ovf := false, nonfin := false, dmg := false, settled := false }] })], gens := [] } })
    let d := s.dev
    let r : Red := { red0 with done := [{ idx := 0, ovf := false, nonfin := false, dmg := false, settled := false }] }
    s.live ∧
    d.red? 0 = some r ∧
    r.ended = none ∧
    (r.done.any fun t => t.idx == 0 && !t.settled) = true ∧
    d.redTaken 0 0 = true := by
  intros; exact ⟨⟨rfl, rfl⟩, by decide +kernel⟩

/-- REDUCE_TILE_SETTLE of a tile that its reduction holds in its accumulator, at the first event of its cluster. -/
theorem test_witness_tile_fault :
    let r : Red := { red0 with slots := [2], tiles := [RedTile.fresh 0 1 true] }
    let s := over' ({ withRed with reds := { reds := [(0, r)], gens := [] } })
    let d := s.dev
    let p := raiseRec { ErrRec.mk0 1 0x02 with block := 0, unit := clusterUnit 2 } d
    let q := countEvent 11 2 (settleRed 0 (damageRedTile 0 0 p.1 p.2))
    s.live ∧
    d.red? 0 = some r ∧
    r.ended = none ∧
    d.obj? r.obj = some objRed ∧
    (r.slotsOf objRed.n 0).head? = some 2 ∧
    (p.2.redNow 0 r).held.contains 0 = true ∧
    q.2.reached 11 8 q.1 = false := by
  intros; exact ⟨⟨rfl, rfl⟩, by decide +kernel⟩

/-- REDUCE_FINISH_TIMEOUT. -/
theorem test_witness_finish_timeout :
    let s := over' ({ withRed with reds := { reds := [(0, { red0 with finish := some 0 })], gens := [] } })
    let d := s.dev
    let r : Red := { red0 with finish := some 0 }
    s.live ∧
    d.red? 0 = some r ∧
    r.finish = some 0 ∧
    r.finTick ≤ d.now := by
  intros; exact ⟨⟨rfl, rfl⟩, by decide +kernel⟩

/-- BATCH_COMPLETE. -/
theorem test_witness_batch_done :
    let s := over' (serv.updComp fun k => { k with batches := [(1, { batch with run := 5 })], runs := [(5, { run0 0 with grids := [(1, 1)], doneN := 1 })] })
    let d := s.dev
    let r : Run := { run0 0 with grids := [(1, 1)], doneN := 1 }
    s.live ∧
    d.batch? 1 = some { batch with run := 5 } ∧
    d.run? 5 = some r ∧
    ({ batch with run := 5 } : Batch).result = none ∧
    d.runReady 5 r = true := by
  intros; exact ⟨⟨rfl, rfl⟩, by decide +kernel⟩

/-! ## Start, power, temperature -/

/-- AO_POWER_GOOD; DEV_RST_N low below its sixteenth sample. -/
theorem test_witness_ao_power :
    let s := over' (serv.updPwr fun p => { p with aoGood := false, rstLow := 14 })
    let d := s.dev
    d.pwr.aoGood = false ∧
    d.pwr.rstLow ≠ 15 ∧
    d.mgmt.flashOp = none := by
  intros; decide +kernel

/-- DEV_RST_N low for the sixteenth sample. -/
theorem test_witness_reset_pin :
    let s := over' (serv.updPwr fun p => { p with rstLow := 15 })
    let d := s.dev
    d.pwr.rstLow = 15 ∧
    d.pwr.aoGood = true ∧
    d.mgmt.flashOp = none := by
  intros; decide +kernel

/-- DEVICE_START with RECOVERY_N low. -/
theorem test_witness_start_recovery :
    let s := over' (Dev.reset)
    let d := s.dev
    d.pwr.aoGood = true ∧
    d.pwr.aoClock = true ∧
    d.pwr.devRstN = true ∧
    d.pwr.thermTrip = false ∧
    d.pwr.step = 0 := by
  intros; decide +kernel

/-- NEAR_TIER_TRAINING_DONE of the last stack. -/
theorem test_witness_near_training :
    let s := over' ((Dev.reset.updPwr fun p => { p with step := 4 }).setDomain 37 .on)
    let d := s.dev
    5 < 6 ∧
    d.pwr.step = 4 ∧
    d.domain (32 + 5) = .on ∧
    (d.ctrl 37).trained = false ∧
    (d.ctrl 37).retired = false ∧
    (trainAt 0 0).ok = true := by
  intros; decide +kernel

/-- The result of a far training at a rate in which every line passes at a run of `k` steps of one setting. -/
def farAt (rate k : Nat) : TrainResult := { trainAt rate 0 with sweeps := List.replicate 20 [[(0, k)]] }

/-- FAR_CHANNEL_TRAINING_DONE of the last channel at the highest rate, its lines just wide enough and one step too narrow.
-/
theorem test_witness_far_training :
    let s := over' ((Dev.reset.updPwr fun p => { p with step := 5 }).setDomain 31 .on)
    let d := s.dev
    31 < 32 ∧
    d.pwr.step = 5 ∧
    d.domain (28 + 31 / 8) = .on ∧
    (d.ctrl 31).trained = false ∧
    (d.ctrl 31).retired = false ∧
    (farAt 0 16).present = true ∧
    (farAt 0 16).rate = max (d.ctrl 31).rate (d.feat 0x10 0 8) ∧
    trainGood (farAt 0 16) = true ∧
    (farAt 0 15).present = true ∧
    (farAt 0 15).rate = max (d.ctrl 31).rate (d.feat 0x10 0 8) ∧
    trainGood (farAt 0 15) = false := by
  intros; decide +kernel

/-- FAR_CHANNEL_TRAINING_DONE that fails at the lowest rate, and a run of a line's sweep. -/
theorem test_witness_far_training_low :
    let s := over' (((Dev.reset.updPwr fun p => { p with step := 5 }).setDomain 31 .on).updCtrl 31 fun c => { c with rate := 2 })
    let d := s.dev
    d.pwr.step = 5 ∧
    d.domain (28 + 31 / 8) = .on ∧
    (d.ctrl 31).trained = false ∧
    (d.ctrl 31).retired = false ∧
    (farAt 2 15).present = true ∧
    (farAt 2 15).rate = max (d.ctrl 31).rate (d.feat 0x10 0 8) ∧
    trainGood (farAt 2 15) = false ∧
    0 < [[(0, 16)]].length ∧ ((0, 16) : Nat × Nat) ∈ [[(0, 16)]].getD 0 [] := by
  intros; decide +kernel

/-- BRIDGE_TRAINING_DONE. -/
theorem test_witness_bridge_training :
    let s := over' ((Dev.reset.updPwr fun p => { p with step := 6 }).setDomain 39 .on)
    let d := s.dev
    d.pwr.step = 6 ∧
    d.domain 39 = .on := by
  intros; decide +kernel

/-- SENSOR_SAMPLE of the last far channel and of the last die sensor. -/
theorem test_witness_sensors :
    let s := over' (((serv.setDomain 31 .on).setDomain 21 .on).updCtrl 31 fun c => { c with present := true })
    let d := s.dev
    d.sensorStatus (0x30 + 31) = 0 ∧
    d.sensorStatus 7 = 0 := by
  intros; decide +kernel

/-- THERMAL_STEP_RETURN from the first step, at the end of its wait. -/
theorem test_witness_thermal_step :
    let s := over' (serv.updPwr fun p => { p with dieCool := [none, some 0], thermStep := [0, 1], tick := 2 ^ 18 })
    let d := s.dev
    d.pwr.dieCool.getD 1 none = some 0 ∧
    d.pwr.thermStep.getD 1 0 = 0 + 1 ∧
    0 + 2 ^ 18 ≤ d.now := by
  intros; decide +kernel

/-- REGULATOR_POWER_GOOD and VR_TIMEOUT of the last die. -/
theorem test_witness_regulator :
    let s := over' (serv.updPwr fun p => { p with vrPending := [none, none, none, some 1], tick := 25000 })
    let d := s.dev
    3 < 4 ∧
    d.pwr.vrPending.getD 3 none = some 1 ∧
    d.pwr.vrTimer.getD 3 0 + 25000 ≤ d.now := by
  intros; decide +kernel

/-- THERMAL_TRIP, RAIL_FAULT, AO_CLOCK_LOSS, REFCLK_LOSS of a port that is down. -/
theorem test_witness_trip :
    let s := over' (serv)
    let d := s.dev
    d.pwr.thermTrip = false ∧
    d.pwr.fatal = false ∧
    d.pwr.mainPwrEn = true ∧
    d.pwr.retention = false ∧
    d.pwr.aoClock = true ∧
    d.pwr.bscan = false ∧
    (d.hport 3).linkUp = false := by
  intros; decide +kernel

/-- RAIL_FAULT of an auxiliary rail in retention. -/
theorem test_witness_rail_retention :
    let s := over' (serv.updPwr fun p => { p with retention := true })
    let d := s.dev
    d.pwr.retention = true := by
  intros; decide +kernel

/-- REFCLK_LOSS of a port that is up. -/
theorem test_witness_refclk_up :
    let s := over' (serv.updHport 3 fun h => { h with linkUp := true })
    let d := s.dev
    d.pwr.bscan = false ∧
    (d.hport 3).linkUp = true := by
  intros; decide +kernel

/-- DOMAIN_POWER_GOOD and DOMAIN_POWER_GOOD_TIMEOUT of another domain. -/
theorem test_witness_domain_1 :
    let s := over' ((serv.setDomain 21 .on).setDomain 1 .switchingOn)
    let d := s.dev
    d.domain 1 = .switchingOn := by
  intros; decide +kernel

/-- DOMAIN_POWER_GOOD and DOMAIN_POWER_GOOD_TIMEOUT of a link group. -/
theorem test_witness_domain_25 :
    let s := over' ((serv.setDomain 21 .on).setDomain 25 .switchingOn)
    let d := s.dev
    d.domain 25 = .switchingOn := by
  intros; decide +kernel

/-- DOMAIN_POWER_GOOD and DOMAIN_POWER_GOOD_TIMEOUT of a cluster. -/
theorem test_witness_domain_17 :
    let s := over' ((serv.setDomain 21 .on).setDomain 17 .switchingOn)
    let d := s.dev
    d.domain 17 = .switchingOn ∧
    inRange 2 17 17 = true ∧
    d.domain (18 + clusterDie 17) = .on ∧
    ((d.setDomain 17 .on).updCluster 17 fun c => { c with idleSince := some d.now }).clusterWanted 17 = false := by
  intros; decide +kernel

/-- DOMAIN_POWER_GOOD and DOMAIN_POWER_GOOD_TIMEOUT of a stack. -/
theorem test_witness_domain_37 :
    let s := over' ((serv.setDomain 21 .on).setDomain 37 .switchingOn)
    let d := s.dev
    d.domain 37 = .switchingOn := by
  intros; decide +kernel

/-- DOMAIN_POWER_GOOD and DOMAIN_POWER_GOOD_TIMEOUT of the bridge. -/
theorem test_witness_domain_39 :
    let s := over' ((serv.setDomain 21 .on).setDomain 39 .switchingOn)
    let d := s.dev
    d.domain 39 = .switchingOn := by
  intros; decide +kernel

/-- DOMAIN_POWER_GOOD of a cluster that a run waits for. -/
theorem test_witness_domain_wanted :
    let s := over' (((serv.setDomain 18 .on).setDomain 2 .switchingOn).updComp fun k => { k with runs := [(0, { run0 0 with nextIdx := 0 })] })
    let d := s.dev
    d.domain 2 = .switchingOn ∧
    d.domain (18 + clusterDie 2) = .on ∧
    ((d.setDomain 2 .on).updCluster 2 fun c => { c with idleSince := some d.now }).clusterWanted 2 = true := by
  intros; decide +kernel

/-- DOMAIN_SWITCH_OFF of a host port pair and of a link group without ports. -/
theorem test_witness_domain_off :
    let s := over' ((serv.setDomain 27 .on).setDomain 25 .on)
    let d := s.dev
    d.mayOff 27 = true ∧
    inRange 22 25 27 = false ∧
    d.mayOff 25 = true ∧
    inRange 22 25 25 = true := by
  intros; decide +kernel

/-- CLUSTER_IDLE_HOLD_EXPIRY and PLL_LOCK. -/
theorem test_witness_cluster_idle :
    let s := over' ((((serv.setDomain 17 .on).updCluster 17 fun c => { c with idleSince := some 0, clock := true }).updCluster 16 fun c => { c with pllWait := true }).setDomain 16 .on |>.updPwr fun p => { p with tick := 2500 })
    let d := s.dev
    s.dev.pwr.retention = false ∧
    s.dev.pwr.bscan = false ∧
    (d.cluster 17).idleSince = some 0 ∧
    (d.cluster 17).clock = true ∧
    d.clusterBusy 17 = false ∧
    d.clockKept 17 = false ∧
    0 + d.pwr.policy.idleHold ≤ d.now ∧
    (d.cluster 16).pllWait = true ∧
    d.domain 16 = .on ∧
    (d.cluster 16).retired = false ∧
    d.pwr.thermTrip = false := by
  intros; decide +kernel

/-- FAR_SELF_REFRESH_IDLE and NEAR_SELF_REFRESH_IDLE. -/
theorem test_witness_self_refresh :
    let s := over' ((((serv.setDomain 31 .on).setDomain 37 .on).updCtrl 37 fun c => { c with inServ := true }).updPwr fun p => { p with tick := 25000, policy := { p.policy with nearSr := 25000 } })
    let d := s.dev
    d.groupIdle (31 / 8) = true ∧
    d.pwr.policy.farSr ≠ 0 ∧
    (d.group 3).lastReq + d.pwr.policy.farSr ≤ d.now ∧
    d.stackIdle 5 = true ∧
    d.pwr.policy.nearSr ≠ 0 ∧
    (d.ctrl 37).lastReq + d.pwr.policy.nearSr ≤ d.now := by
  intros; decide +kernel

/-- SELF_REFRESH_EXIT of both tiers. -/
theorem test_witness_self_refresh_exit :
    let s := over' ((serv.updGroup 3 fun g => { g with selfRef := true }).updCtrl 37 fun c => { c with selfRef := true })
    let d := s.dev
    (d.group (31 / 8)).selfRef = true ∧
    (d.ctrl 37).selfRef = true := by
  intros; decide +kernel

/-- PD1_IDLE_OFF. -/
theorem test_witness_pd1_off :
    let s := over' (serv.updPwr fun p => { p with retention := true, pd1Awake := true, tick := 2 ^ 25 })
    let d := s.dev
    d.pwr.retention = true ∧
    d.pwr.pd1Awake = true ∧
    d.mgmt.mgmtTick + 2 ^ 25 ≤ d.now ∧
    d.mgmt.copies = [] := by
  intros; decide +kernel

/-! ## Runs and waits -/

/-- A device with cluster 0's clock running and a kernel 7 of one word, with run 5. -/
def runUp (r : Run) (d : Dev) : Dev := ((d.setDomain 2 .on).updCluster 2 fun c => { c with clock := true }).updComp fun k => { k with
  runs := [(5, r)], kernels := [(7, { tenant := 0, header := hdr, code := [word 0xA2 0 0 0 0 0 false 0], charge := 0, lib := 0, copies := [some 0, none] })] }

/-- SLICE_START of a run's first slice. -/
theorem test_witness_slice_start :
    let s := over' (runUp { run0 0 with nextIdx := 0, cores := [0] } serv)
    let d := s.dev
    let r : Run := { run0 0 with nextIdx := 0, cores := [0] }
    s.live ∧
    d.run? 5 = some r ∧
    r.slices.get? 0 = none ∧
    0 = r.nextIdx ∧
    r.unstarted ≠ 0 ∧
    r.ending = false ∧
    d.sliceTiles r 0 = [] ∧
    stageTiles 5 r.stageHalf (d.sliceTiles r 0) d = (.present, d) ∧
    d.freeCore 5 r (d.aged (d.runCls r) r.since) none = some 0 ∧
    (d.kernel? r.kernel).isSome = true ∧
    (r.slices.any fun s => s.2.st == .saved (coreCluster 0)) = false := by
  have h : serv.sliceTiles { run0 0 with nextIdx := 0, cores := [0] } 0 = [] := by decide +kernel
  exact ⟨⟨rfl, rfl⟩, rfl, rfl, rfl, by decide +kernel, rfl, h, rfl, by decide +kernel, rfl, by decide +kernel⟩

/-- `SELF_TEST` of core 0 and of cluster 0: done at once while no slice runs there, and held, with the core, while one
does. -/
theorem test_self_test_waits :
    let d := runUp { run0 0 with cores := [0, 1], slices := [(0, { sl0 with st := .running 0 })] } serv
    let held := d.updComp fun k => { k with tests := [(9, 128)] }
    d.testWaits 0 = true ∧ d.testWaits 1 = false ∧ d.testWaits 128 = true ∧ d.testWaits 129 = false ∧
      held.testHeld 7 = true ∧ held.testHeld 8 = false ∧ serv.testWaits 0 = false ∧
      (testTick (9, 128) held).comp.tests = [] := by decide +kernel

/-- SLICE_START of a preempted slice, saved by the cluster whose core is free. -/
theorem test_witness_slice_resume :
    let r : Run := { run0 0 with cores := [0], slices := [(0, { sl0 with st := .saved 2 })] }
    let s := over' (runUp r serv)
    let d := s.dev
    s.live ∧
    d.run? 5 = some r ∧
    r.slices.get? 0 = some { sl0 with st := .saved 2 } ∧
    d.freeCore 5 r (d.aged (d.runCls r) 0) (some 2) = some 0 := by
  intros; exact ⟨⟨rfl, rfl⟩, by decide +kernel⟩

/-- QUANTUM_EXPIRY for another run that waits. -/
theorem test_witness_quantum :
    let s := over' ((runUp { run0 0 with cores := [0], slices := [(0, { sl0 with st := .running 0 })] } serv).updComp (fun k => { k with runs := k.runs ++ [(6, { run0 0 with nextIdx := 0, cores := [0] })] }) |>.updPwr fun p => { p with tick := 2 ^ 32 })
    let d := s.dev
    let r : Run := { run0 0 with cores := [0], slices := [(0, { sl0 with st := .running 0 })] }
    s.live ∧
    d.run? 5 = some r ∧
    r.slices.get? 0 = some { sl0 with st := .running 0 } ∧
    ({ sl0 with st := .running 0 } : Slice).onCore = some 0 ∧
    0 + d.quantum ≤ d.now ∧
    d.comp.runs.get? 6 = some { run0 0 with nextIdx := 0, cores := [0] } ∧
    (d.waiter { run0 0 with nextIdx := 0, cores := [0] } 0).isSome = true ∧
    (∀ k ∈ d.waiter { run0 0 with nextIdx := 0, cores := [0] } 0, d.runCls r ≤ k) := by
  intros; exact ⟨⟨rfl, rfl⟩, by decide +kernel⟩

/-- KERNEL_RUN_COMPLETE of a run that does not seal. -/
theorem test_witness_run_complete_false :
    let s := over' (runUp { run0 0 with doneN := 2, sealOut := false } serv)
    let d := s.dev
    let r : Run := { run0 0 with doneN := 2, sealOut := false }
    s.live ∧
    d.run? 5 = some r ∧
    d.runReady 5 r = true ∧
    r.by' = .cmd 0 ∧
    r.sealOut = false := by
  intros; exact ⟨⟨rfl, rfl⟩, by decide +kernel⟩

/-- KERNEL_RUN_COMPLETE of a run that seals its outputs. -/
theorem test_witness_run_complete_true :
    let s := over' (runUp { run0 0 with doneN := 2, sealOut := true } serv)
    let d := s.dev
    let r : Run := { run0 0 with doneN := 2, sealOut := true }
    s.live ∧
    d.run? 5 = some r ∧
    d.runReady 5 r = true ∧
    r.by' = .cmd 0 ∧
    r.sealOut = true := by
  intros; exact ⟨⟨rfl, rfl⟩, by decide +kernel⟩

/-- KERNEL_TIMEOUT. -/
theorem test_witness_run_timeout :
    let s := over' (runUp { run0 0 with timeout := some 0 } serv)
    let d := s.dev
    let r : Run := { run0 0 with timeout := some 0 }
    s.live ∧
    d.run? 5 = some r ∧
    r.timeout = some 0 ∧
    0 ≤ d.now ∧
    r.ending = false := by
  intros; exact ⟨⟨rfl, rfl⟩, by decide +kernel⟩

/-- WATCHDOG_EXPIRY. -/
theorem test_witness_watchdog :
    let s := over' (withSync.updSync fun y => { y with waits := [(3, { who := .cmd 0, what := .flag 5 false, index := 0, order := 0, deadline := some 0, vid := 0, tenant := 0 })] })
    let d := s.dev
    s.live ∧
    d.sync.waits.get? 3 = some { who := .cmd 0, what := .flag 5 false, index := 0, order := 0, deadline := some 0, vid := 0, tenant := 0 } ∧
    0 ≤ d.now := by
  intros; exact ⟨⟨rfl, rfl⟩, by decide +kernel⟩

/-- HERD_WATCHDOG_EXPIRY. -/
theorem test_witness_herd_watchdog :
    let s := over' (withSync.updSync fun y => { y with herds := [(3, { herd with dueAt := some 0, broken := false })] })
    let d := s.dev
    s.live ∧
    d.sync.herds.get? 3 = some { herd with dueAt := some 0, broken := false } ∧
    0 ≤ d.now := by
  intros; exact ⟨⟨rfl, rfl⟩, by decide +kernel⟩

/-- WAIT_RECORD_FREE for a slice that holds at word 0xA2. -/
theorem test_witness_wait_record_A2 :
    let s := over' ((runUp { run0 0 with slices := [(0, { sl0 with holdFrom := some 0 })] } serv).updComp fun k => { k with kernels := [(7, { tenant := 0, header := hdr, code := [word 0xA2 0 0 0 0 0 false 0], charge := 0, lib := 0, copies := [some 0, none] })] })
    let d := s.dev
    s.live ∧
    d.sync.waits.length < waitRecords ∧
    d.holder = some (5, 0) ∧
    (d.fetch 0xA2 5 0).isSome = true := by
  intros; exact ⟨⟨rfl, rfl⟩, by decide +kernel⟩

/-- WAIT_RECORD_FREE for a slice that holds at word 0xA3. -/
theorem test_witness_wait_record_A3 :
    let s := over' ((runUp { run0 0 with slices := [(0, { sl0 with holdFrom := some 0 })] } serv).updComp fun k => { k with kernels := [(7, { tenant := 0, header := hdr, code := [word 0xA3 0 0 0 0 0 false 0], charge := 0, lib := 0, copies := [some 0, none] })] })
    let d := s.dev
    s.live ∧
    d.sync.waits.length < waitRecords ∧
    d.holder = some (5, 0) ∧
    (d.fetch 0xA2 5 0).isSome = false ∧
    (d.fetch 0xA3 5 0).isSome = true := by
  intros; exact ⟨⟨rfl, rfl⟩, by decide +kernel⟩

/-- WAIT_RECORD_FREE for a slice that holds at word 0xA6. -/
theorem test_witness_wait_record_A6 :
    let s := over' ((runUp { run0 0 with slices := [(0, { sl0 with holdFrom := some 0 })] } serv).updComp fun k => { k with kernels := [(7, { tenant := 0, header := hdr, code := [word 0xA6 0 0 0 0 0 false 0], charge := 0, lib := 0, copies := [some 0, none] })] })
    let d := s.dev
    s.live ∧
    d.sync.waits.length < waitRecords ∧
    d.holder = some (5, 0) ∧
    (d.fetch 0xA2 5 0).isSome = false ∧
    (d.fetch 0xA3 5 0).isSome = false ∧
    (d.fetch 0xA6 5 0).isSome = true := by
  intros; exact ⟨⟨rfl, rfl⟩, by decide +kernel⟩

/-- WAIT_RECORD_FREE for a slice that holds at word 0xA7. -/
theorem test_witness_wait_record_A7 :
    let s := over' ((runUp { run0 0 with slices := [(0, { sl0 with holdFrom := some 0 })] } serv).updComp fun k => { k with kernels := [(7, { tenant := 0, header := hdr, code := [word 0xA7 0 0 0 0 0 false 0], charge := 0, lib := 0, copies := [some 0, none] })] })
    let d := s.dev
    s.live ∧
    d.sync.waits.length < waitRecords ∧
    d.holder = some (5, 0) ∧
    (d.fetch 0xA2 5 0).isNone = true ∧
    (d.fetch 0xA3 5 0).isNone = true ∧
    (d.fetch 0xA6 5 0).isNone = true := by
  intros; exact ⟨⟨rfl, rfl⟩, by decide +kernel⟩

/-! ## Controllers, regulators, rebuilds -/

/-- A device with a controller in service. -/
def ctl (n : Nat) (f : Ctrl → Ctrl) (d : Dev) : Dev := d.updCtrl n fun c => f { c with inServ := true }

/-- Accesses of an open row (R369): a hit raises the predictor, which keeps the row open; a queued request for another row of
the bank closes it all the same, and one for the row keeps it open whatever the predictor says. -/
theorem test_page_policy :
    let a : Access := { ctl := 31, bank := 3, row := 5, reg := 0, write := false }
    let open' (p : Nat) : Dev := ctl 31 (fun c => { c with rows := [(3, 5)], pred := [(3, 4 * 6 + p)] }) serv
    let d := issueAll [] [a, a] (open' 1)
    (d.ctrl 31).rows = [(3, 5)] ∧ (d.ctrl 31).pred.getD 3 0 = 4 * 6 + 3 ∧ d.count 7 31 0 = 2 ∧ d.count 7 31 2 = 2 ∧
      ((issueAll [{ a with row := 6 }] [a] (open' 1)).ctrl 31).rows = [] ∧
      ((issueLine a none (open' 0)).ctrl 31).rows = [] ∧
      ((issueAll [a] [a] (open' 0)).ctrl 31).rows = [(3, 5)] := by
  decide +kernel

/-- The worked mapping of R382 for fc9, and two ranks of 512 GiB: the rank is in the row's top bits. -/
theorem test_far_bank :
    let d := (serv.updGroup 1 fun g => { g with modGib := 512 }).updCtrl 9 fun c => { c with ranks := 2 }
    d.bankRow 9 0x24640 = (9, 0) ∧ d.bankRow 9 (2 ^ 38 + 0x24640) = (32 + 9, 2 ^ 19) := by decide +kernel

/-- The map of R384: byte 0x3C00 of a stack is in pseudo-channel 60, and the byte 64 KiB on in that channel's next bank group. -/
theorem test_near_bank : nearBankRow 0x3C00 = (16 * 60, 0) ∧ nearBankRow (0x3C00 + 4 * 2 ^ 14) = (16 * 60 + 1, 0) ∧
    nearBankRow (0x3C00 + 2 ^ 20) = (16 * 60, 1) := by decide

/-- A near request waits for the tick, and issues its entries then. -/
theorem test_near_tick :
    let r : NearAcc := { stack := 5, addrs := [0, 256], reg := 0, write := true }
    let up := ctl 37 (fun c => { c with rows := [(0, 0), (16, 0)] }) serv
    let d := nearTick { up with mem := { up.mem with nearQ := [r] } }
    d.mem.nearQ = [] ∧ d.count 8 5 1 = 2 ∧ d.count 8 5 2 = 2 ∧ (d.ctrl 37).retry = [(0, 0), (16, 0)] := by decide +kernel

/-- Configuration reads of PF 0 and of VF 1, enabled (Table 16-1), and a ROM read that the enables refuse. -/
theorem test_config_reads :
    let d := (serv.updHport 0 fun h => { h with linkUp := true }).updFn 0 fun f => { f with cfg := [(0x160, 1)] }
    d.cfgRead 0 0 = some 0x96401F7A#32 ∧ d.cfgRead 1 0 = some 0x96411F7A#32 ∧ d.cfgRead 0 0x2C = some 0x00001F7A#32 ∧
      d.cfgRead 2 0x58 = some 0x00808000#32 ∧ serv.cfgRead 0 0 = none ∧ d.romRead 0 0 = none := by decide +kernel

/-- REFRESH_DUE with nothing queued, ROW_IDLE_CLOSE, DQS_TRACKING, PARITY_ALERT of the last far channel. -/
theorem test_witness_refresh_now :
    let s := over' ((ctl 31 id serv).updPwr fun p => { p with tick := 2 ^ 20 })
    let d := s.dev
    s.live ∧
    unitCtrl (.far 31) = 31 ∧
    d.serving 31 = true ∧
    (d.ctrl 31).selfRef = false ∧
    (d.ctrl 31).rq = 0 ∧
    d.qos.panic.getD 31 false = false ∧
    (d.ctrl 31).accAt.getD 127 0 + 5 ≤ d.now ∧
    (d.ctrl 31).retrain = false ∧
    (d.ctrl 31).dqsAt + 2 ^ 20 ≤ d.now := by
  intros; exact ⟨⟨rfl, rfl⟩, by decide +kernel⟩

/-- REFRESH_DUE with reads queued, once as many are postponed as may be, and before (the limit is open, log entry 16);
DQS_TRACKING too early. -/
theorem test_witness_refresh_postponed :
    let s := over' (ctl 31 (fun c => { c with rq := 1, postponed := [(0, Config.refreshLimit)] }) serv)
    let s2 := over' (ctl 31 (fun c => { c with rq := 1 }) serv)
    s.live ∧ s.dev.serving 31 = true ∧ (s.dev.ctrl 31).selfRef = false ∧
      Config.refreshLimit ≤ (s.dev.ctrl 31).postponed.getD 0 0 ∧
    s2.live ∧ s2.dev.serving 31 = true ∧ (s2.dev.ctrl 31).selfRef = false ∧ 0 < (s2.dev.ctrl 31).rq ∧
      (0 < Config.refreshLimit → (s2.dev.ctrl 31).postponed.getD 0 0 < Config.refreshLimit) ∧
    s2.dev.now < (s2.dev.ctrl 31).accAt.getD 0 0 + 5 ∧
    s2.dev.now < (s2.dev.ctrl 31).dqsAt + 2 ^ 20 :=
  ⟨⟨rfl, rfl⟩, rfl, rfl, Nat.le_refl _, ⟨rfl, rfl⟩, rfl, rfl, by decide, fun h => h, by decide +kernel, by decide +kernel⟩

/-- PARITY_ALERT of a far channel far from its threshold, the first and the fourth within 2^16 ticks. -/
theorem test_witness_alert : ∀ l ∈ [[], [0, 0, 0]],
    let s := over' (ctl 31 (fun c => { c with alerts := l }) serv)
    s.live ∧ s.dev.serving 31 = true ∧
      ((s.dev.ctrl 31).alerts.filter fun t => decide (s.dev.now ≤ t + 2 ^ 16)) = l := by
  intro l h
  simp only [List.mem_cons, List.not_mem_nil, or_false] at h
  rcases h with rfl | rfl <;> exact ⟨⟨rfl, rfl⟩, rfl, rfl⟩

/-- RETRAINING_DONE of the last stack, passed and failed. -/
theorem test_witness_retraining :
    let s := over' (ctl 37 (fun c => { c with retrain := true }) serv)
    let d := s.dev
    s.live ∧
    unitCtrl (.near 5) = 37 ∧
    d.serving 37 = true ∧
    (d.ctrl 37).retrain = true ∧
    trainPasses 37 (trainAt 0 0) = true ∧
    trainPasses 37 { trainAt 0 0 with ok := false } = false := by
  intros; exact ⟨⟨rfl, rfl⟩, by decide +kernel⟩

/-- RETRAINING_DONE of a far channel, passed and, for the first time in a row, failed. -/
theorem test_witness_retraining_far :
    let s := over' (ctl 31 (fun c => { c with retrain := true }) serv)
    let d := s.dev
    let ended := rewriteSummary 31 (raise (retrainRec 31 0x3FF 1) ((traceCtl 2 31 0 d).updCtrl 31 fun c => { c with
      failRow := c.failRow + 1, retrains := c.retrains + 1 }))
    s.live ∧
    unitCtrl (.far 31) = 31 ∧
    d.serving 31 = true ∧
    (d.ctrl 31).retrain = true ∧
    trainPasses 31 (farAt 0 16) = true ∧
    trainPasses 31 (farAt 0 15) = false ∧
    ended.reached 1 3 (ended.ctrl 31).failRow = false := by
  intros; exact ⟨⟨rfl, rfl⟩, by decide +kernel⟩

/-- A job of a Scarlet label with a deadline, and a tile of 16 sectors promoted in stack 5 that it reads. -/
def jobOf' (st : JobSt) (qos due : Nat) : Job :=
  { obj := 0x100, ver := 1, tile := 0, sid := 1, data := zeros 1024, st := st, tries := 0, promo := false, qos := qos, since := 0, due := due, solo := false
    half := 0, core := 0, away := false, cross := 0 }

def scarletUp : Dev := ((serv.updObjs fun t => { t with stored := [(1, { storedAs .present with sectors := 16, stack := 5 })] }).updStrs fun t =>
  { t with jobs := [(0, jobOf' .coded 3073 1)] }).updQos fun q => { q with regs := [(1, { reg with cls := 3 })] }

/-- PANIC of the last stack at 16 queued sectors. -/
theorem test_witness_panic :
    let s := over' (ctl 37 id scarletUp)
    let d := s.dev
    s.live ∧
    d.serving 37 = true ∧
    d.qos.panic.getD 37 false = false ∧
    (panicRow 37).1 ≤ (d.scarlet 37).length := by
  intros; exact ⟨⟨rfl, rfl⟩, by decide +kernel⟩

/-- PANIC that ends. -/
theorem test_witness_panic_ends :
    let s := over' ((ctl 37 id serv).updQos fun q => { q with panic := [(37, true)] })
    let d := s.dev
    s.live ∧
    d.serving 37 = true ∧
    d.qos.panic.getD 37 false = true ∧
    d.scarlet 37 = [] := by
  intros; exact ⟨⟨rfl, rfl⟩, by decide +kernel⟩

/-- DRAIN_HOLD_LIMIT. -/
theorem test_witness_drain_hold :
    let s := over' (((ctl 31 id serv).updQos fun q => { q with drainHeld := [(31, 0)] }).updPwr fun p => { p with tick := 64 })
    let d := s.dev
    s.live ∧
    d.serving 31 = true ∧
    d.qos.drainHeld.get? 31 = some 0 ∧
    0 + (panicRow 31).2.2 ≤ d.now := by
  intros; exact ⟨⟨rfl, rfl⟩, by decide +kernel⟩

/-- WINDOW_BOUNDARY of regulator 1. -/
theorem test_witness_window :
    let s := over' (withReg.updPwr fun p => { p with tick := 250 })
    let d := s.dev
    s.live ∧
    d.qos.regs.get? 1 = some reg ∧
    reg.win < d.now / max 1 reg.window := by
  intros; exact ⟨⟨rfl, rfl⟩, by decide +kernel⟩

/-- QUEUE_LEVEL_REPORT of the last far channel that changes nothing. -/
theorem test_witness_level_same :
    let s := over' (serv)
    let d := s.dev
    let old := d.qos.gates.getD 31 0
    let new := gateLevel old 0 (d.feat 6 2 8) (d.feat 6 3 8) (d.feat 6 4 8) (d.feat 6 5 8)
    s.live ∧
    31 < 32 ∧
    new = old := by
  intros; exact ⟨⟨rfl, rfl⟩, by decide +kernel⟩

/-- QUEUE_LEVEL_REPORT of the last far channel that raises its gate. -/
theorem test_witness_level_up :
    let s := over' (serv)
    let d := s.dev
    let old := d.qos.gates.getD 31 0
    let new := gateLevel old 64 (d.feat 6 2 8) (d.feat 6 3 8) (d.feat 6 4 8) (d.feat 6 5 8)
    s.live ∧
    31 < 32 ∧
    old < new := by
  intros; exact ⟨⟨rfl, rfl⟩, by decide +kernel⟩

/-- QUEUE_LEVEL_REPORT that lowers it. -/
theorem test_witness_level_down :
    let s := over' (serv.updQos fun q => { q with gates := [(31, 2)] })
    let d := s.dev
    let old := d.qos.gates.getD 31 0
    let new := gateLevel old 0 (d.feat 6 2 8) (d.feat 6 3 8) (d.feat 6 4 8) (d.feat 6 5 8)
    s.live ∧
    31 < 32 ∧
    new < old := by
  intros; exact ⟨⟨rfl, rfl⟩, by decide +kernel⟩

/-- REBUILD_TILE with nothing left. -/
theorem test_witness_rebuild_end :
    let s := over' (serv.updGroup 3 fun g => { g with st := .rebuilding })
    let d := s.dev
    s.live ∧
    (d.group 3).st = .rebuilding ∧
    (d.group 3).selfRef = false ∧
    d.nextRebuild 3 = none := by
  intros; exact ⟨⟨rfl, rfl⟩, by decide +kernel⟩

/-- REBUILD_TILE of a tile that moves. -/
theorem test_witness_rebuild_tile :
    let s := over' (((withStored .absent).updGroup 0 fun g => { g with st := .rebuilding, stripes := [(0, { used := 1, live := 1, closed := true, written := true, unknown := false, since := 0, waitSaw := false, dead := [] })] }))
    let d := s.dev
    s.live ∧
    (∃ a, moveStored 1 d = some a) ∧
    (d.group 0).st = .rebuilding ∧
    (d.group 0).selfRef = false ∧
    d.moverFree ((d.group 0).label.getD 0) 0 ((d.pickGroup (groupHalf 0) []).getD 0) = true ∧
    d.nextRebuild 0 = some (1, storedAs .absent) ∧
    d.unreadable (storedAs .absent) = false := by
  intros; exact ⟨⟨rfl, rfl⟩, some_of (by decide +kernel), by decide +kernel⟩

/-- REBUILD_TILE while the channels it would write hold their writes. -/
theorem test_witness_rebuild_held :
    let s := over' (((withStored .absent).updGroup 0 fun g => { g with st := .rebuilding, stripes := [(0, { used := 1, live := 1, closed := true, written := true, unknown := false, since := 0, waitSaw := false, dead := [] })] }).updQos fun q => { q with panic := [(8, true)] })
    let d := s.dev
    s.live ∧
    (d.group 0).st = .rebuilding ∧
    (d.group 0).selfRef = false ∧
    d.nextRebuild 0 = some (1, storedAs .absent) ∧
    d.unreadable (storedAs .absent) = false ∧
    d.moverFree ((d.group 0).label.getD 0) 0 ((d.pickGroup (groupHalf 0) []).getD 0) = false := by
  intros; exact ⟨⟨rfl, rfl⟩, by decide +kernel⟩

/-- REBUILD_TILE without room. -/
theorem test_witness_rebuild_pause :
    let s := over' ((((withStored .absent).updGroup 0 fun g => { g with st := .rebuilding, stripes := [(0, { used := 1, live := 1, closed := true, written := true, unknown := false, since := 0, waitSaw := false, dead := [] })] })).updGroup 1 fun g => { g with st := .out })
    let d := s.dev
    s.live ∧
    (d.group 0).st = .rebuilding ∧
    d.moverFree ((d.group 0).label.getD 0) 0 ((d.pickGroup (groupHalf 0) []).getD 0) = true ∧
    (d.group 0).selfRef = false ∧
    d.nextRebuild 0 = some (1, storedAs .absent) ∧
    d.unreadable (storedAs .absent) = false ∧
    (moveStored 1 d).isNone = true := by
  intros; exact ⟨⟨rfl, rfl⟩, by decide +kernel⟩

/-- REBUILD_RESUME. -/
theorem test_witness_rebuild_resume :
    let s := over' (dFar.updGroup 2 fun g => { g with st := .paused })
    let d := s.dev
    s.live ∧
    (d.group 2).st = .paused ∧
    d.pickGroup (groupHalf 2) [] = some 3 ∧
    0 < (d.group 3).free := by
  intros; exact ⟨⟨rfl, rfl⟩, by decide +kernel⟩

/-- BRIDGE_RETRAINING_DONE. -/
theorem test_witness_bridge_retrain :
    let s := over' (serv.updPwr fun p => { p with bridgeUp := true })
    let d := s.dev
    s.live ∧
    d.pwr.sable = false ∧
    d.pwr.bridgeUp = true := by
  intros; exact ⟨⟨rfl, rfl⟩, by decide +kernel⟩

/-! ## Codec and tiers -/

/-- CODING_DONE. -/
theorem test_witness_coding :
    let s := over' ((withObj (obj .sealing) dFar).updObjs fun t => { t with codings := [(4, { obj := 0x100, ver := 1, tile := 0, data := zeros 1024, prod := 0, who := .seal 0x100 1, unit := 0, tries := 0, held := none })] })
    let d := s.dev
    s.live ∧
    d.objs.codings.get? 4 = some { obj := 0x100, ver := 1, tile := 0, data := zeros 1024, prod := 0, who := .seal 0x100 1, unit := 0, tries := 0, held := none } ∧
    d.obj? 0x100 = some (obj .sealing) ∧
    ({ obj := 0x100, ver := 1, tile := 0, data := zeros 1024, prod := 0, who := .seal 0x100 1, unit := 0, tries := 0, held := none } : Coding).held = none ∧
    d.integ.injects = [] := by
  intros; exact ⟨⟨rfl, rfl⟩, by decide +kernel⟩

/-- CODING_DONE of a tile that a command wrote into an open version, which goes into a stripe. -/
theorem test_witness_coding_stored :
    let c : Coding := { obj := 0x100, ver := 1, tile := 0, data := [1], prod := 0, who := .cmd 0, unit := 0, tries := 0, held := none }
    let s := over' ((withObj (obj .opened) dFar).updObjs fun t => { t with codings := [(4, c)] })
    let d := s.dev
    s.live ∧
    d.objs.codings.get? 4 = some c ∧
    d.obj? 0x100 = some (obj .opened) ∧
    d.ver? 0x100 1 = some (ver1 .opened) ∧
    d.integ.injects = [] ∧
    d.codedCost c (obj .opened) ≠ 0 ∧
    d.writerFree (d.waiterLabel c.who) 0 = true ∧
    d.writerTurn 4 c 0 = true ∧
    (d.store 0x100 0 (obj .opened) c.data (!(ver1 .opened).staged)).isSome = true ∧
    ((d.store 0x100 0 (obj .opened) c.data (!(ver1 .opened).staged)).all fun p => !p.2.1.isEmpty) = true := by
  intros; exact ⟨⟨rfl, rfl⟩, by decide +kernel⟩

/-- SEAL_AS_WRITTEN_WAIT_EXPIRY of half 1, its open stripe in group 2. -/
theorem test_witness_saw_wait :
    let s := over' ((dFar.updGroup 2 fun g => { g with cur := some 9, stripes := [(9, { used := 1, live := 1, closed := false, written := false, unknown := false, since := 0, waitSaw := true, dead := [] })] }).updPwr fun p => { p with tick := 250 })
    let d := s.dev
    s.live ∧
    (d.group 2).cur = some 9 ∧
    (d.group (4 * 1 + 1 - 2)).cur = none ∧
    (d.group 2).stripes.get? 9 = some { used := 1, live := 1, closed := false, written := false, unknown := false, since := 0, waitSaw := true, dead := [] } ∧
    0 + 250 ≤ d.now := by
  intros; exact ⟨⟨rfl, rfl⟩, by decide +kernel⟩

/-- STRIPE_WRITE_DONE. -/
theorem test_witness_stripe_done :
    let s := over' (dFar.updGroup 3 fun g => { g with stripes := [(9, { used := 1, live := 1, closed := true, written := false, unknown := false, since := 0, waitSaw := true, dead := [] })] })
    let d := s.dev
    s.live ∧
    (d.group 3).stripes.get? 9 = some { used := 1, live := 1, closed := true, written := false, unknown := false, since := 0, waitSaw := true, dead := [] } ∧
    (d.group 3).selfRef = false ∧
    d.canWrite 3 = true ∧
    (fromTo (8 * 3) 8).any d.holdsWrites = false ∧
    (d.objs.acks.filter fun a => a.stripes.contains (3, 9)) = [] := by
  intros; exact ⟨⟨rfl, rfl⟩, by decide +kernel⟩

/-- FAR_TIER_READ_DONE. -/
theorem test_witness_far_read :
    let s := over' (((withStored .absent).updStrs fun t => { t with jobs := [(4, jobOf' .far 0 0)] }) |> fun d => { d with mem := { d.mem with parity := true } })
    let d := s.dev
    let ls := (d.farLines (storedAs .absent)).getD []
    s.live ∧
    d.strs.jobs.get? 4 = some (jobOf' .far 0 0) ∧
    d.objs.stored.get? 1 = some (storedAs .absent) ∧
    d.farLines (storedAs .absent) = some ls ∧
    d.farFree 0 (groupHalf 0) (d.chansOf 0 ls) = true ∧
    d.turn 0 (2 * groupHalf 0) 0 0 0 4 (d.farRivals 0) = true ∧
    d.queuedStripes 0 ls = [] ∧
    d.integ.injects = [] ∧
    d.unreadable (storedAs .absent) = false := by
  intros; exact ⟨⟨rfl, rfl⟩, by decide +kernel⟩

/-- EXPANSION_DONE of a tile that an OBJ_READ waits for. -/
theorem test_witness_expansion :
    let s := over' { (withStored .absent).updStrs (fun t => { t with jobs := [(4, jobOf' .coded 0 0)] }) with q := { serv.q with
      cmds := [(0, { cmdOf (ent [(0, 0x12), (44, 1)]) 0 with phase := .waiting, jobs := [(0, 4)] })] } }
    let d := s.dev
    s.live ∧
    d.strs.jobs.get? 4 = some (jobOf' .coded 0 0) ∧
    d.passLays 4 ≠ [] ∧
    d.nearGoes 4 (jobOf' .coded 0 0) = true ∧
    d.nearRead (jobOf' .coded 0 0) = none ∧
    (countEvent 11 2 d).2.reached 11 8 (countEvent 11 2 d).1 = false ∧
    d.obj? 0x100 = some objStored := by
  intros; exact ⟨⟨rfl, rfl⟩, by decide +kernel⟩

/-- EXPANSION_DONE of a tile read from its near copy, in which no error is injected. -/
theorem test_witness_expansion_copy :
    let s := over' { (withStored .present).updStrs (fun t => { t with jobs := [(4, jobOf' .coded 0 0)] }) with q := { serv.q with
      cmds := [(0, { cmdOf (ent [(0, 0x12), (44, 1)]) 0 with phase := .waiting, jobs := [(0, 4)] })] } }
    let d := s.dev
    s.live ∧
    d.strs.jobs.get? 4 = some (jobOf' .coded 0 0) ∧
    d.passLays 4 ≠ [] ∧
    d.nearGoes 4 (jobOf' .coded 0 0) = true ∧
    d.nearRead (jobOf' .coded 0 0) = some (storedAs .present) ∧
    d.copyErr 1 (storedAs .present) = none := by
  intros; exact ⟨⟨rfl, rfl⟩, by decide +kernel⟩

/-- SEAL_COMPLETE of a version no command waits for. -/
theorem test_witness_seal_run :
    let s := over' (withObj (obj .sealing) serv)
    let d := s.dev
    s.live ∧
    d.ver? 0x100 1 = some (ver1 .sealing) ∧
    (ver1 .sealing).st = .sealing ∧
    d.sealBusy 0x100 1 = false ∧
    d.sealWaits 0x100 1 = false ∧
    d.inherited 0x100 1 = [] ∧
    d.anyDamaged 0x100 1 = false ∧
    (ver1 .sealing).sealCmd = none := by
  intros; exact ⟨⟨rfl, rfl⟩, by decide +kernel⟩

/-- SEAL_COMPLETE that ends a command. -/
theorem test_witness_seal_cmd :
    let s := over' ({ withObj { obj .sealing with vers := [(1, { ver1 .sealing with sealCmd := some 0 })] } serv with q := { serv.q with cmds := [(0, { cmdOf (ent []) 0 with phase := .waiting, ends := some (Cpl.ok []) })] } })
    let d := s.dev
    s.live ∧
    d.ver? 0x100 1 = some { ver1 .sealing with sealCmd := some 0 } ∧
    (ver1 .sealing).st = .sealing ∧
    d.sealBusy 0x100 1 = false ∧
    d.sealWaits 0x100 1 = false ∧
    d.inherited 0x100 1 = [] ∧
    d.anyDamaged 0x100 1 = false ∧
    ((sealVersion 0x100 1 d).cmd? 0).map (·.ends) = some (some (Cpl.ok [])) := by
  intros; exact ⟨⟨rfl, rfl⟩, by decide +kernel⟩

/-- SEAL_COMPLETE of a version with a tile marked damaged. -/
theorem test_witness_seal_damaged :
    let x : Version := { ver1 .sealing with tiles := [(0, { data := [], sid := 0, dmg := true, prod := 0 })] }
    let s := over' (withObj { obj .sealing with vers := [(1, x)] } serv)
    let d := s.dev
    s.live ∧
    d.ver? 0x100 1 = some x ∧
    x.st = .sealing ∧
    d.sealBusy 0x100 1 = false ∧
    d.sealWaits 0x100 1 = false ∧
    d.inherited 0x100 1 = [] ∧
    d.anyDamaged 0x100 1 = true := by
  intros; exact ⟨⟨rfl, rfl⟩, by decide +kernel⟩

/-- LAST_REFERENCE_END. -/
theorem test_witness_last_ref :
    let s := over' (withObj (obj .released) serv)
    let d := s.dev
    s.live ∧
    d.ver? 0x100 1 = some (ver1 .released) ∧
    (ver1 .released).st = .released ∧
    d.referenced 0x100 1 = false := by
  intros; exact ⟨⟨rfl, rfl⟩, by decide +kernel⟩

/-- PROMOTION_DONE. -/
theorem test_witness_promotion :
    let s := over' ((withStored .promoting).updStrs fun t => { t with jobs := [(4, jobOf' .coded 0 0)] })
    let d := s.dev
    s.live ∧
    d.sidOf 0x100 1 0 = 1 ∧
    d.objs.stored.get? 1 = some (storedAs .promoting) ∧
    d.obj? 0x100 = some objStored ∧
    d.joinable 1 = some 4 ∧
    d.strs.jobs.get? 4 = some (jobOf' .coded 0 0) ∧
    (jobOf' .coded 0 0).st = .coded ∧
    d.keyless objStored.tenant = false ∧
    d.nearWritable 0 0 = true ∧
    d.turn 1 (2 * stackHalf 0 + 1) (6 + 0) 0 0 4 (d.nearWriters 0) = true := by
  intros; exact ⟨⟨rfl, rfl⟩, by decide +kernel⟩

/-- RELEASING_COPY_FREED. -/
theorem test_witness_release :
    let s := over' (withStored .releasing)
    let d := s.dev
    s.live ∧
    d.sidOf 0x100 1 0 = 1 ∧
    d.objs.stored.get? 1 = some (storedAs .releasing) ∧
    d.obj? 0x100 = some objStored ∧
    d.jobOf 1 = none ∧
    d.keyless objStored.tenant = false := by
  intros; exact ⟨⟨rfl, rfl⟩, by decide +kernel⟩

/-- RECLAIM_STRIPE. -/
theorem test_witness_reclaim :
    let s := over' (dFar.updGroup 3 fun g => { g with stripes := [(9, { used := 8, live := 1, closed := true, written := true, unknown := false, since := 0, waitSaw := false, dead := [] })] })
    let d := s.dev
    s.live ∧
    d.candidate 3 = some 9 ∧
    d.reclaims 3 = true ∧
    (d.group 3).selfRef = false ∧
    d.moverFree 0 3 3 = true := by
  intros; exact ⟨⟨rfl, rfl⟩, by decide +kernel⟩

/-! ## Rules of the whole block -/

/-- A command in front, and none. -/
theorem test_witness_step : ({ State.reset with pending := [.nop 0] } : State).pending = [.nop 0] ∧
    State.reset.pending = [] := ⟨rfl, rfl⟩

/-- A data-path row in boundary scan and in retention. -/
theorem test_witness_data_path : managedRow (.nop 0) = false ∧ (serv.updPwr fun p => { p with bscan := true }).pwr.bscan = true ∧
    (serv.updPwr fun p => { p with retention := true }).pwr.retention = true := ⟨rfl, rfl, rfl⟩

/-- A sound state with a step. -/
theorem test_witness_hdm : State.reset.hdmSound ∧ ∃ t, step { State.reset with pending := [.bridgeTrainingDone true []] } = .next t :=
  ⟨⟨rfl, by intro h hh; rw [show h = Hdm.reset from by simpa [State.reset] using hh]; unfold Hdm.sound; decide⟩, _, rfl⟩

/-- A completion into the last slot of a ring. -/
theorem test_witness_completion :
    let c := { cmdOf (ent []) 0 with origin := .queue 1 0 }
    let q := { qpDb with cqPos := 15 }
    let d := { fnUp id (withQp q serv) with q := { (fnUp id (withQp q serv)).q with cmds := [(0, c)] } }
    d.cmd? 0 = some c ∧ c.origin = .queue 1 0 ∧ d.qp? 1 = some q ∧ q.loc = .host 0 1 ∧ q.cqPos < 2 ^ q.log2Depth ∧
      q.discard = false ∧ (d.fn 0).mayWrite = true := by
  intros; exact ⟨rfl, rfl, by decide +kernel⟩

/-- `LDT` of an output argument; `STT`, `TCOMMIT` and `AADDF` of an input argument. -/
theorem test_witness_roles : ∀ p ∈ [(0x20, 2), (0x21, 1), (0x22, 1), (0xF2, 1)],
    let x := seen (runArg p.2) sl0 [] (word p.1 0 0 0 0 0 false 0)
    Stands (stage serv (runArg p.2) sl0 [] (word p.1 0 0 0 0 0 false 0)) p.1 0 0 x ∧
      x.r.args[wImm x.w % 16]? = some (arg p.2) ∧ (arg p.2).role = p.2 ∧ x.mask ≠ 0 := by
  intro p hp
  have h : wOp (word p.1 0 0 0 0 0 false 0) = p.1 ∧ wImm (word p.1 0 0 0 0 0 false 0) % 16 = 0 ∧
      (seen (runArg p.2) sl0 [] (word p.1 0 0 0 0 0 false 0)).mask ≠ 0 := by
    revert p; decide +kernel
  exact ⟨stage_stands ⟨rfl, rfl⟩ rfl rfl h.1, by show [arg p.2][wImm (word p.1 0 0 0 0 0 false 0) % 16]? = _; rw [h.2.1]; rfl, rfl, h.2.2⟩

/-! ## Values the spec works out -/

/-- Table 4-8: source format, code, target format, code. -/
def conversions : List (Nat × Nat × Nat × Nat) :=
  [(1, 0x3F800001, 2, 0x3F80), (1, 0x3F818000, 2, 0x3F82), (1, 0x3F400000, 4, 0x34), (1, 0x447A0000, 4, 0x7E),
   (1, 0x47800000, 3, 0x7BFF), (1, 0x7F800000, 3, 0x7C00), (1, 0x7F800000, 4, 0x7E), (1, 0xFFC00001, 2, 0x7FC0),
   (4, 0x01, 3, 0x1800), (3, 0x8000, 0x15, 0)]

theorem test_conversions : ∀ c ∈ conversions, (convertElem c.2.2.1 .even (decodeElem c.1 c.2.1)).1 = c.2.2.2 := by
  decide +kernel

/-- The notes of Table 4-8: what counts as a saturation. -/
theorem test_saturations : (conversions.map fun c => (convertElem c.2.2.1 .even (decodeElem c.1 c.2.1)).2 == .sat) =
    [false, false, false, true, true, false, true, false, false, false] := by decide +kernel

/-- Table 7-1: one lane of sixteen BF16 sources on the grid of exponent -20, and its finalised value in BF16 and FP32. -/
theorem test_grid :
    ([0x40C0, 0x34C0, 0xC0C0, 0x0100, 0x03C0, 0].map fun k => (toGrid (-20) 4 (decodeElem 2 k)).1) =
      [6 * 2 ^ 120, 3 * 2 ^ 97, -6 * 2 ^ 120, 0, 2, 0] ∧
    (gridOut 2 (-20) (3 * 2 ^ 97 + 2)).1 = 0x34C0 ∧ (gridOut 1 (-20) (3 * 2 ^ 97 + 2)).1 = 0x34C00000 := by
  decide +kernel

/-- The contribution limit after Table 7-1: 9.5 is clamped and marked under exponent -20 and exact under -19. -/
theorem test_grid_limit : toGrid (-20) 4 (decodeElem 2 0x4118) = (2 ^ 123 - 1, .overflow) ∧
    toGrid (-19) 4 (decodeElem 2 0x4118) = (19 * 2 ^ 118, .none) := by decide +kernel

/-- The serial differences after R307. -/
theorem test_serial : serialDiff 0xFFFFFFFFFFFE 3 = -5 ∧ serialDiff 3 3 = 0 := by decide

/-- 32 modules of 512 GiB under an address-map order. -/
def mapped (order : Nat) : Dev :=
  { serv with
    mem := { serv.mem with order := order }
    objs := { serv.objs with groups := (List.range 4).map fun g => (g, { Group.reset with modGib := 512 }) } }

/-- Table 13-5: the group and stripe of DPA 0x1400_0012_3640, and the channel and line offset under each order. -/
theorem test_address_map : (mapped 0).stripeOf 0x140000123640 = (1, 36) ∧
    (mapped 0).lineAddr 1 36 (8 * 6 + 6) = (9, 0x24600) ∧ (mapped 1).lineAddr 1 36 (0x3600 / 256) = (11, 0x24600) ∧
    (mapped 2).lineAddr 1 36 (0x3600 / 256) = (8, 0x123600) := by decide +kernel

/-- Table 9-18, and the stochastic `CVT` after it: word, opcode, modifier, destination, sources A and B, predicate and its
negation, immediate. -/
def encoded : List (Nat × List Nat) :=
  [(0x1B00800000000005, [0x1B, 0, 1, 0, 0, 0, 0, 5]), (0x1001000000000000, [0x10, 0, 2, 0, 0, 0, 0, 0]),
   (0x1001800000008000, [0x10, 0, 3, 0, 0, 0, 0, 0x8000]), (0x2002044000000000, [0x20, 0, 4, 1, 2, 0, 0, 0]),
   (0x5002900000000102, [0x50, 0, 5, 4, 0, 0, 0, 0x102]), (0x5003100000010102, [0x50, 0, 6, 4, 0, 0, 0, 0x10102]),
   (0x430414A800000000, [0x43, 0, 8, 5, 5, 0, 0, 0]), (0x430418C800000000, [0x43, 0, 8, 6, 6, 0, 0, 0]),
   (0x1A01080000000100, [0x1A, 0, 2, 2, 0, 0, 0, 0x100]), (0x7220886000000000, [0x72, 2, 1, 2, 3, 0, 0, 0]),
   (0x0200000020FFFFF9, [0x02, 0, 0, 0, 0, 1, 0, 0xFFFFF9]), (0x8002200000000000, [0x80, 0, 4, 8, 0, 0, 0, 0]),
   (0x0100000000000000, [0x01, 0, 0, 0, 0, 0, 0, 0]), (0x5003140200A10201, [0x50, 0, 6, 5, 0, 0, 0, 0xA10201])]

theorem test_encoded_words : ∀ p ∈ encoded,
    let w : BitVec 64 := BitVec.ofNat 64 p.1
    [wOp w, wMod w, wD w, wA w, wB w, wPred w, b2n (wNeg w), wImm w] = p.2 := by decide +kernel

/-- The header of that kernel: 9 vector and 6 scalar registers, engines 0 to 2, two parameters' arguments. -/
def hdr18 : Bytes := [1, 1, 5, 0] ++ leBytes 4 14 ++ [9, 6, 0, 7] ++ zeros 244

/-- `KERNEL_LOAD` takes each of those words, and refuses `SRD` with a field it does not use. -/
theorem test_encoded_admitted : (encoded.all fun p => wordOk hdr18 (BitVec.ofNat 64 p.1)) = true ∧
    wordOk hdr18 0x1B00800100000005 = false := by decide +kernel

end Sys2Proof.Tests
end

section
/-! SUPPORT. AO power, `DEV_RST_N` and the steps of a start, case by case, and what they leave of the device
(R36, R362 to R364, R383, R499 to R501, R519, R525, R526). -/

namespace Sys2Proof.Machine

/-! ## AO power and the reset pin -/

theorem powerGood_off {d : Dev} (h : d.pwr.aoGood = false) : powerGood d = d.updPwr fun p => { p with
    aoGood := true, aoClock := true, tick := 0, mainPwrEn := true, domains := [(0, .on)] } := by
  simp [powerGood, h]

theorem resetSample_high (d : Dev) :
    resetSample true d = d.updPwr fun p => { p with devRstN := true, rstLow := 0 } := rfl

/-- A low sample that is not the sixteenth in a row is counted and no more. -/
theorem resetSample_low {d : Dev} (h : d.pwr.rstLow ≠ 15) :
    resetSample false d = d.updPwr fun p => { p with devRstN := false, rstLow := min (p.rstLow + 1) 16 } :=
  (if_neg Bool.false_ne_true).trans (if_neg fun hn => h (Nat.succ.inj hn.1))

theorem resetSample_sixteenth {d : Dev} (h : d.pwr.rstLow = 15) (hg : d.pwr.aoGood = true) :
    resetSample false d = deviceReset (d.updPwr fun p => { p with devRstN := false, rstLow := 16 }) := by
  simp [resetSample, h, hg]

/-- A fold that only puts things on interfaces leaves the rest of the device alone. -/
theorem foldl_txOff (l : List Nat) (d : Dev) :
    ∃ o, l.foldl (fun d p => if (d.port p).st = .disabled then d else emit (.txOff p) d) d = { d with out := o } := by
  refine foldl_keeps (P := fun e => ∃ o, e = { d with out := o }) ?_ l ⟨d.out, rfl⟩
  rintro _ p ⟨o, rfl⟩
  split
  · exact ⟨o, rfl⟩
  · exact ⟨_, rfl⟩

/-- A device-wide reset keeps the tick, the trip's latch, the log, and the flash that no operation is writing (R525);
objects, queues and bulk ports are as at reset. -/
theorem deviceReset_keeps (d : Dev) :
    (deviceReset d).pwr.step = 0 ∧ (deviceReset d).pwr.tick = d.pwr.tick ∧
    (deviceReset d).pwr.thermTrip = d.pwr.thermTrip ∧ (deviceReset d).integ.log = d.integ.log ∧
    (deviceReset d).objs = Dev.reset.objs ∧ (deviceReset d).q.qps = [] ∧ (deviceReset d).q.cmds = [] ∧
    (deviceReset d).ports = Dev.reset.ports ∧ (deviceReset d).mgmt.flash = Flash.interrupted d.mgmt := by
  obtain ⟨o, ho⟩ := foldl_txOff (List.range 56) d
  unfold deviceReset
  rw [ho]
  exact ⟨rfl, rfl, rfl, rfl, rfl, rfl, rfl, rfl, rfl⟩

/-- With no flash operation in progress nothing of the flash is destroyed. -/
theorem interrupted_idle {m : Mgmt} (h : m.flashOp = none) : Flash.interrupted m = m.flash := by
  simp [Flash.interrupted, h]

theorem powerLoss_image {d : Dev} (h : d.mgmt.flashOp = none) :
    (powerLoss d).mgmt.flash.image = d.mgmt.flash.image := by
  change (Flash.interrupted d.mgmt).image = _
  rw [interrupted_idle h]

/-! ## Measured start -/

/-- An error record changes nothing that the management processor holds. -/
theorem raise_mgmt (r : ErrRec) (d : Dev) : (raise r d).mgmt = d.mgmt := (raise_finish r d).mgmt

theorem presetFeatures_romRec (l : List PresetEnt) (ix : Nat) (d : Dev) :
    (presetFeatures ix l d).mgmt.romRec = d.mgmt.romRec := by
  induction l generalizing ix d with
  | nil => rfl
  | cons e l ih =>
    cases e with
    | command s b => exact ih ..
    | feature id v =>
      refine (ih ..).trans ?_
      split
      · rw [raise_mgmt]
      · rfl

/-- The preset image does not bring the device into ROM recovery. -/
theorem presetApply_romRec (d : Dev) : (presetApply d).mgmt.romRec = d.mgmt.romRec := by
  refine (presetFeatures_romRec ..).trans ?_
  simp only [Dev.updMgmt_frame, apply_ite Dev.mgmt, raise_mgmt, ite_self]

theorem romFills_romRec (mode : Nat) (d : Dev) : (romFills mode d).mgmt.romRec = d.mgmt.romRec := rfl

/-- The image in the slot runs where `RECOVERY_N` is high and the image may run (R499, R504). -/
theorem measuredStart_image {d : Dev} (hr : d.pwr.recoveryN = true) (hb : d.mgmt.flash.bootable = true) :
    measuredStart d = ((presetApply (romFills 0 d)).updMgmt fun m => { m with
      slots := m.slots.take 4 ++ (presetApply (romFills 0 d)).fwSlots m.preset
      running := m.flash.image.take 512 }).updPwr fun p => { p with mode := .bringUp, step := 4 } := by
  simp only [measuredStart, hr, hb]
  rfl

/-- `RECOVERY_N` low ends in ROM recovery (R508). -/
theorem measuredStart_recovery {d : Dev} (hr : d.pwr.recoveryN = false) :
    measuredStart d = ((raise (restartRec 3 2) (romFills 2 d)).updMgmt fun m => { m with
      romRec := true, running := [] }).updPwr fun p => { p with mode := .recovery, step := 3 } := by
  simp [measuredStart, hr]

/-- Steps 1 and 2 of a start: `RECOVERY_N` is sampled, `MAIN_PWR_EN` rises, the management domains are on. -/
def poweredUp (recoveryN : Bool) (d : Dev) : Dev :=
  [0, 1, 26, 27].foldl (fun d pd => d.setDomain pd .on)
    (d.updPwr fun p => { p with recoveryN := recoveryN, mainPwrEn := true })

@[simp] theorem poweredUp_recoveryN (r : Bool) (d : Dev) : (poweredUp r d).pwr.recoveryN = r := by simp [poweredUp]

@[simp] theorem poweredUp_mgmt (r : Bool) (d : Dev) : (poweredUp r d).mgmt = d.mgmt := by simp [poweredUp]

/-- Whether a device may start: AO power and clock good, `DEV_RST_N` high, no thermal trip, not started yet. -/
structure MayStart (d : Dev) : Prop where
  aoGood : d.pwr.aoGood = true
  aoClock : d.pwr.aoClock = true
  devRstN : d.pwr.devRstN = true
  noTrip : d.pwr.thermTrip = false
  fresh : d.pwr.step = 0

theorem deviceStart_ready {inp : StartInput} {d : Dev} (h : MayStart d) :
    deviceStart inp d = if (measuredStart (poweredUp inp.recoveryN d)).mgmt.romRec then
      measuredStart (poweredUp inp.recoveryN d)
    else switchOn (fromTo 22 4 ++ fromTo 32 6) (tierSetup (measuredStart (poweredUp inp.recoveryN d))) := by
  simp only [deviceStart, h.aoGood, h.aoClock, h.devRstN, h.noTrip, h.fresh]
  rfl

theorem deviceStart_image {inp : StartInput} {d : Dev} (h : MayStart d) (hr : inp.recoveryN = true)
    (hb : d.mgmt.flash.bootable = true) (hm : d.mgmt.romRec = false) :
    deviceStart inp d =
      switchOn (fromTo 22 4 ++ fromTo 32 6) (tierSetup (measuredStart (poweredUp inp.recoveryN d))) := by
  have hrom : (measuredStart (poweredUp inp.recoveryN d)).mgmt.romRec = false := by
    rw [measuredStart_image (by simpa using hr) (by simpa using hb)]
    calc (presetApply (romFills 0 (poweredUp inp.recoveryN d))).mgmt.romRec
      _ = (poweredUp inp.recoveryN d).mgmt.romRec := by rw [presetApply_romRec, romFills_romRec]
      _ = false := by rw [poweredUp_mgmt, hm]
  rw [deviceStart_ready h, hrom]
  rfl

theorem deviceStart_recovery {inp : StartInput} {d : Dev} (h : MayStart d) (hr : inp.recoveryN = false) :
    deviceStart inp d = measuredStart (poweredUp inp.recoveryN d) := by
  have hrom : (measuredStart (poweredUp inp.recoveryN d)).mgmt.romRec = true := by
    rw [measuredStart_recovery (by simpa using hr)]
    rfl
  rw [deviceStart_ready h, hrom]
  rfl

/-! ## Training of the tiers and the bridge -/

/-- A stack whose training succeeds is in service (R383). -/
theorem nearTrained_ok {st : Nat} {r : TrainResult} {d : Dev} (hst : st < 6) (hs : d.pwr.step = 4)
    (hon : d.domain (32 + st) = .on) (ht : (d.ctrl (32 + st)).trained = false)
    (hr : (d.ctrl (32 + st)).retired = false) (hok : r.ok = true) :
    nearTrained st r d = startProgress (requalify (writeSummary (32 + st) 0 (d.updCtrl (32 + st) fun c => { c with
      trained := true, inServ := true, sizeGib := 64, eyes := nearEyes r, centres := r.sweeps.map sweepCentre
      repaired := r.repaired, lastReq := d.now }))) := by
  simp [nearTrained, hs, hon, ht, hr, hok, hst]

/-- A channel waits for its training in step 5, and the result is of a module at the rate of its group. -/
structure FarTrains (ch : Nat) (r : TrainResult) (d : Dev) : Prop where
  chan : ch < 32
  step : d.pwr.step = 5
  on : d.domain (28 + ch / 8) = .on
  untrained : (d.ctrl ch).trained = false
  live : (d.ctrl ch).retired = false
  present : r.present = true
  rate : r.rate = max (d.ctrl ch).rate (d.feat 0x10 0 8)
  listed : r.rate ≤ 2

/-- The channel with what its training has measured of the module. -/
def measured (ch : Nat) (r : TrainResult) (d : Dev) : Dev :=
  d.updCtrl ch fun c => { c with sizeGib := r.sizeGib, ranks := r.ranks, eyes := farEyes r }

/-- What the end of a channel's training does: in service, the group a rate lower, or retired (R362 to R364). -/
theorem farTrained_atRate {ch : Nat} {r : TrainResult} {d : Dev} (h : FarTrains ch r d) :
    farTrained ch r d =
      if trainGood r then startProgress (requalify (writeSummary ch (b2n (d.ctrl ch).lowered)
        ((measured ch r d).updCtrl ch fun c => { c with
          trained := true, inServ := true, rate := r.rate, centres := r.sweeps.map sweepCentre, lastReq := d.now })))
      else if r.rate < 2 then groupRate (ch / 8) (r.rate + 1) true (measured ch r d)
      else startProgress (retireChannel ch 0xFF 0 (measured ch r d)) := by
  have hidle : ¬(ch ≥ 32 ∨ d.pwr.step ≠ 5 ∨ d.domain (28 + ch / 8) ≠ .on ∨ (d.ctrl ch).trained ∨
      (d.ctrl ch).retired) := by
    simp [h.chan, h.step, h.on, h.untrained, h.live]
  simp only [farTrained, hidle, h.present, ← h.rate, gt_iff_lt, lt_irrefl, Nat.not_lt.mpr h.listed, or_self, if_false,
    Bool.not_true, Bool.false_eq_true]
  rfl

theorem trainGood_iff (r : TrainResult) :
    trainGood r = true ↔ r.ok = true ∧ ∀ k, k < 20 → 16 ≤ sweepWidth (r.sweeps.getD k []) := by
  simp [trainGood]

/-- A fold that keeps the element of greatest size: none is greater than what it ends with. -/
theorem foldl_widest {α β : Type} {size : α → Nat} {width : β → Nat} {take : β → α}
    (ht : ∀ b, size (take b) = width b) (l : List β) (a : α) :
    size a ≤ size (l.foldl (fun a b => if size a < width b then take b else a) a) ∧
      ∀ b ∈ l, width b ≤ size (l.foldl (fun a b => if size a < width b then take b else a) a) := by
  induction l generalizing a with
  | nil => simp
  | cons x l ih =>
    obtain ⟨hstart, hrest⟩ := ih (if size a < width x then take x else a)
    have hx : size a ≤ size (if size a < width x then take x else a) ∧
        width x ≤ size (if size a < width x then take x else a) := by
      split
      · rw [ht]; omega
      · omega
    rw [List.foldl_cons]
    refine ⟨hx.1.trans hstart, fun b hb => ?_⟩
    rcases List.mem_cons.mp hb with rfl | hb
    · exact hx.2.trans hstart
    · exact hrest b hb

theorem le_longestRun {l : List (Nat × Nat)} {run : Nat × Nat} (h : run ∈ l) : run.2 ≤ (longestRun l).2 :=
  (foldl_widest (size := Prod.snd) (width := Prod.snd) (take := id) (fun _ => rfl) l (0, 0)).2 run h

/-- The eye of a lane is as wide as any of the passing runs of any of its steps (R364). -/
theorem le_sweepWidth {w : Sweep} {v : Nat} {run : Nat × Nat} (hv : v < w.length) (h : run ∈ w.getD v []) :
    run.2 ≤ sweepWidth w := by
  have hmem : (v, w.getD v []) ∈ (List.range w.length).zip w :=
    List.mem_iff_getElem.mpr ⟨v, by simpa using hv, by simp [hv]⟩
  have hstep : (longestRun (w.getD v [])).2 ≤ sweepWidth w :=
    (foldl_widest (size := fun a : Nat × Nat × Nat => a.2.2) (width := fun p : Nat × List (Nat × Nat) => (longestRun p.2).2)
      (take := fun p => (p.1, longestRun p.2)) (fun _ => rfl) _ (0, 0, 0)).2 _ hmem
  exact (le_longestRun h).trans hstep

/-- A bridge that has trained, no checker failing, ends the start; in sable mode it stays down. -/
theorem bridgeTrained_ok {d : Dev} (hs : d.pwr.step = 6) (hon : d.domain 39 = .on ∨ d.pwr.sable = true) :
    bridgeTrained true [] d = applyRetired (d.updPwr fun p => { p with step := 8, bridgeUp := !p.sable }) := by
  have hidle : ¬(d.pwr.step ≠ 6 ∨ (d.domain 39 ≠ .on ∧ !d.pwr.sable)) := by
    rcases hon with h | h <;> simp [hs, h]
  simp only [bridgeTrained, hidle]
  rfl

end Sys2Proof.Machine
end

section
/-! SUPPORT. O45: the statement about the steps of a start. -/

namespace Sys2Proof.Machine

/-- Settles O45: each event is its case of the operation it runs. -/
theorem startEvents : Obligations.StartEvents := by
  unfold Obligations.StartEvents
  intro s
  refine ⟨?aoGood, ?aoLoss, ?high, ?low, ?sixteenth, ?start, ?near, ?far, trainGood_iff, ?width, ?bridge⟩
  case aoGood => exact fun h => does_of_onMgmt rfl (powerGood_off h)
  case aoLoss => exact ⟨rfl, rfl, rfl, rfl, rfl, rfl, powerLoss_image⟩
  case high => exact does_of_onMgmt rfl (resetSample_high _)
  case low =>
    intro h
    refine does_of_onMgmt ?_ (resetSample_low h)
    change execDevRstN false s = _
    simp [execDevRstN, h]
  case sixteenth =>
    intro h hg
    refine ⟨_, rfl, ?_, ?_⟩
    · change execDevRstN false s = _
      simp [execDevRstN, h, hg, onMgmt_eq, resetSample_sixteenth h hg, State.after]
    · obtain ⟨hstep, htick, htrip, hlog, hobjs, hqps, hcmds, hports, hflash⟩ :=
        deviceReset_keeps (s.dev.updPwr fun p => { p with devRstN := false, rstLow := 16 })
      exact ⟨hstep, htick, htrip, hlog, hobjs, hqps, hcmds, hports, fun h => hflash.trans (interrupted_idle h)⟩
  case start =>
    intro inp hg hc hn ht hs
    have hmay : MayStart s.dev := ⟨hg, hc, hn, ht, hs⟩
    refine ⟨fun hr hb hm => does_of_onMgmt rfl ?_, fun hr => does_of_onMgmt rfl ?_⟩
    · rw [deviceStart_image hmay hr hb hm, measuredStart_image (by simpa using hr) (by simpa using hb)]
      rfl
    · rw [deviceStart_recovery hmay hr, measuredStart_recovery (by simpa using hr)]
      rfl
  case near =>
    exact fun st r hst hs hon ht hr hok => does_of_onMgmt rfl (nearTrained_ok hst hs hon ht hr hok)
  case far =>
    intro ch r hch hs hon ht hr hp hrate hle
    have h := farTrained_atRate ⟨hch, hs, hon, ht, hr, hp, hrate, hle⟩
    refine ⟨fun hgood => does_of_onMgmt rfl ?_, fun hbad hlow => does_of_onMgmt rfl ?_,
      fun hbad hlast => does_of_onMgmt rfl ?_⟩
    · rw [h, if_pos hgood]
      rfl
    · rw [h, hbad, if_neg Bool.false_ne_true, if_pos hlow]
      rfl
    · rw [h, hbad, if_neg Bool.false_ne_true, if_neg (by omega)]
      rfl
  case width => exact fun w v run hv hrun => le_sweepWidth hv hrun
  case bridge => exact fun hs hon => does_of_onMgmt rfl (bridgeTrained_ok hs hon)

end Sys2Proof.Machine
end

section
/-! SUPPORT. Power domains, clusters' clocks and self-refresh, case by case (R37, R40, R41, R376, R523, R528, R531, R535). -/

namespace Sys2Proof.Machine

theorem inRange_iff {a b v : Nat} : inRange a b v = true ↔ a ≤ v ∧ v ≤ b := by simp [inRange]

theorem inRange_false_iff {a b v : Nat} : inRange a b v = false ↔ ¬(a ≤ v ∧ v ≤ b) := by
  simp [inRange]

/-- A value of one range lies in none that ends before it begins. -/
theorem inRange_below {a b e f v : Nat} (h : inRange e f v = true) (hb : b < e) : inRange a b v = false := by
  have := inRange_iff.mp h
  exact inRange_false_iff.mpr (by omega)

/-! ## Domains that switch on -/

section
variable {pd : Nat} {d : Dev} (hs : d.domain pd = .switchingOn)
include hs

/-- A domain that is neither a cluster nor a link group is on and no more. -/
theorem powerGoodOf_plain (hc : inRange 2 17 pd = false) (hg : inRange 22 25 pd = false) :
    powerGoodOf pd d = d.setDomain pd .on := by
  simp [powerGoodOf, hs, hc, hg]

/-- The ports of a link group begin to train. -/
theorem powerGoodOf_linkGroup (hg : inRange 22 25 pd = true) :
    powerGoodOf pd d = trainGroup (pd - 22) (d.setDomain pd .on) := by
  simp [powerGoodOf, hs, inRange_below hg, hg]

/-- A cluster whose die's uncore is on is idle, or wakes where a run waits for it (R41). -/
theorem powerGoodOf_cluster (hc : inRange 2 17 pd = true) (hu : d.domain (18 + clusterDie pd) = .on) :
    powerGoodOf pd d =
      if ((d.setDomain pd .on).updCluster pd fun c => { c with idleSince := some d.now }).clusterWanted pd then
        wakeCluster pd ((d.setDomain pd .on).updCluster pd fun c => { c with idleSince := some d.now })
      else (d.setDomain pd .on).updCluster pd fun c => { c with idleSince := some d.now } := by
  simp [powerGoodOf, hs, hc, hu]

/-! ## Domains that fail to switch on (Table 19-3) -/

theorem powerGoodTimeout_cluster (hc : inRange 2 17 pd = true) :
    powerGoodTimeout pd d = startProgress (retireCluster pd 0xFF 0 (d.setDomain pd .off)) := by
  have hne : pd ≠ 1 := by have := inRange_iff.mp hc; omega
  simp [powerGoodTimeout, hs, hne, hc]

theorem powerGoodTimeout_stack (hc : inRange 32 37 pd = true) :
    powerGoodTimeout pd d = startProgress (stackLost (pd - 32) 5 0xFF (d.setDomain pd .off)) := by
  have hne : pd ≠ 1 := by have := inRange_iff.mp hc; omega
  simp [powerGoodTimeout, hs, hne, hc, inRange_below hc]

end

theorem powerGoodTimeout_bridge {d : Dev} (hs : d.domain 39 = .switchingOn) :
    powerGoodTimeout 39 d = startProgress (bridgeLost 5 0 (d.setDomain 39 .off)) := by
  simp [powerGoodTimeout, hs, inRange]

/-! ## Domains that switch off -/

theorem switchOff_allowed {pd : Nat} {d : Dev} (h : d.mayOff pd = true) : switchOff pd d = domainOff pd d :=
  if_pos h

theorem domainOff_plain {pd : Nat} (hg : inRange 22 25 pd = false) (d : Dev) :
    domainOff pd d = d.setDomain pd .off := by
  simp [domainOff, hg]

/-- The management processor, woken in retention, goes off again; it has no copy in a near stack to put to rest. -/
theorem pd1IdleOff_due {d : Dev} (hr : d.pwr.retention = true) (ha : d.pwr.pd1Awake = true)
    (ht : d.mgmt.mgmtTick + 2 ^ 25 ≤ d.now) (hc : d.mgmt.copies = []) :
    pd1IdleOff d = ((d.updPwr fun p => { p with pd1Awake := false }).updMgmt fun m =>
      { m with mpRunning := false }).setDomain 1 .off := by
  simp only [pd1IdleOff, hr, ha, ht, hc, Dev.updMgmt_frame, Dev.updPwr_frame]
  rfl

/-! ## Clusters' clocks -/

/-- An idle cluster's clock stops when its hold time is over (R37). -/
theorem idleHoldExpiry_due {pd t : Nat} {d : Dev} (hi : (d.cluster pd).idleSince = some t)
    (hc : (d.cluster pd).clock = true) (hb : d.clusterBusy pd = false) (hk : d.clockKept pd = false)
    (ht : t + d.pwr.policy.idleHold ≤ d.now) : idleHoldExpiry pd d =
      d.updCluster pd fun c => { c with clock := false, pllWait := false, idleSince := some d.now } := by
  simp [idleHoldExpiry, hi, hc, hb, hk, ht, stopClock]

theorem pllLock_waiting {pd : Nat} {d : Dev} (hw : (d.cluster pd).pllWait = true) (hon : d.domain pd = .on)
    (hr : (d.cluster pd).retired = false) (ht : d.pwr.thermTrip = false) : pllLock pd d =
      d.updCluster pd fun c => { c with clock := true, pllWait := false, idleSince := some d.now } := by
  simp [pllLock, hw, hon, hr, ht]

/-! ## Self-refresh -/

theorem farSrIdle_due {ch : Nat} {d : Dev} (hi : d.groupIdle (ch / 8) = true) (h0 : d.pwr.policy.farSr ≠ 0)
    (ht : (d.group (ch / 8)).lastReq + d.pwr.policy.farSr ≤ d.now) :
    farSrIdle ch d = setFarSr (ch / 8) true (d.emptySegments (ch / 8)) d := by
  simp [farSrIdle, hi, h0, ht, enterFarSr]

theorem nearSrIdle_due {st : Nat} {d : Dev} (hi : d.stackIdle st = true) (h0 : d.pwr.policy.nearSr ≠ 0)
    (ht : (d.ctrl (32 + st)).lastReq + d.pwr.policy.nearSr ≤ d.now) :
    nearSrIdle st d = d.updCtrl (32 + st) fun c => { c with selfRef := true } := by
  simp [nearSrIdle, hi, h0, ht, enterNearSr]

/-- A group that leaves self-refresh is on, with no segment masked (R376). -/
theorem srExit_far {ch : Nat} {d : Dev} (h : (d.group (ch / 8)).selfRef = true) : srExit (.far ch) d =
    (setFarSr (ch / 8) false 0 (d.setDomain (28 + ch / 8) .on)).updGroup (ch / 8) fun x =>
      { x with lastReq := d.now } := if_pos h

theorem srExit_near {st : Nat} {d : Dev} (h : (d.ctrl (32 + st)).selfRef = true) :
    srExit (.near st) d = d.nearUse st := if_pos h

end Sys2Proof.Machine
end

section
/-! SUPPORT. O47: the statement about power domains, clusters' clocks and self-refresh. -/

namespace Sys2Proof.Machine

/-- Settles O47: each event is its case of the operation it runs. -/
theorem powerEvents : Obligations.PowerEvents := by
  unfold Obligations.PowerEvents
  intro s
  refine ⟨?on, ?off, ?live, ?idle⟩
  case on =>
    intro pd hs
    refine ⟨?plain, ?group, ?cluster, ?lostCluster, ?lostStack, ?lostBridge⟩
    case plain => exact fun hc hg => does_of_onMgmt rfl (powerGoodOf_plain hs hc hg)
    case group => exact fun hg => does_of_onMgmt rfl (powerGoodOf_linkGroup hs hg)
    case cluster =>
      intro hc hu
      have h := powerGoodOf_cluster hs hc hu
      exact ⟨fun hw => does_of_onMgmt rfl (h.trans (if_neg (by simp [hw]))),
        fun hw => does_of_onMgmt rfl (h.trans (if_pos hw))⟩
    case lostCluster => exact fun hc => does_of_onMgmt rfl (powerGoodTimeout_cluster hs hc)
    case lostStack => exact fun hc => does_of_onMgmt rfl (powerGoodTimeout_stack hs hc)
    case lostBridge =>
      rintro rfl
      exact does_of_onMgmt rfl (powerGoodTimeout_bridge hs)
  case off =>
    exact fun pd h => ⟨fun hg => does_of_onMgmt rfl ((switchOff_allowed h).trans (domainOff_plain hg _)),
      fun _ => does_of_onMgmt rfl (switchOff_allowed h)⟩
  case live =>
    intro hl
    refine ⟨?hold, ?lock, ?farIdle, ?nearIdle, ?farExit, ?nearExit⟩
    case hold => exact fun pd t hi hc hb hk ht => does_of_onDev rfl hl (idleHoldExpiry_due hi hc hb hk ht)
    case lock => exact fun pd hw hon hr ht => does_of_onDev rfl hl (pllLock_waiting hw hon hr ht)
    case farIdle => exact fun ch hi h0 ht => does_of_onDev rfl hl (farSrIdle_due hi h0 ht)
    case nearIdle => exact fun st hi h0 ht => does_of_onDev rfl hl (nearSrIdle_due hi h0 ht)
    case farExit => exact fun ch h => does_of_onDev rfl hl (srExit_far h)
    case nearExit => exact fun st h => does_of_onDev rfl hl (srExit_near h)
  case idle => exact fun hr ha ht hc => does_of_onMgmt rfl (pd1IdleOff_due hr ha ht hc)

end Sys2Proof.Machine
end

section
/-! SUPPORT. O53: what one step takes from the queue. -/

namespace Sys2Proof.Machine

theorem step_pending {s : State} {c : Instr} {rest : List Instr} (h : s.pending = c :: rest) :
    step s = exec c { s with pending := rest } := by
  unfold step
  rw [h]

theorem step_idle {s : State} (h : s.pending = []) : step s = .next s.idle := by
  unfold step
  rw [h]

/-- Settles O53: the two cases of the queue. -/
theorem stepTakesTheFront : Obligations.StepTakesTheFront := by
  unfold Obligations.StepTakesTheFront
  exact fun s => ⟨fun c rest h => step_pending h, fun h => step_idle h⟩

end Sys2Proof.Machine
end

section
/-! SUPPORT. `OBJ_CREATE` and `OBJ_GRANT`, form by form (R48 to R54, R64 to R67, R80 to R83). -/

namespace Sys2Proof.Machine

/-! ## Checks and answers -/

theorem need_of {b : Bool} {c : Cpl} (h : b = true) : need b c = .ok () := if_pos h

/-- The only half allowed is chosen where nothing is missing there. -/
theorem chooseHalf_single {near far half : Nat} {d : Dev} (h : d.short half near far = (0, 0)) :
    chooseHalf near far d [half] = .ok half := if_pos h

/-- A ready command whose body answers success with results ends so. -/
theorem ends_of_okRes {i : Instr} {s : State} {n op : Nat} {c : Cmd} {body : Body} {b : Bytes} {d : Dev}
    (hx : exec i s = onDev (startCmd op body n) s) (h : Ready s n op c)
    (hb : body ⟨n, c⟩ [] none s.dev = okRes b d) : Ends i n s (Cpl.ok b) d :=
  ends_of_body hx h hb (.inl (by simp [Cpl.ok_bytes]))

/-! ## `OBJ_CREATE` -/

/-- Near-tier bytes that a command's write mode reserves for a version of an object (R66, R80). -/
def nearReserve (x : Ctx) (o : Obj) : Nat := if x.e.fld 0x2C 0 8 == 0 then o.nearWorst else 0

/-- The open version a command makes of an object on a base, its object on a half (R66, R67, R80). -/
def freshOpen (x : Ctx) (o : Obj) (base half : Nat) (d : Dev) : Version :=
  Version.fresh (x.e.fld 0x2C 0 8 == 0) base (d.pickStack half []) (nearReserve x o) (d.farCost o.worst)

/-- An object goes into the store under the next number of its tenant (R49). -/
theorem addObj_eq (o : Obj) (d : Dev) :
    let num := d.objs.nextNum.getD o.tenant 1
    let h := mkHandle o.tenant o.typ num
    addObj o d = (h, d.updObjs fun t => { t with
      nextNum := Map.set o.tenant (num + 1) t.nextNum, objs := Map.set h { o with num := num } t.objs }) := rfl

section
variable {x : Ctx} {d : Dev} {o : Obj}

/-- NEW_OBJECT: the object with an open version 1, on the first half with room for it. -/
theorem createObject_fits {half : Nat} {halves : List Nat} (ho : newObj x = o) (hq : checkQos x d = .ok ())
    (hs : checkShape x.e o = .ok ()) (hh : halvesFor x.half (x.e.fld 0x2D 0 8) d = .ok halves)
    (hr : checkRoom o true d = .ok ()) (hl : checkQuota x.t 0 (nearReserve x o) (d.farCost o.worst) d = .ok ())
    (hm : chooseHalf (nearReserve x o) (d.farCost o.worst) d halves = .ok half) :
    let made := addObj { o with half := half, vers := [(1, freshOpen x o 0 half d)] } d
    createObject x d = okRes (createRes made.1 1) made.2 := by
  unfold nearReserve at hl hm
  simp only [createObject, bind, Except.bind, ho, hq, hs, hh, hr, hl, hm]
  rfl

/-- NEW_VERSION: an open version above the object's last. -/
theorem createVersion_fits (hown : ownObj x 0 d = .ok o) (ho : o.openVer = none) (ht : o.top < 0xFFFFFFFF)
    (hb : checkBase o (x.e.w32 0x30) = .ok ()) (hr : checkRoom o false d = .ok ())
    (hl : checkQuota x.t 0 (nearReserve x o) (d.farCost o.worst) d = .ok ())
    (hm : d.short o.half (nearReserve x o) (d.farCost o.worst) = (0, 0)) :
    createVersion x d = okRes (createRes x.e.ha (o.top + 1)) (d.updObj x.e.ha fun p => { p with
      vers := Map.set (o.top + 1) (freshOpen x o (x.e.w32 0x30) o.half d) p.vers, top := o.top + 1 }) := by
  have hch := chooseHalf_single hm
  have hv : o.openVer.isNone = true := by simp [ho]
  unfold nearReserve at hl hch
  simp only [createVersion, bind, Except.bind, hown, need_of hv, need_of (decide_eq_true ht), hb, hr, hl, hch]
  rfl

end

theorem bodyObjCreate_object {n : Nat} {c : Cmd} {d : Dev} (h : c.entry.b20 = 0) :
    bodyObjCreate ⟨n, c⟩ [] none d = createObject ⟨n, c⟩ d := if_pos h

theorem bodyObjCreate_version {n : Nat} {c : Cmd} {d : Dev} (h : c.entry.b20 = 1) :
    bodyObjCreate ⟨n, c⟩ [] none d = createVersion ⟨n, c⟩ d := if_neg (by simp [Ctx.e, h])

/-! ## `OBJ_GRANT` -/

/-- The versions of an object that a tenant could read before its grants changed and cannot now. -/
def lostVersions (g : Nat) (o o' : Obj) : List Nat :=
  (o.vers.filter fun p => o.readableBy g p.1 && !o'.readableBy g p.1).map (·.1)

section
variable {s : State} {n op : Nat} {c : Cmd} {o : Obj} (h : Ready s n op c) (w : Owns s c o)
  (hg : c.entry.fld 0x22 0 10 ≠ c.tenant) (hd : s.dev.defined (c.entry.fld 0x22 0 10) = true)
include h w hg hd

/-- GRANT of a sealed version, or of all of them, not yet in force. -/
theorem bodyObjGrant_new (hsel : c.entry.b20 = 0)
    (hn : (o.grants.any fun y => y.grantee == c.entry.fld 0x22 0 10 && y.version == c.entry.w32 0x24) = false)
    (hv : c.entry.w32 0x24 = 0 ∨ ∃ v, o.vers.get? (c.entry.w32 0x24) = some v ∧ v.st = .sealed)
    (hroom : o.grants.length < 64 ∧ s.dev.grantCount < 65536) :
    bodyObjGrant ⟨n, c⟩ [] none s.dev = okRes [] (s.dev.updObj c.entry.ha fun o => { o with
      grants := o.grants ++ [⟨c.entry.fld 0x22 0 10, c.entry.w32 0x24⟩] }) := by
  have hgo : (c.entry.fld 0x22 0 10 != o.tenant) = true := by simpa [w.mine] using hg
  simp only [bodyObjGrant, plain, Ctx.e, bind, Except.bind, ownObj_owns h w, need_of hgo, need_of hd, hsel, hn,
    need_of (decide_eq_true hroom)]
  rcases hv with hv | ⟨v, hv, hst⟩
  · simp [hv]
  · simp [hv, hst, need]

/-- REVOKE of a grant in force. -/
theorem bodyObjGrant_revoke (hsel : c.entry.b20 = 1)
    (hn : (o.grants.any fun y => y.grantee == c.entry.fld 0x22 0 10 && y.version == c.entry.w32 0x24) = true) :
    let o' : Obj := { o with grants := o.grants.filter fun y =>
      !(y.grantee == c.entry.fld 0x22 0 10 && y.version == c.entry.w32 0x24) }
    bodyObjGrant ⟨n, c⟩ [] none s.dev = okRes [] (revoked c.entry.ha (c.entry.fld 0x22 0 10)
      (lostVersions (c.entry.fld 0x22 0 10) o o') (s.dev.updObj c.entry.ha fun _ => o')) := by
  have hgo : (c.entry.fld 0x22 0 10 != o.tenant) = true := by simpa [w.mine] using hg
  simp only [bodyObjGrant, plain, Ctx.e, bind, Except.bind, ownObj_owns h w, need_of hgo, need_of hd, hsel, need_of hn]
  rfl

end

end Sys2Proof.Machine
end

section
/-! SUPPORT. O20: the statement about objects made and granted. -/

namespace Sys2Proof.Machine

/-- Settles O20: each form of the two commands is its case of the body. -/
theorem objectsMade : Obligations.ObjectsMade := by
  unfold Obligations.ObjectsMade
  intro s n c
  refine ⟨?object, ?version, ?grant, ?revoke⟩
  case object =>
    intro halves half o staged near far num h hsel hs hh hr hl hm hready
    have hmade := createObject_fits (x := ⟨n, c⟩) rfl hready.label hs hh hr hl hm
    rw [addObj_eq] at hmade
    exact ends_of_okRes rfl hready ((bodyObjCreate_object hsel).trans hmade)
  case version =>
    intro o staged near far hsel w ho ht hb hr hl hm hready
    exact ends_of_okRes rfl hready
      ((bodyObjCreate_version hsel).trans (createVersion_fits (ownObj_owns hready w 0) ho ht hb hr hl hm))
  case grant =>
    intro o g hsel w hg hd hn hv hl hc hready
    exact ends_of_okRes rfl hready (bodyObjGrant_new hready w hg hd hsel hn hv ⟨hl, hc⟩)
  case revoke =>
    intro o g o' lost hsel w hg hd hn hready
    exact ends_of_okRes rfl hready (bodyObjGrant_revoke hready w hg hd hsel hn)

end Sys2Proof.Machine
end

section
/-! SUPPORT. `OBJ_WRITE` of one tile, its data inline, into a staged version of an object whose versions form a
canonical map (R62, R66, R68, R75). -/

namespace Sys2Proof.Map

/-- In a canonical map every entry is what its key reads. -/
theorem get?_of_mem {α : Type} {m : Map α} (h : wf m = true) {i : Nat} {v : α} (hm : (i, v) ∈ m) :
    get? m i = some v := by
  induction m with
  | nil => cases hm
  | cons p m ih =>
    obtain ⟨ha, hw⟩ := (wf_cons_iff _ _).mp h
    rcases List.mem_cons.mp hm with rfl | hm
    · simp [get?_cons]
    · rw [get?_cons, if_neg (Nat.ne_of_lt (ha _ hm)), ih hw hm]

end Sys2Proof.Map

namespace Sys2Proof.Machine

/-! ## What the checks of `OBJ_WRITE` find -/

theorem eq_true_of_need {b : Bool} {c : Cpl} {u : Unit} (h : need b c = .ok u) : b = true := by
  cases b
  · cases h
  · rfl

/-- A success of two steps is a success of each. -/
theorem bind_eq_ok {ε α β : Type} {a : Except ε α} {f : α → Except ε β} {b : β} (h : (a >>= f) = .ok b) :
    ∃ v, a = .ok v ∧ f v = .ok b := by
  cases a with
  | error e => cases h
  | ok v => exact ⟨v, rfl, h⟩

/-- The latest version that a tenant sees is a sealed one. -/
theorem latest_sealed {o : Obj} {t v : Nat} (h : o.latest t = some v) : ∃ w, (v, w) ∈ o.vers ∧ w.st = .sealed := by
  have fold (l : Map Version) (a : Option Nat) (hl : l ⊆ o.vers)
      (ha : ∀ v, a = some v → ∃ w, (v, w) ∈ o.vers ∧ w.st = .sealed) : ∀ v, l.foldl (fun a p =>
        if p.2.st == .sealed && (o.tenant == t || o.grants.any fun g =>
          g.grantee == t && (g.version == 0 || g.version == p.1)) then some p.1 else a) a = some v →
      ∃ w, (v, w) ∈ o.vers ∧ w.st = .sealed := by
    induction l generalizing a with
    | nil => exact ha
    | cons p l ih =>
      refine ih _ (fun q hq => hl (List.mem_cons_of_mem _ hq)) fun u hu => ?_
      dsimp only at hu
      split at hu
      · next hs =>
        simp only [Bool.and_eq_true, beq_iff_eq] at hs
        cases hu
        exact ⟨p.2, hl (List.mem_cons_self ..), hs.1⟩
      · exact ha u hu
  exact fold o.vers none (List.Subset.refl _) (by simp) v h

/-- A version field resolves to the latest sealed version or to the number it holds. -/
theorem resolveRead_cases {o : Obj} {t v off k : Nat} (h : resolveRead o t v off = .ok k) :
    o.latest t = some k ∨ k = v := by
  unfold resolveRead at h
  split at h
  · split at h
    · next hk => cases h; exact .inl hk
    · cases h
  · split at h
    · cases h
    · split at h
      · cases h
      · split at h
        · cases h
        · cases h; exact .inr rfl

/-- The checks pass on an open version that is not damaged. -/
theorem writeChecks_open {x : Ctx} {d : Dev} {o : Obj} {v : Nat} (h : writeChecks x d = .ok (o, v)) :
    resolveRead o x.t (x.e.w32 0x20) 0x20 = .ok v ∧
      ∃ w, o.vers.get? v = some w ∧ w.st = .opened ∧ w.damaged = false := by
  unfold writeChecks at h
  obtain ⟨o', -, h⟩ := bind_eq_ok h
  obtain ⟨-, -, h⟩ := bind_eq_ok h
  obtain ⟨v', hv, h⟩ := bind_eq_ok h
  obtain ⟨-, -, h⟩ := bind_eq_ok h
  cases hg : o'.vers.get? v' with
  | none => rw [hg] at h; cases h
  | some w =>
    rw [hg] at h
    obtain ⟨_, ⟨⟩, h⟩ := bind_eq_ok h
    obtain ⟨-, -, h⟩ := bind_eq_ok h
    obtain ⟨_, hst, h⟩ := bind_eq_ok h
    obtain ⟨_, hdm, h⟩ := bind_eq_ok h
    obtain ⟨-, -, h⟩ := bind_eq_ok h
    obtain ⟨-, -, h⟩ := bind_eq_ok h
    obtain ⟨-, -, h⟩ := bind_eq_ok h
    cases h
    exact ⟨hv, w, hg, by simpa using eq_true_of_need hst, by simpa using eq_true_of_need hdm⟩

/-- In a canonical map the version they pass on is the one that the entry names: the latest sealed one is not open. -/
theorem writeChecks_named {x : Ctx} {d : Dev} {o : Obj} {v : Nat} (hwf : o.vers.wf = true)
    (h : writeChecks x d = .ok (o, v)) : v = x.e.w32 0x20 := by
  obtain ⟨hres, w, hw, hst, -⟩ := writeChecks_open h
  rcases resolveRead_cases hres with hl | hv
  · obtain ⟨w', hm, hs⟩ := latest_sealed hl
    obtain rfl : w' = w := Option.some.inj ((Map.get?_of_mem hwf hm).symm.trans hw)
    exact absurd (hs.symm.trans hst) (by decide)
  · exact hv

/-! ## The tile taken -/

theorem cmd?_updCmd_self (n : Nat) (f : Cmd → Cmd) (d : Dev) : (d.updCmd n f).cmd? n = (d.cmd? n).map f :=
  Map.get?_upd_self ..

theorem ver?_updVer_self (h v : Nat) (f : Version → Version) (d : Dev) :
    (d.updVer h v f).ver? h v = (d.ver? h v).map f := by
  unfold Dev.ver? Dev.updVer Dev.updObj Dev.obj?
  simp only [Map.get?_upd_self]
  cases d.objs.objs.get? h <;> simp

/-- The device with a tile read for an `OBJ_WRITE` of a staged version, its producer noted in the version. -/
def tileRead (n v tile : Nat) (t : TileEnt) (h : Nat) (w : Version) (d : Dev) : Dev :=
  (d.updVer h v fun _ => w).updCmd n fun k => { k with tiles := k.tiles ++ [(tile, t)] }

/-- The device as a completing `OBJ_WRITE` of a tile leaves it: the tile is in its version, whose stack has the
access. -/
def tileTaken (n h v tile : Nat) (t : TileEnt) (stack qos : Nat) (d : Dev) : Dev :=
  (putTile h v tile t (nearAccess stack [1, h, v, tile] t.data.length qos true (d.nearUse stack))).updCmd n fun k =>
    { k with tiles := [] }

theorem external_frame {w w' : Version} {prod : Nat} (h : w.external = some (prod, w')) :
    w'.st = w.st ∧ w'.damaged = w.damaged ∧ w'.staged = w.staged ∧ w'.stack = w.stack := by
  unfold Version.external at h
  split at h
  · cases h; exact ⟨rfl, rfl, rfl, rfl⟩
  · split at h
    · cases h
    · cases h; exact ⟨rfl, rfl, rfl, rfl⟩

/-- The first tile of an `OBJ_WRITE` of an open staged version is kept until the command completes. -/
theorem takeCmdTile_staged {x : Ctx} {o : Obj} {v prod : Nat} {b : Bytes} {w w' : Version} {d : Dev}
    (hw : d.ver? x.e.ha v = some w) (ho : w.st = .opened) (hd : w.damaged = false) (hs : w.staged = true)
    (he : w.external = some (prod, w')) (hsc : o.scalesOk (o.mask (x.e.w32 0x24) b) = true) :
    takeCmdTile x o v 0 b d = .ok (tileRead x.num v (x.e.w32 0x24)
      { data := o.mask (x.e.w32 0x24) b, sid := 0, dmg := false, prod := prod } x.e.ha w' d) := by
  have href : refuseWrite x.e.ha v (x.e.w32 0x24) d = none := by simp [refuseWrite, hw, ho, hd, hs]
  obtain ⟨-, -, estaged, -⟩ := external_frame he
  simp [takeCmdTile, href, need_of hsc, hw, he, estaged, hs, tileRead, bind, Except.bind]

/-- The body of an `OBJ_WRITE` of one tile, the tile read: it is taken at once where none is still being stored. -/
theorem bodyObjWrite_single {x : Ctx} {o : Obj} {v k : Nat} {b : Bytes} {d read d' : Dev}
    (hk : writeChecks x d = .ok (o, v)) (h1 : x.e.w16 0x28 = 1) (hr : takeCmdTile x o v 0 b d = .ok read)
    (hi : read.cmdTiles x.num = false) (ht : takeTiles x.num read = (k, d')) :
    bodyObjWrite x [b] none d = .ok (.done ((Cpl.ok []).took k) d') := by
  simp [bodyObjWrite, hk, h1, hr, hi, ht]

/-- What a completing `OBJ_WRITE` takes of its one tile: the tile, into the version its entry names. -/
theorem takeTiles_single {n v tile : Nat} {c : Cmd} {t : TileEnt} {w w' : Version} {d : Dev} (hc : d.cmd? n = some c)
    (hw : d.ver? c.entry.ha v = some w) (hv : v = c.entry.w32 0x20) (ho : w'.st = .opened) (hd : w'.damaged = false)
    (hn : c.tiles = []) (ha : (d.objs.acks.any fun a => a.who == .cmd n) = false) :
    takeTiles n (tileRead n v tile t c.entry.ha w' d) =
      (1, tileTaken n c.entry.ha v tile t w'.stack c.entry.qos (tileRead n v tile t c.entry.ha w' d)) := by
  have hcmd : (tileRead n v tile t c.entry.ha w' d).cmd? n = some { c with tiles := [(tile, t)] } := by
    simp [tileRead, cmd?_updCmd_self, hc, hn]
  have hver : (tileRead n v tile t c.entry.ha w' d).ver? c.entry.ha v = some w' := by
    have hself := ver?_updVer_self c.entry.ha v (fun _ => w') d
    rwa [hw] at hself
  have hacks : ((tileRead n v tile t c.entry.ha w' d).objs.acks.filter fun a =>
      a.who == .cmd n && a.stripes.isEmpty) = [] := by
    refine List.filter_eq_nil_iff.mpr fun a hm => ?_
    simp [List.any_eq_false.mp ha a hm]
  simp [takeTiles, hcmd, ← hv, hver, hacks, ho, hd, tileTaken]

/-- The clause of O21 that fails in general holds where the object's versions form a canonical map: the one tile of an
`OBJ_WRITE` is taken into its version as the command completes, and the results count it (R68, R75). -/
theorem objWrite_single_taken {s : State} {n v prod : Nat} {c : Cmd} {o : Obj} {w w' : Version}
    (hwf : o.vers.wf = true) (hready : Ready s n 0x11 c) (hown : Owns s c o)
    (hk : writeChecks ⟨n, c⟩ s.dev = .ok (o, v)) (hw : s.dev.ver? c.entry.ha v = some w)
    (he : w.external = some (prod, w')) (h1 : c.entry.w16 0x28 = 1) (hi : c.inl) (hlen : o.canon ≤ c.input.length)
    (hs : w.staged = true) (hsc : o.scalesOk (o.mask (c.entry.w32 0x24) (c.input.take o.canon)) = true)
    (hcod : s.dev.cmdTiles n = false) (hn : c.tiles = [])
    (ha : (s.dev.objs.acks.any fun a => a.who == .cmd n) = false) :
    let tile := c.entry.w32 0x24
    let t : TileEnt := { data := o.mask tile (c.input.take o.canon), sid := 0, dmg := false, prod := prod }
    Ends (.objWrite n) n s { Cpl.ok [] with results := 1 } (tileTaken n c.entry.ha v tile t w.stack c.entry.qos
      (tileRead n v tile t c.entry.ha w' s.dev)) := by
  intro tile t
  obtain ⟨-, w₁, hw₁, ho, hd⟩ := writeChecks_open hk
  obtain rfl : w = w₁ := Option.some.inj (hw.symm.trans (by simp [Dev.ver?, hown.obj, hw₁]))
  obtain ⟨est, edamaged, -, estack⟩ := external_frame he
  have htaken := takeTiles_single (t := t) (tile := tile) hready.cmd hw (writeChecks_named hwf hk) (est.trans ho)
    (edamaged.trans hd) hn ha
  have hbody := bodyObjWrite_single hk h1 (takeCmdTile_staged hw ho hd hs he hsc) hcod htaken
  rw [estack] at hbody
  exact ends_of_inline (off := 0) rfl hready hi (by simp [bodyObjWrite, hk, bind, Except.bind]) (by omega) hbody
    (by decide)

end Sys2Proof.Machine
end

section
/-! SUPPORT. O21 fails where an object's version list is not a canonical map: an `OBJ_WRITE` that names the latest
sealed version then passes its checks on an open one of the same number, and takes no tile. -/

namespace Sys2Proof.Machine

/-- A command ends with one state of the objects: its completion and the settling leave them alone. -/
theorem ends_objs_eq {i : Instr} {n : Nat} {s : State} {c c' : Cpl} {d d' : Dev} (h : Ends i n s c d)
    (h' : Ends i n s c' d') : d.objs = d'.objs := by
  have kept (c : Cpl) (d : Dev) : (s.after (finishCmd n c d)).dev.objs = d.objs :=
    (settle_frame ..).objs.trans (finishCmd_finish ..).objs
  have same : s.after (finishCmd n c d) = s.after (finishCmd n c' d') := Host.Outcome.next.inj (h.symm.trans h')
  rw [← kept c d, same, kept]

/-- A staged version with nothing in it. -/
def emptyOpen : Version := Version.fresh true 0 0 0 0

/-- An object of tenant 0 of one FP32 tile that holds version number 1 twice: open, and behind it sealed. -/
def twiceOne : Obj :=
  { tenant := 0, typ := 1, num := 1, fmt := 1, tr := 0, tc := 0, rows := 1, cols := 1, half := 0
    vers := [(1, emptyOpen), (1, { emptyOpen with st := .sealed })], top := 1, grants := [] }

/-- An `OBJ_WRITE` of the object's tile, its data inline, that names version 0, the latest sealed one (R63). -/
def writeLatest : Cmd :=
  { origin := .mgmt 4, entry := BitVec.ofNat 512 (0x11 + mkHandle 0 1 1 * 2 ^ 64 + 2 ^ 320 + 2 ^ 352), tenant := 0
    half := 0, started := true, dup := false, phase := .taken, tick := 0, input := zeros 1024, ends := none, jobs := []
    tiles := [] }

/-- The device in service mode with that object and, as number 0, that command. -/
def writeLatestState : State :=
  let d := (Dev.reset.updPwr fun p => { p with mode := .service, step := 8 }).updObjs fun t =>
    { t with objs := [(mkHandle 0 1 1, twiceOne)] }
  { State.reset with dev := { d with q := { d.q with cmds := [(0, writeLatest)], nextCmd := 1 } } }

theorem writeLatest_ready : Ready writeLatestState 0 0x11 writeLatest where
  live := ⟨rfl, rfl⟩
  cmd := rfl
  code := by decide +kernel
  phase := rfl
  start := rfl
  checks := by decide +kernel
  label := by decide +kernel

theorem writeLatest_owns : Owns writeLatestState writeLatest twiceOne where
  obj := by decide +kernel
  lives := rfl
  names := by decide +kernel
  mine := rfl
  path := .inl rfl

/-- The checks pass on version 1: it is the latest sealed one, and the first entry of its number is open. -/
theorem writeLatest_checks : writeChecks ⟨0, writeLatest⟩ writeLatestState.dev = .ok (twiceOne, 1) := by
  decide +kernel

/-- Refutes O21: its `OBJ_WRITE` clause has the tile taken into the version that the checks resolve, but a completing
`OBJ_WRITE` takes its tiles into the version that its entry names (`takeTiles`), which here is version 0, and there is
none. With a canonical map the two are the same version (`objWrite_single_taken`). -/
theorem not_objectsUsed : ¬ Obligations.ObjectsUsed := by
  unfold Obligations.ObjectsUsed
  intro h
  obtain ⟨hwrite, -⟩ := h writeLatestState 0 writeLatest twiceOne
  obtain ⟨-, hsingle⟩ := hwrite 1 emptyOpen 0 { emptyOpen with prods := [extProducer] } writeLatest_owns
    writeLatest_checks (by decide +kernel) rfl writeLatest_ready
  obtain ⟨htaken, hcounted⟩ := hsingle (by decide +kernel) (by rintro _ _ ⟨⟩) (by decide +kernel) rfl
    (by decide +kernel) rfl
  exact absurd (ends_objs_eq htaken (hcounted rfl rfl)) (by decide +kernel)

end Sys2Proof.Machine
end

section
/-! SUPPORT. Ends of seals, of released versions, of promotions and of near copies, case by case (R70, R72, R153, R165 to
R167, R334). -/

namespace Sys2Proof.Machine

/-! ## Seals -/

/-- The device once a seal has read the leaves that a version inherits from its base (R334). -/
def leavesRead (h v : Nat) (d : Dev) : Dev :=
  (d.inherited h v).foldl (fun e p => readLeaf (d.waiterLabel (.seal h v)) p.1 e) d

section
variable {h v : Nat} {x : Version} {d : Dev} (hx : d.ver? h v = some x) (hs : x.st = .sealing)
  (hb : d.sealBusy h v = false) (hw : d.sealWaits h v = false)
include hx hs hb hw

theorem sealComplete_damaged (hd : (leavesRead h v d).anyDamaged h v = true) :
    sealComplete h v d = sealFailed h v x (leavesRead h v d) := by
  unfold leavesRead at hd
  simp [sealComplete, leavesRead, hx, hs, hb, hw, hd]

/-- A seal of a run's output tells the run alone. -/
theorem sealComplete_uncommanded (hd : (leavesRead h v d).anyDamaged h v = false) (hc : x.sealCmd = none) :
    sealComplete h v d = runSealed h v (sealVersion h v (leavesRead h v d)) := by
  unfold leavesRead at hd
  simp [sealComplete, leavesRead, hx, hs, hb, hw, hd, hc]

/-- A seal asked for by a command that has said how it ends (`REDUCE_FINISH`) ends it so. -/
theorem sealComplete_commanded {n : Nat} {k : Cmd} {c : Cpl} (hd : (leavesRead h v d).anyDamaged h v = false)
    (hc : x.sealCmd = some n) (hk : (sealVersion h v (leavesRead h v d)).cmd? n = some k) (he : k.ends = some c) :
    sealComplete h v d = runSealed h v (finishCmd n c (sealVersion h v (leavesRead h v d))) := by
  unfold leavesRead at hd hk
  simp [sealComplete, leavesRead, hx, hs, hb, hw, hd, hc, hk, he]

end

/-! ## Versions and near copies -/

theorem lastReferenceEnd_unused {h v : Nat} {x : Version} {d : Dev} (hx : d.ver? h v = some x) (hs : x.st = .released)
    (hr : d.referenced h v = false) : lastReferenceEnd h v d = dropVersion h v d := by
  simp [lastReferenceEnd, hx, hs, hr]

theorem releasingCopyFreed_idle {h v tile : Nat} {st : Stored} {d : Dev}
    (hst : d.objs.stored.get? (d.sidOf h v tile) = some st) (hn : st.near = .releasing)
    (hj : d.jobOf (d.sidOf h v tile) = none) : releasingCopyFreed h v tile d =
      evalScheds (d.updStored (d.sidOf h v tile) fun s => { s with near := .absent }) := by
  simp [releasingCopyFreed, hst, hn, hj]

/-- The end of a promotion of job `n`: its sectors are written to the stack of the copy, which is present while
something holds it. -/
def promotionEnded (n sid : Nat) (st : Stored) (j : Job) (d : Dev) : Dev :=
  let d := serveAt 1 (2 * stackHalf st.stack + 1) (6 + st.stack) j.qos (256 * st.sectors)
    (nearAccess st.stack [0, sid] (256 * st.sectors) j.qos true d)
  let d := d.updStored sid fun s => { s with near := if d.heldBy sid then .present else .releasing }
  let d := d.updStrs fun x => { x with jobs := Map.upd n (fun j => { j with promo := false }) x.jobs }
  drainCtrl (32 + st.stack) (settleClaims (sweepJobs (d.nearUse st.stack)))

/-- A promotion ends whose sectors are here, may be written and come next. -/
theorem promotionDone_next {h v tile n : Nat} {st : Stored} {o : Obj} {j : Job} {d : Dev}
    (hst : d.objs.stored.get? (d.sidOf h v tile) = some st) (ho : d.obj? h = some o) (hn : st.near = .promoting)
    (hjn : d.joinable (d.sidOf h v tile) = some n) (hj : d.strs.jobs.get? n = some j) (hc : j.st = .coded)
    (hk : d.keyless o.tenant = false) (hw : d.nearWritable j.qos st.stack = true)
    (ht : d.turn 1 (2 * stackHalf st.stack + 1) (6 + st.stack) j.qos j.since n (d.nearWriters st.stack) = true) :
    promotionDone h v tile d = promotionEnded n (d.sidOf h v tile) st j d := by
  simp [promotionDone, hst, ho, hn, hjn, hj, hc, hk, hw, ht]
  rfl

end Sys2Proof.Machine
end

section
/-! SUPPORT. O52: the statement about the events of the tiers. -/

namespace Sys2Proof.Machine

/-- Settles O52: each event is its case of the operation it runs. -/
theorem tierEvents : Obligations.TierEvents := by
  unfold Obligations.TierEvents
  intro s h v tile hl
  refine ⟨?sealed, ?released, ?promoted, ?freed, ?reclaimed⟩
  case sealed =>
    intro x hx hs hb hw
    exact ⟨fun hd => does_of_onDev rfl hl (sealComplete_damaged hx hs hb hw hd),
      fun hd hc => does_of_onDev rfl hl (sealComplete_uncommanded hx hs hb hw hd hc),
      fun n k c hd hc hk he => does_of_onDev rfl hl (sealComplete_commanded hx hs hb hw hd hc hk he)⟩
  case released => exact fun x hx hs hr => does_of_onDev rfl hl (lastReferenceEnd_unused hx hs hr)
  case promoted =>
    exact fun st o n j hst ho hn hjn hj hc hk hw ht =>
      does_of_onDev rfl hl (promotionDone_next hst ho hn hjn hj hc hk hw ht)
  case freed => exact fun st hst hn hj => does_of_onDev rfl hl (releasingCopyFreed_idle hst hn hj)
  case reclaimed => exact fun g st hc hr hs hm => does_of_onDev rfl hl (if_pos ⟨hc, hr, by simp [hs], hm⟩)

end Sys2Proof.Machine
end

section
/-! SUPPORT. O54: every step answers a next state, with the queue's rest in it. -/

namespace Sys2Proof.Machine

/-- An answer that goes on, with the queue of waiting commands as in `s`. -/
def KeepsQueue (s : State) (o : Host.Outcome State Fault Refusal) : Prop :=
  ∃ t, o = .next t ∧ t.pending = s.pending

theorem keepsQueue_next {s t : State} (h : t.pending = s.pending) : KeepsQueue s (.next t) := ⟨t, rfl, h⟩

/-- A choice between two answers that go on. -/
theorem keepsQueue_ite {s : State} {p : Prop} [Decidable p] {a b : Host.Outcome State Fault Refusal}
    (ha : KeepsQueue s a) (hb : KeepsQueue s b) : KeepsQueue s (if p then a else b) := by
  split <;> assumption

theorem pending_ite {s t : State} {p : Prop} [Decidable p] (h : t.pending = s.pending) :
    (if p then t else s).pending = s.pending := by
  split
  · exact h
  · rfl

theorem keepsQueue_onMgmt {s r : State} (f : Dev → Dev) (h : r.pending = s.pending) : KeepsQueue s (onMgmt f r) :=
  keepsQueue_next h

theorem keepsQueue_onPort {s r : State} (f : Dev → Dev) (h : r.pending = s.pending) : KeepsQueue s (onPort f r) := by
  obtain ⟨t, ht, hp, -⟩ := onPort_next f r
  exact ⟨t, ht, hp.trans h⟩

theorem keepsQueue_onDev (f : Dev → Dev) (s : State) : KeepsQueue s (onDev f s) := by
  obtain ⟨t, ht, hp, -⟩ := onDev_next f s
  exact ⟨t, ht, hp⟩

theorem keepsQueue_onHost (fn : Nat) (f : Dev → Dev) (s : State) : KeepsQueue s (onHost fn f s) :=
  keepsQueue_ite (keepsQueue_onDev f s) (keepsQueue_next rfl)

/-- A write in BAR2 reaches no further than the HDM decoders. -/
theorem bar2Write_pending (fn off size : Nat) (v : BitVec 64) (s : State) :
    (bar2Write fn off size v s).pending = s.pending := by
  unfold bar2Write
  dsimp only
  split
  · rfl
  · split
    · rfl
    · exact pending_ite rfl

theorem registerWrite_keepsQueue (fn : Nat) (bar : Bar) (off size : Nat) (v : BitVec 64) (s : State) :
    KeepsQueue s (execRegisterWrite fn bar off size v s) := by
  cases bar with
  | bar0 => exact keepsQueue_onHost ..
  | bar2 => exact keepsQueue_next (bar2Write_pending ..)
  | config => exact keepsQueue_onHost ..

/-- Every row answers a next state with the queue as it was: the rows that change HDM decoders one by one, those of
the management die, those that a host sends, and all the others, which the data path runs. -/
theorem exec_keepsQueue (i : Instr) (s : State) : KeepsQueue s (exec i s) := by
  cases i with
  | registerWrite fn bar off size v => exact registerWrite_keepsQueue ..
  | hdmCommit | hdmDecommit => exact keepsQueue_ite (keepsQueue_next rfl) (keepsQueue_next rfl)
  | hotReset | linkDown => exact keepsQueue_ite (keepsQueue_onPort _ rfl) (keepsQueue_next rfl)
  | perstNAssert | perstNDeassert | hostLinkUp | refclkLoss => exact keepsQueue_onPort _ (pending_ite rfl)
  | linkLoss => exact keepsQueue_onPort _ rfl
  | devRstN => exact keepsQueue_onMgmt _ (pending_ite rfl)
  | managementCommand | pldmRequest | spdmRequest | aoPowerGood | aoPowerLoss | deviceStart | nearTierTrainingDone
  | farChannelTrainingDone | bridgeTrainingDone | managementRestart | pd1IdleOff | fwStagingTimeout | flashProgramDone
  | thermalTrip | sensorSample | thermalStepReturn | aoClockLoss | railFault | vrTimeout | domainPowerGood
  | domainPowerGoodTimeout | domainSwitchOff | boundaryScan | regulatorPowerGood | debugUnlock =>
    exact keepsQueue_onMgmt _ rfl
  | doorbellWrite | irqCauseWrite | irqMaskWrite | aqEnable | aqDisable | flr | busMasterEnableClear
  | busMasterEnableSet | d3hotEntry | d0Return | dmaCompletion | atsInvalidation => exact keepsQueue_onHost ..
  | _ => exact keepsQueue_onDev ..

/-- Settles O54: a step runs the front of the queue on the state with the queue's rest, or lets a tick pass. -/
theorem stepGoesOn : Obligations.StepGoesOn := by
  unfold Obligations.StepGoesOn
  intro s
  cases hq : s.pending with
  | nil => exact ⟨s.idle, step_idle hq, hq⟩
  | cons c rest =>
    rw [step_pending hq]
    exact exec_keepsQueue c { s with pending := rest }

end Sys2Proof.Machine
end

section
/-! SUPPORT. The commands that read what the device holds, and those that set a feature or record a correlation: what
each body answers (R106, R112, R114, R115, R413, R459, R495, R502, R509, R510, R516, R517). -/

namespace Sys2Proof.Machine

/-- A ready command whose body answers success with results and data ends so, where the data fits (R494). -/
theorem ends_of_okData {i : Instr} {s : State} {n op : Nat} {c : Cmd} {body : Body} {b data : Bytes} {d : Dev}
    (hx : exec i s = onDev (startCmd op body n) s) (h : Ready s n op c) (hf : c.fits data)
    (hb : body ⟨n, c⟩ [] none s.dev = okData ⟨n, c⟩ b data d) :
    Ends i n s (Cpl.carry b c.entry.addr data) d :=
  ends_of_body hx h hb (by rwa [Cpl.carry_bytes])

section
variable {x : Ctx} {d : Dev} (hq : checkQos x d = .ok ())
include hq

theorem bodyNop_ok : bodyNop x [] none d = okRes [] d := by
  simp only [bodyNop, plain, bind, Except.bind, hq]

theorem bodyIdentify_ok {page : Bytes} (hp : x.e.b20 = 0 ∧ page = d.devicePage ∨ x.e.b20 = 1 ∧ page = d.functionPage x ∨
    x.e.b20 = 2 ∧ page = libraryPage ∨ x.e.b20 = 3 ∧ d.costPage x = .ok page) :
    bodyIdentify x [] none d = okData x (leBytes 4 page.length) ((page ++ zeros 4096).take 4096) d := by
  simp only [bodyIdentify, plain, bind, Except.bind, hq]
  rcases hp with ⟨hsel, rfl⟩ | ⟨hsel, rfl⟩ | ⟨hsel, rfl⟩ | ⟨hsel, hcost⟩
  case inr.inr.inr => simp only [hsel, hcost]; rfl
  all_goals simp only [hsel]; rfl

theorem bodyGetFeature_ok (hid : (featureDefault x.e.b20).isSome = true) :
    bodyGetFeature x [] none d =
      okData x [] ((d.featureLayer x.e.b20).1 ++ leBytes 1 (d.featureLayer x.e.b20).2 ++ zeros 7) d := by
  simp only [bodyGetFeature, plain, bind, Except.bind, hq, need_of hid]

/-- A feature is set at runtime where its value is allowed and neither the tile caches' split nor the trace's clock
stands against it (R47, R510). -/
theorem bodySetFeature_ok (hid : (featureDefault x.e.b20).isSome = true) (hrun : presetOnly x.e.b20 = false)
    (hv : featBad x.e.b20 ((x.e.bytes.drop 0x28).take 24) = none)
    (hsplit : x.e.b20 = 0x01 →
      d.splitShrinks ((List.range 4).map fun k => fld ((x.e.bytes.drop 0x28).take 24) k 0 8) = false)
    (halert : x.e.b20 = 0x03 → fld ((x.e.bytes.drop 0x28).take 24) 0 0 8 = 1 →
      d.integ.trace.clock = false ∧ presetHolds x 3 d = false) :
    bodySetFeature x [] none d = okRes [] (featApply x.e.b20 (d.updMgmt fun m => { m with
      features := Map.set x.e.b20 ((x.e.bytes.drop 0x28).take 24) m.features })) := by
  have hlisted : ((featureDefault x.e.b20).isSome && !presetOnly x.e.b20) = true := by simp [hid, hrun]
  have hroom : (!(x.e.b20 == 0x01 &&
      d.splitShrinks ((List.range 4).map fun k => fld ((x.e.bytes.drop 0x28).take 24) k 0 8))) = true := by
    by_cases h : x.e.b20 = 0x01
    · simp [hsplit h]
    · simp [h]
  have hclock : (!(x.e.b20 == 0x03 && fld ((x.e.bytes.drop 0x28).take 24) 0 0 8 == 1 &&
      (d.integ.trace.clock || presetHolds x 3 d))) = true := by
    by_cases h : x.e.b20 = 0x03 ∧ fld ((x.e.bytes.drop 0x28).take 24) 0 0 8 = 1
    · obtain ⟨ht, hp⟩ := halert h.1 h.2
      simp [ht, hp]
    · rcases not_and_or.mp h with h | h <;> simp [h]
  simp only [bodySetFeature, plain, bind, Except.bind, hq, need_of hlisted, hv, need_of hroom, need_of hclock]

theorem bodySensorRead_ok : bodySensorRead x [] none d = okData x (leBytes 2 (x.e.w16 0x22))
    ((fromTo (x.e.w16 0x20) (x.e.w16 0x22)).flatMap d.sensorRecord) d := by
  simp only [bodySensorRead, plain, bind, Except.bind, hq]

theorem bodyAttest_ok : bodyAttest x [] none d =
    okData x (leBytes 4 832) (d.report ((x.e.bytes.drop 0x20).take 32)) d.useSecurity := by
  simp only [bodyAttest, plain, bind, Except.bind, hq]

/-- What `STATS_READ` writes: the tick, the counters from `first` on, and which of them have overflowed (R114). -/
def statsData (scope i first n : Nat) (d : Dev) : Bytes :=
  leBytes 8 d.now ++ leBytes 2 n ++ leBytes 1 scope ++ zeros 5 ++
    ((fromTo first n).flatMap fun j => leBytes 8 (d.count scope i j)) ++ leBytes 32 (maskOf ((List.range n).filter
      fun j => d.cnt.ovf.contains (((fromTo first n).map (cntKey scope i)).getD j 0)))

theorem bodyStatsRead_ok (hmay : x.t = 0 ∨
      (¬[0, 7, 8, 9].contains x.e.b20 ∧ d.statMine x.t x.e.b20 (x.e.w32 0x24) = true))
    (hthere : d.statThere x.e.b20 (x.e.w32 0x24) = true)
    (hrange : x.e.w16 0x28 + x.e.w16 0x2A ≤ catalogues.getD x.e.b20 0) :
    bodyStatsRead x [] none d = okData x [] (statsData x.e.b20 (x.e.w32 0x24) (x.e.w16 0x28) (x.e.w16 0x2A) d)
      (if x.e.fld 0x21 0 1 = 1 then { d with cnt := { d.cnt with ovf := d.cnt.ovf.filter fun j =>
        !((fromTo (x.e.w16 0x28) (x.e.w16 0x2A)).map (cntKey x.e.b20 (x.e.w32 0x24))).contains j } } else d) := by
  have hscope : (x.t == 0 || !([0, 7, 8, 9].contains x.e.b20)) = true := by
    rcases hmay with h | ⟨h, -⟩ <;> simp_all
  have hmine : d.statMine x.t x.e.b20 (x.e.w32 0x24) = true := by
    rcases hmay with h | ⟨-, h⟩
    · simp [Dev.statMine, h]
    · exact h
  simp only [bodyStatsRead, plain, bind, Except.bind, hq, need_of hscope, need_of hthere, need_of hmine,
    need_of (decide_eq_true hrange)]
  rfl

/-- The entries of the error log that a read from `first` on shows a tenant, `n` at most (R112). -/
def logEntries (t first n : Nat) (d : Dev) : List Bytes :=
  (((d.logFrom first).filter fun r => r.seenBy t).take n).map fun r => r.bytes t

theorem bodyErrlogRead_log (hsec : x.e.b20 = 0) :
    bodyErrlogRead x [] none d = okData x
      (leBytes 2 (logEntries x.t (x.e.w32 0x24) (x.e.w16 0x28) d).length ++ zeros 2 ++
        leBytes 4 ((d.integ.log.head?.map (·.id)).getD 0) ++ leBytes 4 ((d.integ.log.getLast?.map (·.id)).getD 0))
      (logEntries x.t (x.e.w32 0x24) (x.e.w16 0x28) d).flatten d := by
  have hsel : (x.e.b20 == 0 || x.t == 0) = true := by simp [hsec]
  simp only [bodyErrlogRead, plain, bind, Except.bind, hq, need_of hsel, if_pos hsec, logEntries, List.map_take,
    List.append_assoc]

/-- The record that `TIME_CORRELATE` adds. -/
def newCorr (x : Ctx) (d : Dev) : Corr :=
  { tick := x.cmd.tick, time := x.e.w64 0x28, clock := x.e.w32 0x30, unc := x.e.w32 0x34
    seq := nextErrId d.mgmt.corrSeq, tenant := x.t, source := x.source d, flushed := false }

/-- The correlations once it is added; the oldest beyond 2,048 goes. -/
def corrsWith (x : Ctx) (d : Dev) : List Corr :=
  (d.mgmt.flash.corr ++ [newCorr x d]).drop ((d.mgmt.flash.corr ++ [newCorr x d]).length - 2048)

theorem bodyTimeCorrelate_record (hsel : x.e.b20 = 0) :
    bodyTimeCorrelate x [] none d = okRes (leBytes 8 x.cmd.tick ++ leBytes 4 (nextErrId d.mgmt.corrSeq))
      (d.updMgmt fun m => { m with
        corrSeq := nextErrId d.mgmt.corrSeq, flash := { m.flash with corr := corrsWith x d } }) := by
  simp only [bodyTimeCorrelate, plain, bind, Except.bind, hq, if_pos hsel]
  rfl

end

end Sys2Proof.Machine
end

section
/-! SUPPORT. O18: the statement about the commands that read what the device holds. -/

namespace Sys2Proof.Machine

/-- Settles O18: each command is its case of the body. -/
theorem deviceCommands : Obligations.DeviceCommands := by
  unfold Obligations.DeviceCommands
  intro s n c
  refine ⟨?nop, ?identify, ?get, ?set, ?stats, ?sensors, ?attest, ?log, ?time⟩
  case nop => exact fun h => ends_of_okRes rfl h (bodyNop_ok h.label)
  case identify =>
    intro page hp hi h
    exact ends_of_okData rfl h (.inr hi) (bodyIdentify_ok h.label hp)
  case get =>
    intro hid
    exact fun hf h => ends_of_okData rfl h hf (bodyGetFeature_ok h.label hid)
  case set =>
    intro hid hrun v hv hsplit halert h
    exact ends_of_okRes rfl h (bodySetFeature_ok h.label hid hrun hv hsplit halert)
  case stats =>
    intro i first k keys lost out hmay hthere hrange hf h
    exact ends_of_okData rfl h hf (bodyStatsRead_ok h.label hmay hthere hrange)
  case sensors => exact fun hf h => ends_of_okData rfl h hf (bodySensorRead_ok h.label)
  case attest => exact fun hf h => ends_of_okData rfl h hf (bodyAttest_ok h.label)
  case log =>
    intro log l hsec hf h
    exact ends_of_okData rfl h hf (bodyErrlogRead_log h.label hsec)
  case time =>
    intro seq r l hsel h
    exact ends_of_okRes rfl h (bodyTimeCorrelate_record h.label hsel)

end Sys2Proof.Machine
end

section
/-! SUPPORT. Queue pairs, tenants, ports, unit groups and quotas: what each form of their commands answers (R33 to R35,
R84, R102 to R104, R158, R438, R441, R450, R451). -/

namespace Sys2Proof.Machine

/-! ## Queue pairs -/

/-- The issuer may act on a queue pair of its own host port and tenant; tenant 0 on any tenant's (R103). -/
theorem checkQpOwner_ok {x : Ctx} {loc : QLoc} {t : Nat} {d : Dev}
    (hp : ∀ f b g, loc = .host f b → x.fn? d = some g → f / 256 = g / 256) (ht : x.t = 0 ∨ x.t = t) :
    checkQpOwner x loc t d = .ok () := by
  have hten : (x.t == 0 || x.t == t) = true := by simpa using ht
  unfold checkQpOwner
  split
  next f b g hg =>
    have hport : (f / 256 == g / 256) = true := by simpa using hp f b g rfl hg
    simp only [need_of hport, need_of hten, bind, Except.bind]
  next => simp only [need_of hten, bind, Except.bind]

/-- The queue pair that a `QP_CREATE` of the host form asks for, its function bound to tenant `t`. -/
def hostQp (e : Entry) (t : Nat) : QP :=
  QP.fresh (.host (e.w16 0x22) (e.w16 0x24)) false t (e.fld 0x28 0 5) (e.fld 0x29 0 8) (e.fld 0x2A 0 11) (e.w16 0x2C)
    (e.w16 0x2E) e.addr (e.w64 0x30) (e.w64 0x38)

section
variable {x : Ctx} {d : Dev} (hq : checkQos x d = .ok ())
include hq

/-- A queue pair of a function, under the lowest free ID, its doorbell's indices 0. -/
theorem bodyQpCreate_host {t : Nat} (hsel : x.e.b20 = 0) (hb : (d.fn (x.e.w16 0x22)).bound = some t)
    (hp : ∀ f, x.fn? d = some f → x.e.w16 0x22 / 256 = f / 256) (ht : x.t = 0 ∨ x.t = t)
    (hsq : x.e.addr % 4096 = 0) (hcq : x.e.w64 0x30 % 4096 = 0) (hfree : d.qpAt (x.e.w16 0x22) (x.e.w16 0x24) = none)
    (hroom : d.q.qps.length < 32768 ∧ d.qpsOf (.host (x.e.w16 0x22) (x.e.w16 0x24)) < 8192) :
    bodyQpCreate x [] none d = okRes (leBytes 2 (addQp (hostQp x.e t) d).1)
      ((addQp (hostQp x.e t) d).2.updFn (x.e.w16 0x22) fun f => { f with
        dbSq := Map.set (x.e.w16 0x24) 0 f.dbSq, dbCq := Map.set (x.e.w16 0x24) 0 f.dbCq }) := by
  have howner : checkQpOwner x (.host (x.e.w16 0x22) (x.e.w16 0x24)) t d = .ok () :=
    checkQpOwner_ok (by rintro f b g ⟨⟩ hg; exact hp g hg) ht
  have hnone : (d.qpAt (x.e.w16 0x22) (x.e.w16 0x24)).isNone = true := by simp [hfree]
  have haddr : (x.e.addr % 4096 == 0) = true := by simp [hsq]
  have hcpl : (x.e.w64 0x30 % 4096 == 0) = true := by simp [hcq]
  simp only [bodyQpCreate, plain, bind, Except.bind, hq, if_pos hsel, hb, howner, need_of hnone, checkQpRoom,
    need_of (decide_eq_true hroom), need_of haddr, need_of hcpl]
  rfl

/-- A queue pair's deletion waits for its commands (R104). -/
theorem bodyQpDelete_wait {q : QP} (hqp : d.qp? (x.e.w16 0x20) = some q) (ha : q.admin = false) (hd : q.deleter = none)
    (hp : ∀ f b g, q.loc = .host f b → x.fn? d = some g → f / 256 = g / 256) (ht : x.t = 0 ∨ x.t = q.tenant)
    (hkeep : x.e.fld 0x22 0 1 = 0) :
    bodyQpDelete x [] none d =
      .ok (.wait (reapQps (d.updQp (x.e.w16 0x20) fun q => { q with deleter := some x.num }))) := by
  have hadm : (!q.admin) = true := by simp [ha]
  have hdel : q.deleter.isNone = true := by simp [hd]
  simp only [bodyQpDelete, plain, bind, Except.bind, hq, hqp, checkQpOwner_ok hp ht, need_of hadm, need_of hdel, hkeep]
  rfl

/-! ## Tenants and functions -/

theorem bodyTenantSet_define (hsel : x.e.b20 = 0) (hn : d.defined (x.e.fld 0x22 0 10) = false) :
    bodyTenantSet x [] none d =
      okRes [] { d with q := { d.q with tenants := insertNat (x.e.fld 0x22 0 10) d.q.tenants } } := by
  have hnew : (!d.defined (x.e.fld 0x22 0 10)) = true := by simp [hn]
  simp only [bodyTenantSet, plain, bind, Except.bind, hq, if_pos hsel, need_of hnew]

theorem bodyTenantSet_remove (hsel : x.e.b20 = 1) (h0 : x.e.fld 0x22 0 10 ≠ 0)
    (hd : d.defined (x.e.fld 0x22 0 10) = true) (hh : d.tenantHeld (x.e.fld 0x22 0 10) = false) :
    bodyTenantSet x [] none d = okRes (leBytes 8 (removeTenant (x.e.fld 0x22 0 10) d).1)
      (removeTenant (x.e.fld 0x22 0 10) d).2 := by
  have hthere : (x.e.fld 0x22 0 10 != 0 && d.defined (x.e.fld 0x22 0 10)) = true := by simp [h0, hd]
  have hidle : (!d.tenantHeld (x.e.fld 0x22 0 10)) = true := by simp [hh]
  simp only [bodyTenantSet, plain, bind, Except.bind, hq, hsel, need_of hthere, need_of hidle]
  rfl

section
variable (hfn : x.e.w16 0x24 < 1024) (hb : d.fnBusy (x.e.w16 0x24) = false)
include hfn hb

theorem bodyTenantSet_bind (hsel : x.e.b20 = 2) (hd : d.defined (x.e.fld 0x22 0 10) = true) :
    bodyTenantSet x [] none d =
      okRes [] (d.updFn (x.e.w16 0x24) fun f => { f with bound := some (x.e.fld 0x22 0 10) }) := by
  have hidle : (!d.fnBusy (x.e.w16 0x24)) = true := by simp [hb]
  simp only [bodyTenantSet, plain, bind, Except.bind, hq, hsel, need_of (decide_eq_true hfn), need_of hd, need_of hidle]
  rfl

theorem bodyTenantSet_unbind (hsel : x.e.b20 = 3) (hs : (d.fn (x.e.w16 0x24)).bound.isSome = true) :
    bodyTenantSet x [] none d = okRes [] (d.updFn (x.e.w16 0x24) fun f => { f with bound := none }) := by
  have hidle : (!d.fnBusy (x.e.w16 0x24)) = true := by simp [hb]
  simp only [bodyTenantSet, plain, bind, Except.bind, hq, hsel, need_of (decide_eq_true hfn), need_of hs, need_of hidle]
  rfl

end

/-! ## Ports -/

/-- QUERY answers the port's record, whatever its state. -/
theorem bodyPortBind_query (hsel : x.e.b20 = 3) :
    bodyPortBind x [] none d = okData x [] (d.port (x.e.fld 0x21 0 8)).record d := by
  simp only [bodyPortBind, withData, bindChecks, bind, Except.bind, hq, hsel]
  rfl

/-- UNBIND of a bound port. -/
theorem bodyPortBind_unbind (hsel : x.e.b20 = 1) (hr : (d.port (x.e.fld 0x21 0 8)).retired = false)
    (hb : (d.port (x.e.fld 0x21 0 8)).bound = true) :
    bodyPortBind x [] none d = okRes [] (unbindPort (x.e.fld 0x21 0 8) d) := by
  simp only [bodyPortBind, withData, bindChecks, bind, Except.bind, hq, hsel, hr, hb]
  rfl

/-- The checks of BIND pass on a port that is neither retired nor bound. -/
theorem bindChecks_bind (hsel : x.e.b20 = 0) (hr : (d.port (x.e.fld 0x21 0 8)).retired = false)
    (hb : (d.port (x.e.fld 0x21 0 8)).bound = false) : bindChecks x d = .ok () := by
  simp only [bindChecks, bind, Except.bind, hq, hsel, hr, hb]
  rfl

/-- BIND reads its mask of tenants first. -/
theorem bodyPortBind_reads (hsel : x.e.b20 = 0) (hr : (d.port (x.e.fld 0x21 0 8)).retired = false)
    (hb : (d.port (x.e.fld 0x21 0 8)).bound = false) : bodyPortBind x [] none d = .ok (.read 0 128 d) := by
  simp only [bodyPortBind, withData, bind, Except.bind, bindChecks_bind hq hsel hr hb, hsel]
  rfl

/-- BIND with a mask of tenants that are defined; port 55 may be taken for traces (R409). -/
theorem bodyPortBind_bind {b : Bytes} (hsel : x.e.b20 = 0) (hr : (d.port (x.e.fld 0x21 0 8)).retired = false)
    (hb : (d.port (x.e.fld 0x21 0 8)).bound = false) (hs : (setBits 1024 (leNat b)).isEmpty = false)
    (hd : (setBits 1024 (leNat b)).all d.defined = true)
    (ht : x.e.fld 0x21 0 8 = 55 → d.integ.trace.enabled = false ∧ presetHolds x 1 d = false) :
    bodyPortBind x [b] none d = okRes [] (bindPort (x.e.fld 0x21 0 8) (x.e.fld 0x22 0 2) (x.e.w64 0x28)
      (setBits 1024 (leNat b)) d) := by
  have hsome : (!(setBits 1024 (leNat b)).isEmpty) = true := by simp [hs]
  have htrace : (!(x.e.fld 0x21 0 8 == 55 && (d.integ.trace.enabled || presetHolds x 1 d))) = true := by
    by_cases h : x.e.fld 0x21 0 8 = 55
    · obtain ⟨he, hp⟩ := ht h
      simp [he, hp]
    · simp [h]
  simp only [bodyPortBind, withData, bind, Except.bind, bindChecks_bind hq hsel hr hb, hsel, need_of hsome, need_of hd,
    need_of htrace]
  rfl

/-! ## Unit groups and quotas -/

/-- The members that a `UNIT_GROUP` lists. -/
def listedUnits (e : Entry) : List Nat := (List.range (e.fld 0x21 0 8)).map fun k => e.w32 (0x24 + 4 * k)

/-- The device with a new unit group under the lowest free ID. -/
def groupAdded (t : Nat) (ms : List Nat) (d : Dev) : Dev :=
  d.updComp fun k => { k with groups := Map.set (d.comp.groups.firstFree 0) (t, ms) k.groups }

/-- Cores of a unit group. -/
def Dev.groupCores (d : Dev) (g : Nat) : Nat :=
  match d.unitSet 10 (5 * 2 ^ 28 + g) with
  | some l => (coresOf l).length
  | none => 0

theorem bodyUnitGroup_create (hsel : x.e.b20 = 0) (hm : checkMembers x.t d 0x24 (listedUnits x.e) = .ok ())
    (hroom : d.comp.groups.length < 4096) :
    bodyUnitGroup x [] none d = okRes (leBytes 2 (d.comp.groups.firstFree 0) ++
      leBytes 2 ((groupAdded x.t (listedUnits x.e) d).groupCores (d.comp.groups.firstFree 0)))
      (groupAdded x.t (listedUnits x.e) d) := by
  unfold listedUnits at hm
  simp only [bodyUnitGroup, plain, bind, Except.bind, hq, if_pos hsel, hm, need_of (decide_eq_true hroom)]
  rfl

/-- The device with a quota that a `QUOTA_SET` sets; the query form sets none (R158). -/
def quotaApplied (e : Entry) (d : Dev) : Dev :=
  if e.b20 = 0 then
    evalScheds (d.updTiers fun k => { k with
      limits := Map.set (e.fld 0x22 0 10 * 3 + e.fld 0x21 0 8) (e.w64 0x28) k.limits })
  else d

theorem bodyQuotaSet_ok (hd : d.defined (x.e.fld 0x22 0 10) = true) :
    bodyQuotaSet x [] none d = okRes (leBytes 8 ((quotaApplied x.e d).limit (x.e.fld 0x22 0 10) (x.e.fld 0x21 0 8)) ++
      leBytes 8 ((quotaApplied x.e d).charge (x.e.fld 0x22 0 10) (x.e.fld 0x21 0 8))) (quotaApplied x.e d) := by
  simp only [bodyQuotaSet, plain, bind, Except.bind, hq, need_of hd]
  rfl

end

end Sys2Proof.Machine
end

section
/-! SUPPORT. O19: the statement about queue pairs, tenants, ports, unit groups and quotas. -/

namespace Sys2Proof.Machine

/-- Settles O19: each form of each command is its case of the body. -/
theorem queueCommands : Obligations.QueueCommands := by
  unfold Obligations.QueueCommands
  intro s n c
  refine ⟨?create, ?delete, ?define, ?remove, ?bindFn, ?unbindFn, ?query, ?unbind, ?bind, ?group, ?quota⟩
  case create =>
    intro t hsel hb hp ht hsq hcq hfree hall hof h
    exact ends_of_okRes rfl h (bodyQpCreate_host h.label hsel hb hp ht hsq hcq hfree ⟨hall, hof⟩)
  case delete =>
    intro q hqp ha hd ht hp hkeep h
    exact waits_of_body rfl h (bodyQpDelete_wait h.label hqp ha hd hp ht hkeep)
  case define => exact fun hsel hn h => ends_of_okRes rfl h (bodyTenantSet_define h.label hsel hn)
  case remove => exact fun hsel h0 hd hh h => ends_of_okRes rfl h (bodyTenantSet_remove h.label hsel h0 hd hh)
  case bindFn => exact fun hsel hfn hd hb h => ends_of_okRes rfl h (bodyTenantSet_bind h.label hfn hb hsel hd)
  case unbindFn => exact fun hsel hfn hs hb h => ends_of_okRes rfl h (bodyTenantSet_unbind h.label hfn hb hsel hs)
  case query => exact fun hsel hf h => ends_of_okData rfl h hf (bodyPortBind_query h.label hsel)
  case unbind => exact fun hsel hr hb h => ends_of_okRes rfl h (bodyPortBind_unbind h.label hsel hr hb)
  case bind =>
    intro hsel hr hb h
    refine ⟨reads_of_body rfl h (bodyPortBind_reads h.label hsel hr hb), fun hi hlen hs hd ht => ?_⟩
    exact ends_of_inline rfl h hi (bodyPortBind_reads h.label hsel hr hb) hlen
      (bodyPortBind_bind h.label hsel hr hb hs hd ht) (by simp [Cpl.ok_bytes])
  case group =>
    exact fun hsel hm hroom h => ends_of_okRes rfl h (bodyUnitGroup_create h.label hsel hm hroom)
  case quota => exact fun hd h => ends_of_okRes rfl h (bodyQuotaSet_ok h.label hd)

end Sys2Proof.Machine
end

section
/-! SUPPORT. Entries taken, fences, coalescing timers and doorbells, case by case (R87 to R89, R92, R93). -/

namespace Sys2Proof.Machine

/-! ## Taking an entry -/

/-- The command that a queue pair's next entry becomes, taken over function `fn`. -/
def takenCmd (n fn : Nat) (q : QP) (e : Entry) (d : Dev) : Cmd :=
  { origin := .queue n q.sqHead, entry := e, tenant := q.tenant, half := hostHalf (fn / 256), started := !e.ordered
    dup := d.q.cmds.any fun p => p.2.ofQp n && p.2.tag == e.fld 2 0 16
    phase := .taken, tick := d.now, input := [], ends := none, jobs := [], tiles := [] }

/-- A queue pair whose entry at `slot` has been taken: a completion slot is reserved for it. -/
def QP.afterTake (slot : Nat) (q : QP) : QP :=
  { q with
    sqHead := (slot + 1) % 2 ^ q.log2Depth, reserved := q.reserved + 1, ring := Map.del slot q.ring }

/-- What is left of a queue pair's turn once it has given an entry (R89). -/
def turnLeft (n weight : Nat) (d : Dev) : Nat :=
  if d.q.rrQp = n ∧ d.q.rrLeft ≠ 0 then d.q.rrLeft - 1 else weight - 1

theorem turnLeft_succ (n weight : Nat) (d : Dev) : turnLeft n weight d + 1 =
    if d.q.rrQp = n ∧ d.q.rrLeft ≠ 0 then d.q.rrLeft else max weight 1 := by
  unfold turnLeft
  split <;> omega

/-- The device with the next entry of a queue pair of function `fn` taken. -/
def entryTaken (n fn : Nat) (q : QP) (e : Entry) (d : Dev) : Dev :=
  addCmd n q.sqHead q e (bump 2 n 0 1 (qpServed n q.weight
    ((bump 5 (fn / 256) 0 64 d).updQp n (QP.afterTake q.sqHead))))

/-- Taking an entry changes counters, the trace, the queue pair, the turn and the commands. -/
theorem entryTaken_eq {n fn db : Nat} {q : QP} (hl : q.loc = .host fn db) (e : Entry) (d : Dev) :
    ∃ c t, entryTaken n fn q e d = { d with
      cnt := c
      integ := { d.integ with trace := t }
      q := { d.q with
        qps := Map.upd n (QP.afterTake q.sqHead) d.q.qps
        cmds := Map.set d.q.nextCmd (takenCmd n fn q e d) d.q.cmds
        nextCmd := d.q.nextCmd + 1
        rrQp := n
        rrLeft := turnLeft n q.weight d } } := by
  unfold entryTaken addCmd
  obtain ⟨c, hc⟩ := bump_cnt 5 (fn / 256) 0 64 d
  rw [hc]
  obtain ⟨c', hc'⟩ := bump_cnt 2 n 0 1
    (qpServed n q.weight (({ d with cnt := c } : Dev).updQp n (QP.afterTake q.sqHead)))
  rw [hc']
  obtain ⟨t, ht⟩ := trace_spec 1 1 (some q.tenant) (n + 2 ^ 16 * e.fld 2 0 16)
    (leBytes 1 e.op ++ leBytes 1 0 ++ leBytes 2 e.qos ++ zeros 4 ++ leBytes 8 e.ha)
    { qpServed n q.weight (({ d with cnt := c } : Dev).updQp n (QP.afterTake q.sqHead)) with cnt := c' }
  simp only [ht, hl]
  exact ⟨c', t, rfl⟩

section
variable {n fn db : Nat} {q : QP} {d : Dev} (hq : d.qp? n = some q) (hl : q.loc = .host fn db)
include hq hl

/-- The next entry of the queue pair whose turn it is; one without an opcode of the list ends at once (R105). -/
theorem takeEntry_host (hturn : d.qpTurn = some n) (e : Entry) :
    takeEntry n e d = if (opRow e.op).isSome then entryTaken n fn q e d
      else finishCmd d.q.nextCmd (errS .invalidOpcode) (entryTaken n fn q e d) := by
  have hnum : (bump 5 (fn / 256) 0 64 d).q.nextCmd = d.q.nextCmd := by simp
  simp only [takeEntry, hq, hl, hturn, hnum, ne_eq, not_true_eq_false, if_false, ← Option.not_isSome]
  cases (opRow e.op).isSome <;> rfl

/-! ## The coalescing timer -/

theorem raiseVector_host :
    raiseVector n d = sendMsix fn q.vector [n] (d.updQp n fun q => { q with unsig := 0 }) := by
  simp only [raiseVector, hq, hl]

end

theorem coalesceExpiry_due {n : Nat} {q : QP} {d : Dev} (hq : d.qp? n = some q) (ha : q.admin = false)
    (hu : q.unsig ≠ 0) (hc : q.coalTicks ≠ 0) (ht : q.unsigTick + q.coalTicks ≤ d.now) :
    coalesceExpiry n d = raiseVector n d := by
  simp [coalesceExpiry, hq, ha, hu, hc, ht]

/-! ## The order fence -/

theorem orderedStart_passed {n : Nat} {c : Cmd} {d : Dev} (hc : d.cmd? n = some c) (hs : c.started = false)
    (hf : fencePassed n c d = true) : orderedStart n d = d.updCmd n fun c => { c with started := true } := by
  simp [orderedStart, hc, hs, hf]

/-! ## Doorbells -/

section
variable {q : QP} {v : Nat}

/-- The value of a half within the depth is an index as it stands. -/
theorem doorHalf_index (hl : q.log2Depth ≤ 16) (hv : v < 2 ^ q.log2Depth) :
    ¬(v / 2 ^ 16 ≠ 0 ∨ v ≥ 2 ^ q.log2Depth) ∧ v % 2 ^ 16 = v := by
  have hdepth : 2 ^ q.log2Depth ≤ 2 ^ 16 := Nat.pow_le_pow_right (by decide) hl
  have hhigh : v / 2 ^ 16 = 0 := Nat.div_eq_of_lt (by omega)
  exact ⟨by omega, Nat.mod_eq_of_lt (by omega)⟩

/-- A tail that leaves a slot free moves the tail (R87). -/
theorem doorHalf_tail (hl : q.log2Depth ≤ 16) (hv : v < 2 ^ q.log2Depth)
    (hr : (q.sqTail + 2 ^ q.log2Depth - q.sqHead) % 2 ^ q.log2Depth +
      (v + 2 ^ q.log2Depth - q.sqTail) % 2 ^ q.log2Depth < 2 ^ q.log2Depth) :
    doorHalf true v q = some { q with sqTail := v } := by
  obtain ⟨hin, hlow⟩ := doorHalf_index hl hv
  simp only [doorHalf, hlow, if_neg hin, if_true]
  exact if_neg (by omega)

/-- A head that returns no more slots than are in use moves the head (R87). -/
theorem doorHalf_head (hl : q.log2Depth ≤ 16) (hv : v < 2 ^ q.log2Depth) (hu : q.cqUsed < 2 ^ q.log2Depth)
    (hr : (v + 2 ^ q.log2Depth - q.cqHead) % 2 ^ q.log2Depth ≤ q.cqUsed) :
    doorHalf false v q = some { q with
      cqHead := v, cqUsed := q.cqUsed - (v + 2 ^ q.log2Depth - q.cqHead) % 2 ^ q.log2Depth } := by
  obtain ⟨hin, hlow⟩ := doorHalf_index hl hv
  have hfull : ¬((v + 2 ^ q.log2Depth - q.cqHead) % 2 ^ q.log2Depth = 0 ∧ q.cqUsed = 2 ^ q.log2Depth) := by omega
  simp only [doorHalf, hlow, if_neg hin, if_neg hfull, Bool.false_eq_true, if_false]
  exact if_neg (by omega)

/-- A write of the tail's half alone is judged as that half. -/
theorem dbHalves_tail (v : BitVec 32) (q : QP) :
    (dbHalves (.tail v)).foldlM (fun q h => doorHalf h.1 h.2 q) q = doorHalf true v.toNat q := by
  simp [dbHalves]

/-- And one of the head's half alone as that. -/
theorem dbHalves_head (v : BitVec 32) (q : QP) :
    (dbHalves (.head v)).foldlM (fun q h => doorHalf h.1 h.2 q) q = doorHalf false v.toNat q := by
  simp [dbHalves]

/-- An index past the depth is refused (R88). -/
theorem doorHalf_beyond (tail : Bool) (h : 2 ^ q.log2Depth ≤ v) : doorHalf tail v q = none := by
  have hout : v / 2 ^ 16 ≠ 0 ∨ v % 2 ^ 16 ≥ 2 ^ q.log2Depth := by
    by_cases hv : v < 2 ^ 16
    · exact .inr (by rwa [Nat.mod_eq_of_lt hv])
    · exact .inl (by omega)
  exact if_pos hout

end

theorem Fn.answers_of {f : Fn} (h3 : f.d3hot = false) (hf : f.flr = false) : f.answers = true := by
  simp [Fn.answers, h3, hf]

section
variable {fn ix : Nat} {w : DbWrite} {d : Dev} (ha : (d.fn fn).answers = true)
include ha

/-- A doorbell of no queue pair is counted and no more. -/
theorem doorbell_unused (hq : d.qpAt fn ix = none) : doorbell fn ix w d = bump 5 (fn / 256) 6 1 d := by
  simp only [doorbell, ha, hq]
  rfl

variable {n : Nat} {q : QP} (hq : d.qpAt fn ix = some (n, q)) (hd : q.deleter = none)
include hq hd

theorem doorbell_taken {q' : QP} (hw : (dbHalves w).foldlM (fun q h => doorHalf h.1 h.2 q) q = some q') :
    doorbell fn ix w d = (d.updQp n fun _ => q').updFn fn fun f => { f with
      dbSq := Map.set ix q'.sqTail f.dbSq, dbCq := Map.set ix q'.cqHead f.dbCq } := by
  simp only [doorbell, ha, hq, hd, hw]
  rfl

/-- A refused write stops the queue pair (R88). -/
theorem doorbell_refused (hw : (dbHalves w).foldlM (fun q h => doorHalf h.1 h.2 q) q = none) :
    doorbell fn ix w d = stopQp n 1 (dbValue w) 0 (bump 2 n 5 1 d) := by
  simp only [doorbell, ha, hq, hd, hw]
  rfl

end

end Sys2Proof.Machine
end

section
/-! SUPPORT. O31: the statement about entries, fences, doorbells and coalescing timers. -/

namespace Sys2Proof.Machine

/-- Settles O31: each event is its case of the operation it runs. -/
theorem queueEvents : Obligations.QueueEvents := by
  unfold Obligations.QueueEvents
  intro s hlive
  refine ⟨?take, ?ordered, ?coalesce, ?doorbell, ?unused⟩
  case take =>
    intro n fn db q e hq hl hmay hturn
    obtain ⟨c, t, htaken⟩ := entryTaken_eq (n := n) hl e s.dev
    refine ⟨entryTaken n fn q e s.dev, takenCmd n fn q e s.dev, rfl, rfl, rfl, rfl, rfl, rfl, rfl,
      ?_, ?_, ?_, ?_, ?_, ?_, does_of_onDev rfl hlive (takeEntry_host hq hl hturn e)⟩
    all_goals rw [htaken]
    · exact Map.get?_set_self ..
    · exact (Map.get?_upd_self ..).trans (congrArg _ hq)
    · exact turnLeft_succ ..
    · intro p hp
      cases p <;> simp_all [Part.same]
  case ordered => exact fun n c hc hs hf => does_of_onDev rfl hlive (orderedStart_passed hc hs hf)
  case coalesce =>
    intro n fn db q hq hl ha hu hc ht
    exact does_of_onDev rfl hlive ((coalesceExpiry_due hq ha hu hc ht).trans (raiseVector_host hq hl))
  case doorbell =>
    intro fn ix n q v hup h3 hf hq hd hlog depth mark
    have ha := Fn.answers_of h3 hf
    refine ⟨fun hv hr => ?_, fun hv hu hr => ?_, fun hv => ⟨?_, ?_⟩⟩
    · exact does_of_onHost rfl hlive hup
        (doorbell_taken ha hq hd ((dbHalves_tail ..).trans (doorHalf_tail hlog hv hr)))
    · exact does_of_onHost rfl hlive hup
        (doorbell_taken ha hq hd ((dbHalves_head ..).trans (doorHalf_head hlog hv hu hr)))
    · exact does_of_onHost rfl hlive hup
        (doorbell_refused ha hq hd ((dbHalves_tail ..).trans (doorHalf_beyond true hv)))
    · exact does_of_onHost rfl hlive hup
        (doorbell_refused ha hq hd ((dbHalves_head ..).trans (doorHalf_beyond false hv)))
  case unused =>
    intro fn ix w hup h3 hf hq
    exact does_of_onHost rfl hlive hup (doorbell_unused (Fn.answers_of h3 hf) hq)

end Sys2Proof.Machine
end

section
/-! SUPPORT. The registers of a physical function: what a write to each does (R86, R87, R454 to R456, R466). -/

namespace Sys2Proof

/-! ## Bits and maps -/

theorem bitOf_eq_testBit (x i : Nat) : bitOf x i = x.testBit i := by
  rw [Nat.testBit_eq_decide_div_mod_eq]
  rfl

theorem bitOf_toNat {w : Nat} (v : BitVec w) (i : Nat) : bitOf v.toNat i = v.getLsbD i := bitOf_eq_testBit ..

/-- A mask with every bit of a field leaves the field as it is. -/
theorem bits_and {m lo w : Nat} (x : Nat) (h : ∀ i < w, m.testBit (i + lo) = true) :
    bits (x &&& m) lo w = bits x lo w := by
  refine Nat.eq_of_testBit_eq fun i => ?_
  simp only [bits, Nat.testBit_mod_two_pow, Nat.testBit_div_two_pow, Nat.testBit_and]
  by_cases hi : i < w
  · simp [h i hi]
  · simp [hi]

/-- A 4 KiB boundary: the low 12 bits cleared. -/
theorem aligned_clear (v : BitVec 64) : BitVec.ofNat 64 (v.toNat / 2 ^ 12 * 2 ^ 12) = v &&& ~~~0xFFF#64 := by
  refine BitVec.eq_of_getLsbD_eq fun i hi => ?_
  have hlow : (0xFFF#64).getLsbD i = decide (i < 12) := by
    rw [BitVec.getLsbD_ofNat]
    simpa [hi] using Nat.testBit_two_pow_sub_one 12 i
  rw [← Nat.shiftRight_eq_div_pow, ← Nat.shiftLeft_eq, BitVec.getLsbD_ofNat, BitVec.getLsbD_and, BitVec.getLsbD_not,
    hlow, Nat.testBit_shiftLeft, Nat.testBit_shiftRight]
  by_cases h : i < 12
  · simp [h]
  · have hge : 12 ≤ i := by omega
    simp [hi, h, hge, Nat.add_sub_cancel' hge, BitVec.getLsbD]

namespace Map

/-- Of two writes of one key the later stays. -/
theorem set_set {α : Type} (i : Nat) (v w : α) (m : Map α) : set i v (set i w m) = set i v m := by
  induction m with
  | nil => simp [set]
  | cons p m ih =>
    obtain ⟨k, u⟩ := p
    rcases Nat.lt_trichotomy i k with h | rfl | h
    · simp [set, h]
    · simp [set]
    · have h1 : ¬i < k := by omega
      have h2 : ¬i = k := by omega
      simp [set, h1, h2, ih]

end Map

namespace Machine

theorem Dev.fn_updFn_self (n : Nat) (f : Fn → Fn) (d : Dev) : (d.updFn n f).fn n = f (d.fn n) := Map.getD_set_self ..

theorem Dev.updFn_updFn (n : Nat) (f g : Fn → Fn) (d : Dev) :
    (d.updFn n f).updFn n g = d.updFn n fun x => g (f x) := by
  have hself : Map.getD (Map.set n (f (d.fn n)) d.q.fns) n (Fn.reset (n % 256 == 0)) = f (d.fn n) :=
    Map.getD_set_self ..
  simp only [Dev.updFn, Dev.fn, Map.set_set] at hself ⊢
  rw [hself]

/-- What an update makes of a register counts only where the register stands. -/
theorem Dev.updFn_congr {n : Nat} {f g : Fn → Fn} {d : Dev} (h : f (d.fn n) = g (d.fn n)) :
    d.updFn n f = d.updFn n g := by
  unfold Dev.updFn
  rw [h]

/-! ## Interrupt registers (R455) -/

section
variable {fn : Nat} {d : Dev} (hpf : fn % 256 = 0) (ha : (d.fn fn).answers = true)
include hpf ha

/-- A physical function that answers takes the write. -/
theorem regs_open : ¬(fn % 256 ≠ 0 ∨ (!(d.fn fn).answers) = true) := by simp [hpf, ha]

theorem irqCause_clears (v : BitVec 32) :
    irqCause fn v d = d.updFn fn fun f => { f with irqCause := f.irqCause &&& ~~~v } :=
  if_neg (regs_open hpf ha)

/-- Unmasking sends the vector where a cause that was masked is set. -/
theorem irqMask_writes (v : BitVec 32) :
    let d' := d.updFn fn fun f => { f with irqMask := v &&& 0x7F#32 }
    irqMask fn v d = if (d.fn fn).irqCause &&& (d.fn fn).irqMask &&& ~~~(v &&& 0x7F#32) = 0 then d'
      else sendMsix fn ((d.fn fn).irqVec.toNat % 2048) [] d' :=
  if_neg (regs_open hpf ha)

/-! ## The admin queue (R86, R456) -/

/-- Enabling the admin queue of a bound function whose last one is gone makes its queue pair. -/
theorem aqCtrlWrite_enable {v : BitVec 32} {t : Nat} (hoff : (d.fn fn).aqCtrl.getLsbD 0 = false)
    (hon : v.getLsbD 0 = true) (hb : (d.fn fn).bound = some t) (hr : (d.fn fn).aqReady = false)
    (h4 : 4 ≤ bits v.toNat 8 5) (h16 : bits v.toNat 8 5 ≤ 16) (hroom : d.q.qps.length < 32768) :
    aqCtrlWrite fn v d = ((addQp (QP.fresh (.host fn 0) true t (bits v.toNat 8 5) 255 (bits v.toNat 16 11) 1 0
        (d.fn fn).aqSq.toNat (d.fn fn).aqCq.toNat (d.fn fn).aqExt.toNat)
      (d.updFn fn fun f => { f with aqCtrl := (v &&& 0x07FF1F00#32) ||| 1#32 })).2.updFn fn fun f => { f with
        aqReady := true, aqFault := false, dbSq := Map.set 0 0 f.dbSq, dbCq := Map.set 0 0 f.dbCq }) := by
  have hwas : bitOf (d.fn fn).aqCtrl.toNat 0 = false := (bitOf_toNat ..).trans hoff
  have hnow : bitOf v.toNat 0 = true := (bitOf_toNat ..).trans hon
  have hopen : (d.fn fn).aqOpen = true := by simp [Fn.aqOpen, hwas, hr]
  have hdepth : bits (v &&& 0x07FF1F00#32).toNat 8 5 = bits v.toNat 8 5 := bits_and _ (by decide)
  have hvec : bits (v &&& 0x07FF1F00#32).toNat 16 11 = bits v.toNat 16 11 := bits_and _ (by decide)
  have hone : v &&& 1#32 = 1#32 := by
    rw [BitVec.and_one_eq_setWidth_ofBool_getLsbD, hon]
    rfl
  have hfits : 4 ≤ bits v.toNat 8 5 ∧ bits v.toNat 8 5 ≤ 16 ∧ (!(d.fn fn).aqReady) = true ∧ d.q.qps.length < 32768 :=
    ⟨h4, h16, by simp [hr], hroom⟩
  simp only [aqCtrlWrite, if_neg (regs_open hpf ha), hwas, hnow, hopen, if_true, hdepth, hvec, hone, hb]
  exact if_pos hfits

/-- Disabling it aborts its commands; the queue pair goes once they are gone. -/
theorem aqCtrlWrite_disable {v : BitVec 32} {n : Nat} {q : QP} (hon : (d.fn fn).aqCtrl.getLsbD 0 = true)
    (hoff : v.getLsbD 0 = false) (hq : d.qpAt fn 0 = some (n, q)) :
    aqCtrlWrite fn v d = reapQps (abortQp n ((d.updFn fn fun f => { f with
      aqCtrl := f.aqCtrl &&& 0x07FF1F00#32, aqFault := false }).updQp n fun q => { q with deleter := some 0 })) := by
  have hwas : bitOf (d.fn fn).aqCtrl.toNat 0 = true := (bitOf_toNat ..).trans hon
  have hnow : bitOf v.toNat 0 = false := (bitOf_toNat ..).trans hoff
  have hshut : (d.fn fn).aqOpen = false := by simp [Fn.aqOpen, hwas]
  have hzero : v &&& 1#32 = 0#32 := by
    rw [BitVec.and_one_eq_setWidth_ofBool_getLsbD, hoff]
    rfl
  have hat (f : Fn → Fn) : (d.updFn fn f).qpAt fn 0 = some (n, q) := hq
  simp only [aqCtrlWrite, if_neg (regs_open hpf ha), hwas, hnow, hshut, hzero, BitVec.or_zero, Dev.updFn_updFn, hat]
  exact congrArg (fun e => reapQps (abortQp n (e.updQp n fun q => { q with deleter := some 0 })))
    (Dev.updFn_congr rfl)

/-! ## BAR0 (R454) -/

/-- The base of the admin queue's entries takes a write while the queue is off. -/
theorem bar0Write_aqSq (hoff : (d.fn fn).aqCtrl.getLsbD 0 = false) (hr : (d.fn fn).aqReady = false) (v : BitVec 64) :
    bar0Write fn 0x10000 8 v d = d.updFn fn fun f => { f with aqSq := v &&& ~~~0xFFF#64 } := by
  have hopen : (d.fn fn).aqOpen = true := by simp [Fn.aqOpen, (bitOf_toNat ..).trans hoff, hr]
  have hwhole : bar0Write fn 0x10000 8 v d = d.updFn fn fun f => { f with aqSq := half64 f.aqSq false 8 v 12 } := by
    simp [bar0Write, ha, hpf, hopen]
  have hclear (r : BitVec 64) : half64 r false 8 v 12 = v &&& ~~~0xFFF#64 := by
    simp only [half64, if_true]
    exact aligned_clear v
  simp only [hwhole, hclear]

theorem bar0Write_irqMask (v : BitVec 64) : bar0Write fn 0x2004 4 v d = irqMask fn (v.setWidth 32) d := by
  have hword : BitVec.ofNat 32 (v.toNat % 2 ^ 32) = v.setWidth 32 := BitVec.eq_of_toNat_eq (by simp)
  rw [← hword]
  simp [bar0Write, bar0Dword, ha, hpf]

end

/-- An 8-byte write of a doorbell writes both halves. -/
theorem bar0Write_doorbell {fn ix : Nat} {d : Dev} (ha : (d.fn fn).answers = true) (hix : ix < 8192) (v : BitVec 64) :
    bar0Write fn (0x100000 + 8 * ix) 8 v d = doorbell fn ix (.both v) d := by
  have hplace : (0x100000 + 8 * ix) / 8 * 8 = 0x100000 + 8 * ix := by omega
  have hmod : (0x100000 + 8 * ix) % 8 = 0 := by omega
  have hrange : 0x100000 + 8 * ix < 0x110000 := by omega
  have hbase (b : Nat) (hb : b < 0x100000) : 0x100000 + 8 * ix ≠ b := by omega
  simp [bar0Write, ha, hplace, hmod, hrange, hbase]

/-! ## Bus Master Enable (R466) -/

/-- The Command register of a physical function with a value written over an old one. -/
def commandValue (old : Nat) (v : BitVec 64) : Nat := (old ^^^ (old &&& 0x546)) ||| (v.toNat &&& 0x546)

/-- A function whose Command register is written. -/
def commandWritten (v : BitVec 64) (f : Fn) : Fn :=
  { f with cfg := Map.set 4 (commandValue (f.cfg.getD 4 0) v) f.cfg }

theorem commandValue_busMaster (old : Nat) {v : BitVec 64} (hv : v.getLsbD 2 = true) :
    bitOf (commandValue old v) 2 = true := by
  have h2 : v.toNat.testBit 2 = true := hv
  have hm : Nat.testBit 0x546 2 = true := by decide
  simp [commandValue, bitOf_eq_testBit, h2, hm]

theorem cfgEffect_busMaster {fn new : Nat} {d : Dev} (hn : bitOf new 2 = true) (hb : (d.fn fn).bme = false)
    (old raw : Nat) : cfgEffect fn 4 old new raw true d = bmeSet fn d := by
  simp [cfgEffect, hn, hb]

theorem cfgWrite_busMaster {fn : Nat} {d : Dev} (hpf : fn % 256 = 0) (hf : (d.fn fn).flr = false) (hfn : fn < 1024)
    {v : BitVec 64} (hv : v.getLsbD 2 = true) (hb : (d.fn fn).bme = false) :
    cfgWrite fn 4 2 v.toNat d = bmeSet fn (d.updFn fn (commandWritten v)) := by
  have hin : ¬(fn ≥ 1024 ∨ 4 ≥ 4096 ∨ (!decide (2 = 1 ∨ 2 = 2 ∨ 2 = 4)) = true ∨ 4 % 2 ≠ 0 ∨ (d.fn fn).flr = true) := by
    simp [hf, hfn]
  have hmask : cfgMask (fn % 256 == 0) (4 / 4 * 4) &&& (2 ^ (8 * 2) - 1) * 2 ^ (8 * (4 % 4)) = 0x546 := by
    rw [hpf]
    rfl
  have hraw : v.toNat % 2 ^ (8 * 2) * 2 ^ (8 * (4 % 4)) &&& 0x546 = v.toNat &&& 0x546 := by
    rw [Nat.mod_self, Nat.mul_zero, Nat.pow_zero, Nat.mul_one, ← Nat.and_two_pow_sub_one_eq_mod, Nat.and_assoc]
    rfl
  have hregs : d.updFn fn (fun f => { f with cfg := Map.set 4 (commandValue ((d.fn fn).cfg.getD 4 0) v) f.cfg }) =
      d.updFn fn (commandWritten v) := Dev.updFn_congr rfl
  have hoff : ((d.updFn fn (commandWritten v)).fn fn).bme = false := by rw [Dev.fn_updFn_self]; exact hb
  rw [cfgWrite, if_neg hin]
  simp only [hmask, hraw]
  rw [← hregs] at hoff ⊢
  exact cfgEffect_busMaster (commandValue_busMaster _ hv) hoff _ _

end Machine

end Sys2Proof
end

section
/-! SUPPORT. O32: the statement about the registers of a physical function. -/

namespace Sys2Proof.Machine

/-- Settles O32: each write is its register's case. -/
theorem functionRegisters : Obligations.FunctionRegisters := by
  unfold Obligations.FunctionRegisters
  intro s fn hlive hup hpf h3 hf f d
  have ha : (d.fn fn).answers = true := Fn.answers_of h3 hf
  refine ⟨?cause, ?mask, ?enable, ?disable, ?base, ?maskReg, ?doorbell, ?config⟩
  case cause => exact fun v => does_of_onHost rfl hlive hup (irqCause_clears hpf ha v)
  case mask =>
    exact fun v => ⟨fun h => does_of_onHost rfl hlive hup ((irqMask_writes hpf ha v).trans (if_pos h)),
      fun h => does_of_onHost rfl hlive hup ((irqMask_writes hpf ha v).trans (if_neg h))⟩
  case enable =>
    intro v t hoff hon hb hr log2 h4 h16 hroom
    refine does_of_onHost rfl hlive hup ((if_pos ?_).trans
      (aqCtrlWrite_enable hpf ha hoff hon hb hr h4 h16 hroom))
    rw [bitOf_toNat, bitOf_toNat, hon, hoff]
    rfl
  case disable =>
    intro v n q hon hoff hq
    refine does_of_onHost rfl hlive hup ((if_pos ?_).trans (aqCtrlWrite_disable hpf ha hon hoff hq))
    rw [bitOf_toNat, bitOf_toNat, hon, hoff]
    rfl
  case base => exact fun v hoff hr => does_of_onHost rfl hlive hup (bar0Write_aqSq hpf ha hoff hr v)
  case maskReg => exact fun v => does_of_onHost rfl hlive hup (bar0Write_irqMask hpf ha v)
  case doorbell => exact fun v ix hix => does_of_onHost rfl hlive hup (bar0Write_doorbell ha hix v)
  case config => exact fun v hfn hv hb => does_of_onHost rfl hlive hup (cfgWrite_busMaster hpf hf hfn hv hb)

end Sys2Proof.Machine
end

section
/-! SUPPORT. The completion of a command of a host's queue pair: what is written, in which order, and what becomes of
the queue pair (R93, R97, R98, R469). -/

namespace Sys2Proof.Machine

/-! ## What is written -/

/-- Writes to a host put out in order with a function's data attributes. -/
theorem foldl_hostWrite (fn : Nat) (l : List Wr) (d : Dev) :
    l.foldl (fun d w => emit (.hostWrite fn w.addr (d.dataAttr fn) w.data) d) d =
      { d with out := d.out ++ l.map fun w => .hostWrite fn w.addr (d.dataAttr fn) w.data } := by
  induction l generalizing d with
  | nil => simp
  | cons w l ih =>
    rw [List.foldl_cons, ih]
    simp [emit, Dev.dataAttr, Dev.fn]

/-- The write of a completion's extended-status record, where it has one and the queue pair a place for it (R109). -/
def extWrites (slot : Nat) (q : QP) (cmd : Cmd) (c : Cpl) : List Wr :=
  match c.ext with
  | some e =>
    if c.ext.isSome && q.extBase != 0 then [⟨q.extBase + 64 * slot, e.bytes c.status.code cmd.tag⟩] else []
  | none => []

theorem extWrites_isEmpty (slot : Nat) (q : QP) (cmd : Cmd) (c : Cpl) :
    (!(extWrites slot q cmd c).isEmpty) = (c.ext.isSome && q.extBase != 0) := by
  unfold extWrites
  cases hx : c.ext with
  | none => rfl
  | some e => cases hb : (q.extBase != 0) <;> simp_all

/-- The device once a completion's data, its record and the 32 bytes of its entry are written, the first four bytes
last. -/
def entryWritten (fn slot : Nat) (q : QP) (cmd : Cmd) (c : Cpl) (d : Dev) : Dev :=
  let sent := c.data ++ extWrites slot q cmd c
  let d' := bump 5 (fn / 256) 1 ((sent.map fun w => w.data.length).sum + 32)
    (sent.foldl (fun d w => emit (.hostWrite fn w.addr (d.dataAttr fn) w.data) d) d)
  emit (.hostWrite fn (q.cqBase + 32 * q.cqPos) .plain
      (cqeHead cmd.tag c q.phase (c.ext.isSome && q.extBase != 0) d.cplDegraded))
    (emit (.hostWrite fn (q.cqBase + 32 * q.cqPos + 4) .plain (cqeTail q.sqHead c (d.now % 2 ^ 32))) d')

/-- What that puts out. -/
def entryWrites (fn slot : Nat) (q : QP) (cmd : Cmd) (c : Cpl) (d : Dev) : List Out :=
  ((c.data ++ extWrites slot q cmd c).map fun w => .hostWrite fn w.addr (d.dataAttr fn) w.data) ++
    [.hostWrite fn (q.cqBase + 32 * q.cqPos + 4) .plain (cqeTail q.sqHead c (d.now % 2 ^ 32)),
     .hostWrite fn (q.cqBase + 32 * q.cqPos) .plain
       (cqeHead cmd.tag c q.phase (c.ext.isSome && q.extBase != 0) d.cplDegraded)]

theorem entryWritten_out (fn slot : Nat) (q : QP) (cmd : Cmd) (c : Cpl) (d : Dev) :
    (entryWritten fn slot q cmd c d).out = d.out ++ entryWrites fn slot q cmd c d := by
  simp only [entryWritten, foldl_hostWrite, entryWrites]
  simp

/-- Writing an entry leaves the queue pairs and the time alone. -/
theorem entryWritten_reads (fn slot qp : Nat) (q : QP) (cmd : Cmd) (c : Cpl) (d : Dev) :
    (entryWritten fn slot q cmd c d).qp? qp = d.qp? qp ∧ (entryWritten fn slot q cmd c d).now = d.now := by
  simp [entryWritten, foldl_hostWrite, Dev.qp?, Dev.now]

/-- The device once the counters of a queue pair and the queue pair show one more entry. -/
def entryCounted (qp : Nat) (q : QP) (c : Cpl) (d : Dev) : Dev :=
  let d' := bump 2 qp 1 1 (bump 2 qp 2 (b2n !c.status.good) (bump 2 qp 3 (b2n (c.ext.isSome && q.extBase != 0)) d))
  d'.updQp qp (QP.afterCpl · d'.now)

theorem entryCounted_finish (qp : Nat) (q : QP) (c : Cpl) (d : Dev) : FinishFrame d (entryCounted qp q c d) :=
  (((bump_finish ..).trans (bump_finish ..)).trans (bump_finish ..)).trans (updQp_finish ..)

/-- Whether a queue pair's vector is due after one more entry (R93). -/
def QP.vectorDue (q : QP) (cmd : Cmd) (now : Nat) : Bool :=
  bitOf (cmd.entry.fld 1 0 8) 1 || (q.count != 0 && decide ((q.afterCpl now).unsig ≥ q.count))

/-- A completion over a host's queue pair: the entry is written and counted, and the vector raised where that is due. -/
theorem writeCpl_host {qp slot fn db : Nat} {q : QP} (hl : q.loc = .host fn db) (cmd : Cmd) (c : Cpl) (d : Dev) :
    let e := entryCounted qp q c (entryWritten fn slot q cmd c d)
    writeCpl qp slot q cmd c d = if q.vectorDue cmd e.now then raiseVector qp e else e := by
  unfold writeCpl
  simp only [hl]
  rfl

/-! ## The queue pair -/

theorem qp?_updQp_self (n : Nat) (f : QP → QP) (d : Dev) : (d.updQp n f).qp? n = (d.qp? n).map f :=
  Map.get?_upd_self ..

/-- A message of a queue pair leaves its ring as it is: position and phase. -/
theorem sendMsix_ring {fn vec qp : Nat} {d : Dev} {q : QP} (hq : d.qp? qp = some q) :
    ∃ q', (sendMsix fn vec [qp] d).qp? qp = some q' ∧ q'.cqPos = q.cqPos ∧ q'.phase = q.phase := by
  unfold sendMsix
  split
  · exact ⟨{ q with irqWait := true }, by simp [Dev.updQps, qp?_updQp_self, hq], rfl, rfl⟩
  · split
    · exact ⟨q, by simpa using hq, rfl, rfl⟩
    · exact ⟨q, hq, rfl, rfl⟩

theorem raiseVector_ring {qp : Nat} {d : Dev} {q : QP} (hq : d.qp? qp = some q) :
    ∃ q', (raiseVector qp d).qp? qp = some q' ∧ q'.cqPos = q.cqPos ∧ q'.phase = q.phase := by
  unfold raiseVector
  rw [hq]
  dsimp only
  split
  · have hsignalled : (d.updQp qp fun q => { q with unsig := 0 }).qp? qp = some { q with unsig := 0 } := by
      rw [qp?_updQp_self, hq]
      rfl
    obtain ⟨q', hq', hpos, hphase⟩ := sendMsix_ring hsignalled
    exact ⟨q', hq', hpos, hphase⟩
  · exact ⟨q, hq, rfl, rfl⟩

/-- The next position of a ring: one on, around its depth. -/
theorem QP.afterCpl_cqPos {q : QP} (h : q.cqPos < 2 ^ q.log2Depth) (now : Nat) :
    (q.afterCpl now).cqPos = (q.cqPos + 1) % 2 ^ q.log2Depth := by
  by_cases hw : q.cqPos + 1 = 2 ^ q.log2Depth
  · simp [QP.afterCpl, hw]
  · simp [QP.afterCpl, hw, Nat.mod_eq_of_lt (show q.cqPos + 1 < 2 ^ q.log2Depth by omega)]

/-- A completion moves the ring of its host's queue pair by one entry, the phase inverting on a wrap. -/
theorem writeCpl_ring {qp slot fn db : Nat} {q : QP} {d : Dev} (hl : q.loc = .host fn db) (hq : d.qp? qp = some q)
    (hp : q.cqPos < 2 ^ q.log2Depth) (cmd : Cmd) (c : Cpl) :
    ∃ q', (writeCpl qp slot q cmd c d).qp? qp = some q' ∧ q'.cqPos = (q.cqPos + 1) % 2 ^ q.log2Depth ∧
      q'.phase = if q.cqPos + 1 = 2 ^ q.log2Depth then !q.phase else q.phase := by
  have hcounted : (entryCounted qp q c (entryWritten fn slot q cmd c d)).qp? qp = some (q.afterCpl d.now) := by
    obtain ⟨hqp, hnow⟩ := entryWritten_reads fn slot qp q cmd c d
    simp [entryCounted, qp?_updQp_self, hqp, hnow, hq]
  have hpos := QP.afterCpl_cqPos hp d.now
  rw [writeCpl_host hl]
  split
  · obtain ⟨q', hq', hpos', hphase'⟩ := raiseVector_ring hcounted
    exact ⟨q', hq', hpos'.trans hpos, hphase'⟩
  · exact ⟨_, hcounted, hpos, rfl⟩

theorem writeCpl_out {qp slot fn db : Nat} {q : QP} (hl : q.loc = .host fn db) (cmd : Cmd) (c : Cpl) (d : Dev) :
    (entryWritten fn slot q cmd c d).out <+: (writeCpl qp slot q cmd c d).out := by
  have hcounted := entryCounted_finish qp q c (entryWritten fn slot q cmd c d)
  rw [writeCpl_host hl]
  split
  · exact (hcounted.trans (raiseVector_finish ..)).out
  · exact hcounted.out

/-- A command of a host's queue pair ends with its completion written, where its function may write. -/
theorem finish1_host {n qp slot fn db : Nat} {cmd : Cmd} {q : QP} {d : Dev} (hc : d.cmd? n = some cmd)
    (ho : cmd.origin = .queue qp slot) (hq : d.qp? qp = some q) (hl : q.loc = .host fn db) (hk : q.discard = false)
    (hw : (d.fn fn).mayWrite = true) (c : Cpl) :
    ∃ t, finish1 n c d = (writeCpl qp slot q cmd c (d.updInteg fun i => { i with trace := t })).dropCmd n := by
  obtain ⟨t, ht⟩ := trace_spec 1 2 (some cmd.tenant) (qp + 2 ^ 16 * cmd.tag)
    (leBytes 1 (cmd.entry.fld 0 0 8) ++ leBytes 1 c.status.code ++ leBytes 2 (cmd.entry.fld 4 0 12) ++ zeros 4 ++
      leBytes 8 (cmd.entry.fld 8 0 64)) d
  refine ⟨t, ?_⟩
  rw [← ht]
  simp only [finish1, hc, ho, hq, hl, hk, hw]
  rfl

end Sys2Proof.Machine
end

section
/-! SUPPORT. O58: the statement about the bytes of a completion entry and their order. -/

namespace Sys2Proof.Machine

/-- Settles O58: the entry's writes come first of what ending the command puts out, and its ring moves by one. -/
theorem completionEntry : Obligations.CompletionEntry := by
  unfold Obligations.CompletionEntry
  intro d n qp slot fn db c q r hc ho hq hl hp hk hw relaxed strict ext base bit
  obtain ⟨t, hfin⟩ := finish1_host hc ho hq hl hk hw r
  refine ⟨?out, ?ring⟩
  case out =>
    have hbit (b : Bool) (k : Nat) : bit b k = 2 ^ k * b2n b := by cases b <;> simp [bit, b2n]
    have hattr : d.dataAttr fn = relaxed := by simp [Dev.dataAttr, bitOf_eq_testBit, relaxed]
    have hext : ext = (extWrites slot q c r).map fun w => .hostWrite fn w.addr relaxed w.data := by
      cases hx : r.ext <;> simp [ext, extWrites, hx, apply_ite (List.map _)]
    have hflag : (!ext.isEmpty) = (r.ext.isSome && q.extBase != 0) := by
      rw [hext, List.isEmpty_map, extWrites_isEmpty]
    have hwrites : entryWrites fn slot q c r d = (r.data.map fun w => .hostWrite fn w.addr relaxed w.data) ++ ext ++
        [.hostWrite fn (base + 4) strict
          (leBytes 4 q.sqHead ++ leBytes 16 r.results.toNat ++ leBytes 4 r.errId ++ leBytes 4 (d.now % 2 ^ 32)),
         .hostWrite fn base strict (leBytes 2 c.tag ++ leBytes 1 r.status.code ++
          leBytes 1 (bit q.phase 0 + bit (!ext.isEmpty) 1 + bit (d.pwr.sable || d.degraded) 2))] := by
      simp only [hbit, hflag, Nat.pow_zero, Nat.one_mul, Nat.pow_one]
      rw [entryWrites, hattr, List.map_append, ← hext]
      rfl
    have hwritten := writeCpl_out (qp := qp) (slot := slot) hl c r (d.updInteg fun i => { i with trace := t })
    have hended := ((reapAborts_finish (finish1 n r d)).trans (reapQps_finish _)).trans (reapQps_finish _)
    rw [entryWritten_out] at hwritten
    rw [List.append_assoc, List.append_assoc, ← List.append_assoc (r.data.map _), ← hwrites]
    refine List.IsPrefix.trans ?_ hended.out
    rw [hfin]
    exact hwritten
  case ring =>
    obtain ⟨q', hq', hpos, hphase⟩ := writeCpl_ring (slot := slot)
      (d := d.updInteg fun i => { i with trace := t }) hl hq hp c r
    rw [hfin]
    exact ⟨q', hq', hpos, hphase, Map.get?_del_self ..⟩

end Sys2Proof.Machine
end

section
/-! SUPPORT. Messages of the link, signals, commands and command-channel data, case by case (R101, R314, R315, R428,
R433, R436, R437, R439, R440). -/

namespace Sys2Proof.Machine

/-- A row of messages of one code has the effect that its port gives a whole message. -/
theorem does_of_msgRow {i : Instr} {s : State} {code port : Nat} {m : Bytes} {d : Dev}
    (he : exec i s = onDev (msgRow code port m) s) (hl : s.live) (hm : msgLen m = some m.length)
    (hc : fld m 0 0 8 = code) (hd : portMsg port m s.dev = d) : Does i s d :=
  does_of_onDev he hl ((msgRow_whole hm hc).trans hd)

theorem Dev.port_updPort_self (n : Nat) (f : Port → Port) (d : Dev) : (d.updPort n f).port n = f (d.port n) :=
  Map.getD_set_self ..

/-- A message noted leaves a port's tenants and reads alone. -/
theorem noteRx_port (port : Nat) (m : Bytes) (d : Dev) :
    ((noteRx port m d).port port).tenants = (d.port port).tenants ∧
      ((noteRx port m d).port port).reads = (d.port port).reads := by
  simp [noteRx, Dev.port_updPort_self]

section
variable {port : Nat} {m : Bytes} {d : Dev} (hact : (d.port port).st = .active)
include hact

/-- A `CREDIT` needs no binding (R439). -/
theorem portMsg_credit (hc : fld m 0 0 8 = 0xB) : portMsg port m d = takeCredit port m (noteRx port m d) := by
  simp [portMsg, hact, hc]

/-- Any other message of the partner bound is received. -/
theorem portMsg_bound (hb : (d.port port).bound = true) (hi : (d.port port).idFail = false)
    (hc : fld m 0 0 8 ≠ 0xB) : portMsg port m d = recvMsg port m d := by
  simp [portMsg, hact, hc, hb, hi]

end

/-! ## Signals (R314, R315) -/

section
variable {port : Nat} {m : Bytes} {d : Dev} (ht : (d.port port).tenants.contains (fld m 2 0 10) = true)
include ht

/-- A signal with nothing to wait for is applied. -/
theorem signalMsg_applied (hw : (noteRx port m d).sigBlockers port (fld m 2 0 10) = []) :
    signalMsg port m d = applySigMsg port m (noteRx port m d) := by
  simp only [signalMsg, noteRx_port, ht, hw]
  rfl

/-- Another is held behind what its tenant sent before it. -/
theorem signalMsg_held {w : Nat × Nat × Nat} {l : List (Nat × Nat × Nat)}
    (hw : (noteRx port m d).sigBlockers port (fld m 2 0 10) = w :: l) :
    signalMsg port m d = (noteRx port m d).updStrs fun x => { x with
      sigs := x.sigs ++ [{ port := port, tenant := fld m 2 0 10, data := m, waits := w :: l }] } := by
  simp only [signalMsg, noteRx_port, ht, hw]
  rfl

end

/-! ## Commands (R101) -/

/-- A `CMD` of a near-tier queue pair of the port: taken into the ring, or answered at once where the ring is full. -/
theorem cmdMsg_near {port : Nat} {m : Bytes} {d : Dev} {q : QP} (hq : d.qp? (fld m 2 0 15) = some q)
    (hl : q.loc = .near port) (hk : q.discard = false) (hd : q.deleter = none)
    (ht : (d.port port).tenants.contains q.tenant = true) :
    cmdMsg port m d = if q.untaken ≥ 2 ^ q.log2Depth - 1 then
        cmdFull port (fld m 2 0 15) q (Entry.ofBytes (m.drop 16)) (noteRx port m d)
      else ringUse (fld m 2 0 15) true ((noteRx port m d).updQp (fld m 2 0 15) fun q => { q with
        ring := Map.set q.sqTail (Entry.ofBytes (m.drop 16)) q.ring, sqTail := (q.sqTail + 1) % 2 ^ q.log2Depth }) := by
  have hqp : (noteRx port m d).qp? (fld m 2 0 15) = some q := hq
  have hten : q.tenant ∈ (d.port port).tenants := List.contains_iff_mem.mp ht
  simp [cmdMsg, hqp, hl, hk, hd, noteRx_port, hten]

/-! ## The command channel (R436, R437) -/

/-- A message of data on the command channel holds the data that its header counts. -/
theorem cmdchData_length {m : Bytes} (hm : msgLen m = some m.length) (hc : fld m 0 0 8 = 2) :
    ((m.drop 32).take (fld m 0xA 0 16)).length = fld m 0xA 0 16 := by
  have hlen : 32 + fld m 0xA 0 16 + 16 * fld m 1 2 1 = m.length := by simpa [msgLen, hc] using hm
  rw [List.length_take, List.length_drop]
  omega

/-- A read of one request that is answered whole goes on with its data. -/
theorem cmdchTake_whole {port tag : Nat} {r : CmdRead} {b : Bytes} {d : Dev} (hr : r.len ≤ cmdReadMax)
    (hg : r.got = []) (hb : b.length = r.len) :
    cmdchTake port tag r b true d = contRead r.cmd b (endCmdRead port tag d) := by
  have hstop : min r.len cmdReadMax = b.length := by omega
  have hall : b.take r.len = b := List.take_of_length_le (by omega)
  simp [cmdchTake, hg, hstop, hb, hall]

/-- Good data of an outstanding read is accounted to its command's label and taken in. -/
theorem cmdchData_good {port : Nat} {m : Bytes} {d : Dev} {r : CmdRead} {k : Cmd} (htag : fld m 8 0 16 < 256)
    (hr : (d.port port).reads.get? (fld m 8 0 16) = some r) (hs : fld m 2 0 8 = 0) (hk : d.cmd? r.cmd = some k) :
    cmdchData port m d = cmdchTake port (fld m 8 0 16) r ((m.drop 32).take (fld m 0xA 0 16)) (fld m 1 1 1 == 1)
      (grantBytes (d.label k.entry.qos) 2 port (fld m 0xA 0 16) (noteRx port m d)) := by
  have hcmd : (noteRx port m d).cmd? r.cmd = some k := hk
  have hlabel : (noteRx port m d).label k.entry.qos = d.label k.entry.qos := rfl
  simp [cmdchData, noteRx_port, Nat.not_le.mpr htag, hr, hs, hcmd, hlabel]

theorem contRead_body {n : Nat} {c : Cmd} {body : Body} {d : Dev} (hc : d.cmd? n = some c)
    (hb : bodyOf c.entry.op = some body) (b : Bytes) : contRead n b d = runBody body n (c.got ++ [b]) d := by
  simp only [contRead, hc, hb]

/-- A read not answered in its time fails. -/
theorem cmdchTimeout_due {port tag : Nat} {d : Dev} {r : CmdRead} (htag : tag < 256)
    (hr : (d.port port).reads.get? tag = some r) (ht : r.since + 2 ^ 18 ≤ d.now) :
    cmdchTimeout port tag d = failRead r.cmd .timeout id (endCmdRead port tag (bump 4 port 16 1 d)) := by
  simp only [cmdchTimeout, hr]
  exact if_pos ⟨htag, ht⟩

/-! ## Messages by code -/

theorem recvMsg_signal {port : Nat} {m : Bytes} (h : fld m 0 0 8 = 8) (d : Dev) :
    recvMsg port m d = signalMsg port m d := by
  simp [recvMsg, h]

theorem recvMsg_cmd {port : Nat} {m : Bytes} (h : fld m 0 0 8 = 9) (d : Dev) : recvMsg port m d = cmdMsg port m d := by
  simp [recvMsg, h]

theorem recvMsg_cmdch {port : Nat} {m : Bytes} (h : fld m 0 0 8 = 2) (hs : fld m 4 0 32 = 0xFFFFFFFF) (d : Dev) :
    recvMsg port m d = cmdchData port m d := by
  simp [recvMsg, h, hs]

end Sys2Proof.Machine
end

section
/-! SUPPORT. O42: the statement about the messages of the link, of signals and of commands. -/

namespace Sys2Proof.Machine

/-- Settles O42: each message is its case of what its port receives. -/
theorem portMessages : Obligations.PortMessages := by
  unfold Obligations.PortMessages
  intro s port m hlive hm hact d p code d1 given
  refine ⟨?init, ?returned, fun hb hi => ⟨?signal, ?cmd, ?data⟩, ?timeout⟩
  case init =>
    exact fun hc h => does_of_msgRow rfl hlive hm hc ((portMsg_credit hact hc).trans (if_pos h))
  case returned =>
    exact fun hc h => does_of_msgRow rfl hlive hm hc ((portMsg_credit hact hc).trans (if_neg (by simp [h])))
  case signal =>
    intro hc ht
    have hrecv := (portMsg_bound hact hb hi (m := m) (by omega)).trans (recvMsg_signal hc d)
    exact ⟨fun hw => does_of_msgRow rfl hlive hm hc (hrecv.trans (signalMsg_applied ht hw)),
      fun w l hw => does_of_msgRow rfl hlive hm hc (hrecv.trans (signalMsg_held ht hw))⟩
  case cmd =>
    intro q hc hq hl hk hd ht
    have hrecv := (portMsg_bound hact hb hi (m := m) (by omega)).trans
      ((recvMsg_cmd hc d).trans (cmdMsg_near hq hl hk hd ht))
    exact ⟨fun hroom => does_of_msgRow rfl hlive hm hc (hrecv.trans (if_neg (by omega))),
      fun hfull => does_of_msgRow rfl hlive hm hc (hrecv.trans (if_pos hfull))⟩
  case data =>
    intro r k c body hc hs htag hr hst hlast hmax hgot hlen hk d2 hcmd hbody
    have hdata := cmdchData_length hm hc
    rw [hlen] at hdata
    have hgood := cmdchData_good htag hr hst hk
    rw [hlen, hlast] at hgood
    have hrecv := (portMsg_bound hact hb hi (m := m) (by omega)).trans (recvMsg_cmdch hc hs d)
    exact does_of_msgRow rfl hlive hm hc (hrecv.trans (hgood.trans ((cmdchTake_whole hmax hgot hdata).trans
      (contRead_body hcmd hbody _))))
  case timeout =>
    exact fun tag r htag hr ht => does_of_onDev rfl hlive (cmdchTimeout_due htag hr ht)

end Sys2Proof.Machine
end

section
/-! SUPPORT. What the ends of coding, of stripes, of far reads and of expansions do, case by case (R117, R118, R130, R131,
R151, R152, R192, R194, R392, R397). -/

namespace Sys2Proof.Machine

/-! ## Shared facts -/

/-- With no fault injected no test finds one. -/
theorem inject?_none {d : Dev} (h : d.integ.injects = []) (f : Inject → Bool) : d.inject? f = none := by
  simp [Dev.inject?, h]

theorem Touched.now_eq {d e : Dev} (h : Touched d e) : e.now = d.now := by
  simp [Dev.now, h.keeps]

theorem Touched.group_eq {d e : Dev} (h : Touched d e) (g : Nat) : e.group g = d.group g := by
  simp [Dev.group, h.keeps]

theorem Touched.injects_eq {d e : Dev} (h : Touched d e) : e.integ.injects = d.integ.injects := by
  simp [h.keeps]

theorem Touched.unreadable_eq {d e : Dev} (h : Touched d e) (s : Stored) : e.unreadable s = d.unreadable s := by
  simp [h.keeps]

/-- A drain begins or ends: the controller, its count, its trace and what its writes wait for. -/
theorem drainCtrl_touched (n : Nat) (d : Dev) : Touched d (drainCtrl n d) := by
  unfold drainCtrl
  dsimp only
  have begun {e : Dev} (h : Touched d e) :
      Touched d (traceCtl 4 n 0 (bumpCtl n 4 1 (e.updCtrl n fun c => { c with drain := true }))) :=
    h.trans ((updCtrl_touched ..).trans ((bump_touched ..).trans (trace_touched ..)))
  exact ite_touched (begun (ite_touched (updQos_touched ..) (.refl d)))
    (ite_touched ((updCtrl_touched ..).trans (updQos_touched ..)) (.refl d))

theorem drainUpdate_touched (g : Nat) (d : Dev) : Touched d (drainUpdate g d) :=
  foldl_touched (fun d ch => drainCtrl_touched ch d) _ d

/-- A record of class 1 that is neither of a damaged tile nor of a lost stack reaches the log and the trace alone. -/
theorem raiseRec_quiet {r : ErrRec} (hc : r.cls = 1) (hd : r.kind ≠ 0x06) (hl : r.kind ≠ 0x09) (d : Dev) :
    ∃ k l x, (raiseRec r d).2 = d.updInteg fun i => { i with lastId := k, log := l, trace := x } := by
  have hcls : ¬r.cls ≥ 2 := by omega
  have hkind : ¬((r.kind = 0x06 || r.kind = 0x09) && r.tenValid) = true := by simp [hd, hl]
  simp only [raiseRec, if_neg hcls, if_neg hkind]
  have traced (t : Option Nat) (ident : Nat) (b : Bytes) (f : Integ → Integ) :
      ∃ x, trace 0 1 t ident b (d.updInteg f) = d.updInteg fun i => { f i with trace := x } :=
    (trace_spec 0 1 t ident b (d.updInteg f)).imp fun _ hx => hx
  generalize List.drop _ _ = l
  exact ⟨_, l, _, (traced ..).choose_spec⟩

/-- Such a record raised once values have been drawn for it. -/
theorem raiseRec_keepsBut {r : ErrRec} (hc : r.cls = 1) (hd : r.kind ≠ 0x06) (hl : r.kind ≠ 0x09) {d e : Dev} {m : Nat}
    (he : e = { d with freeN := m }) : KeepsBut [.freeN, .log, .trace] d (raiseRec r e).2 := by
  obtain ⟨k, l, x, h⟩ := raiseRec_quiet hc hd hl e
  rw [h, he]
  intro p hp
  cases p <;> simp_all [Part.same]

/-! ## Coding -/

section
variable {n : Nat} {c : Coding} {o : Obj} {d : Dev} (hc : d.objs.codings.get? n = some c) (ho : d.obj? c.obj = some o)
include hc ho

/-- A tile that waits at the segment writer has passed its check, and one whose core has no fault injected passes it. -/
theorem codingDone_passed (h : c.held.isSome = true ∨ d.integ.injects = []) :
    codingDone n true d = codingPassed n c o d := by
  rcases h with hheld | hinj
  · simp [codingDone, hc, ho, hheld]
  · simp [codingDone, hc, ho, inject?_none hinj]

theorem codingDone_failed (hheld : c.held = none) (hinj : d.integ.injects = []) :
    codingDone n false d = codingFailed n c o false false d := by
  simp [codingDone, hc, ho, hheld, inject?_none hinj]

end

/-- A failed check ends with the tile coded again on another core. -/
theorem codingFailed_again (n : Nat) (c : Coding) (o : Obj) (inj exempt : Bool) (d : Dev) :
    ∃ e : Dev, codingFailed n c o inj exempt d = e.updObjs fun x => { x with codings := Map.upd n (fun k =>
      { k with unit := coreUnit (e.otherCore o.half c.unit), tries := k.tries + 1 }) x.codings } := ⟨_, rfl⟩

/-- What a coded tile waits with for its stripes to be written. -/
def Coding.pend (c : Coding) (sid : Nat) (stripes : List (Nat × Nat)) : PendAck :=
  { who := c.who, obj := c.obj, ver := c.ver, tile := c.tile, data := c.data, sid := sid, prod := c.prod
    stripes := stripes }

/-- The device once a coded tile lies in stripes: `d1` is the device with it stored, `d` the one before. -/
def codedInto (n : Nat) (c : Coding) (o : Obj) (sid : Nat) (stripes : List (Nat × Nat)) (d d1 : Dev) : Dev :=
  stripes.foldl (fun d p => drainUpdate p.1 d)
    ((serveAt 0 (2 * o.half + 1) (4 + o.half) (d.waiterLabel c.who) (d.codedCost c o) d1).updObjs fun x => { x with
      codings := Map.del n x.codings, acks := x.acks ++ [c.pend sid stripes] })

/-- A coded tile goes into stripes where its regulator lets it, its turn has come and they are free. -/
theorem codingPassed_stored {n : Nat} {c : Coding} {o : Obj} {v : Version} {sid : Nat} {stripes : List (Nat × Nat)}
    {d d1 : Dev} (hv : d.ver? c.obj c.ver = some v) (hwho : ∀ h w, c.who ≠ .seal h w) (hcost : d.codedCost c o ≠ 0)
    (hfree : d.writerFree (d.waiterLabel c.who) o.half = true) (hturn : d.writerTurn n c o.half = true)
    (hstore : d.store c.obj c.tile o c.data (!v.staged) = some (sid, stripes, d1)) (hne : stripes ≠ []) :
    codingPassed n c o d = codedInto n c o sid stripes d d1 := by
  have hlasts : stripes.isEmpty = false := by simpa using hne
  have hgo : ¬(d.codedCost c o ≠ 0 ∧
      (!(d.writerFree (d.waiterLabel c.who) o.half && d.writerTurn n c o.half)) = true) := by simp [hfree, hturn]
  simp only [codingPassed, hv, if_neg hgo, hstore, if_neg hcost, hlasts, Bool.false_eq_true, if_false]
  rfl

/-! ## Stripes -/

/-- The open stripe of a group is closed if a seal-as-written tile has waited 250 AO ticks in it (R151). -/
def closeWaited (g : Nat) (d : Dev) : Dev :=
  match (d.group g).cur with
  | none => d
  | some m =>
    match (d.group g).stripes.get? m with
    | none => d
    | some s => if s.waitSaw && decide (s.since + 250 ≤ d.now) then drainUpdate g (closeStripes [(g, m)] d) else d

/-- A half's wait ends for its two groups, one after the other. -/
theorem sawExpiry_eq (half : Nat) (d : Dev) :
    sawExpiry half d = closeWaited (2 * half + 1) (closeWaited (2 * half) d) := rfl

theorem closeWaited_none {g : Nat} {d : Dev} (h : (d.group g).cur = none) : closeWaited g d = d := by
  simp [closeWaited, h]

theorem closeWaited_due {g m : Nat} {s : Stripe} {d : Dev} (hcur : (d.group g).cur = some m)
    (hs : (d.group g).stripes.get? m = some s) (hsaw : s.waitSaw = true) (hdue : s.since + 250 ≤ d.now) :
    closeWaited g d = drainUpdate g (closeStripes [(g, m)] d) := by
  simp [closeWaited, hcur, hs, hsaw, hdue]

/-- Closing a stripe leaves the other groups as they are. -/
theorem closeStripes_group_ne {g m k : Nat} (hk : k ≠ g) (d : Dev) : (closeStripes [(g, m)] d).group k = d.group k := by
  simp only [closeStripes, List.foldl_cons, List.foldl_nil]
  split
  · exact Map.getD_set_ne hk ..
  · rfl

/-- Where one group of a half has a stripe that has waited long enough and the other has none open, that stripe is
closed. -/
theorem sawExpiry_due {half g m : Nat} {s : Stripe} {d : Dev} (hg : g = 2 * half ∨ g = 2 * half + 1)
    (hcur : (d.group g).cur = some m) (hother : (d.group (4 * half + 1 - g)).cur = none)
    (hs : (d.group g).stripes.get? m = some s) (hsaw : s.waitSaw = true) (hdue : s.since + 250 ≤ d.now) :
    sawExpiry half d = drainUpdate g (closeStripes [(g, m)] d) := by
  have hclosed := closeWaited_due hcur hs hsaw hdue
  rw [sawExpiry_eq]
  rcases hg with rfl | rfl
  · rw [show 4 * half + 1 - 2 * half = 2 * half + 1 by omega] at hother
    rw [hclosed]
    refine closeWaited_none ?_
    rw [(drainUpdate_touched ..).group_eq, closeStripes_group_ne (by omega)]
    exact hother
  · rw [show 4 * half + 1 - (2 * half + 1) = 2 * half by omega] at hother
    rw [closeWaited_none hother, hclosed]

theorem stripeWriteDone_closed {g n : Nat} {s : Stripe} {d : Dev} (hs : (d.group g).stripes.get? n = some s)
    (hclosed : s.closed = true) (hcan : d.canWrite g = true) (hhold : (fromTo (8 * g) 8).any d.holdsWrites = false) :
    stripeWriteDone g n d = writeStripe g n d := by
  simp [stripeWriteDone, hs, hclosed, hcan, hhold]

/-- The device once the lines of a stripe are issued: the stripe written, and waited for no more. -/
def linesOut (g n : Nat) (s : Stripe) (d : Dev) : Dev :=
  ((issueLines g 0 true ((d.linesWritten n s).map fun l => (n, l)) d).updGroup g fun x => { x with
    lastReq := d.now
    stripes := if s.live = 0 then Map.del n x.stripes
      else Map.upd n (fun t => { t with written := true, waitSaw := false }) x.stripes }).updObjs fun x =>
        { x with acks := x.acks.map fun a => { a with stripes := a.stripes.filter (· != (g, n)) } }

/-- A stripe that no tile waits for is written, and nothing is told. -/
theorem writeStripe_unawaited {g n : Nat} {s : Stripe} {d : Dev} (hs : (d.group g).stripes.get? n = some s)
    (hnew : s.written = false) (hacks : (d.objs.acks.filter fun a => a.stripes.contains (g, n)) = []) :
    writeStripe g n d = drainUpdate g (linesOut g n s d) := by
  have hnow := (issueLines_touched g 0 true ((d.linesWritten n s).map fun l => (n, l)) d).now_eq
  simp only [writeStripe, hs, hnew, hacks, linesOut, Bool.false_eq_true, if_false, hnow]
  rfl

/-! ## Reads of the far tier -/

/-- A read none of whose stripes waits to be written holds back nothing. -/
theorem writeFirst_none {g : Nat} {ls : List (Nat × Nat)} {d : Dev} (h : d.queuedStripes g ls = []) :
    writeFirst g ls d = d := by
  simp only [writeFirst, h, List.foldl_nil]
  exact foldl_id _ _ _ fun _ _ => rfl

/-- The device once a far read has issued its lines and its bytes are charged. -/
def farIssued (s : Stored) (q : Nat) (ls : List (Nat × Nat)) (d : Dev) : Dev :=
  serveAt 0 (2 * groupHalf s.group) s.group q (256 * ls.length)
    ((issueLines s.group q false ls d).updGroup s.group fun g => { g with lastReq := d.now })

theorem farIssued_injects (s : Stored) (q : Nat) (ls : List (Nat × Nat)) (d : Dev) :
    (farIssued s q ls d).integ.injects = d.integ.injects :=
  (serveAt_touched ..).injects_eq.trans (issueLines_touched s.group q false ls d).injects_eq

theorem group_lastReq (g t k : Nat) (d : Dev) : (d.updGroup g fun x => { x with lastReq := t }).group k =
    { d.group k with lastReq := if k = g then t else (d.group k).lastReq } := by
  by_cases h : k = g <;> simp [Dev.group, Dev.updGroup, h]

/-- The tick of its last request does not say whether a group's tiles can be read. -/
theorem unreadable_lastReq (g t : Nat) (s : Stored) (d : Dev) :
    (d.updGroup g fun x => { x with lastReq := t }).unreadable s = d.unreadable s := by
  simp [Dev.unreadable, Dev.onLost, Dev.linesOf, Dev.lineAt, Dev.grainAt, Dev.lineAddr, group_lastReq]

theorem farIssued_unreadable (s t : Stored) (q : Nat) (ls : List (Nat × Nat)) (d : Dev) :
    (farIssued s q ls d).unreadable t = d.unreadable t :=
  ((serveAt_touched ..).unreadable_eq t).trans ((unreadable_lastReq ..).trans ((issueLines_touched ..).unreadable_eq t))

/-- A far read that meets no fault goes on with the sectors here (R392). -/
theorem farRead_ok {sid q : Nat} {s : Stored} {ls : List (Nat × Nat)} {d : Dev} (got : Dev → Dev)
    (lost : Nat → Nat → Bool → Dev → Dev) (hq : d.queuedStripes s.group ls = []) (hinj : d.integ.injects = [])
    (hread : d.unreadable s = false) : farRead sid s q ls .ok got lost d = got (farIssued s q ls d) := by
  have hnow := (issueLines_touched s.group q false ls d).now_eq
  have hinj' := inject?_none ((farIssued_injects s q ls d).trans hinj)
  have hread' := (farIssued_unreadable s s q ls d).trans hread
  have hclean : injectedRead s .ok (farIssued s q ls d) = (.ok, false, false, farIssued s q ls d) := by
    simp [injectedRead, hinj']
  simp only [farRead, writeFirst_none hq, hnow]
  rw [← farIssued, foldl_id]
  · simp [hread', hclean]
  · intro ch _
    simp [hinj']

theorem farTierReadDone_turn {n : Nat} {j : Job} {s : Stored} {ls : List (Nat × Nat)} {d : Dev}
    (res : FarResult) (hj : d.strs.jobs.get? n = some j) (hst : j.st = .far) (hs : d.objs.stored.get? j.sid = some s)
    (hls : d.farLines s = some ls) (hfree : d.farFree j.qos (groupHalf s.group) (d.chansOf s.group ls) = true)
    (hturn : d.turn 0 (2 * groupHalf s.group) s.group j.qos j.since n (d.farRivals s.group) = true) :
    farTierReadDone n res d = farRead j.sid s j.qos ls res (jobRead n j.sid) (jobLost n j.sid) d := by
  simp [farTierReadDone, hj, hst, hs, hls, hfree, hturn]

/-! ## Expansion -/

/-- The device once a pass over a job's tile has read its near copy, where it reads one. -/
def passRead (j : Job) (d : Dev) : Dev := (d.nearRead j).elim d fun s => readNear j.sid s j.qos d

/-- The device once a job's passes are counted for its core. -/
def passesRun (n : Nat) (j : Job) (d : Dev) : Dev :=
  bump 9 (coreCluster j.core) 3 (d.passLays n).length (passRead j d)

/-- The tenant whose tile a job reads. -/
def Dev.jobTenant (d : Dev) (j : Job) : Nat := ((d.obj? j.obj).map (·.tenant)).getD 0

/-- A word that the tile cache has lost is recorded for its cluster and counted (R397). -/
def cacheLost (n : Nat) (j : Job) (d : Dev) : Nat × Dev :=
  countEvent 11 (coreCluster j.core) (raise { ErrRec.mk0 1 0x02 with
    block := 0, unit := clusterUnit (coreCluster j.core), tenValid := true, tenant := d.jobTenant j } (passesRun n j d))

section
variable {n : Nat} {j : Job} {d : Dev} (hj : d.strs.jobs.get? n = some j) (hst : j.st = .coded) (hcross : j.cross = 0)
  (hlays : d.passLays n ≠ []) (hgoes : d.nearGoes n j = true)
include hj hst hcross hlays hgoes

theorem expansionDone_copyBad {s : Stored} (hnear : d.nearRead j = some s) :
    expansionDone n .copyBad d = copyFault j.sid s (readNear j.sid s j.qos d) := by
  simp [expansionDone, hj, hst, hcross, hlays, hgoes, hnear]

variable (hgood : ∀ s, d.nearRead j = some s → d.copyErr j.sid s = none)
include hgood

theorem expansionDone_clean : expansionDone n .clean d = expanded n j (passesRun n j d) := by
  cases hnear : d.nearRead j <;>
    simp [expansionDone, hj, hst, hcross, hlays, hgoes, hnear, hgood, passesRun, passRead]

theorem expansionDone_failed :
    expansionDone n .failed d = expansionFailed n j (d.jobTenant j) (passesRun n j d) := by
  cases hnear : d.nearRead j <;>
    simp [expansionDone, hj, hst, hcross, hlays, hgoes, hnear, hgood, passesRun, passRead, Dev.jobTenant]

theorem expansionDone_cacheBad : expansionDone n .cacheBad d =
    if (cacheLost n j d).2.reached 11 8 (cacheLost n j d).1 then
      retireCluster (coreCluster j.core) 11 (cacheLost n j d).1 (cacheLost n j d).2
    else (cacheLost n j d).2 := by
  cases hnear : d.nearRead j <;>
    simp [expansionDone, hj, hst, hcross, hlays, hgoes, hnear, hgood, cacheLost, passesRun, passRead, Dev.jobTenant]

end

/-- A first failed pass is run again on another core; only the record and the values of its syndromes are new. -/
theorem expansionFailed_first {n tenant : Nat} {j : Job} (ht : j.tries = 0) (d : Dev) :
    ∃ e : Dev, expansionFailed n j tenant d = (e.updStrs fun x => { x with jobs := Map.upd n (fun k =>
      { k with tries := 1, core := e.otherCore (coreHalf j.core) (coreUnit j.core) }) x.jobs }) ∧
        KeepsBut [.freeN, .log, .trace] d e := by
  simp only [expansionFailed, ht, if_true]
  exact ⟨_, rfl, raiseRec_keepsBut rfl (show 0x04 ≠ 0x06 by decide) (show 0x04 ≠ 0x09 by decide) rfl⟩

end Sys2Proof.Machine
end

section
/-! SUPPORT. O51: the statement about the events of the codec. -/

namespace Sys2Proof.Machine

/-- Settles O51: each event is its case of the operation it runs. -/
theorem codecEvents : Obligations.CodecEvents := by
  unfold Obligations.CodecEvents
  intro s n hl
  refine ⟨?stored, ?checked, ?waited, ?written, ?read, ?passes⟩
  case stored =>
    intro c o v sid stripes d1 hc ho hv hheld hwho q cost hcost hfree hturn hstore hne
    exact does_of_onDev rfl hl ((codingDone_passed hc ho hheld).trans
      (codingPassed_stored hv hwho hcost hfree hturn hstore hne))
  case checked =>
    intro c o hc ho hheld hinj
    exact ⟨does_of_onDev rfl hl (codingDone_passed hc ho (.inr hinj)),
      does_of_onDev rfl hl (codingDone_failed hc ho hheld hinj), codingFailed_again ..⟩
  case waited =>
    exact fun half g m st hg hcur hother hst hsaw hdue =>
      does_of_onDev rfl hl (sawExpiry_due hg hcur hother hst hsaw hdue)
  case written =>
    intro g st hst hclosed hcan hhold
    have hdone := stripeWriteDone_closed hst hclosed hcan hhold
    exact ⟨does_of_onDev rfl hl hdone, fun hnew hacks => does_of_onDev rfl hl
      (hdone.trans (writeStripe_unawaited hst hnew hacks))⟩
  case read =>
    intro j st ls hj hfar hst hls hfree hturn hq d1 d2 hinj hread
    exact does_of_onDev rfl hl ((farTierReadDone_turn .ok hj hfar hst hls hfree hturn).trans
      (farRead_ok _ _ hq hinj hread))
  case passes =>
    intro j hj hst hcross hlays hgoes d1 d2 pd lost
    have hread : d1 = passRead j s.dev := by
      unfold d1 passRead
      cases s.dev.nearRead j <;> rfl
    have hrun : d2 = passesRun n j s.dev := by rw [passesRun, ← hread]
    have hlost : lost = cacheLost n j s.dev := by rw [cacheLost, ← hrun]; rfl
    rw [hlost, hrun]
    refine ⟨fun st hnear => does_of_onDev rfl hl (expansionDone_copyBad hj hst hcross hlays hgoes hnear),
      fun hgood => ⟨?clean, ?cacheBad, ?failed⟩⟩
    case clean => exact does_of_onDev rfl hl (expansionDone_clean hj hst hcross hlays hgoes hgood)
    case cacheBad =>
      exact fun hfew => does_of_onDev rfl hl
        ((expansionDone_cacheBad hj hst hcross hlays hgoes hgood).trans (if_neg (by simp [hfew])))
    case failed =>
      intro o ho htries
      obtain ⟨e, hagain, hkeeps⟩ := expansionFailed_first (n := n) (tenant := s.dev.jobTenant j) htries
        (passesRun n j s.dev)
      exact ⟨e, does_of_onDev rfl hl ((expansionDone_failed hj hst hcross hlays hgoes hgood).trans hagain), hkeeps⟩

end Sys2Proof.Machine
end

section
/-! SUPPORT. Claims, schedules, hints, placement and evacuation: what each form of their commands answers (R144 to R148,
R160 to R175, R414 to R416). -/

namespace Sys2Proof.Machine

/-! ## Checks and bodies that may read a piece of data -/

theorem need_not_of {b : Bool} {c : Cpl} (h : b = false) : need (!b) c = .ok () := need_of (by simp [h])

section
variable {x : Ctx} {d : Dev} {len : Ctx → Dev → Except Cpl Nat} {k : Ctx → Bytes → Dev → Except Cpl Res}

theorem withData_none (h : len x d = .ok 0) : withData len k x [] none d = k x [] d := by
  simp only [withData, bind, Except.bind, h]
  rfl

theorem withData_reads {n : Nat} (h : len x d = .ok n) (h0 : n ≠ 0) :
    withData len k x [] none d = .ok (.read 0 n d) := by
  simp only [withData, bind, Except.bind, h, if_neg h0]

theorem withData_got {n : Nat} (h : len x d = .ok n) (b : Bytes) (l : List Bytes) :
    withData len k x (b :: l) none d = k x b d := by
  simp only [withData, bind, Except.bind, h]

end

/-! ## Claims (R160 to R164) -/

theorem checkRange_ok {o : Obj} {first n : Nat} (off : Nat) (h : first + n ≤ o.count) :
    checkRange o first n off = .ok () := need_of (decide_eq_true h)

/-- The stored tiles of the range that a `RESIDE` of version `v` names. -/
def rangeSids (e : Entry) (v : Nat) (d : Dev) : List Nat :=
  (fromTo (e.w32 0x24) (e.w32 0x28)).map (d.sidOf e.ha v)

/-- The claim that a `RESIDE` of version `v` makes. -/
def newClaim (x : Ctx) (v : Nat) (d : Dev) : Claim :=
  { tenant := x.t, obj := x.e.ha, ver := v, first := x.e.w32 0x24, count := x.e.w32 0x28
    charge := ((rangeSids x.e v d).map d.copySize).sum, qos := x.e.qos, waiter := none }

/-- The device with that claim under the lowest free ID (log entry 51). -/
def claimAdded (x : Ctx) (v : Nat) (d : Dev) : Dev :=
  d.updTiers fun t => { t with claims := Map.set (d.tiers.claims.firstFree 0) (newClaim x v d) t.claims }

/-- The device with that claim and its holds, their copies on one stack of the object's half. -/
def claimHeld (x : Ctx) (o : Obj) (v : Nat) (d : Dev) : Dev :=
  holdRange x.e.qos x.e.ha v (x.e.w32 0x24) (x.e.w32 0x28) ((claimAdded x v d).pickStack o.half []) (claimAdded x v d)

/-- A claim that passes every check is made; the command waits if it asks to and a tile is still to be promoted. -/
theorem bodyReside_held {x : Ctx} {o : Obj} {v : Nat} {d : Dev} (ho : objOf x (x.e.w32 0x20) d = .ok o)
    (hv : resolveSealed o x.t (x.e.w32 0x20) 0x20 = .ok v) (hr : x.e.w32 0x24 + x.e.w32 0x28 ≤ o.count)
    (hroom : d.tiers.claims.length < 1048576)
    (hl : checkQuota x.t 0 ((rangeSids x.e v d).map d.copySize).sum 0 d = .ok ())
    (hm : d.short o.half (d.absentBytes (rangeSids x.e v d)) 0 = (0, 0)) :
    bodyReside x [] none d =
      let id := d.tiers.claims.firstFree 0
      let d' := claimHeld x o v d
      if x.e.fld 0x2C 0 1 = 0 then okRes ((newClaim x v d).results id) d'
      else if d'.claimReady (newClaim x v d) then .ok (.done (d'.claimCpl id (newClaim x v d)) d')
      else .ok (.wait (d'.updTiers fun t => { t with
        claims := Map.upd id (fun k => { k with waiter := some x.num }) t.claims })) := by
  have hch := chooseHalf_single hm
  unfold rangeSids at hl hch
  simp only [bodyReside, plain, bind, Except.bind, ho, hv, checkRange_ok 0x24 hr, need_of (decide_eq_true hroom), hl,
    hch]
  rfl

/-- The completion of a `RESIDE` writes no data. -/
theorem claimCpl_bytes (d : Dev) (id : Nat) (k : Claim) : (d.claimCpl id k).bytes = 0 := by
  unfold Dev.claimCpl
  dsimp only
  split <;> rfl

theorem ownSched_mine {x : Ctx} {d : Dev} {k : Sched} (hk : d.sched? (x.e.w32 0x20) = some k) (ht : k.tenant = x.t) :
    ownSched x d = .ok k := by
  simp only [ownSched, hk, if_pos ht]

theorem rawRange_ok {e : Entry} {d : Dev} (ha : e.w64 0x30 % 64 = 0) (hn : e.w32 0x38 % 64 = 0)
    (hmax : e.w32 0x38 ≤ 2 ^ 24) (hmem : d.hasMem (e.w64 0x30) (e.w32 0x38) = true) : rawRange e d = .ok () := by
  have halign : (e.w64 0x30 % 64 == 0) = true := by simp [ha]
  have hlen : (e.w32 0x38 % 64 == 0 && decide (e.w32 0x38 ≤ 2 ^ 24)) = true := by simpa [hn] using hmax
  simp only [rawRange, bind, Except.bind, need_of halign, need_of hlen, need_of hmem]

section
variable {x : Ctx} {d : Dev} (hq : checkQos x d = .ok ())
include hq

theorem bodyUnreside_ends {k : Claim} (hk : d.tiers.claims.get? (x.e.w32 0x20) = some k) (ht : k.tenant = x.t) :
    bodyUnreside x [] none d =
      okRes (leBytes 8 k.charge) (evalScheds (endClaim (x.e.w32 0x20) (errS .aborted) d)) := by
  have hmine : (k.tenant == x.t) = true := by simp [ht]
  simp only [bodyUnreside, plain, bind, Except.bind, hq, hk, need_of hmine]

/-! ## Schedules (R168, R169, R174, R175) -/

/-- The schedule of a `SCHEDULE_LOAD` with its entries checked and resolved. -/
def newSched (x : Ctx) (ents : List SchedEnt) : Sched :=
  { tenant := x.t, half := x.half, counter := x.e.fld 0x24 0 17, ahead := x.e.fld 0x28 0 8, stageA := x.e.fld 0x29 0 8
    early := x.e.fld 0x2A 0 1 == 1, layout := x.e.w32 0x2C, period := x.e.fld 0x30 0 48, port := x.e.fld 0x38 0 8
    qos := x.e.qos, ents := ents, hints := [], stopped := false }

/-- The device with that schedule under the lowest free ID (log entry 51). -/
def schedAdded (x : Ctx) (ents : List SchedEnt) (d : Dev) : Dev :=
  d.updTiers fun t => { t with scheds := Map.set (d.tiers.scheds.firstFree 0) (newSched x ents) t.scheds }

section
variable (hown : d.ownsCounter x.t (x.e.fld 0x24 0 17) = true)
  (hp : d.pwr.sable = false ∨ x.half = dieHalf (counterDie (x.e.fld 0x24 0 17)))
include hown hp

theorem bodyScheduleLoad_reads (h0 : x.e.w32 0x20 ≠ 0) :
    bodyScheduleLoad x [] none d = .ok (.read 0 (32 * x.e.w32 0x20) d) := by
  refine withData_reads ?_ (by omega)
  simp only [bind, Except.bind, hq, need_of hown, checkPath_ok hp]

/-- A schedule whose entries all pass is evaluated where its counter stands. -/
theorem bodyScheduleLoad_loads {b : Bytes} {ents : List SchedEnt}
    (hents : schedEnts x d (x.e.fld 0x30 0 48) (x.e.fld 0x28 0 8) (x.e.w32 0x2C) 0 0
      (chunks 32 (x.e.w32 0x20) b) = .ok ents)
    (hroom : d.tiers.scheds.length < 4096) (hsum : d.schedEntries + x.e.w32 0x20 ≤ 16777216) :
    bodyScheduleLoad x [b] none d =
      let id := d.tiers.scheds.firstFree 0
      let c := (schedAdded x ents d).ctrVal (x.e.fld 0x24 0 17)
      okRes (leBytes 4 id) (evalSched id c c (schedAdded x ents d)) := by
  refine (withData_got (n := 32 * x.e.w32 0x20) ?_ b []).trans ?_
  · simp only [bind, Except.bind, hq, need_of hown, checkPath_ok hp]
  · simp only [bind, Except.bind, hents, need_of (decide_eq_true hroom), need_of (decide_eq_true hsum)]
    rfl

end

section
variable {k : Sched} (hk : d.sched? (x.e.w32 0x20) = some k) (ht : k.tenant = x.t)
include hk ht

theorem bodyScheduleDrop_drops :
    bodyScheduleDrop x [] none d = okRes [] (evalScheds (dropSched (x.e.w32 0x20) d)) := by
  simp only [bodyScheduleDrop, plain, bind, Except.bind, hq, ownSched_mine hk ht]

/-- The device with a hint of a schedule for the occurrence `m` of the entry's layer, in place of an earlier one. -/
def hintTaken (e : Entry) (m : Nat) (l : List (Nat × Nat)) (d : Dev) : Dev :=
  d.updSched (e.w32 0x20) fun k => { k with
    hints := k.hints.filter (fun h => !(h.layer == e.w16 0x24 && h.occ == m)) ++ [⟨e.w16 0x24, m, l⟩] }

/-- A hint whose pairs stand in the entry: for a layer that does not come again it is counted and no more; else it is
taken, and the schedule evaluated where its counter stands. -/
theorem bodyRouteHint_inline (ha : x.e.addr = 0)
    (hl : badPair (hintPairs (x.e.bytes.drop 0x28) (x.e.w16 0x26)) = none) {occ : Option Nat}
    (hocc : k.layerOcc (x.e.w16 0x24) (d.ctrVal k.counter) = occ) :
    bodyRouteHint x [] none d = occ.elim (okRes [] (bumpTenant x.t 12 1 d)) fun m =>
      okRes [] (evalSched (x.e.w32 0x20) (d.ctrVal k.counter) (d.ctrVal k.counter)
        (hintTaken x.e m (hintPairs (x.e.bytes.drop 0x28) (x.e.w16 0x26)) d)) := by
  have hin : (x.e.addr == 0) = true := by simp [ha]
  refine (withData_none ?_).trans ?_
  · simp only [bind, Except.bind, hq, ownSched_mine hk ht, if_pos ha]
  · simp only [bind, Except.bind, ownSched_mine hk ht, hin, if_true, hl, hocc]
    cases occ <;> rfl

end

/-! ## `PLACE` (R144 to R147) -/

section
variable (ha : x.e.w64 0x30 % 64 = 0) (hn : x.e.w32 0x38 % 64 = 0) (hmax : x.e.w32 0x38 ≤ 2 ^ 24)
  (hmem : d.hasMem (x.e.w64 0x30) (x.e.w32 0x38) = true)
include ha hn hmax hmem

theorem bodyPlace_rawRead (hsel : x.e.b20 = 2) :
    bodyPlace x [] none d = okData x [] (rawRead (x.e.w64 0x30) (x.e.w32 0x38) d).1
      (rawRead (x.e.w64 0x30) (x.e.w32 0x38) d).2 := by
  refine (withData_none ?_).trans ?_
  · simp only [hsel]
    rfl
  · simp only [bind, Except.bind, hq, rawRange_ok ha hn hmax hmem, hsel]
    rfl

section
variable (hsel : x.e.b20 = 3) (hb : ((fromTo (x.e.w64 0x30) (x.e.w32 0x38)).any d.rawBarred) = false)
include hsel hb

theorem bodyPlace_reads (h0 : x.e.w32 0x38 ≠ 0) : bodyPlace x [] none d = .ok (.read 0 (x.e.w32 0x38) d) := by
  refine withData_reads ?_ h0
  simp only [if_pos hsel, bind, Except.bind, hq, rawRange_ok ha hn hmax hmem, need_not_of hb]

theorem bodyPlace_rawWrite (b : Bytes) : bodyPlace x [b] none d = okRes [] (rawWrite (x.e.w64 0x30) b d) := by
  refine (withData_got (n := x.e.w32 0x38) ?_ b []).trans ?_
  · simp only [if_pos hsel, bind, Except.bind, hq, rawRange_ok ha hn hmax hmem, need_not_of hb]
  · simp only [bind, Except.bind, hq, rawRange_ok ha hn hmax hmem, hsel]
    rfl

end

end

end

/-- An action on a version of an object pins a range of its tiles or takes pins away. -/
theorem bodyPlace_version {x : Ctx} {d : Dev} {o : Obj} {v : Nat} (ho : objOf x (x.e.w32 0x24) d = .ok o)
    (hv : resolveSealed o x.t (x.e.w32 0x24) 0x24 = .ok v) (hr : x.e.w32 0x28 + x.e.w32 0x2C ≤ o.count)
    (hsel : x.e.b20 < 2) :
    bodyPlace x [] none d = if x.e.b20 = 0 then pinTiles x o v d else unpinTiles x.e v d := by
  refine (withData_none (if_neg (by omega))).trans ?_
  simp only [ge_iff_le, if_neg (Nat.not_le.mpr hsel), bind, Except.bind, ho, hv, checkRange_ok 0x28 hr]

/-! ## `EVACUATE` (R414 to R416) -/

theorem checkHandle_sees {s : State} {n ver : Nat} {c : Cmd} {o : Obj} (w : Sees s c ver o) (off : Nat) :
    checkHandle ⟨n, c⟩ off c.entry.ha ver s.dev = .ok o := by
  have hmay : ¬(hTenant c.entry.ha ≠ c.tenant ∧ (!s.dev.granted c.tenant c.entry.ha ver) = true) := by
    rcases w.may with h | h
    · simp [h]
    · simp [granted_of w.obj w.lives h]
  simp only [checkHandle, Ctx.t, if_neg hmay, w.obj, w.lives, if_true]

/-- The sealed versions in the scope of an `EVACUATE` that its tenant sees, in order. -/
def Dev.evacSeen (d : Dev) (x : Ctx) : List (Nat × Nat × Nat) :=
  (d.evacList fun h o => x.e.b20 == 0 || (x.e.b20 == 1 && o.tenant == x.e.fld 0x22 0 10) ||
    (x.e.b20 == 2 && h == x.e.ha)).filter fun p => x.e.b20 != 2 || (match d.obj? p.2.1 with
      | some o => o.tenant == x.t || o.covers x.t p.2.2
      | none => false)

/-- An evacuation that has done nothing yet. -/
def Evac.start : Evac := { data := [], vers := 0, path := 0, keys := 0, tiles := 0, dmg := 0 }

/-- The 64-byte summary behind an evacuation's records (Table 14-15). -/
def Evac.summary (r : Evac) (cursor : Nat) : Bytes :=
  leBytes 8 r.data.length ++ leBytes 8 cursor ++ leBytes 4 r.vers ++ leBytes 4 r.path ++ leBytes 4 r.keys ++
    leBytes 4 r.tiles ++ leBytes 4 r.dmg ++ zeros 28

/-- The completion of an `EVACUATE`. -/
def Evac.cpl (e : Entry) (r : Evac) (cursor : Nat) : Cpl :=
  { Cpl.ok (leBytes 8 r.data.length ++ leBytes 8 cursor) with
    status := if r.path ≠ 0 then .pathLost else if r.tiles ≠ 0 then .objectDamaged else .success
    data := [⟨e.addr, r.data ++ r.summary cursor⟩] }

theorem Evac.cpl_bytes (e : Entry) (r : Evac) (cursor : Nat) :
    (r.cpl e cursor).bytes = (r.data ++ r.summary cursor).length := by
  simp [Evac.cpl, Cpl.bytes]

/-- The cursor of what an evacuation has left, 0 if nothing (log entry 18). -/
def Dev.cursorOf (d : Dev) (rest : Option (Nat × Nat)) : Nat :=
  if rest.isSome then d.integ.cursors.length + 1 else 0

/-- The device with the place of that cursor kept. -/
def cursorKept (rest : Option (Nat × Nat)) (d : Dev) : Dev :=
  match rest with
  | none => d
  | some p => d.updInteg fun i => { i with cursors := i.cursors ++ [p] }

/-- Every version stands at or behind the place where an evacuation without a cursor begins. -/
theorem filter_fromStart (l : List (Nat × Nat × Nat)) :
    (l.filter fun p => decide (p.1 > 0) || (p.1 == 0 && decide (p.2.2 ≥ 0))) = l := by
  refine List.filter_eq_self.mpr fun p _ => ?_
  rcases Nat.eq_zero_or_pos p.1 with h | h <;> simp [h]

/-- An evacuation from the start writes what fits and keeps the place of what does not. -/
theorem bodyEvacuate_fromStart {x : Ctx} {d : Dev} {r : Evac} {rest : Option (Nat × Nat)} (hq : checkQos x d = .ok ())
    (hobj : x.e.b20 = 2 → ∃ o, checkHandle x 8 x.e.ha 0 d = .ok o)
    (hten : x.e.b20 = 1 → d.defined (x.e.fld 0x22 0 10) = true) (hsize : 64 ≤ x.e.w64 0x28) (hcur : x.e.w64 0x30 = 0)
    (hrun : evacAll d x.half (x.e.w64 0x28 - 64) (d.evacSeen x) Evac.start = (r, rest)) :
    bodyEvacuate x [] none d = .ok (.done (r.cpl x.e (d.cursorOf rest)) (cursorKept rest d)) := by
  have hdef : (x.e.b20 != 1 || d.defined (x.e.fld 0x22 0 10)) = true := by
    by_cases h : x.e.b20 = 1
    · simp [hten h]
    · simp [h]
  have hpass (k : Except Cpl Res) :
      (if x.e.b20 = 2 then (checkHandle x 8 x.e.ha 0 d).bind fun _ => k else k) = k := by
    by_cases h : x.e.b20 = 2
    · obtain ⟨o, ho⟩ := hobj h
      simp only [if_pos h, ho, Except.bind]
    · exact if_neg h
  simp only [bodyEvacuate, plain, bind, hpass]
  simp only [Except.bind, hq, need_of hdef, need_of (decide_eq_true hsize), hcur, if_true, filter_fromStart]
  generalize hgot : evacAll d x.half (x.e.w64 0x28 - 64) _ _ = got
  obtain rfl : got = (r, rest) := hgot.symm.trans hrun
  cases rest <;> rfl

end Sys2Proof.Machine
end

section
/-! SUPPORT. O23: the statement about claims, schedules, hints, placement and evacuation. -/

namespace Sys2Proof.Machine

/-- Settles O23: each form of each command is its case of the body. -/
theorem tierCommands : Obligations.TierCommands := by
  unfold Obligations.TierCommands
  intro s n c
  refine ⟨?reside, ?unreside, ?load, ?sched, ?raw, ?pins, ?evacuate⟩
  case reside =>
    intro o v first count sids charge id k d1 d' w hv hr hroom hl hm h
    have hbody := bodyReside_held (objOf_sees h w) hv hr hroom hl hm
    refine ⟨fun h0 => ends_of_okRes rfl h (hbody.trans (if_pos h0)), fun h1 hd => ?_, fun h1 hd => ?_⟩
    all_goals rw [if_neg (by simp [Ctx.e, h1])] at hbody
    · exact ends_of_body rfl h (hbody.trans (if_pos hd)) (.inl (by simp [claimCpl_bytes]))
    · exact waits_of_body rfl h (hbody.trans (if_neg (ne_true_of_eq_false hd)))
  case unreside => exact fun k hk ht h => ends_of_okRes rfl h (bodyUnreside_ends h.label hk ht)
  case load =>
    intro hown hp h h0
    have hread := bodyScheduleLoad_reads h.label hown hp h0
    refine ⟨reads_of_body rfl h hread, ?_⟩
    intro ents id k d' hi hlen hents hroom hsum
    exact ends_of_inline rfl h hi hread ((Nat.zero_add _).trans_le hlen)
      (bodyScheduleLoad_loads h.label hown hp hents hroom hsum) (by simp [Cpl.ok_bytes])
  case sched =>
    intro k hk ht
    refine ⟨fun h => ends_of_okRes rfl h (bodyScheduleDrop_drops h.label hk ht), ?_⟩
    intro m l layer ha hl h
    exact ⟨fun hocc => ends_of_okRes rfl h (bodyRouteHint_inline h.label hk ht ha hl hocc),
      fun hocc => ends_of_okRes rfl h (bodyRouteHint_inline h.label hk ht ha hl hocc)⟩
  case raw =>
    intro a len ha hn hmax hmem
    refine ⟨fun hsel hf h => ?_, fun hsel h0 hb h => ?_⟩
    · exact ends_of_okData rfl h hf (bodyPlace_rawRead h.label ha hn hmax hmem hsel)
    · have hread := bodyPlace_reads h.label ha hn hmax hmem hsel hb h0
      refine ⟨reads_of_body rfl h hread, fun hi hlen => ?_⟩
      exact ends_of_inline rfl h hi hread ((Nat.zero_add _).trans_le hlen)
        (bodyPlace_rawWrite h.label ha hn hmax hmem hsel hb _) (by simp [Cpl.ok_bytes])
  case pins =>
    intro o v w hv hr
    refine ⟨fun cpl d' hsel hpin hs h => ?_, fun cpl d' hsel hunpin hs h => ?_⟩
    · have hbody := bodyPlace_version (objOf_sees h w) hv hr (hsel.trans_lt (by decide))
      exact ends_of_body rfl h (hbody.trans ((if_pos hsel).trans hpin)) (.inl hs)
    · have hbody := bodyPlace_version (objOf_sees h w) hv hr (hsel.trans_lt (by decide))
      exact ends_of_body rfl h (hbody.trans ((if_neg (by simp [Ctx.e, hsel])).trans hunpin)) (.inl hs)
  case evacuate =>
    intro all seen
    split
    next r rest hrun =>
      intro cursor sum hscope hsize hcur hf h
      have hobj : c.entry.b20 = 2 → ∃ o, checkHandle ⟨n, c⟩ 8 c.entry.ha 0 s.dev = .ok o := fun h2 => by
        rcases hscope with h0 | ⟨h1, -⟩ | ⟨-, o, w⟩
        · omega
        · omega
        · exact ⟨o, checkHandle_sees w 8⟩
      have hten : c.entry.b20 = 1 → s.dev.defined (c.entry.fld 0x22 0 10) = true := fun h1 => by
        rcases hscope with h0 | ⟨-, hd⟩ | ⟨h2, -⟩
        · omega
        · exact hd
        · omega
      have hbytes : (r.cpl c.entry cursor).bytes ≤ 4032 ∨ ¬c.inl := by rwa [Evac.cpl_bytes]
      exact ends_of_body rfl h (bodyEvacuate_fromStart h.label hobj hten hsize hcur hrun) hbytes

end Sys2Proof.Machine
end

section
/-! SUPPORT. Streams opened, closed and queried, reductions opened, finished and aborted: what each form of their
commands answers (R180 to R184, R206, R207, R215 to R218, R227 to R230). -/

namespace Sys2Proof.Machine

/-! ## Streams -/

theorem bodyStreamOpen_waits {x : Ctx} {v : Nat} {d : Dev} (hv : openChecks x d = .ok v) :
    bodyStreamOpen x [] none d = .ok (.wait (openStream x v d)) := by
  simp only [bodyStreamOpen, plain, bind, Except.bind, hv]

section
variable {x : Ctx} {d : Dev} {k : Stream} (hk : d.str? (x.e.w32 0x20) = some k) (ht : k.tenant = x.t)
include hk ht

theorem ownStream_mine {opening : Bool} (ho : k.st ≠ .opening ∨ opening = true) :
    ownStream x opening d = .ok k := by
  have hopen : ¬(k.st = .opening ∧ (!opening) = true) := by
    rcases ho with h | h <;> simp [h]
  simp only [ownStream, hk, if_neg hopen, if_pos ht]

variable (hq : checkQos x d = .ok ())
include hq

/-- A close waits: in hardware the stream starts to close, a parked one is restored first (R206, log entry 78). -/
theorem bodyStreamClose_waits (ho : k.st ≠ .opening) (hc : k.st ≠ .closing) :
    bodyStreamClose x [] none d = .ok (.wait (if k.hw then
      startClose (x.e.w32 0x20) x.num (x.e.fld 0x24 0 1 == 1) k d else awaitContext (x.e.w32 0x20) x.num d)) := by
  have hclosing : (k.st != .closing) = true := by simpa using hc
  simp only [bodyStreamClose, plain, bind, Except.bind, hq, ownStream_mine hk ht (.inl ho), need_of hclosing]

/-- A query of a stream that is not parked answers its record (R207). -/
theorem bodyStreamQuery_record (h : k.hw = true ∨ k.st = .opening) :
    bodyStreamQuery x [] none d = okData x [] (d.streamRecord { k with touch := d.now })
      (d.updStr (x.e.w32 0x20) fun s => { s with touch := d.now }) := by
  have hhere : (k.hw || k.st == .opening) = true := by simpa using h
  simp only [bodyStreamQuery, plain, bind, Except.bind, hq, ownStream_mine hk ht (.inr rfl), hhere]
  rfl

/-- A query of a parked stream waits until it is restored (log entry 78). -/
theorem bodyStreamQuery_parked (hw : k.hw = false) (ho : k.st ≠ .opening) :
    bodyStreamQuery x [] none d = .ok (.wait (awaitContext (x.e.w32 0x20) x.num d)) := by
  have hparked : (k.hw || k.st == .opening) = false := by simp [hw, ho]
  simp only [bodyStreamQuery, plain, bind, Except.bind, hq, ownStream_mine hk ht (.inr rfl), hparked]
  rfl

end

/-! ## `REDUCE_OPEN` (R215 to R218) -/

theorem fld_nil (off lo w : Nat) : fld [] off lo w = 0 := by simp [fld, leNat, bits]

/-- Without data no source entry is bad. -/
theorem badSource_nil (n : Nat) : badSource n [] = none := by simp [badSource]

/-- The sources of a reduction opened without data: nobody is paid credits. -/
def unpaidSources (n : Nat) : List RedSource :=
  (List.range n).map fun _ => { target := 0, batch := 0, owed := 0, stream := none }

/-- The slot of the next reduction and its generation (log entry 51). -/
def Dev.nextRed (d : Dev) : Nat × Nat :=
  let slot := lowestFree (d.reds.reds.keys.map (· % 4096))
  (slot, match d.reds.gens.get? slot with
    | some g => (g + 1) % 2 ^ 20
    | none => 0)

/-- The ID of the next reduction. -/
def Dev.nextRedId (d : Dev) : Nat := d.nextRed.1 + 4096 * d.nextRed.2

/-- Slots that a `REDUCE_OPEN` on an object asks for (R218). -/
def Ctx.redSlots (x : Ctx) (o : Obj) : Nat := slotsFor (x.e.w16 0x30) o.n

/-- The producer that a `REDUCE_OPEN` on an object adds to its version. -/
def redProducer (x : Ctx) (o : Obj) (d : Dev) : Producer :=
  let fast := x.e.fld 0x32 0 1 == 1
  { kind := 4, loc := d.nextRedId, run := 0, body := redBody x.e fast o.fmt, tail := [], nd := fast, inNd := false
    part := false, supplied := 0 }

/-- The reduction that a `REDUCE_OPEN` without data makes on version `w` of object `o`. -/
def newRed (x : Ctx) (o : Obj) (w : Version) (d : Dev) : Red :=
  let e := x.e
  let fast := e.fld 0x32 0 1 == 1
  { tenant := x.t, obj := e.ha, ver := e.w32 0x20, first := e.w32 0x24, count := e.w32 0x28, n := e.w16 0x2C
    e := if fast then 0 else sbyte (e.fld 0x2E 0 8), cfmt := e.fld 0x2F 0 8, window := e.w16 0x30, fast := fast
    counter := e.fld 0x34 0 17, qos := e.qos, base := d.ctrVal (e.fld 0x34 0 17), retired := 0
    slots := d.takeSlots o.half (x.redSlots o), charge := x.redSlots o * 262144, sources := unpaidSources (e.w16 0x2C)
    tiles := [], done := [], finish := none, finTick := 0, finSeal := false, ended := none, prod := w.prods.length }

/-- The device with that reduction, and its producer in the version. -/
def redAdded (x : Ctx) (o : Obj) (w : Version) (d : Dev) : Dev :=
  let d' := d.updVer x.e.ha (x.e.w32 0x20) fun v => { v with prods := v.prods ++ [redProducer x o d] }
  { d' with reds := { reds := Map.set d.nextRedId (newRed x o w d) d'.reds.reds
                      gens := Map.set d.nextRed.1 d.nextRed.2 d'.reds.gens } }

/-- What steps 5 to 8 of R216 ask of a `REDUCE_OPEN` on version `w` of object `o`. -/
structure RedOpens (x : Ctx) (o : Obj) (w : Version) (d : Dev) : Prop where
  staged : w.staged = true
  writers : (d.strs.strs.any fun p => p.2.kind == 1 && p.2.obj == x.e.ha && p.2.ver == x.e.w32 0x20) = false
  runs : d.runOutput x.e.ha (x.e.w32 0x20) = false
  apart : (d.reds.reds.any fun p => p.2.ended.isNone && p.2.obj == x.e.ha &&
    overlaps p.2.first p.2.count (x.e.w32 0x24) (x.e.w32 0x28)) = false
  retires : d.retireCtr (x.e.fld 0x34 0 17) = false
  schedules : (d.tiers.scheds.any fun p => p.2.counter == x.e.fld 0x34 0 17) = false
  room : d.reds.reds.length < 4096
  producers : w.full = false
  quota : checkQuota x.t (x.redSlots o * 262144) 0 0 d = .ok ()
  slots : (d.takeSlots o.half (x.redSlots o)).length = x.redSlots o

section
variable {x : Ctx} {o : Obj} {w : Version} {d : Dev} (hc : redChecks x d = .ok (o, w))
include hc

theorem bodyReduceOpen_reads (ha : x.e.addr ≠ 0) (hn : x.e.w16 0x2C ≠ 0) :
    bodyReduceOpen x [] none d = .ok (.read 0 (16 * x.e.w16 0x2C) d) := by
  refine withData_reads ?_ (by omega)
  simp only [bind, Except.bind, hc, if_neg ha]

/-- Without data the reduction is opened at once. -/
theorem bodyReduceOpen_opens (ha : x.e.addr = 0) (h : RedOpens x o w d) :
    bodyReduceOpen x [] none d = okRes (leBytes 4 d.nextRedId ++ leBytes 6 (d.ctrVal (x.e.fld 0x34 0 17)) ++
      leBytes 2 (x.redSlots o) ++ zeros 4) (redAdded x o w d) := by
  obtain ⟨hstaged, hwriters, hruns, hapart, hretires, hscheds, hroom, hfull, hquota, hslots⟩ := h
  unfold Ctx.redSlots at hquota hslots
  refine (withData_none ?_).trans ?_
  · simp only [bind, Except.bind, hc, if_pos ha]
  · simp only [bind, Except.bind, hc, badSource_nil, hstaged, hwriters, hruns, hapart, hretires, hscheds, hroom, hfull,
      hquota, hslots, fld_nil, need, decide_true, Bool.true_or, Bool.not_false, Bool.and_self, if_true]
    rfl

end

/-! ## `REDUCE_FINISH`, `REDUCE_ABORT` (R227 to R230) -/

section
variable {x : Ctx} {d : Dev} {r : Red} (hq : checkQos x d = .ok ()) (hr : d.red? (x.e.w32 0x20) = some r)
  (ht : r.tenant = x.t) (hf : r.finish = none)
include hr ht

theorem ownRed_mine : ownRed x d = .ok r := by
  simp only [ownRed, hr, if_pos ht]

include hq hf

theorem bodyReduceFinish_waits :
    bodyReduceFinish x [] none d = .ok (.wait (d.updRed (x.e.w32 0x20) fun r => { r with
      finish := some x.num, finTick := d.now + x.e.w32 0x24, finSeal := x.e.fld 0x28 0 1 == 1 })) := by
  have hnone : r.finish.isNone = true := by simp [hf]
  simp only [bodyReduceFinish, plain, bind, Except.bind, hq, ownRed_mine hr ht, need_of hnone]

theorem bodyReduceAbort_ends :
    bodyReduceAbort x [] none d = okRes (leBytes 4 (d.redNow (x.e.w32 0x20) r).tally.1)
      (freeRed (x.e.w32 0x20) (if r.ended.isSome then d else closeRed (x.e.w32 0x20) .aborted d)) := by
  have hnone : r.finish.isNone = true := by simp [hf]
  simp only [bodyReduceAbort, plain, bind, Except.bind, hq, ownRed_mine hr ht, need_of hnone]

end

end Sys2Proof.Machine
end

section
/-! SUPPORT. O24: the statement about streams and reductions. -/

namespace Sys2Proof.Machine

/-- Settles O24: each form of each command is its case of the body. -/
theorem streamCommands : Obligations.StreamCommands := by
  unfold Obligations.StreamCommands
  intro s n c
  refine ⟨?opens, ?close, ?query, ?reads, ?reduce, ?ends⟩
  case opens => exact fun v hv h => waits_of_body rfl h (bodyStreamOpen_waits hv)
  case close =>
    intro k hk ht ho hc h
    have hbody := bodyStreamClose_waits (x := ⟨n, c⟩) hk ht h.label ho hc
    exact ⟨fun hw => waits_of_body rfl h (hbody.trans (by rw [if_pos hw]; rfl)),
      fun hw => waits_of_body rfl h (hbody.trans (by rw [hw]; rfl))⟩
  case query =>
    intro k hk ht h
    exact ⟨fun hhere hf => ends_of_okData rfl h hf (bodyStreamQuery_record (x := ⟨n, c⟩) hk ht h.label hhere),
      fun hw ho => waits_of_body rfl h (bodyStreamQuery_parked (x := ⟨n, c⟩) hk ht h.label hw ho)⟩
  case reads => exact fun o w hc ha hn h => reads_of_body rfl h (bodyReduceOpen_reads hc ha hn)
  case reduce =>
    intro o w ver first count fast ctr want slots slot gen rid srcs p r hc ha hstaged hwriters hruns hapart
      hretires hscheds hroom hfull hquota hslots h
    have hopens : RedOpens ⟨n, c⟩ o w s.dev :=
      ⟨hstaged, hwriters, hruns, hapart, hretires, hscheds, hroom, hfull, hquota, hslots⟩
    exact ⟨_, ends_of_okRes (i := .reduceOpen n) rfl h (bodyReduceOpen_opens hc ha hopens), rfl⟩
  case ends =>
    intro r hr ht hf
    refine ⟨fun h => ?_, fun h => ends_of_okRes rfl h (bodyReduceAbort_ends (x := ⟨n, c⟩) h.label hr ht hf)⟩
    have hwaits := bodyReduceFinish_waits (x := ⟨n, c⟩) h.label hr ht hf
    exact does_of_onDev rfl h.live (congrArg (reduceFinishNow n)
      ((startCmd_ready h bodyReduceFinish).trans (runBody_wait h.cmd hwaits)))

end Sys2Proof.Machine
end

section
/-! SUPPORT. First segments of tile writes and token batches, and parked contexts that are restored, where the streams
form a canonical map (R187, R198, R263, log entry 78). -/

namespace Sys2Proof.Map

variable {α : Type}

/-- Two changes of what a key holds agree where they agree on every value of the key. -/
theorem upd_congr {i : Nat} {f g : α → α} {m : Map α} (h : ∀ v, (i, v) ∈ m → f v = g v) : upd i f m = upd i g m := by
  refine List.map_congr_left fun p hp => ?_
  obtain ⟨k, v⟩ := p
  by_cases hk : k = i
  · subst hk
    simp only [if_true, h v hp]
  · simp only [if_neg hk]

end Sys2Proof.Map

namespace Sys2Proof.Machine

/-! ## Changes of a stream -/

theorem str?_updStr_self (id : Nat) (f : Stream → Stream) (d : Dev) : (d.updStr id f).str? id = (d.str? id).map f :=
  Map.get?_upd_self ..

theorem wf_updStr {d : Dev} (h : d.strs.strs.wf = true) (id : Nat) (f : Stream → Stream) :
    (d.updStr id f).strs.strs.wf = true :=
  Map.wf_upd id f h

/-- In a canonical map of streams, two changes of a stream that agree on it agree. -/
theorem updStr_congr {d : Dev} {id : Nat} {st : Stream} {f g : Stream → Stream} (hwf : d.strs.strs.wf = true)
    (hs : d.str? id = some st) (h : f st = g st) : d.updStr id f = d.updStr id g := by
  have hupd : Map.upd id f d.strs.strs = Map.upd id g d.strs.strs := Map.upd_congr fun v hv => by
    obtain rfl : v = st := Option.some.inj ((Map.get?_of_mem hwf hv).symm.trans hs)
    exact h
  simp only [Dev.updStr, Dev.updStrs, hupd]

/-! ## Messages heard by a stream -/

/-- The device as a message of a stream with `n` bytes of data is heard: it is noted at its port and accounted to the
stream, which is in use again (R186, R353, R428). -/
def heard (id port n : Nat) (st : Stream) (m : Bytes) (d : Dev) : Dev :=
  (grantBytes st.qos 2 st.port n (noteRx port m d)).updStr id fun x => { x with touch := d.now }

section
variable {id port n : Nat} {st : Stream} {m : Bytes} {d : Dev}

/-- Noting a message and accounting its bytes leaves streams, objects and power alone. -/
theorem noteRx_grant_frame : let e := grantBytes st.qos 2 st.port n (noteRx port m d)
    e.strs = d.strs ∧ e.objs = d.objs ∧ e.pwr = d.pwr := by
  obtain ⟨c, q, hg⟩ := grantBytes_frame st.qos 2 st.port n (noteRx port m d)
  rw [hg]
  exact ⟨rfl, rfl, rfl⟩

theorem touch_eq_heard : let e := grantBytes st.qos 2 st.port n (noteRx port m d)
    e.updStr id (fun x => { x with touch := e.now }) = heard id port n st m d := by
  obtain ⟨-, -, hpwr⟩ := noteRx_grant_frame (st := st) (n := n) (port := port) (m := m) (d := d)
  simp only [heard, Dev.now, hpwr]

theorem wf_heard (hwf : d.strs.strs.wf = true) : (heard id port n st m d).strs.strs.wf = true := by
  obtain ⟨hstrs, -⟩ := noteRx_grant_frame (st := st) (n := n) (port := port) (m := m) (d := d)
  exact wf_updStr (by rwa [hstrs]) id _

theorem str?_heard (hs : d.str? id = some st) :
    (heard id port n st m d).str? id = some { st with touch := d.now } := by
  obtain ⟨hstrs, -⟩ := noteRx_grant_frame (st := st) (n := n) (port := port) (m := m) (d := d)
  rw [heard, str?_updStr_self, Dev.str?, hstrs]
  exact congrArg (Option.map _) hs

end

theorem str?_of_strOn {d : Dev} {port id : Nat} {st : Stream} (h : d.strOn port id = some st) :
    d.str? id = some st := by
  unfold Dev.strOn at h
  split at h
  next s hs =>
    split at h
    · exact hs.trans h
    · cases h
  next => cases h

/-- A message of a stream that is in hardware is handled by it as it comes. -/
theorem streamMsg_hw {port id : Nat} {m : Bytes} {d : Dev} {st : Stream} (hid : fld m 4 0 32 = id)
    (hs : d.strOn port id = some st) (hw : st.hw = true) :
    streamMsg port m d = handleMsg id d.now st m (noteRx port m d) := by
  simp only [streamMsg, takeStreamMsg, msgStream, hid, hs, hw, if_true]

/-- A tile write on a tiled object, its bytes accounted (R353). -/
theorem handleMsg_tileWr {id rx : Nat} {st : Stream} {m : Bytes} {d : Dev} (hc : fld m 0 0 8 = 3)
    (hext : isExtent st.obj = false) :
    handleMsg id rx st m d = takeTileWr id st m (grantBytes st.qos 2 st.port (fld m 0xA 0 16) d) := by
  simp [handleMsg, hc, hext]

theorem handleMsg_tokens {id rx : Nat} {st : Stream} {m : Bytes} {d : Dev} (hc : fld m 0 0 8 = 6) :
    handleMsg id rx st m d = takeTokens id st m (grantBytes st.qos 2 st.port (fld m 0xE 0 16) d) := by
  simp [handleMsg, hc]

theorem recvMsg_stream {port : Nat} {m : Bytes}
    (h : fld m 0 0 8 = 1 ∨ fld m 0 0 8 = 3 ∨ fld m 0 0 8 = 5 ∨ fld m 0 0 8 = 6) (d : Dev) :
    recvMsg port m d = streamMsg port m d := if_pos h

/-- A stream in hardware, active on a bound port, and a whole message for it (R185). -/
structure Hears (s : State) (port id : Nat) (m : Bytes) (st : Stream) : Prop where
  live : s.live
  whole : msgLen m = some m.length
  linkUp : (s.dev.port port).st = .active
  bound : (s.dev.port port).bound = true
  named : (s.dev.port port).idFail = false
  stream : fld m 4 0 32 = id
  here : s.dev.strOn port id = some st
  hw : st.hw = true
  active : st.st = .active

/-- What such a message does is what the stream makes of it. -/
theorem Hears.does {s : State} {port id code : Nat} {m : Bytes} {st : Stream} {i : Instr} {d : Dev}
    (h : Hears s port id m st) (he : exec i s = onDev (msgRow code port m) s) (hc : fld m 0 0 8 = code)
    (hcode : code = 1 ∨ code = 3 ∨ code = 5 ∨ code = 6)
    (hd : handleMsg id s.dev.now st m (noteRx port m s.dev) = d) : Does i s d := by
  have hrecv : recvMsg port m s.dev = d :=
    (recvMsg_stream (by omega) _).trans ((streamMsg_hw h.stream h.here h.hw).trans hd)
  exact does_of_msgRow he h.live h.whole hc ((portMsg_bound h.linkUp h.bound h.named (by omega)).trans hrecv)

/-! ## Segments of tile writes (R198) -/

section
variable {id : Nat} {m : Bytes} {d : Dev} {st : Stream} {o : Obj}

/-- A write segment of an active WRITE stream on an object of its half. -/
theorem takeTileWr_segment (hst : st.st = .active) (hk : st.kind = 1) (hd : st.drops = [])
    (ho : d.obj? st.obj = some o) (hp : d.pwr.sable = false) :
    takeTileWr id st m d = takeSegment id st o.count o.canon (takeWrite id st o) m
      (d.updStr id fun x => { x with touch := d.now }) := by
  have hobj : (d.updStr id fun x => { x with touch := d.now }).obj? st.obj = some o := ho
  have hsable : (d.updStr id fun x => { x with touch := d.now }).pwr.sable = false := hp
  simp only [takeTileWr, takeTileWrOn, hst, hk, hd, hobj, hsable]
  rfl

/-- The part of a write that its first segment, not its last, leaves. -/
def firstPart (m : Bytes) : WrPart :=
  { tile := fld m 0xC 0 32, tag := fld m 8 0 16, got := (m.drop 32).take (fld m 0xA 0 16) }

theorem takeSegment_first {count canon : Nat} {whole : Nat → Nat → Bytes → Bytes → Dev → Dev} (hparts : st.parts = [])
    (hres : wrReserved m = false) (htile : fld m 0xC 0 32 < count) (hoff : fld m 0x18 0 32 = 0)
    (hlen : fld m 0xA 0 16 ≤ 16384) (hroom : (st.acks.filter (·.status.isNone)).length < st.maxOut)
    (hlast : fld m 1 0 1 ≠ 1) (hsig : fld m 1 2 1 = 0) (hcanon : fld m 0xA 0 16 ≤ canon) :
    takeSegment id st count canon whole m d = d.updStr id fun s => { s with
      parts := s.parts.filter (·.key != writeKey (fld m 8 0 16) (fld m 0xC 0 32)) ++ [firstPart m] } := by
  have hover : ¬(st.acks.filter (·.status.isNone)).length + 1 > st.maxOut := by omega
  simp [takeSegment, firstPart, hparts, hres, hoff, hlast, hsig, hover, Nat.not_le.mpr htile, Nat.not_lt.mpr hlen,
    Nat.not_lt.mpr hcanon]

/-- The clause of O43 about a write's first segment holds where the streams form a canonical map: the segment is kept,
and nothing else of the stream changes but its time of use. -/
theorem tileWr_first_kept {s : State} {port : Nat} (h : Hears s port id m st) (hwf : s.dev.strs.strs.wf = true)
    (hc : fld m 0 0 8 = 3) (hext : isExtent st.obj = false) (ho : s.dev.obj? st.obj = some o) (hk : st.kind = 1)
    (hparts : st.parts = []) (hdrops : st.drops = []) (hp : s.dev.pwr.sable = false) (hres : wrReserved m = false)
    (htile : fld m 0xC 0 32 < o.count) (hoff : fld m 0x18 0 32 = 0) (hlen : fld m 0xA 0 16 ≤ 16384)
    (hroom : (st.acks.filter (·.status.isNone)).length < st.maxOut) (hlast : fld m 1 0 1 ≠ 1)
    (hsig : fld m 1 2 1 = 0) (hcanon : fld m 0xA 0 16 ≤ o.canon) :
    Does (.tileWr port m) s ((heard id port (fld m 0xA 0 16) st m s.dev).updStr id fun x => { x with
      parts := [firstPart m] }) := by
  obtain ⟨-, hobjs, hpwr⟩ := noteRx_grant_frame (st := st) (n := fld m 0xA 0 16) (port := port) (m := m) (d := s.dev)
  refine h.does rfl hc (by omega) ((handleMsg_tileWr hc hext).trans ?_)
  refine (takeTileWr_segment (o := o) h.active hk hdrops (by rwa [Dev.obj?, hobjs]) (by rwa [hpwr])).trans ?_
  rw [touch_eq_heard, takeSegment_first hparts hres htile hoff hlen hroom hlast hsig hcanon]
  exact updStr_congr (wf_heard hwf) (str?_heard (str?_of_strOn h.here)) (by simp [hparts])

end

/-! ## Segments of token batches (R263) -/

section
variable {id : Nat} {m : Bytes} {d : Dev} {st : Stream}

/-- The part of a batch that its first segment, not its last, leaves. -/
def firstTokens (m : Bytes) : BatchPart :=
  { tag := fld m 8 0 32, hdr := m.take 32, got := (m.drop 32).take (fld m 0xE 0 16) }

theorem takeTokens_first (hst : st.st = .active) (hk : st.kind = 3) (hin : st.batchIn = []) (hdrops : st.drops = [])
    (hres : tokReserved m = false) (hoff : fld m 0x18 0 32 = 0) (hlen : fld m 0xE 0 16 ≤ 16384)
    (hn : fld m 0x1C 0 9 ≠ 0) (hmax : fld m 0x1C 0 9 ≤ 256) (hlast : fld m 1 0 1 ≠ 1) (hsig : fld m 1 1 1 = 0) :
    takeTokens id st m d = (d.updStr id fun s => { s with touch := d.now }).updStr id fun s => { s with
      batchIn := s.batchIn.filter (·.tag != fld m 8 0 32) ++ [firstTokens m] } := by
  simp [takeTokens, firstTokens, hst, hk, hin, hdrops, hres, hoff, hlast, hsig, Nat.not_lt.mpr hlen, hn,
    Nat.not_lt.mpr hmax]

section
variable {s : State} {port : Nat} (h : Hears s port id m st) (hc : fld m 0 0 8 = 6) (hk : st.kind = 3)
  (hin : st.batchIn = []) (hdrops : st.drops = []) (hres : tokReserved m = false) (hoff : fld m 0x18 0 32 = 0)
  (hlen : fld m 0xE 0 16 ≤ 16384) (hn : fld m 0x1C 0 9 ≠ 0) (hmax : fld m 0x1C 0 9 ≤ 256) (hlast : fld m 1 0 1 ≠ 1)
  (hsig : fld m 1 1 1 = 0)
include h hc hk hin hdrops hres hoff hlen hn hmax hlast hsig

/-- The first segment takes its place in every stream of the number. -/
theorem execTokens_first : Does (.execTokens port m) s ((heard id port (fld m 0xE 0 16) st m s.dev).updStr id fun x =>
    { x with batchIn := x.batchIn.filter (·.tag != fld m 8 0 32) ++ [firstTokens m] }) := by
  refine h.does rfl hc (by omega) ((handleMsg_tokens hc).trans ?_)
  exact (takeTokens_first h.active hk hin hdrops hres hoff hlen hn hmax hlast hsig).trans (by rw [touch_eq_heard])

/-- The clause of O43 about a batch's first segment holds where the streams form a canonical map. -/
theorem execTokens_first_kept (hwf : s.dev.strs.strs.wf = true) :
    Does (.execTokens port m) s ((heard id port (fld m 0xE 0 16) st m s.dev).updStr id fun x => { x with
      batchIn := [firstTokens m] }) := by
  have hfirst := execTokens_first h hc hk hin hdrops hres hoff hlen hn hmax hlast hsig
  rwa [updStr_congr (wf_heard hwf) (str?_heard (str?_of_strOn h.here)) (g := fun x => { x with
    batchIn := [firstTokens m] }) (by simp [hin])] at hfirst

end

end

/-! ## Parked contexts restored (R187, log entry 78) -/

/-- The device with a parked context back in hardware. -/
def backInHardware (id : Nat) (d : Dev) : Dev :=
  traceStr 5 id (d.updStr id fun s => { s with
    hw := true, st := if s.st = .parked then .active else s.st, restoring := false, touch := d.now })

/-- What waited for a context handled, oldest first, and the messages of its link die looked at again. -/
def heldHandled (id : Nat) (st : Stream) (d : Dev) : Dev :=
  pumpDie id st.port (st.held.foldl (fun d t => handleTouch id t d) (d.updStr id fun s => { s with held := [] }))

theorem traceStr_strs (ev id : Nat) (d : Dev) : (traceStr ev id d).strs = d.strs := by
  unfold traceStr
  split
  · rfl
  · simp

theorem restoreContext_room {id : Nat} {d : Dev} (h : d.hwUsed < hwContexts) :
    restoreContext id d = backInHardware id d := by
  simp only [restoreContext, makeContext, if_pos h, backInHardware]

theorem str?_backInHardware {id : Nat} {d : Dev} {st : Stream} (hs : d.str? id = some st) :
    (backInHardware id d).str? id = some { st with
      hw := true, st := if st.st = .parked then .active else st.st, restoring := false, touch := d.now } := by
  rw [Dev.str?, backInHardware, traceStr_strs]
  exact (str?_updStr_self ..).trans (congrArg (Option.map _) hs)

section
variable {id : Nat} {d : Dev} {st x : Stream} (hs : d.str? id = some st) (hw : st.hw = false)
  (hr : st.restoring = true) (hroom : d.hwUsed < hwContexts)
include hs hw hr hroom

/-- A context that waits for its restoration is back where there is room; what its words do comes first. -/
theorem contextRestored_room (hx : (backInHardware id d).str? id = some x) (f : Stream → Dev → Dev) :
    contextRestored id f d = heldHandled id st (f x (backInHardware id d)) := by
  have hhw : x.hw = true := by
    obtain rfl := Option.some.inj ((str?_backInHardware hs).symm.trans hx)
    rfl
  simp [contextRestored, hs, hw, hr, restoreContext_room hroom, hx, hhw, heldHandled]

end

/-- Where the streams form a canonical map, a parked context that is back is active. -/
theorem backInHardware_parked {id : Nat} {d : Dev} {st : Stream} (hwf : d.strs.strs.wf = true)
    (hs : d.str? id = some st) (hp : st.st = .parked) : backInHardware id d = traceStr 5 id (d.updStr id fun s =>
      { s with hw := true, st := .active, restoring := false, touch := d.now }) := by
  rw [backInHardware, updStr_congr hwf hs]
  simp [hp]

/-- The clause of O44 about restored contexts holds where the streams form a canonical map. -/
theorem streamContextRestored_parked {s : State} {id : Nat} {st : Stream} (hlive : s.live)
    (hwf : s.dev.strs.strs.wf = true) (hs : s.dev.str? id = some st) (hp : st.st = .parked) (hw : st.hw = false)
    (hr : st.restoring = true) (hroom : s.dev.hwUsed < hwContexts) :
    let back := traceStr 5 id (s.dev.updStr id fun k => { k with
      hw := true, st := .active, restoring := false, touch := s.dev.now })
    Does (.streamContextRestored ⟨id, true⟩) s (heldHandled id st back) ∧
      ∀ x, back.str? id = some x →
        Does (.streamContextRestored ⟨id, false⟩) s (heldHandled id st (contextFault id x back)) := by
  intro back
  have hback : backInHardware id s.dev = back := backInHardware_parked hwf hs hp
  rw [← hback]
  exact ⟨does_of_onDev rfl hlive (contextRestored_room hs hw hr hroom (str?_backInHardware hs) fun _ d => d),
    fun x hx => does_of_onDev rfl hlive (contextRestored_room hs hw hr hroom hx (contextFault id))⟩

end Sys2Proof.Machine
end

section
/-! SUPPORT. O43 and O44 fail where the streams do not form a canonical map: an update of a stream reaches every entry
of its number, and an entry that is hidden behind the first need not look like it. -/

namespace Sys2Proof.Machine

/-- A step has one effect on the streams: the settling leaves them alone. -/
theorem does_strs_eq {i : Instr} {s : State} {d d' : Dev} (h : Does i s d) (h' : Does i s d') : d.strs = d'.strs := by
  have kept (d : Dev) : (s.after d).dev.strs = d.strs := (settle_frame ..).strs
  have same : s.after d = s.after d' := Host.Outcome.next.inj (h.symm.trans h')
  rw [← kept d, same, kept]

/-- A stream of tenant 0 on port 0 with nothing to do. -/
def bareStream (kind : Nat) (st : StrState) (hw restoring : Bool) : Stream :=
  { kind := kind, unord := false, port := 0, tenant := 0, half := 0, obj := 0, ver := 0, layout := 0, maxOut := 1
    binding := 0, source := 0, qos := 0, opener := none, openCmd := none, st := st, hw := hw, hstat := 0, herr := 0
    done := 0, touch := 0, reqs := [], parts := [], drops := [], acks := [], batchIn := [], batches := []
    closeCmd := none, abortC := false, restoring := restoring, stall := none, held := [], nextReq := 0 }

/-- The device in service mode with number 0 held by two streams, its port 0 active and bound to tenant 0. -/
def streamsTwice (first hidden : Stream) : State :=
  let d := (Dev.reset.updPwr fun p => { p with mode := .service, step := 8 }).updPort 0 fun p => { p with
    st := .active, bound := true, tenants := [0] }
  { State.reset with dev := d.updStrs fun x => { x with strs := [(0, first), (0, hidden)] } }

/-! ## A token batch's first segment -/

/-- An idle EXEC stream. -/
def idleExec : Stream := bareStream 3 .active true false

/-- The same with a batch of tag 1 that has begun to arrive. -/
def busyExec : Stream := { idleExec with batchIn := [{ tag := 1, hdr := [], got := [] }] }

/-- A first segment of 16 bytes of a batch of one token and tag 0, for stream 0 (Table 8-11). -/
def firstTokensMsg : Bytes :=
  leBytes 1 6 ++ zeros 13 ++ leBytes 2 16 ++ zeros 12 ++ leBytes 2 1 ++ zeros 2 ++ zeros 16

theorem firstTokensMsg_heard : Hears (streamsTwice idleExec busyExec) 0 0 firstTokensMsg idleExec where
  live := ⟨rfl, rfl⟩
  whole := by decide +kernel
  linkUp := by decide +kernel
  bound := by decide +kernel
  named := by decide +kernel
  stream := by decide +kernel
  here := by decide +kernel
  hw := rfl
  active := rfl

/-- Refutes O43: its clause about a batch's first segment has the segment alone in what the stream is receiving, but the
hidden stream of the number keeps its own segment too. With a canonical map the clause holds
(`execTokens_first_kept`), and so does the one about a write's first segment (`tileWr_first_kept`). -/
theorem not_streamMessages : ¬ Obligations.StreamMessages := by
  unfold Obligations.StreamMessages
  intro h
  obtain ⟨hlive, hwhole, hup, hbound, hnamed, hid, hhere, hhw, hact⟩ := firstTokensMsg_heard
  obtain ⟨-, -, -, hbatch⟩ := h (streamsTwice idleExec busyExec) 0 0 firstTokensMsg idleExec hlive hwhole hup hbound
    hnamed hid hhere hhw hact
  obtain ⟨halone, -⟩ := hbatch (by decide +kernel) rfl rfl rfl (by decide +kernel) (by decide +kernel)
    (by decide +kernel) (by decide +kernel) (by decide +kernel)
  have hkept := execTokens_first firstTokensMsg_heard (by decide +kernel) rfl rfl rfl (by decide +kernel)
    (by decide +kernel) (by decide +kernel) (by decide +kernel) (by decide +kernel) (by decide +kernel)
    (by decide +kernel)
  exact absurd (does_strs_eq hkept (halone (by decide +kernel) (by decide +kernel))) (by decide +kernel)

/-! ## A parked context restored -/

/-- A parked READ stream that waits for its context. -/
def parkedRead : Stream := bareStream 0 .parked false true

/-- A halted one. -/
def haltedRead : Stream := bareStream 0 .halted false false

/-- Refutes O44: its clause about a restored context has every stream of the number active, but the hidden one here is
halted and stays so. With a canonical map the clause holds (`streamContextRestored_parked`). -/
theorem not_streamEvents : ¬ Obligations.StreamEvents := by
  unfold Obligations.StreamEvents
  intro h
  have hlive : (streamsTwice parkedRead haltedRead).live := ⟨rfl, rfl⟩
  have hs : (streamsTwice parkedRead haltedRead).dev.str? 0 = some parkedRead := rfl
  have hroom : (streamsTwice parkedRead haltedRead).dev.hwUsed < hwContexts := by decide +kernel
  obtain ⟨-, hrestored, -⟩ := h (streamsTwice parkedRead haltedRead) 0 hlive
  obtain ⟨hactive, -⟩ := hrestored parkedRead hs rfl rfl rfl hroom
  have hback : Does (.streamContextRestored ⟨0, true⟩) (streamsTwice parkedRead haltedRead) _ :=
    does_of_onDev rfl hlive (contextRestored_room hs rfl rfl hroom (str?_backInHardware hs) fun _ d => d)
  exact absurd (does_strs_eq hback hactive) (by decide +kernel)

end Sys2Proof.Machine
end

section
/-! SUPPORT. O10: lane reductions and matrix instructions, each a case of the frame that a slice's instruction runs in
(R256, R289, Tables 9-12, 9-13 and 9-16). -/

namespace Sys2Proof.Machine

/-- A lane reduction writes the tree's value, extended to 64 bits, whichever lanes are active. -/
theorem reduceLanes_stands {s : State} {op n i : Nat} {x : ICtx} (h : Stands s op n i x) (unit : BitVec 32)
    (f : BitVec 32 → BitVec 32 → BitVec 32) (signed : Bool) :
    onDev (reduceLanes op n i unit f signed) s = .next (s.stepped n i (Slice.setS (wD x.w)
      (if signed then (laneTree f (x.folded unit)).signExtend 64 else (laneTree f (x.folded unit)).setWidth 64))) :=
  pureInstr_stands h _

/-- The scales that an `MMA` reads: with `ext` 1 those of its third source, by row and then by column, else none. -/
def mmaScales (x : ICtx) : List Val :=
  if wExt x.w = 1 then (List.range 64).map fun k => scaleVal ((x.vc.getD k 0).toNat % 256) else []

/-- A scale that is not read is 1. -/
def scaleAt (scales : List Val) (k : Nat) : Val := scales.getD k (.fin false 1 0)

theorem scaleAt_mmaScales {x : ICtx} {k : Nat} (hk : k < 64) : scaleAt (mmaScales x) k =
    if wExt x.w = 1 then scaleVal ((x.vc.getD k 0).toNat % 256) else .fin false 1 0 := by
  unfold scaleAt mmaScales
  split
  · rw [List.getD_eq_getElem _ _ (by simpa using hk), List.getElem_map, List.getElem_range]
  · rfl

/-- An `MMA` is one step on its tile register, its scales taken from the list of those it reads. -/
theorem mma_eq (x : ICtx) : mma x = mmaStep (x.s.treg (wD x.w))
    (x.s.operand (wA x.w) (mmaFmts (wMod x.w)).1) (x.s.operand (wB x.w) (mmaFmts (wMod x.w)).2)
    ((List.range 32).map (scaleAt (mmaScales x))) ((List.range 32).map fun j => scaleAt (mmaScales x) (32 + j)) := by
  have row : (List.range 32).map (scaleAt (mmaScales x)) = (List.range 32).map fun k =>
      if wExt x.w = 1 then scaleVal ((x.vc.getD k 0).toNat % 256) else .fin false 1 0 :=
    List.map_congr_left fun k hk => scaleAt_mmaScales (by simp at hk; omega)
  have col : (List.range 32).map (fun j => scaleAt (mmaScales x) (32 + j)) = (List.range 32).map fun j =>
      if wExt x.w = 1 then scaleVal ((x.vc.getD (32 + j) 0).toNat % 256) else .fin false 1 0 :=
    List.map_congr_left fun j hj => scaleAt_mmaScales (by simp at hj; omega)
  rw [row, col]
  rfl

/-- Settles O10: each instruction is its case of the slice's frame; of the matrix instructions, `MMA` alone needs more
than its definition (`mma_eq`). -/
theorem reduceAndMatrix : Obligations.ReduceAndMatrix := by
  unfold Obligations.ReduceAndMatrix
  intro s n i x va fold into
  refine ⟨?rfadd, ?rfmin, ?rfmax, ?riadd, fun hl => ⟨?mzero, ?mma, ?mrd, ?mwr⟩⟩
  case rfadd => exact fun h => reduceLanes_stands h _ fAdd false
  case rfmin => exact fun h => reduceLanes_stands h _ fMin false
  case rfmax => exact fun h => reduceLanes_stands h _ fMax false
  case riadd => exact fun h => reduceLanes_stands h _ (fun a b => a + b) true
  case mzero => exact fun h => scalarInstr_stands h hl fun x sl => sl.setT (wD x.w) (List.replicate 1024 0)
  case mma =>
    intro h one scales
    refine (scalarInstr_stands h hl fun x sl => sl.setT (wD x.w) (mma x)).trans ?_
    rw [mma_eq]
    rfl
  case mrd => exact fun h => scalarInstr_stands h hl mrd
  case mwr => exact fun h => scalarInstr_stands h hl mwr

end Sys2Proof.Machine
end

section
/-! SUPPORT. O13: `LDT`, `STT` and `TCOMMIT` where nothing traps (R277 to R280, Table 9-6). -/

namespace Sys2Proof.Machine

/-! ## What a load, a store or a commit checks first -/

theorem trapIf_false {b : Bool} {t : TrapInfo} (h : b = false) : trapIf b t = .ok () := if_neg (by simp [h])

theorem trapIf_bounds {a b : Nat} {t : TrapInfo} (h : a < b) : trapIf (decide (a ≥ b)) t = .ok () :=
  trapIf_false (decide_eq_false (Nat.not_le.mpr h))

theorem trapIf_align {a m : Nat} {t : TrapInfo} (h : a % m = 0) : trapIf (a % m != 0) t = .ok () :=
  trapIf_false (by simp [h])

section
variable {x : ICtx} {role k tile : Nat} {a : RunArg} {o : Obj} {d : Dev}

theorem argTile_ok (ha : x.r.args[k]? = some a) (hr : a.role = role) (ho : d.obj? a.obj = some o)
    (ht : tile < o.count) : x.argTile role k tile d = .ok (a, o) := by
  have hrole : (a.role != role) = false := by simp [hr]
  simp only [ICtx.argTile, ha, ho, bind, Except.bind, trapIf_false hrole, trapIf_bounds ht]

theorem openBuf_fresh (hw : rewrites x k tile = false) (hb : x.s.buf? k tile = none) (hl : x.s.bufs.length < 8) :
    openBuf x k tile o = .ok { arg := k, tile := tile, data := o.zeroTile } := by
  simp only [openBuf, bind, Except.bind, trapIf_false hw, hb, trapIf_bounds hl]

theorem openBuf_open {b : OutBuf} (hw : rewrites x k tile = false) (hb : x.s.buf? k tile = some b) :
    openBuf x k tile o = .ok b := by
  simp only [openBuf, bind, Except.bind, trapIf_false hw, hb]

end

theorem stageTile_present {n a t half : Nat} {r : Run} {d : Dev} (hr : d.run? n = some r)
    (hs : r.staged.contains (a, t) = true) : stageTile n a t half d = (.present, d) := by
  simp only [stageTile, hr, if_pos hs]

/-- The tile that a commit of a buffer with some data writes: what a library kernel's result is defined to be, else the
data, with the bits outside the object cleared (R259, R279). -/
def committed (r : Run) (k tile : Nat) (o : Obj) (data : Bytes) (d : Dev) : Bytes :=
  o.mask tile ((d.libTile r k tile o).getD data)

theorem commitBuf_ok {n i : Nat} {r : Run} {b : OutBuf} {a : RunArg} {o : Obj} {d : Dev}
    (ha : r.args[b.arg]? = some a) (ho : d.obj? a.obj = some o)
    (hs : o.scalesOk (committed r b.arg b.tile o b.data d) = true) :
    commitBuf n i r b d = .ok (runWrite n i b.arg b.tile a (committed r b.arg b.tile o b.data d) d) := by
  have hformat : (!o.scalesOk (committed r b.arg b.tile o b.data d)) = false := by simp [hs]
  unfold committed at hformat
  simp only [commitBuf, ha, ho, bind, Option.bind, Option.map, Except.bind, trapIf_false hformat]
  rfl

/-- A load or store that acts on its slice alone leaves the rest of the state as it was. -/
theorem memInstr_stands {s : State} {op n i : Nat} {x : ICtx} (h : Stands s op n i x) (hm : x.mask ≠ 0)
    {f : ICtx → Dev → Except TrapInfo Dev} {g : Slice → Slice} (hf : f x s.dev = .ok (x.advance g s.dev)) :
    onDev (memInstr op n i f) s = .next (s.stepped n i g) :=
  onDev_advance h (memInstr_on h hm hf) rfl rfl rfl rfl rfl

section
variable {s : State} {n i : Nat} {x : ICtx} {a : RunArg} {o : Obj} (ha : x.r.args[x.argIx]? = some a)
  (ho : s.dev.obj? a.obj = some o)
include ha ho

/-- `LDT` of a tile that is staged loads what of it lies at the offset, as the argument's layout delivers it. -/
theorem instrLdt_staged (h : Stands s 0x20 n i x) (hm : x.mask ≠ 0) (hr : a.role = 1) (ht : x.sa.toNat < o.count)
    (hb : x.tileOff x.sb < delivSize (argLay a o) o.th o.tw) (hal : x.tileOff x.sb % 4 = 0)
    (hst : x.r.staged.contains (x.argIx, x.sa.toNat) = true) :
    onDev (instrLdt n i) s = .next (s.stepped n i (x.setV (lanesOf (((Machine.deliver o.fmt o.th o.tw (argLay a o)
      (s.dev.tileAt a.obj a.ver x.sa.toNat).1).1.drop (x.tileOff x.sb)).take 256)))) := by
  refine memInstr_stands h hm ?_
  simp only [bind, Except.bind, argTile_ok ha hr ho ht, trapIf_bounds hb, trapIf_align hal, stageTile_present h.run hst]
  rfl

/-- `STT` to a tile without a buffer opens one and stores into it. -/
theorem instrStt_opens (h : Stands s 0x21 n i x) (hm : x.mask ≠ 0) (hr : a.role = 2) (ht : x.sb.toNat < o.count)
    (hb : x.tileOff x.sc < o.canon) (hal : x.tileOff x.sc % 4 = 0) (hw : rewrites x x.argIx x.sb.toNat = false)
    (hl : x.s.bufs.length < 8) (hnone : x.s.buf? x.argIx x.sb.toNat = none) :
    onDev (instrStt n i) s = .next (s.stepped n i (Slice.setBuf
      { arg := x.argIx, tile := x.sb.toNat, data := x.storeInto (x.tileOff x.sc) o.zeroTile })) := by
  refine memInstr_stands h hm ?_
  simp only [bind, Except.bind, argTile_ok ha hr ho ht, trapIf_bounds hb, trapIf_align hal, openBuf_fresh hw hnone hl]

/-- A slice without its buffer for an output tile. -/
def closeBuf (k tile : Nat) (sl : Slice) : Slice :=
  { sl with bufs := sl.bufs.filter fun c => !(c.arg == k && c.tile == tile) }

/-- `TCOMMIT` of an open buffer writes its tile and closes it. -/
theorem instrTcommit_writes (h : Stands s 0x22 n i x) (hl : x.lane 0 = true) (hr : a.role = 2)
    (ht : x.sa.toNat < o.count) (hw : rewrites x x.argIx x.sa.toNat = false) {b : OutBuf}
    (hb : x.s.buf? x.argIx x.sa.toNat = some b) (hk : b.arg = x.argIx) (htile : b.tile = x.sa.toNat)
    (hs : o.scalesOk (committed x.r x.argIx x.sa.toNat o b.data s.dev) = true) :
    instrTcommit n i s.dev = x.advance (closeBuf x.argIx x.sa.toNat)
      (runWrite n i x.argIx x.sa.toNat a (committed x.r x.argIx x.sa.toNat o b.data s.dev) s.dev) := by
  have hcommit : commitBuf n i x.r b s.dev = .ok (runWrite n i x.argIx x.sa.toNat a
      (committed x.r x.argIx x.sa.toNat o b.data s.dev) s.dev) := by
    rw [← hk, ← htile] at hs ⊢
    exact commitBuf_ok (hk ▸ ha) ho hs
  refine wholeInstr_on h hl ?_
  simp only [bind, Except.bind, argTile_ok ha hr ho ht, openBuf_open hw hb, hcommit]
  rfl

end

/-- Settles O13: each instruction passes its checks and acts on the slice; a commit writes its tile too. -/
theorem tileMemory : Obligations.TileMemory := by
  unfold Obligations.TileMemory
  intro s n i x a o k off ha ho
  refine ⟨?ldt, ?stt, ?tcommit⟩
  case ldt =>
    intro h hm hr tile at' lay ht hb hal hst
    exact instrLdt_staged ha ho h hm hr ht hb hal hst
  case stt =>
    intro h hm hr tile at' ht hb hal hw hl hnone
    exact instrStt_opens ha ho h hm hr ht hb hal hw hl hnone
  case tcommit =>
    intro h hl hr tile ht hw b hb hk htile out hs
    refine ⟨_, onDev_eq h.live.1 h.live.2 _, congrArg (settle s.dev) ?_⟩
    rw [instrTcommit_writes ha ho h hl hr ht hw hb hk htile hs, ICtx.advance, h.names.1, h.names.2]
    rfl

end Sys2Proof.Machine
end

section
/-! SUPPORT. Kernels, runs and expert bindings: what each form of their commands answers (R235 to R246, R258, R260,
R261). -/

namespace Sys2Proof.Machine

/-- A ready inline command whose body reads one piece from its start and then answers success with results. -/
theorem ends_of_inlineRes {i : Instr} {s : State} {n op len : Nat} {c : Cmd} {body : Body} {b : Bytes} {d : Dev}
    (hx : exec i s = onDev (startCmd op body n) s) (h : Ready s n op c) (hi : c.inl)
    (hread : body ⟨n, c⟩ [] none s.dev = .ok (.read 0 len s.dev)) (hlen : len ≤ c.input.length)
    (hb : body ⟨n, c⟩ [c.input.take len] none s.dev = okRes b d) : Ends i n s (Cpl.ok b) d :=
  ends_of_inline hx h hi hread ((Nat.zero_add _).trans_le hlen) hb (by simp [Cpl.ok_bytes])

theorem checkKernel_mine {x : Ctx} {h off : Nat} {k : Kernel} {d : Dev} (hk : d.kernel? h = some k)
    (ht : k.tenant = x.t) : checkKernel x off h d = .ok k := by
  simp only [checkKernel, hk, if_pos ht]

/-! ## `KERNEL_LOAD` (R235 to R238, R258) -/

/-- Checks that all pass, one for each member of a list. -/
theorem foldlM_checks {ε α : Type} {f : Unit → α → Except ε Unit} {l : List α} (h : ∀ a ∈ l, f () a = .ok ()) :
    l.foldlM f () = .ok () := by
  induction l with
  | nil => rfl
  | cons a l ih =>
    rw [List.foldlM_cons, h a (List.mem_cons_self ..)]
    exact ih fun b hb => h b (List.mem_cons_of_mem _ hb)

/-- The halves a new kernel has a copy on: both, in sable mode the issuing one. -/
def kernelHalves (x : Ctx) (d : Dev) : List Nat := if d.pwr.sable then [x.half] else [x.half, 1 - x.half]

/-- Near-tier bytes charged for a binary of a length (R235). -/
def kernelCharge (len : Nat) : Nat := roundUp (2 * len) 4096

/-- The handle of a tenant's next object, a kernel. -/
def Dev.kernelHandle (d : Dev) (t : Nat) : Nat := mkHandle t 5 (d.objs.nextNum.getD t 1)

/-- The kernel of a header and code. -/
def newKernel (x : Ctx) (lib : Nat) (h code : Bytes) (d : Dev) : Kernel :=
  { tenant := x.t, header := h, code := wordsOf code, charge := kernelCharge (256 + code.length), lib := lib
    copies := [0, 1].map fun half => if (kernelHalves x d).contains half then
      some ((takeNum x.t d).2.pickStack half []) else none }

/-- The device with that kernel, its number taken, its bytes charged and its copies placed. -/
def kernelMade (x : Ctx) (lib : Nat) (h code : Bytes) (d : Dev) : Dev :=
  ((kernelHalves x d).foldl (fun d half => addNearH half (roundUp (256 + code.length) 4096) d)
    (addNearT x.t (kernelCharge (256 + code.length)) (takeNum x.t d).2)).updComp fun m => { m with
      kernels := Map.set (d.kernelHandle x.t) (newKernel x lib h code d) m.kernels }

/-- Results of `KERNEL_LOAD` for a binary of a length: the handle and the bytes charged. -/
def kernelResults (x : Ctx) (len : Nat) (d : Dev) : Bytes :=
  leBytes 8 (d.kernelHandle x.t) ++ leBytes 8 (kernelCharge len)

/-- A binary of a length has room: among kernels and objects, in the tenant's quota and on every half it goes to. -/
structure KernelFits (x : Ctx) (len : Nat) (d : Dev) : Prop where
  kernels : d.comp.kernels.length < 16384
  objects : d.objectCount < 16777216
  quota : checkQuota x.t 0 (kernelCharge len) 0 d = .ok ()
  copies : ∀ half ∈ kernelHalves x d, d.short half (roundUp len 4096) 0 = (0, 0)

theorem makeKernel_fits {x : Ctx} {lib : Nat} {h code : Bytes} {d : Dev} (hf : KernelFits x (256 + code.length) d) :
    makeKernel x lib h code d = okRes (kernelResults x (256 + code.length) d) (kernelMade x lib h code d) := by
  obtain ⟨hkernels, hobjects, hquota, hcopies⟩ := hf
  have hroom : (kernelHalves x d).foldlM (fun _ half => do
      let _ ← chooseHalf (roundUp (256 + code.length) 4096) 0 d [half]
      Except.ok ()) () = .ok () :=
    foldlM_checks fun half hh => by rw [chooseHalf_single (hcopies half hh)]; rfl
  simp only [bind, Except.bind, kernelHalves] at hroom
  unfold kernelCharge at hquota
  simp only [makeKernel, needObject, bind, Except.bind, need_of (decide_eq_true hkernels),
    need_of (decide_eq_true hobjects), hquota, hroom]
  rfl

section
variable {x : Ctx} {d : Dev} (hq : checkQos x d = .ok ())
include hq

/-- A library kernel is made at once. -/
theorem bodyKernelLoad_library (hsel : x.e.fld 0x24 0 8 = 1) (hid : x.e.w16 0x26 ∈ libIds)
    (hf : KernelFits x (256 + ((libBinary (x.e.w16 0x26)).drop 256).length) d) :
    bodyKernelLoad x [] none d = okRes (kernelResults x (256 + ((libBinary (x.e.w16 0x26)).drop 256).length) d)
      (kernelMade x (x.e.w16 0x26) ((libBinary (x.e.w16 0x26)).take 256) ((libBinary (x.e.w16 0x26)).drop 256) d) := by
  have hlib : libIds.contains (x.e.w16 0x26) = true := List.contains_iff_mem.mpr hid
  refine (withData_none ?_).trans ?_
  · simp only [bind, Except.bind, hq, if_pos hsel]
  · simp only [bind, Except.bind, if_pos hsel, need_of hlib, makeKernel_fits hf]

section
variable (hsel : x.e.fld 0x24 0 8 = 0) (hmin : 264 ≤ x.e.w32 0x20) (hmax : x.e.w32 0x20 ≤ 256 + 8 * 65536)
include hsel hmin hmax

theorem bodyKernelLoad_reads : bodyKernelLoad x [] none d = .ok (.read 0 (x.e.w32 0x20) d) := by
  have hbin : ¬x.e.fld 0x24 0 8 = 1 := by omega
  refine withData_reads ?_ (by omega)
  simp only [bind, Except.bind, hq, if_neg hbin, need_of (decide_eq_true (And.intro hmin hmax))]

/-- A binary whose header, words and digest hold is made once it is read. -/
theorem bodyKernelLoad_binary {b : Bytes} (hh : badHeader (b.take 256) = none)
    (hlen : x.e.w32 0x20 = 256 + 8 * hWords (b.take 256))
    (hw : ((wordsOf (b.drop 256)).findIdx? fun w => !wordOk (b.take 256) w) = none)
    (hd : kernelDigest (b.take 256) (b.drop 256) = hDigest (b.take 256))
    (hf : KernelFits x (256 + (b.drop 256).length) d) :
    bodyKernelLoad x [b] none d = okRes (kernelResults x (256 + (b.drop 256).length) d)
      (kernelMade x 0 (b.take 256) (b.drop 256) d) := by
  have hdigest : (kernelDigest (b.take 256) (b.drop 256) == hDigest (b.take 256)) = true := beq_iff_eq.mpr hd
  have hbin : ¬x.e.fld 0x24 0 8 = 1 := by omega
  refine (withData_got (n := x.e.w32 0x20) ?_ b []).trans ?_
  · simp only [bind, Except.bind, hq, if_neg hbin, need_of (decide_eq_true (And.intro hmin hmax))]
  · simp only [bind, Except.bind, if_neg hbin, hh, need_of (decide_eq_true hlen), hw, need_of hdigest,
      makeKernel_fits hf]

end

end

/-! ## `KERNEL_RUN` (R241 to R244) -/

theorem wakeCluster_comp (pd : Nat) (d : Dev) : (wakeCluster pd d).comp = d.comp := by
  unfold wakeCluster
  split
  · simp only [apply_ite Dev.comp, Dev.updCluster_frame, ite_self]
  · simp only [apply_ite Dev.comp, Dev.setDomain_frame, ite_self]
  · rfl

theorem wakeCores_comp (cores : List Nat) (d : Dev) : (wakeCores cores d).comp = d.comp :=
  foldl_keeps (P := fun e : Dev => e.comp = d.comp) (fun _ pd h => (wakeCluster_comp pd _).trans h) _ rfl

/-- The runs with one more, under the next number. -/
def Comp.withRun (r : Run) (c : Comp) : Comp := { c with runs := Map.set c.nextRun r c.runs, nextRun := c.nextRun + 1 }

/-- A run is put into the device under the next number, with its producers' places in its arguments. -/
theorem addRun_comp (r : Run) (k : Kernel) (gx gy : Nat) (d : Dev) :
    ∃ args, (addRun r k gx gy d).2.comp = d.comp.withRun { r with args := args } := by
  have placed {e : Dev} {args : List RunArg} (he : e.comp = d.comp) :
      (wakeCores r.cores (e.updComp fun c => { c with
        runs := Map.set d.comp.nextRun { r with args := args } c.runs, nextRun := d.comp.nextRun + 1 })).comp =
      d.comp.withRun { r with args := args } :=
    (wakeCores_comp ..).trans (by rw [← he]; rfl)
  refine ⟨_, placed ?_⟩
  refine foldl_keeps (P := fun e : Dev => e.comp = d.comp) (fun e p he => ?_) _
    (foldl_keeps (P := fun s : List RunArg × Dev => s.2.comp = d.comp) (fun s p hs => ?_) _ rfl)
  · exact he
  · split
    · split <;> exact hs
    · exact hs

/-- A run that starts is put into the device as the command and its data give it. -/
theorem startRun_wait {x : Ctx} {k : Kernel} {cores : List Nat} {degraded : Bool} {b : Bytes} {d d' : Dev}
    (h : startRun x k cores degraded b d = .ok (.wait d')) :
    ∃ r, d' = (addRun r k (x.e.fld 0x30 0 20) (x.e.fld 0x34 0 20) d).2 ∧ r.by' = .cmd x.num ∧ r.tenant = x.t ∧
      r.kernel = x.e.ha ∧ r.slices = [] ∧ r.phase = 0 ∧ r.doneN = 0 ∧ r.params = b.drop (16 * hArgs k.header) ∧
      r.seed = x.e.w64 0x28 := by
  -- Every step before the last is a check or gathers what the checks find.
  iterate 12 obtain ⟨_, -, h⟩ := bind_eq_ok h
  exact ⟨_, (Res.wait.inj (Except.ok.inj h)).symm, rfl, rfl, rfl, rfl, rfl, rfl, rfl, rfl⟩

section
variable {x : Ctx} {d : Dev} {k : Kernel} {cores : List Nat} {degraded : Bool} (hk : runKernel x d = .ok k)
  (hu : checkRunUnit x.t k (x.e.w32 0x20) 0x20 d = .ok (cores, degraded))
include hk hu

theorem bodyKernelRun_reads (h0 : 16 * hArgs k.header + hParams k.header ≠ 0) :
    bodyKernelRun x [] none d = .ok (.read 0 (16 * hArgs k.header + hParams k.header) d) :=
  withData_reads (by simp only [bind, Except.bind, hk, hu]) h0

theorem bodyKernelRun_starts (b : Bytes) : bodyKernelRun x [b] none d = startRun x k cores degraded b d := by
  refine (withData_got (n := 16 * hArgs k.header + hParams k.header) ?_ b []).trans ?_
  · simp only [bind, Except.bind, hk, hu]
  · simp only [bind, Except.bind, hk, hu]

end

/-! ## `KERNEL_ABORT`, `KERNEL_UNLOAD` (R239, R240, R246) -/

/-- The device with the run that an abort names ended, unless its outputs are being sealed. -/
def abortedRun (i : Nat) (r : Run) (d : Dev) : Dev := if r.ending then d else endRun i .aborted 0 d

/-- The device without a kernel: its charge is returned and its copies are freed. -/
def kernelUnloaded (h : Nat) (k : Kernel) (d : Dev) : Dev :=
  (([0, 1].zip k.copies).foldl (fun d p =>
    if p.2.isSome then subNearH p.1 (roundUp (256 + 8 * k.code.length) 4096) d else d)
      (subNearT k.tenant k.charge d)).updComp fun m => { m with kernels := Map.del h m.kernels }

/-- The device without the binding of an expert in the set a command names. -/
def unbound (e : Entry) (d : Dev) : Dev :=
  d.updComp fun m => { m with
    sets := Map.upd (e.w32 0x24) (fun k => { k with binds := Map.del (e.w16 0x22) k.binds }) m.sets }

section
variable {x : Ctx} {d : Dev} (hq : checkQos x d = .ok ())
include hq

theorem bodyKernelAbort_run {i m : Nat} {r : Run} (hf : d.comp.runs.find? (fun p =>
      p.2.qp == x.e.w16 0x20 && p.2.tag == x.e.w16 0x22 && x.e.w16 0x20 != 0xFFFF) = some (i, r))
    (ht : r.tenant = x.t) (hm : r.by' = .cmd m) :
    bodyKernelAbort x [] none d = if ((abortedRun i r d).cmd? m).isNone then okRes [] (abortedRun i r d)
      else .ok (.wait ((abortedRun i r d).updComp fun k => { k with aborts := k.aborts ++ [(x.num, m)] })) := by
  have hmine : (r.tenant == x.t) = true := by simp [ht]
  simp only [bodyKernelAbort, plain, bind, Except.bind, hq, hf, need_of hmine, hm]
  rfl

theorem bodyKernelUnload_unused {k : Kernel} (hk : d.kernel? x.e.ha = some k) (ht : k.tenant = x.t)
    (hr : (d.comp.runs.any fun p => p.2.kernel == x.e.ha) = false)
    (hb : (d.comp.sets.any fun p => p.2.binds.any fun b => b.2.kernel == x.e.ha) = false) :
    bodyKernelUnload x [] none d = okRes [] (kernelUnloaded x.e.ha k d) := by
  have hunused : (!(d.comp.runs.any fun p => p.2.kernel == x.e.ha) &&
      !(d.comp.sets.any fun p => p.2.binds.any fun b => b.2.kernel == x.e.ha)) = true := by simp only [hr, hb]; rfl
  simp only [bodyKernelUnload, plain, bind, Except.bind, hq, checkKernel_mine hk ht, need_of hunused]
  rfl

/-! ## `EXPERT_BIND` (R260, R261) -/

theorem bodyExpertBind_newSet (hsel : x.e.b20 = 0) (hroom : d.comp.sets.length < 4096) :
    bodyExpertBind x [] none d = okRes (leBytes 4 (d.comp.sets.firstFree 0)) (d.updComp fun m => { m with
      sets := Map.set (d.comp.sets.firstFree 0) { tenant := x.t, binds := [] } m.sets }) := by
  refine (withData_none (if_neg (by omega))).trans ((if_neg (by omega)).trans ?_)
  simp only [bindOther, bind, Except.bind, hq, if_pos hsel, need_of (decide_eq_true hroom)]

section
variable {set : BindSet} (hs : ownSet x d = .ok set)
include hs

/-- An UNBIND waits where a batch of the expert runs. -/
theorem bodyExpertBind_unbind (hsel : x.e.b20 = 2) (hb : set.binds.has (x.e.w16 0x22) = true) :
    bodyExpertBind x [] none d = if d.comp.batches.any fun b =>
        b.2.set == x.e.w32 0x24 && b.2.expert == x.e.w16 0x22 && b.2.run != 0 then
      .ok (.wait ((unbound x.e d).updComp fun m => { m with
        unbinds := m.unbinds ++ [(x.num, x.e.w32 0x24, x.e.w16 0x22)] }))
    else okRes [] (unbound x.e d) := by
  refine (withData_none (if_neg (by omega))).trans ((if_neg (by omega)).trans ?_)
  have hold : ¬x.e.b20 = 0 := by omega
  simp only [bindOther, bind, Except.bind, hq, hs, if_neg hold, if_pos hsel, need_of hb]
  rfl

theorem bodyExpertBind_deleteSet (hsel : x.e.b20 = 3)
    (hstr : (d.strs.strs.any fun p => p.2.kind == 3 && p.2.binding == x.e.w32 0x24) = false) :
    bodyExpertBind x [] none d =
      okRes [] (d.updComp fun m => { m with sets := Map.del (x.e.w32 0x24) m.sets }) := by
  refine (withData_none (if_neg (by omega))).trans ((if_neg (by omega)).trans ?_)
  have hold : ¬x.e.b20 = 0 := by omega
  have hdel : ¬x.e.b20 = 2 := by omega
  simp only [bindOther, bind, Except.bind, hq, hs, if_neg hold, if_neg hdel, need_not_of hstr]

end

end

section
variable {x : Ctx} {d : Dev}

theorem bodyExpertBind_reads {k : Kernel} {set : BindSet} (hsel : x.e.b20 = 1) (hk : bindKernel x d = .ok k)
    (hs : ownSet x d = .ok set) (h0 : 16 * hArgs k.header + hParams k.header ≠ 0) :
    bodyExpertBind x [] none d = .ok (.read 0 (16 * hArgs k.header + hParams k.header) d) :=
  withData_reads (by simp only [if_pos hsel, bind, Except.bind, hk, hs]) h0

theorem bodyExpertBind_bind {k : Kernel} {set : BindSet} (hsel : x.e.b20 = 1) (hk : bindKernel x d = .ok k)
    (hs : ownSet x d = .ok set) (b : Bytes) : bodyExpertBind x [b] none d = bindExpert x b d :=
  (withData_got (n := 16 * hArgs k.header + hParams k.header)
    (by simp only [if_pos hsel, bind, Except.bind, hk, hs]) b []).trans (if_pos hsel)

/-- A BIND that succeeds puts a binding as the command names it into its set. -/
theorem bindExpert_done {b : Bytes} {cpl : Cpl} {d' : Dev} (h : bindExpert x b d = .ok (.done cpl d')) :
    ∃ y : Binding, y.kernel = x.e.ha ∧ y.small = x.e.w32 0x28 ∧ y.large = x.e.w32 0x2C ∧ y.thresh = x.e.w16 0x30 ∧
      y.din = x.e.w16 0x34 ∧ y.dout = x.e.w16 0x36 ∧ y.times = [] ∧ d' = d.updComp fun m => { m with
        sets := Map.upd (x.e.w32 0x24) (fun k => { k with binds := Map.set (x.e.w16 0x22) y k.binds }) m.sets } := by
  obtain ⟨k, -, h⟩ := bind_eq_ok h
  obtain ⟨set, -, h⟩ := bind_eq_ok h
  obtain ⟨⟨small, _⟩, -, h⟩ := bind_eq_ok h
  obtain ⟨⟨large, _⟩, -, h⟩ := bind_eq_ok h
  iterate 8 obtain ⟨_, -, h⟩ := bind_eq_ok h
  obtain ⟨-, rfl⟩ := Res.done.inj (Except.ok.inj h)
  exact ⟨_, rfl, rfl, rfl, rfl, rfl, rfl, rfl, rfl⟩

end

end Sys2Proof.Machine
end

section
/-! SUPPORT. O25: the statement about kernels and expert bindings. -/

namespace Sys2Proof.Machine

/-- Settles O25: each form of each command is its case of the body. -/
theorem kernelCommands : Obligations.KernelCommands := by
  unfold Obligations.KernelCommands
  intro s n c e d x
  refine ⟨?load, ?run, ?abort, ?unload, ?newSet, ?bind, ?others⟩
  case load =>
    intro halves num handle charge copy d1 kern made room res hkernels hobjects h
    have fits {len : Nat} (hroom : room len) : KernelFits x len d := ⟨hkernels, hobjects, hroom.1, hroom.2⟩
    refine ⟨fun hsel hid hroom => ?library, fun hsel hmin hmax => ⟨?reads, fun hi hlen hh hwords hw hd hroom => ?binary⟩⟩
    case library => exact ends_of_okRes rfl h (bodyKernelLoad_library h.label hsel hid (fits hroom))
    case reads => exact reads_of_body rfl h (bodyKernelLoad_reads h.label hsel hmin hmax)
    case binary =>
      exact ends_of_inlineRes rfl h hi (bodyKernelLoad_reads h.label hsel hmin hmax) hlen
        (bodyKernelLoad_binary h.label hsel hmin hmax hh hwords hw hd (fits hroom))
  case run =>
    intro k cores degraded hk hu len h
    refine ⟨fun h0 => reads_of_body rfl h (bodyKernelRun_reads hk hu h0), fun d' hi h0 hlen hstart => ⟨?waits, ?added⟩⟩
    case waits =>
      exact waits_of_inline rfl h hi (bodyKernelRun_reads hk hu h0) ((Nat.zero_add _).trans_le hlen)
        ((bodyKernelRun_starts hk hu _).trans hstart)
    case added =>
      obtain ⟨r, rfl, hby, ht, hker, hsl, hph, hdone, hpar, hseed⟩ := startRun_wait hstart
      obtain ⟨args, hcomp⟩ := addRun_comp r k (x.e.fld 0x30 0 20) (x.e.fld 0x34 0 20) d
      refine ⟨congrArg Comp.nextRun hcomp, { r with args := args }, ?_, hby, ht, hker, hsl, hph, hdone, hpar, hseed⟩
      rw [Dev.run?, hcomp]
      exact Map.get?_set_self ..
  case abort =>
    intro i r m hf ht hm d' h
    have hbody := bodyKernelAbort_run (x := x) h.label hf ht hm
    exact ⟨fun hgone => ends_of_okRes rfl h (hbody.trans (if_pos hgone)),
      fun hthere => waits_of_body rfl h (hbody.trans (if_neg (ne_true_of_eq_false hthere)))⟩
  case unload =>
    intro k hk ht hr hb copy h
    exact ends_of_okRes rfl h (bodyKernelUnload_unused h.label hk ht hr hb)
  case newSet => exact fun hsel hroom h => ends_of_okRes rfl h (bodyExpertBind_newSet h.label hsel hroom)
  case bind =>
    intro k set len hsel hk hs h0 h
    have hread := bodyExpertBind_reads (x := x) hsel hk hs h0
    refine ⟨reads_of_body rfl h hread, fun d' hi hlen hbind => ⟨?_, bindExpert_done hbind⟩⟩
    exact ends_of_inlineRes rfl h hi hread hlen ((bodyExpertBind_bind (x := x) hsel hk hs _).trans hbind)
  case others =>
    intro set hs id ex d'
    refine ⟨fun hsel hb h => ?unbind, fun hsel hstr h => ?delete⟩
    case unbind =>
      have hbody := bodyExpertBind_unbind h.label hs hsel hb
      exact ⟨fun hidle => ends_of_okRes rfl h (hbody.trans (if_neg (ne_true_of_eq_false hidle))),
        fun hruns => waits_of_body rfl h (hbody.trans (if_pos hruns))⟩
    case delete => exact ends_of_okRes rfl h (bodyExpertBind_deleteSet h.label hs hsel hstr)

end Sys2Proof.Machine
end

section
/-! SUPPORT. O48: slices that start, resume or are preempted, runs that complete or time out, waits and herds whose watchdog
expires, a wait record that becomes free (R244, R245, R251 to R253, R303, R311, R321). -/

namespace Sys2Proof.Machine

/-! ## Slices and runs -/

section
variable {n : Nat} {r : Run} {d : Dev} (hr : d.run? n = some r)
include hr

theorem sliceStart_staged {i c : Nat} {k : Kernel} {d1 : Dev} (hnone : r.slices.get? i = none) (hi : i = r.nextIdx)
    (hu : r.unstarted ≠ 0) (he : r.ending = false)
    (hst : stageTiles n r.stageHalf (d.sliceTiles r i) d = (.present, d1))
    (hc : d1.freeCore n r (d1.aged (d1.runCls r) r.since) none = some c) (hk : d1.kernel? r.kernel = some k)
    (hs : (r.slices.any fun s => s.2.st == .saved (coreCluster c)) = false) :
    sliceStart n i d = stageAhead n (gaveCore n c (d1.updRun n fun r => { r with
      slices := Map.set i (Slice.fresh r k.header i c d1.now) r.slices, nextIdx := r.nextIdx + 1 })) := by
  have hnext : ¬(i ≠ r.nextIdx ∨ r.unstarted = 0 ∨ r.ending = true) := by simp [hi, hu, he]
  simp only [sliceStart, hr, hnone, if_neg hnext, hst, hc, hk, hs]
  rfl

section
variable {i cl : Nat} {sl : Slice} (hi : r.slices.get? i = some sl) (hs : sl.st = .saved cl)
include hi hs

theorem sliceStart_resumes {c : Nat} (hc : d.freeCore n r (d.aged (d.runCls r) sl.since) (some cl) = some c) :
    sliceStart n i d = gaveCore n c (d.updSlice n i fun x => { x with
      st := if d.sync.waits.any fun w => w.2.who == .slice n i then .waiting c else .running c
      core := c, since := d.now }) := by
  simp only [sliceStart, hr, hi, hs, resumeSaved, hc]

/-- A saved slice whose state cannot be read ends its run with the near stack's record, which counts for the stack. -/
theorem sliceFault_saved (t : Trap) : sliceFault n i t d =
    let k := stackFor 2 (n * 2 ^ 32 + i) (clusterHalf cl)
    let p := raiseRec (nearRec k r.tenant) d
    countNear k (endRun n .unitFault p.1 p.2) := by
  simp only [sliceFault, hr, hi, hs]

end

/-- A slice is preempted at its quantum's end where another run of its class or a higher one waits for its core. -/
theorem quantumExpiry_preempts {i c m k : Nat} {sl : Slice} {q : Run} (hi : r.slices.get? i = some sl)
    (hc : sl.onCore = some c) (hq : sl.since + d.quantum ≤ d.now) (hp : (m, q) ∈ d.comp.runs) (hm : m ≠ n)
    (hw : d.waiter q c = some k) (hk : d.runCls r ≤ k) :
    quantumExpiry n i d = bump 9 (coreCluster c) 1 1 (d.updRun n fun r => { r with
      preempts := r.preempts + 1, coreTime := r.coreTime + (d.now - sl.since)
      slices := Map.upd i (fun s => { s with st := .saved (coreCluster c), since := d.now }) r.slices }) := by
  simp only [quantumExpiry, hr, hi, hc, Option.bind_some, Option.map_some]
  refine if_pos (Bool.or_eq_true_iff.mpr (.inl (Bool.and_eq_true_iff.mpr ⟨decide_eq_true hq, ?_⟩)))
  exact List.any_eq_true.mpr ⟨(m, q), hp, by simp [hm, hw, hk]⟩

theorem kernelRunComplete_ends {m : Nat} (hd : d.runReady n r = true) (hm : r.by' = .cmd m) :
    kernelRunComplete n d = if r.sealOut then sealNext n (d.updRun n fun r => { r with ending := true })
      else completeRun n r.good d := by
  simp only [kernelRunComplete, hr, hd, hm]
  rfl

theorem kernelTimeout_due {t : Nat} (ht : r.timeout = some t) (hdue : t ≤ d.now) (he : r.ending = false) :
    kernelTimeout n d = endRun n .timeout 0 d := by
  simp [kernelTimeout, hr, ht, hdue, he]

end

/-! ## Waits and herds -/

theorem watchdogExpiry_due {id t : Nat} {w : WaitRec} {d : Dev} (hw : d.sync.waits.get? id = some w)
    (ht : w.deadline = some t) (hdue : t ≤ d.now) :
    watchdogExpiry id d = expireWait id w (raiseRec (watchdogRec w) d).1 (raiseRec (watchdogRec w) d).2 := by
  simp only [watchdogExpiry, hw, ht, if_neg (Nat.not_lt.mpr hdue)]

/-- The record of a herd whose watchdog expires (R311). -/
def herdRec (id : Nat) (h : Herd) : ErrRec :=
  { ErrRec.mk0 1 0x0D with
    tenValid := true, tenant := h.tenant
    detail := leBytes 1 2 ++ leBytes 1 1 ++ zeros 2 ++ leBytes 4 id ++ zeros 4 ++
      leBytes 2 (h.mask.length - h.a.length) }

theorem herdWatchdogExpiry_due {id t : Nat} {h : Herd} {d : Dev} (hh : d.sync.herds.get? id = some h)
    (ht : h.dueAt = some t) (hb : h.broken = false) (hdue : t ≤ d.now) :
    herdWatchdogExpiry id d = expireHerd id (raiseRec (herdRec id h) d).1 (bumpTenant h.tenant 26 1
      ((raiseRec (herdRec id h) d).2.updHerd id fun h => { h with broken := true, dueAt := none })) := by
  have hopen : (h.broken || decide (d.now < t)) = false := by simp [hb, hdue]
  simp only [herdWatchdogExpiry, hh, ht, hopen]
  rfl

/-- The instruction that the oldest holding slice stands at is issued again. -/
theorem waitRecordFree_holder {m i : Nat} {d : Dev} (hw : d.sync.waits.length < waitRecords)
    (hh : d.holder = some (m, i)) :
    waitRecordFree d = if (d.fetch 0xA2 m i).isSome then instrWaitFlag 0xA2 false m i d
      else if (d.fetch 0xA3 m i).isSome then instrWaitFlag 0xA3 true m i d
      else if (d.fetch 0xA6 m i).isSome then instrCwait m i d
      else instrHarr m i d := by
  simp only [waitRecordFree, ge_iff_le, if_neg (Nat.not_le.mpr hw), hh]

/-- Settles O48: each event is its case of the operation it runs. -/
theorem runEvents : Obligations.RunEvents := by
  unfold Obligations.RunEvents
  intro s n hl
  refine ⟨fun r hr => ⟨?start, ?resume, ?fault, ?quantum, ?complete, ?timeout⟩, ?wait, ?herd, ?free⟩
  case start =>
    intro i d1 c k hnone hi hu he hst hc hk hs d2
    have hstart := sliceStart_staged hr hnone hi hu he hst hc hk hs
    exact ⟨does_of_onDev rfl hl hstart, does_of_onDev rfl hl (congrArg (sliceFault n i .fetch) hstart)⟩
  case resume => exact fun i sl cl c hi hs hc => does_of_onDev rfl hl (sliceStart_resumes hr hi hs hc)
  case fault => exact fun i sl cl hi hs => does_of_onDev rfl hl (sliceFault_saved hr hi hs .data)
  case quantum =>
    exact fun i sl c p k hi hc hq hp hm hw hk =>
      does_of_onDev rfl hl (quantumExpiry_preempts hr hi hc hq hp hm hw hk)
  case complete =>
    intro m hd hm
    have h := kernelRunComplete_ends hr hd hm
    exact ⟨fun hs => does_of_onDev rfl hl (h.trans (if_neg (by simp [hs]))),
      fun hs => does_of_onDev rfl hl (h.trans (if_pos hs))⟩
  case timeout => exact fun t ht hdue he => does_of_onDev rfl hl (kernelTimeout_due hr ht hdue he)
  case wait => exact fun w t hw ht hdue => does_of_onDev rfl hl (watchdogExpiry_due hw ht hdue)
  case herd => exact fun h t hh ht hb hdue => does_of_onDev rfl hl (herdWatchdogExpiry_due hh ht hb hdue)
  case free =>
    intro m i hw hh
    have h := waitRecordFree_holder hw hh
    exact ⟨fun hwait => does_of_onDev rfl hl (h.trans (if_pos hwait)),
      fun hwait htake => does_of_onDev rfl hl (h.trans (by simp [hwait, htake])),
      fun hwait htake hctr => does_of_onDev rfl hl (h.trans (by simp [hwait, htake, hctr])),
      fun hwait htake hctr => does_of_onDev rfl hl (h.trans (by simp [hwait, htake, hctr]))⟩

end Sys2Proof.Machine
end

section
/-! SUPPORT. The frame of a slice's instruction where it takes its trap, stands past its kernel's last word, or executes
wholly or not at all (R272, R274, R293, R294). -/

namespace Sys2Proof.Machine

section
variable {s : State} {op n i : Nat} {x : ICtx}

/-- The trap that the slice takes at the instruction it stands at, as the step's outcome. -/
def traps (s : State) (n i : Nat) (x : ICtx) (t : TrapInfo) : Host.Outcome State Fault Refusal :=
  .next (s.after (takeTrap n i x.r x.s x.w t s.dev))

/-- A meaning that leaves the device alone leaves the state alone. -/
theorem onDev_still (hl : s.live) {f : Dev → Dev} (h : f s.dev = s.dev) : onDev f s = .next s := by
  rw [onDev_plain hl.1 hl.2] <;> rw [h]

variable (h : Stands s op n i x) {f : ICtx → Dev → Except TrapInfo Dev} {g : Slice → Slice} {t : TrapInfo}
include h

/-- An instruction whose effect is its slice's alone. -/
theorem instr_steps (hf : f x s.dev = .ok (x.advance g s.dev)) : onDev (instr op n i f) s = .next (s.stepped n i g) :=
  onDev_advance h (by rw [instr_stands h, hf]) rfl rfl rfl rfl rfl

theorem instr_traps (hf : f x s.dev = .error t) : onDev (instr op n i f) s = traps s n i x t := by
  rw [onDev_eq h.live.1 h.live.2, instr_stands h, hf]
  rfl

theorem wholeInstr_steps (hl : x.lane 0 = true) (hf : f x s.dev = .ok (x.advance g s.dev)) :
    onDev (wholeInstr op n i f) s = .next (s.stepped n i g) :=
  instr_steps h (by rw [if_pos hl, hf])

theorem wholeInstr_traps (hl : x.lane 0 = true) (hf : f x s.dev = .error t) :
    onDev (wholeInstr op n i f) s = traps s n i x t :=
  instr_traps h (by rw [if_pos hl, hf])

theorem memInstr_traps (hm : x.mask ≠ 0) (hf : f x s.dev = .error t) : onDev (memInstr op n i f) s = traps s n i x t := by
  have hactive : ¬x.idle = true := by simpa [ICtx.idle] using hm
  exact instr_traps h (by rw [if_neg hactive, hf])

/-- A whole instruction that acts on more than its slice, where nothing traps. -/
theorem wholeInstr_after (hl : x.lane 0 = true) {d : Dev} (hf : f x s.dev = .ok d) :
    onDev (wholeInstr op n i f) s = .next (s.after d) := by
  rw [onDev_eq h.live.1 h.live.2, wholeInstr_on h hl hf]
  rfl

/-- A scalar instruction that writes `v`. -/
theorem toScalar_writes (hl : x.lane 0 = true) {g : ICtx → BitVec 64} {v : BitVec 64} (hv : g x = v) :
    onDev (toScalar op n i g) s = .next (s.stepped n i (Slice.setS (wD x.w) v)) :=
  hv ▸ scalarInstr_stands h hl _

/-- A vector instruction writes the active lanes of its destination. -/
theorem vectorInstr_writes {g : ICtx → List (BitVec 32)} {v : List (BitVec 32)} (hv : g x = v) :
    onDev (vectorInstr op n i g) s = .next (s.stepped n i (x.setV v)) :=
  hv ▸ pureInstr_stands h _

/-- A compare or predicate instruction writes the active lanes of its predicate. -/
theorem toPred_writes {g : ICtx → BitVec 64} {v : BitVec 64} (hv : g x = v) :
    onDev (toPred op n i g) s = .next (s.stepped n i (x.setP v)) :=
  hv ▸ pureInstr_stands h _

end

/-- A slice of a run stands past its kernel's last word. -/
structure PastLast (s : State) (n i : Nat) (r : Run) (sl : Slice) : Prop where
  live   : s.live
  run    : s.dev.run? n = some r
  slice  : r.slices.get? i = some sl
  runs   : ∃ core, sl.st = .running core
  kernel : ∃ k, s.dev.kernel? r.kernel = some k ∧ k.code.length ≤ sl.pc

section
variable {s : State} {n i : Nat} {r : Run} {sl : Slice} (h : PastLast s n i r sl) (op : Nat)
include h

/-- Whatever the row's opcode, it finds no word. -/
theorem fetch_pastLast : s.dev.fetch op n i = some (.error (r, sl)) := by
  obtain ⟨core, hcore⟩ := h.runs
  obtain ⟨k, hk, hlen⟩ := h.kernel
  have hword : k.code[sl.pc]? = none := List.getElem?_eq_none hlen
  simp only [Dev.fetch, h.run, h.slice, hk, hcore, hword]

/-- Every row runs in the frame `instr`, which then takes the trap `PC` (R274). -/
theorem instr_pastLast (f : ICtx → Dev → Except TrapInfo Dev) :
    onDev (instr op n i f) s = .next (s.after (takeTrap n i r sl 0 Trap.pc.plain s.dev)) := by
  rw [onDev_eq h.live.1 h.live.2, instr, fetch_pastLast h]
  rfl

end

/-- Settles O4: the five rows run in the same frame. -/
theorem pastTheLastWord : Obligations.PastTheLastWord := by
  unfold Obligations.PastTheLastWord
  intro s n i core r sl k hlive hr hsl hcore hk hlen trapped
  have h : PastLast s n i r sl := ⟨hlive, hr, hsl, ⟨core, hcore⟩, ⟨k, hk, hlen⟩⟩
  exact ⟨instr_pastLast h 0x11 _, instr_pastLast h 0x40 _, instr_pastLast h 0x20 _, instr_pastLast h 0x91 _,
    instr_pastLast h 0xA0 _⟩

end Sys2Proof.Machine
end

section
/-! SUPPORT. O1, O2, O3: scalar instructions, instructions that lane 0 excludes, and control (R251, R272 to R276, Tables
9-3 to 9-5). -/

namespace Sys2Proof.Machine

section
variable {s : State} {op n i : Nat} {x : ICtx}

/-! ## Scalars -/

/-- `SRD` writes what its selector reads of the device as it is. -/
theorem instrSrd_reads (h : Stands s 0x1B n i x) (hl : x.lane 0 = true) {v : Nat} (hv : selector s.dev x = v) :
    onDev (instrSrd n i) s = .next (s.stepped n i (Slice.setS (wD x.w) (BitVec.ofNat 64 v))) := by
  refine onDev_advance h (d := s.dev) ?_ rfl rfl rfl rfl rfl
  unfold instrSrd toScalar scalarInstr pureInstr
  rw [instr_stands h]
  simp only [hl, hv, if_true]

/-- The selectors from 32 on name the arguments' versions (Table 9-3). -/
theorem selector_version {d : Dev} {a : RunArg} (hk : 32 ≤ x.imm) (ha : x.r.args[x.imm - 32]? = some a) :
    selector d x = a.ver := by
  have hne : ∀ k < 32, x.imm ≠ k := fun k _ => by omega
  simp [selector, hne, Nat.not_lt.mpr hk, ha]

theorem smovi_load (h : wMod x.w = 0) : smovi x = BitVec.ofInt 64 (sext24 x.imm) := if_pos h

theorem smovi_shift (h : wMod x.w = 1) : smovi x = (x.s.sreg (wD x.w) <<< 24) ||| BitVec.ofNat 64 x.imm :=
  if_neg (by simp [h])

/-! ## Lane 0 excluded -/

/-- `BR` moves on where lane 0 is excluded. -/
theorem instrBr_off (h : Stands s 0x02 n i x) (hl : x.lane 0 = false) :
    onDev (instrBr n i) s = .next (s.stepped n i id) :=
  instr_steps h (by simp [hl])

theorem instrTrap_off (h : Stands s 0x03 n i x) (hl : x.lane 0 = false) :
    onDev (instrTrap n i) s = .next (s.stepped n i id) :=
  instr_steps h (if_neg (by simp [hl]))

/-! ## Control -/

/-- `BR` goes to the word its immediate names, if the kernel has it (R274). -/
theorem instrBr_goes (h : Stands s 0x02 n i x) (hl : x.lane 0 = true) {k : Kernel} {t : Nat}
    (hk : s.dev.kernel? x.r.kernel = some k) (ht : (x.s.pc : Int) + sext24 x.imm = t) (hin : t < k.code.length) :
    onDev (instrBr n i) s = .next (s.withDev (s.dev.updSlice n i fun sl => { sl with pc := t, holdFrom := none })) := by
  have hd : instrBr n i s.dev = s.dev.updSlice n i fun sl => { sl with pc := t, holdFrom := none } := by
    obtain ⟨hn, hi⟩ := h.names
    have hinside : decide ((t : Int) < 0 ∨ (t : Int) ≥ k.code.length) = false := decide_eq_false (by omega)
    unfold instrBr
    rw [instr_stands h]
    simp only [hk, ht, hl, trapIf_false hinside, hn, hi, bind, Except.bind]
    rfl
  rw [onDev_plain h.live.1 h.live.2] <;> rw [hd] <;> rfl

theorem instrTrap_on (h : Stands s 0x03 n i x) (hl : x.lane 0 = true) :
    onDev (instrTrap n i) s = traps s n i x ⟨.program, x.imm, 0xFFFFFFFF⟩ :=
  instr_traps h (if_pos hl)

/-- A run without a slice that has ended before its last; with the last of its phase, the next phase begins (R249). -/
def Run.without (i now since : Nat) (r : Run) : Run :=
  let phaseDone := decide (r.doneN + 1 = r.before (r.phase + 1))
  { r with
    slices := Map.del i r.slices, doneN := r.doneN + 1, coreTime := r.coreTime + (now - since)
    phase := if phaseDone then r.phase + 1 else r.phase
    since := if phaseDone then now else r.since }

/-- A slice that ends before its run's last leaves the run, and the next slices' tiles are staged; until then nothing but
the run and the counters has changed. -/
theorem sliceDone_before_last {core since : Nat} {r : Run} {d : Dev} (hr : d.run? n = some r)
    (hmore : r.doneN + 1 < r.total) : ∃ e, sliceDone n i core since d = stageAhead n e ∧
      e.run? n = some (r.without i d.now since) ∧ KeepsBut [.comp, .cnt] d e := by
  have hlast : decide (r.doneN + 1 = r.total) = false := decide_eq_false (by omega)
  simp only [sliceDone, hr, hlast, Bool.not_false, Bool.and_true, Bool.false_eq_true, if_false]
  refine ⟨_, rfl, ?run, ?rest⟩
  case run =>
    have hruns : d.comp.runs.get? n = some r := hr
    simp [Dev.run?, Dev.updRun, Dev.updComp, hruns, Run.without]
  case rest =>
    intro p hp
    cases p <;> simp [Part.same] at hp ⊢

/-- `END` of a slice without an open buffer is the end of the slice. -/
theorem instrEnd_closed (h : Stands s 0x01 n i x) (hl : x.lane 0 = true) (hb : x.s.bufs = []) :
    onDev (instrEnd n i) s = .next (s.after (sliceDone n i x.s.core x.s.since s.dev)) :=
  wholeInstr_after h hl (by rw [hb]; rfl)

end

/-! ## The statements -/

/-- Settles O1: each instruction is `toScalar` of its value. -/
theorem scalarInstructions : Obligations.ScalarInstructions := by
  unfold Obligations.ScalarInstructions
  intro s n i x hl a b into
  refine ⟨?smovi, ?smoviShift, ?sadd, ?ssub, ?smul, ?sand, ?sor, ?sxor, ?sshl, ?sshr, ?ssar, ?saddi, ?srd⟩
  case smovi => exact fun h hm => toScalar_writes h hl (smovi_load hm)
  case smoviShift => exact fun h hm => toScalar_writes h hl (smovi_shift hm)
  case sadd => exact fun h => toScalar_writes h hl rfl
  case ssub => exact fun h => toScalar_writes h hl rfl
  case smul => exact fun h => toScalar_writes h hl rfl
  case sand => exact fun h => toScalar_writes h hl rfl
  case sor => exact fun h => toScalar_writes h hl rfl
  case sxor => exact fun h => toScalar_writes h hl rfl
  case sshl => exact fun h => toScalar_writes h hl rfl
  case sshr => exact fun h => toScalar_writes h hl rfl
  case ssar => exact fun h => toScalar_writes h hl rfl
  case saddi => exact fun h => toScalar_writes h hl rfl
  case srd =>
    intro h reads
    have reads_of {v : Nat} (hv : selector s.dev x = v) : reads v := instrSrd_reads h hl hv
    refine ⟨?x, ?y, ?phase, ?ofPhase, ?index, ?total, ?seed, ?version⟩
    case ofPhase => exact fun hk => reads_of (by simp [selector, ICtx.imm, hk, h.names.2])
    case index => exact fun hk => reads_of (by simp [selector, ICtx.imm, hk, h.names.2])
    case version => exact fun a hk ha => reads_of (selector_version hk ha)
    all_goals exact fun hk => reads_of (by simp [selector, ICtx.imm, hk])

/-- Settles O2: each instruction is one of a frame that moves on where lane 0 is excluded. -/
theorem excludedInstructions : Obligations.ExcludedInstructions := by
  unfold Obligations.ExcludedInstructions
  intro s n i x hl on
  refine ⟨?endSlice, ?br, ?trap, ?sadd, ?tcommit, ?ldp, ?mma, ?fset, ?fwait, ?cadd, ?harr, ?fence⟩
  case br => exact fun h => instrBr_off h hl
  case trap => exact fun h => instrTrap_off h hl
  case sadd => exact fun h => scalarInstr_off h hl _
  case mma => exact fun h => scalarInstr_off h hl _
  all_goals exact fun h => wholeInstr_off h hl _

/-- Settles O3: an `END` before the run's last slice is `sliceDone_before_last`. -/
theorem controlInstructions : Obligations.ControlInstructions := by
  unfold Obligations.ControlInstructions
  intro s n i x hl
  refine ⟨?nop, ?br, ?trap, ?endSlice⟩
  case nop => exact fun h => pureInstr_stands h _
  case br => exact fun k t h hk ht hin => instrBr_goes h hl hk ht hin
  case trap => exact fun h => instrTrap_on h hl
  case endSlice =>
    intro h hb hmore
    obtain ⟨d, hdone, hrun, hkeeps⟩ := sliceDone_before_last (i := i) (core := x.s.core) (since := x.s.since) h.run hmore
    refine ⟨d, (instrEnd_closed h hl hb).trans (by rw [hdone]), _, hrun, rfl, rfl, ?phase, rfl, hkeeps⟩
    simp [Run.without]

end Sys2Proof.Machine
end

section
/-! SUPPORT. O5, O6, O7, O8, O9, O11: instructions on vector and predicate registers, and the lanes they write (R268,
R272, R276, R283 to R288, Tables 9-8 to 9-11). -/

namespace Sys2Proof.Machine

/-! ## The lanes written -/

/-- A register read where it was just written. -/
theorem vreg_setV_same {x : ICtx} {s : Slice} (v : List (BitVec 32)) (hd : wD x.w < s.v.length) :
    (x.setV v s).vreg (wD x.w) =
      (List.range 64).map fun k => if x.lane k then v.getD k 0 else (s.vreg (wD x.w)).getD k 0 := by
  simp only [ICtx.setV, Slice.vreg, List.getD_eq_getElem?_getD, List.getElem?_set_self hd, Option.getD_some]

theorem vreg_setV_ne {x : ICtx} {r : Nat} (hr : r ≠ wD x.w) (v : List (BitVec 32)) (s : Slice) :
    (x.setV v s).vreg r = s.vreg r := by
  simp only [ICtx.setV, Slice.vreg, List.getD_eq_getElem?_getD, List.getElem?_set_ne hr.symm]

/-- Settles O8: the destination holds what was written to it, lane by lane, and no other register is written. -/
theorem laneRule : Obligations.LaneRule := by
  unfold Obligations.LaneRule
  intro x v s k hd hk
  refine ⟨?_, fun r hr => vreg_setV_ne hr v s⟩
  rw [vreg_setV_same v hd, List.getD_eq_getElem _ _ (by simpa using hk), List.getElem_map, List.getElem_range]

section
variable {x : ICtx}

/-! ## Values that the modifier chooses -/

theorem plog_and (h : wMod x.w = 0) : plog x = x.pa &&& x.pb := by simp only [plog, h]

theorem plog_or (h : wMod x.w = 1) : plog x = x.pa ||| x.pb := by simp only [plog, h]

theorem plog_xor (h : wMod x.w = 2) : plog x = x.pa ^^^ x.pb := by simp only [plog, h]

theorem plog_andNot (h : wMod x.w = 3) : plog x = x.pa &&& ~~~x.pb := by simp only [plog, h]

theorem pset_none (h : wMod x.w = 0) : pset x = 0 := by simp only [pset, h]

theorem pset_all (h : wMod x.w = 1) : pset x = BitVec.allOnes 64 := by simp only [pset, h]

theorem pset_first (h : wMod x.w = 2) : pset x = laneMask ((List.range 64).map fun k => decide (k < x.imm)) := by
  simp only [pset, h]

theorem pany_eq (p : BitVec 64) :
    (if p == 0 then 0 else BitVec.allOnes 64) = if p = 0 then 0 else BitVec.allOnes 64 := by
  simp only [beq_iff_eq]

end

/-! ## The statements -/

/-- Settles O5: each instruction is `vectorInstr` of its lanes. -/
theorem floatInstructions : Obligations.FloatInstructions := by
  unfold Obligations.FloatInstructions
  intro s n i x m va vb ma mb into
  refine ⟨?fadd, ?fsub, ?fmul, ?ffma, ?fmin, ?fmax, ?fexp2, ?flog2, ?fsqrt, ?frsq, ?frcp, ?fdiv, ?itof, ?ftoi⟩
  all_goals exact fun h => vectorInstr_writes h rfl

/-- Settles O6: each instruction is `vectorInstr` of its lanes. -/
theorem integerInstructions : Obligations.IntegerInstructions := by
  unfold Obligations.IntegerInstructions
  intro s n i x va vb uns lt into
  refine ⟨?iadd, ?isub, ?imul, ?iand, ?ior, ?ixor, ?ishl, ?ishr, ?isar, ?imin, ?imax⟩
  all_goals exact fun h => vectorInstr_writes h rfl

/-- Settles O7: `VEXT` is `toScalar` of a lane, the others `vectorInstr` of their lanes. -/
theorem moveInstructions : Obligations.MoveInstructions := by
  unfold Obligations.MoveInstructions
  intro s n i x into
  refine ⟨?vbcast, ?vlane, ?vmov, ?sel, ?vext⟩
  case vext => exact fun h hl => toScalar_writes h hl rfl
  all_goals exact fun h => vectorInstr_writes h rfl

/-- Settles O9: each instruction is `toPred` of its predicate. -/
theorem predicateInstructions : Obligations.PredicateInstructions := by
  unfold Obligations.PredicateInstructions
  intro s n i x pa pb m into
  refine ⟨?fcmp, ?icmp, ?scmp, fun h => ⟨?and, ?or, ?xor, ?andNot⟩, fun h => ⟨?none, ?all, ?first⟩, ?pany⟩
  case fcmp => exact fun h => toPred_writes h rfl
  case icmp => exact fun h => toPred_writes h rfl
  case scmp => exact fun h => toPred_writes h rfl
  case and => exact fun hm => toPred_writes h (plog_and hm)
  case or => exact fun hm => toPred_writes h (plog_or hm)
  case xor => exact fun hm => toPred_writes h (plog_xor hm)
  case andNot => exact fun hm => toPred_writes h (plog_andNot hm)
  case none => exact fun hm => toPred_writes h (pset_none hm)
  case all => exact fun hm => toPred_writes h (pset_all hm)
  case first => exact fun hm => toPred_writes h (pset_first hm)
  case pany => exact fun h => toPred_writes h (pany_eq _)

/-- Settles O11: `CVT` and `MXQ` change the slice by the part of their register, the others are `vectorInstr` of their
lanes. -/
theorem conversionInstructions : Obligations.ConversionInstructions := by
  unfold Obligations.ConversionInstructions
  intro s n i x imm va sc
  refine ⟨?cvt, ?mxsc, ?mxq, ?mxunp, ?srb⟩
  case cvt => exact fun h => pureInstr_stands h cvt
  case mxq => exact fun h => pureInstr_stands h mxq
  all_goals exact fun h => vectorInstr_writes h rfl

end Sys2Proof.Machine
end

section
/-! SUPPORT. O59, O14, O15: arguments of the wrong role, raw access, stream pop and push, and `AADDF` (R147, R278, R281,
R282, R292, log entries 20 and 26). -/

namespace Sys2Proof.Machine

theorem trapIf_true {b : Bool} {t : TrapInfo} (h : b = true) : trapIf b t = .error t := if_pos h

section
variable {s : State} {n i : Nat} {x : ICtx}

/-! ## Roles (R278) -/

/-- An argument of another role than the instruction takes is a trap, whatever would follow. -/
theorem argTile_role {role k tile : Nat} {a : RunArg} {d : Dev} {β : Type} (ha : x.r.args[k]? = some a)
    (hr : a.role ≠ role) (f : RunArg × Obj → Except TrapInfo β) :
    (x.argTile role k tile d >>= f) = .error (argTrap .role k tile) := by
  have hrole : (a.role != role) = true := by simpa using hr
  simp only [ICtx.argTile, ha, trapIf_true hrole, bind, Except.bind]

/-! ## Raw access (R281) -/

theorem mayRaw_iff {d : Dev} : mayRaw x d = true ↔ x.r.tenant = 0 ∧ d.pwr.mode ≠ .service := by
  simp [mayRaw]

theorem instrLdr_reads (h : Stands s 0x27 n i x) (hm : x.mask ≠ 0) (hmay : mayRaw x s.dev = true)
    (hmem : s.dev.hasMem x.sa.toNat 256 = true) (hal : x.sa.toNat % 256 = 0) : instrLdr n i s.dev =
      x.advance (x.setV (lanesOf (rawRead x.sa.toNat 256 s.dev).1)) (rawRead x.sa.toNat 256 s.dev).2 := by
  refine memInstr_on h hm ?_
  simp only [hmay, hmem, trapIf_align hal, trapIf_false, Bool.not_true, bind, Except.bind]
  rfl

theorem instrStr_writes (h : Stands s 0x28 n i x) (hm : x.mask ≠ 0) (hmay : mayRaw x s.dev = true)
    (hmem : s.dev.hasMem x.sb.toNat 256 = true) (hal : x.sb.toNat % 256 = 0)
    (hfree : (fromTo x.sb.toNat 256).any s.dev.rawBarred = false) :
    instrStr n i s.dev = x.advance id (x.storeRaw x.sb.toNat s.dev) := by
  refine memInstr_on h hm ?_
  simp only [hmay, hmem, hfree, trapIf_align hal, trapIf_false, Bool.not_true, Bool.and_false, Bool.or_false, bind,
    Except.bind]

theorem instrLdr_priv (h : Stands s 0x27 n i x) (hm : x.mask ≠ 0) (hmay : mayRaw x s.dev = false) :
    onDev (instrLdr n i) s = traps s n i x Trap.priv.plain :=
  memInstr_traps h hm (by simp only [hmay, trapIf_true, Bool.not_false, bind, Except.bind])

theorem instrStr_priv (h : Stands s 0x28 n i x) (hm : x.mask ≠ 0) (hmay : mayRaw x s.dev = false) :
    onDev (instrStr n i) s = traps s n i x Trap.priv.plain :=
  memInstr_traps h hm (by simp only [hmay, trapIf_true, Bool.not_false, Bool.true_or, bind, Except.bind])

/-! ## `POP` and `PUSH` (R282) -/

theorem batch_of {id : Nat} {b : Batch} {d : Dev} (hby : x.r.by' = .batch id) (hb : d.batch? id = some b)
    (he : hExec x.h = true) : x.batch d = .ok (id, b) := by
  simp only [ICtx.batch, hby, hb, he, if_true]

theorem trapIf_within {a b c e : Nat} {t : TrapInfo} (h : a < b) (h' : c < e) :
    trapIf (decide (a ≥ b ∨ c ≥ e)) t = .ok () :=
  trapIf_false (decide_eq_false (by omega))

section
variable {id : Nat} {b : Batch} (hby : x.r.by' = .batch id) (hb : s.dev.batch? id = some b) (he : hExec x.h = true)
include hby hb he

theorem instrPop_loads (h : Stands s 0x30 n i x) (hm : x.mask ≠ 0) (ht : x.sa.toNat < b.tokens)
    (ho : x.sb.toNat < 2 * b.din) (hal : x.sb.toNat % 4 = 0) :
    onDev (instrPop n i) s = .next (s.stepped n i (x.setV (lanesOf
      ((b.acts.drop (x.sa.toNat * (2 * b.din) + x.sb.toNat)).take (min 256 (2 * b.din - x.sb.toNat)))))) := by
  refine memInstr_stands h hm ?_
  simp only [batch_of hby hb he, trapIf_within ht ho, trapIf_align hal, bind, Except.bind]
  rfl

/-- The units of a `PUSH` at an offset of a row: those within it that have an active lane. -/
def pushUnits (x : ICtx) (off row : Nat) : List Nat :=
  (List.range 4).filter fun u => decide (off + 64 * u < row) && (fromTo (16 * u) 16).any x.lane

theorem instrPush_stores (h : Stands s 0x31 n i x) (hm : x.mask ≠ 0) (ht : x.sb.toNat < b.tokens)
    (ho : x.sc.toNat < 2 * b.dout) (hal : x.sc.toNat % 64 = 0)
    (hnew : ((pushUnits x x.sc.toNat (2 * b.dout)).any fun u =>
      b.pushed.any (·.1 == (x.sb.toNat * (2 * b.dout) + x.sc.toNat) / 64 + u)) = false) :
    onDev (instrPush n i) s = .next ((s.withDev (s.dev.updBatch id fun b' => { b' with
      pushed := b'.pushed ++ (pushUnits x x.sc.toNat (2 * b.dout)).map fun u =>
        ((x.sb.toNat * (2 * b.dout) + x.sc.toNat) / 64 + u, x.unit u) })).stepped n i fun sl => sl) := by
  unfold pushUnits at hnew ⊢
  refine onDev_advance h (memInstr_on h hm ?_) rfl rfl rfl rfl rfl
  simp only [batch_of hby hb he, trapIf_within ht ho, trapIf_align hal, trapIf_false hnew, bind, Except.bind]

end

/-! ## `AADDF` (R292) -/

/-- The active lanes of operand a added to the elements of a list from one on. -/
def ICtx.addLanes (x : ICtx) (first : Nat) (l : List F32) : List F32 :=
  (List.range 64).foldl (fun l j =>
    if x.lane j then l.modify (first + j) fun v => fAdd v (x.va.getD j 0) else l) l

theorem instrAaddf_opens {a : RunArg} {o : Obj} (ha : x.r.args[x.argIx]? = some a) (ho : s.dev.obj? a.obj = some o)
    (hr : a.role = 2) (h : Stands s 0xF2 n i x) (hm : x.mask ≠ 0) (ht : x.sb.toNat < o.count)
    (hb : x.tileOff x.sc < 4 * o.n) (hal : x.tileOff x.sc % 4 = 0) (hf : o.fmt = 1 ∨ o.fmt = 2)
    (hw : x.r.written.contains (x.argIx, x.sb.toNat) = false)
    (hopen : (x.r.slices.any fun p => (p.2.buf? x.argIx x.sb.toNat).isSome) = false)
    (hnone : (x.r.accs.find? fun c => c.arg == x.argIx && c.tile == x.sb.toNat) = none) (hl : x.r.accs.length < 256) :
    onDev (instrAaddf n i) s = .next ((s.withDev (s.dev.updRun n fun r => { r with accs := r.accs ++
      [{ arg := x.argIx, tile := x.sb.toNat, data := x.addLanes (x.tileOff x.sc / 4) (List.replicate o.n 0) }] })).stepped
        n i fun sl => sl) := by
  have hrewrite : (x.r.written.contains (x.argIx, x.sb.toNat) ||
      x.r.slices.any fun p => (p.2.buf? x.argIx x.sb.toNat).isSome) = false := by rw [hw, hopen]; rfl
  have hatomic : ((o.fmt != 1 && o.fmt != 2) || ((none : Option AccBuf).isNone && decide (x.r.accs.length ≥ 256))) =
      false := by rcases hf with hf | hf <;> simp [hf, hl]
  refine onDev_advance h (memInstr_on h hm ?_) rfl rfl rfl rfl rfl
  simp only [argTile_ok ha hr ho ht, trapIf_bounds hb, trapIf_align hal, trapIf_false hrewrite, hnone,
    trapIf_false hatomic, bind, Except.bind]
  rfl

end

/-! ## The statements -/

/-- Settles O59: the argument's role is what each instruction checks first. -/
theorem argumentRoles : Obligations.ArgumentRoles := by
  unfold Obligations.ArgumentRoles
  intro s n i x a k trapped ha
  refine ⟨?ldt, ?aaddf, ?stt, ?tcommit⟩
  case ldt => exact fun h hm hr => memInstr_traps h hm (argTile_role ha (by omega) _)
  case aaddf => exact fun h hm hr => memInstr_traps h hm (argTile_role ha (by omega) _)
  case stt => exact fun h hm hr => memInstr_traps h hm (argTile_role ha (by omega) _)
  case tcommit => exact fun h hl hr => wholeInstr_traps h hl (argTile_role ha (by omega) _)

/-- Settles O14: `mayRaw` is the right to raw access, and what follows it are the address's checks. -/
theorem rawMemory : Obligations.RawMemory := by
  unfold Obligations.RawMemory
  intro s n i x hm ra rb may priv
  have advanced {op : Nat} (h : Stands s op n i x) (g : Slice → Slice) (d : Dev) : x.advance g d =
      d.updSlice n i fun sl => { g sl with pc := sl.pc + 1, holdFrom := none } := by
    rw [ICtx.advance, h.names.1, h.names.2]
  have denied (h : ¬may) : mayRaw x s.dev = false := by rw [← Bool.not_eq_true, mayRaw_iff]; exact h
  refine ⟨?ldr, ?str, ?ldrPriv, ?strPriv⟩
  case ldr =>
    intro h hmay hmem hal
    refine ⟨_, onDev_eq h.live.1 h.live.2 _, congrArg (settle s.dev) ?_⟩
    exact (instrLdr_reads h hm (mayRaw_iff.mpr hmay) hmem hal).trans (advanced h _ _)
  case str =>
    intro h hmay hmem hal hfree
    refine ⟨_, onDev_eq h.live.1 h.live.2 _, congrArg (settle s.dev) ?_⟩
    exact (instrStr_writes h hm (mayRaw_iff.mpr hmay) hmem hal hfree).trans (advanced h _ _)
  case ldrPriv => exact fun h hnot => instrLdr_priv h hm (denied hnot)
  case strPriv => exact fun h hnot => instrStr_priv h hm (denied hnot)

/-- Settles O15: the instructions pass their checks; `POP` acts on its slice, `PUSH` on the batch, `AADDF` on the run. -/
theorem batchMemory : Obligations.BatchMemory := by
  unfold Obligations.BatchMemory
  intro s n i x hm
  refine ⟨fun id b hby hb he => ⟨?pop, ?push⟩, ?aaddf⟩
  case pop =>
    intro h tok off ht ho hal
    exact instrPop_loads hby hb he h hm ht ho hal
  case push =>
    intro h tok off first units ht ho hal hnew
    exact instrPush_stores hby hb he h hm ht ho hal hnew
  case aaddf =>
    intro a o ha ho hr h k tile off ht hb hal hf hw hopen hnone hl sum buf
    exact instrAaddf_opens ha ho hr h hm ht hb hal hf hw hopen hnone hl

end Sys2Proof.Machine
end

section
/-! SUPPORT. O12 fails where the runs are not a canonical map: `STW` changes the windows of every run of the number, and
the windows of one hidden behind the first need not be like them (R249, R277, log entry 30). -/

namespace Sys2Proof.Machine

/-- In a canonical map two changes of a run agree where they agree on it. -/
theorem updRun_congr {n : Nat} {r : Run} {f g : Run → Run} {d : Dev} (hwf : d.comp.runs.wf = true)
    (hr : d.run? n = some r) (h : f r = g r) : d.updRun n f = d.updRun n g := by
  have hruns : Map.upd n f d.comp.runs = Map.upd n g d.comp.runs := Map.upd_congr fun v hv => by
    rwa [Option.some.inj ((Map.get?_of_mem hwf hv).symm.trans hr)]
  simp only [Dev.updRun, Dev.updComp, hruns]

/-- A store within the run's windows puts the active lanes into those of each run of the number. -/
theorem instrStw_stores {s : State} {n i : Nat} {x : ICtx} (h : Stands s 0x26 n i x) (hm : x.mask ≠ 0)
    (hb : (x.sb + BitVec.ofNat 64 x.imm).toNat + 256 ≤ hWindow x.h)
    (hal : (x.sb + BitVec.ofNat 64 x.imm).toNat % 4 = 0) : onDev (instrStw n i) s = .next ((s.withDev
      (s.dev.updRun n fun r => { r with
        windows := x.storeMap (65536 * i + (x.sb + BitVec.ofNat 64 x.imm).toNat) r.windows })).stepped n i id) := by
  have hin : decide ((x.sb + BitVec.ofNat 64 x.imm).toNat + 256 > hWindow x.h) = false :=
    decide_eq_false (Nat.not_lt.mpr hb)
  refine onDev_advance h (memInstr_on h hm ?_) rfl rfl rfl rfl rfl
  simp only [trapIf_false hin, trapIf_align hal, bind, Except.bind]

/-- The clause of O12 about `STW` holds where the runs form a canonical map: there is then one run of the number. -/
theorem instrStw_stores_canonical {s : State} {n i : Nat} {x : ICtx} (h : Stands s 0x26 n i x) (hm : x.mask ≠ 0)
    (hwf : s.dev.comp.runs.wf = true) (hb : (x.sb + BitVec.ofNat 64 x.imm).toNat + 256 ≤ hWindow x.h)
    (hal : (x.sb + BitVec.ofNat 64 x.imm).toNat % 4 = 0) : onDev (instrStw n i) s = .next ((s.withDev
      (s.dev.updRun n fun r => { r with
        windows := x.storeMap (65536 * i + (x.sb + BitVec.ofNat 64 x.imm).toNat) x.r.windows })).stepped n i id) := by
  rw [instrStw_stores h hm hb hal]
  exact congrArg (fun d => Host.Outcome.next ((s.withDev d).stepped n i id)) (updRun_congr hwf h.run rfl)

/-- A slice at its kernel's first word, with its registers at +0. -/
def bareSlice : Slice :=
  { st := .running 0, phase := 0, x := 0, y := 0, pc := 0, v := [], s := [], p := [], t := [], scratch := [], bufs := []
    started := 0, core := 0, since := 0, holdFrom := none }

/-- A run of one slice, of kernel 7, with something in its windows. -/
def windowRun (windows : Map Byte) : Run :=
  { by' := .cmd 0, qp := 0, tag := 0, tenant := 0, fn := none, kernel := 7, unit := 0, cores := [0], args := []
    params := [], seed := 0, gx := 1, gy := 1, qos := 0, half := 0, deadline := none, timeout := none, sealOut := false
    grids := [(1, 1)], slices := [(0, bareSlice)], phase := 0, nextIdx := 1, doneN := 0, preempts := 0, written := []
    windows := windows, accs := [], staged := [], jobs := [], since := 0, parts := [], tcCh := 0, ending := false
    sealIx := 0, degraded := false, coreTime := 0 }

/-- A kernel whose one word is the `STW` of v0 at s0, with 256 bytes of window (Tables 8-1 and 9-2). -/
def storeKernel : Kernel :=
  { tenant := 0, header := zeros 16 ++ leBytes 4 256, code := [BitVec.ofNat 64 (0x26 * 2 ^ 56)], charge := 0, lib := 0
    copies := [] }

/-- Number 0 held by two runs of that kernel: the first with empty windows, the hidden one with a byte in them. -/
def runsTwice : State :=
  let d := Dev.reset.updPwr fun p => { p with mode := .service, step := 8 }
  { State.reset with dev := d.updComp fun c => { c with
      kernels := [(7, storeKernel)], runs := [(0, windowRun []), (0, windowRun [(1000, 1)])] } }

/-- What its slice sees. -/
def storeSeen : ICtx :=
  ⟨0, 0, windowRun [], bareSlice, BitVec.ofNat 64 (0x26 * 2 ^ 56), storeKernel.header⟩

theorem runsTwice_stands : Stands runsTwice 0x26 0 0 storeSeen where
  live := ⟨rfl, rfl⟩
  run := rfl
  slice := rfl
  runs := ⟨0, rfl⟩
  kernel := ⟨storeKernel, rfl, rfl, rfl⟩
  code := by decide +kernel
  names := ⟨rfl, rfl⟩

/-- The windows of all runs of a state. -/
def State.windows (s : State) : List (Map Byte) := s.dev.comp.runs.map (·.2.windows)

/-- Refutes O12: its `STW` clause has every run of the number with the first one's windows and what is stored into them,
but the hidden run here keeps a byte of its own. With a canonical map the clause holds (`instrStw_stores_canonical`). -/
theorem not_privateMemory : ¬ Obligations.PrivateMemory := by
  unfold Obligations.PrivateMemory
  intro h
  obtain ⟨-, -, -, hstw, -⟩ := h runsTwice 0 0 storeSeen
  have hmask : storeSeen.mask ≠ 0 := by decide +kernel
  have hin : (storeSeen.sb + BitVec.ofNat 64 storeSeen.imm).toNat + 256 ≤ hWindow storeSeen.h := by decide +kernel
  have hal : (storeSeen.sb + BitVec.ofNat 64 storeSeen.imm).toNat % 4 = 0 := by decide +kernel
  have hclaimed := hstw runsTwice_stands hmask hin hal
  have hdone := instrStw_stores runsTwice_stands hmask hin hal
  have hsame := congrArg State.windows (Host.Outcome.next.inj (hdone.symm.trans hclaimed))
  exact absurd hsame (by decide +kernel)

end Sys2Proof.Machine
end

section
/-! SUPPORT. O16, O17: flags, counters, fences, arrivals and the two free reads from a slice (R290 to R292, R299 to R310,
Table 9-13, log entries 5 and 31). -/

namespace Sys2Proof.Machine

section
variable {s : State} {op n i : Nat} {x : ICtx}

/-! ## Fences and homes -/

/-- A fenced instruction goes on where nothing of the slice is still being made durable (R291). -/
theorem fenced_go {f : Dev → Except TrapInfo Dev} {d : Dev} (hb : d.sliceBusy n i = false) : fenced n i f d = f d :=
  if_neg (by simp [hb])

/-- With no bridge lost every home is within reach (R24). -/
theorem onHome_reach {die : Nat} {f : Dev → Except TrapInfo Dev} {d : Dev} (hp : d.pwr.sable = false) :
    onHome x die f d = f d := if_neg (by simp [hp])

theorem updateHome_reach {die : Nat} {f : Dev → Except TrapInfo Dev} {d : Dev} (hp : d.pwr.sable = false) :
    updateHome x die f d = f d := by
  have hcut : ¬d.cutOff (coreHalf x.s.core) die = true := by simp [Dev.cutOff, hp]
  rw [updateHome, if_neg hcut, onHome_reach hp]

theorem counted_ok {f : Dev → Except TrapInfo Dev} {d e : Dev} (hf : f d = .ok e) : counted x f d = .ok e := by
  simp only [counted, hf]

/-! ## Flags and counters -/

/-- The device once the slice has gone on over it. -/
def passed (n i : Nat) (d : Dev) : Dev := d.updSlice n i fun sl => { sl with pc := sl.pc + 1, holdFrom := none }

theorem advance_passed (h : Stands s op n i x) (d : Dev) : x.advance id d = passed n i d := by
  rw [ICtx.advance, h.names.1, h.names.2]
  rfl

theorem flag_of {p : Nat} {d : Dev} (hp : d.physFlag x.r.tenant x.imm = some p) : x.flag d = .ok p := by
  simp only [ICtx.flag, hp]

theorem counter_of {c : Counter} {d : Dev} (hc : d.sync.counters.get? x.imm = some c) (ht : c.tenant = x.r.tenant) :
    x.counter d = .ok c := by
  simp only [ICtx.counter, hc, if_pos ht]

section
variable (hl : x.lane 0 = true) (hsable : s.dev.pwr.sable = false)
include hl hsable

theorem instrFset_sets (h : Stands s 0xA0 n i x) (hbusy : s.dev.sliceBusy n i = false) {p : Nat}
    (hp : s.dev.physFlag x.r.tenant x.imm = some p) :
    onDev (instrFset n i) s = .next (s.after (passed n i (setFlag p s.dev))) := by
  refine wholeInstr_after h hl ((fenced_go hbusy).trans (counted_ok ?_))
  simp only [flag_of hp, updateHome_reach hsable, advance_passed h, bind, Except.bind]

theorem instrFclr_clears (h : Stands s 0xA1 n i x) {p : Nat} (hp : s.dev.physFlag x.r.tenant x.imm = some p) :
    onDev (instrFclr n i) s = .next (s.after (passed n i (clearFlag p s.dev))) := by
  refine wholeInstr_after h hl (counted_ok ?_)
  simp only [flag_of hp, updateHome_reach hsable, advance_passed h, bind, Except.bind]

/-- A wait on a set flag goes on, and a `TAKE` consumes it (R300). -/
theorem instrWaitFlag_goes {take : Bool} (h : Stands s op n i x) {p : Nat} {f : Flag}
    (hp : s.dev.physFlag x.r.tenant x.imm = some p) (hf : s.dev.flag? p = some f) (hq : f.quar = false)
    (hset : f.set = true) : onDev (instrWaitFlag op take n i) s = .next (s.after (passed n i
      (if take then s.dev.updFlag p fun f => { f with set := false } else s.dev))) := by
  refine wholeInstr_after h hl ?_
  simp only [flag_of hp, onHome_reach hsable, hf, hq, hset, advance_passed h, bind, Except.bind]
  rfl

theorem instrCadd_adds (h : Stands s 0xA4 n i x) (hbusy : s.dev.sliceBusy n i = false) {c : Counter}
    (hc : s.dev.sync.counters.get? x.imm = some c) (ht : c.tenant = x.r.tenant)
    (hlow : 1 ≤ x.sa.toNat) (hhigh : x.sa.toNat ≤ 2 ^ 20) (hret : s.dev.retireCtr x.imm = false) :
    onDev (instrCadd n i) s = .next (s.after (passed n i (addCounter x.imm x.sa.toNat s.dev))) := by
  have hrange : (!decide (1 ≤ x.sa.toNat ∧ x.sa.toNat ≤ 2 ^ 20)) = false := by rw [decide_eq_true ⟨hlow, hhigh⟩]; rfl
  refine wholeInstr_after h hl ((fenced_go hbusy).trans (counted_ok ?_))
  simp only [counter_of hc ht, trapIf_false hrange, updateHome_reach hsable, hret, advance_passed h, bind, Except.bind]
  rfl

theorem instrCrd_reads (h : Stands s 0xA5 n i x) {c : Counter} (hc : s.dev.sync.counters.get? x.imm = some c)
    (ht : c.tenant = x.r.tenant) :
    onDev (instrCrd n i) s = .next (s.stepped n i (Slice.setS (wD x.w) (c.val.setWidth 64))) := by
  refine wholeInstr_steps h hl ?_
  simp only [counter_of hc ht, onHome_reach hsable, bind, Except.bind]

theorem instrCwait_goes (h : Stands s 0xA6 n i x) {c : Counter} (hc : s.dev.sync.counters.get? x.imm = some c)
    (ht : c.tenant = x.r.tenant) (hreached : 0 ≤ serialDiff c.val.toNat (x.sa.toNat % 2 ^ 48)) :
    onDev (instrCwait n i) s = .next (s.after (passed n i s.dev)) := by
  refine wholeInstr_after h hl ?_
  simp only [counter_of hc ht, onHome_reach hsable, ge_iff_le, if_pos hreached, advance_passed h, bind, Except.bind]

end

/-! ## Waits that register (R303, R321) -/

/-- The device once a record of the slice's wait is registered and the slice waits on its core. -/
def asleep (n i : Nat) (w : WaitRec) (d : Dev) : Dev :=
  (addWait w d).updSlice n i fun sl => { sl with st := .waiting sl.core, holdFrom := none }

/-- The record of a wait of slice `i` of run `n`. -/
def sliceWait (n i : Nat) (x : ICtx) (what : WaitFor) (operand : BitVec 64) (d : Dev) : WaitRec :=
  { x.waitRec what x.imm operand d with who := .slice n i, index := i }

theorem registerWait_sleeps (h : Stands s op n i x) {what : WaitFor} {operand : BitVec 64} {d : Dev}
    (hroom : d.sync.waits.length < waitRecords) :
    registerWait x (x.waitRec what x.imm operand d)
      (fun d' => sleepSlice x (addWait (x.waitRec what x.imm operand d) d')) d =
      asleep n i (sliceWait n i x what operand d) d := by
  rw [registerWait, if_pos hroom, sleepSlice, ICtx.waitRec, h.names.1, h.names.2]
  rfl

section
variable (hl : x.lane 0 = true) (hsable : s.dev.pwr.sable = false)
  (hroom : s.dev.sync.waits.length < waitRecords)
include hl hsable hroom

theorem instrWaitFlag_sleeps {take : Bool} (h : Stands s op n i x) {p : Nat} {f : Flag}
    (hp : s.dev.physFlag x.r.tenant x.imm = some p) (hf : s.dev.flag? p = some f) (hq : f.quar = false)
    (hset : f.set = false) : onDev (instrWaitFlag op take n i) s =
      .next (s.after (asleep n i (sliceWait n i x (.flag p take) x.sa s.dev) s.dev)) := by
  refine wholeInstr_after h hl ?_
  simp only [flag_of hp, onHome_reach hsable, hf, hq, hset, registerWait_sleeps h hroom, bind, Except.bind]
  rfl

theorem instrCwait_sleeps (h : Stands s 0xA6 n i x) {c : Counter} (hc : s.dev.sync.counters.get? x.imm = some c)
    (ht : c.tenant = x.r.tenant) (hshort : serialDiff c.val.toNat (x.sa.toNat % 2 ^ 48) < 0) :
    onDev (instrCwait n i) s = .next (s.after (asleep n i
      (sliceWait n i x (.counter x.imm (x.sa.toNat % 2 ^ 48)) x.sb s.dev) s.dev)) := by
  refine wholeInstr_after h hl ?_
  simp only [counter_of hc ht, onHome_reach hsable, ge_iff_le, if_neg (Int.not_le.mpr hshort),
    registerWait_sleeps h hroom, bind, Except.bind]

end

/-! ## Fences and free reads -/

theorem instrFence_passes (h : Stands s 0xA8 n i x) (hl : x.lane 0 = true) (hb : s.dev.sliceBusy n i = false) :
    onDev (instrFence n i) s = .next (s.stepped n i id) :=
  wholeInstr_steps h hl (fenced_go hb)

/-- A fence with stores of the slice still being made durable stalls: nothing changes (R291). -/
theorem instrFence_stalls (h : Stands s 0xA8 n i x) (hl : x.lane 0 = true) (hb : s.dev.sliceBusy n i = true) :
    onDev (instrFence n i) s = .next s :=
  onDev_still h.live (wholeInstr_on h hl (if_pos hb))

/-- What `RDCYC` and `RDENT` read is the next free value (log entry 5). -/
theorem instrFree_draws (h : Stands s op n i x) (hl : x.lane 0 = true) : onDev (instrFree op n i) s =
    .next ((s.withDev { s.dev with freeN := s.dev.freeN + 1 }).stepped n i
      (Slice.setS (wD x.w) (Config.free64 s.dev.freeN))) :=
  onDev_advance h (wholeInstr_on h hl rfl) rfl rfl rfl rfl rfl

/-! ## Arrivals (R309) -/

theorem herd_of_herdOf {t id : Nat} {h : Herd} {d : Dev} (hh : d.herdOf t id = some h) :
    d.sync.herds.get? id = some h := by
  unfold Dev.herdOf at hh
  split at hh
  · next h' hget =>
    split at hh
    · exact hget.trans hh
    · cases hh
  · cases hh

/-- A herd that someone has yet to arrive at completes no generation (R310). -/
theorem completeGen_open {id : Nat} {h : Herd} {d : Dev} (k : Nat) (hh : d.sync.herds.get? id = some h)
    (hopen : h.a ≠ h.mask) : completeGen id k d = d := by
  cases k with
  | zero => rfl
  | succ k => simp only [completeGen, hh, bne_iff_ne.mpr hopen, if_true]

/-- A participant arrives, with a wait, at a herd that it does not complete: the herd counts it, and the runs are as they
were. -/
theorem arrive_counts {id p : Nat} {w : Nat → WaitRec} {d : Dev} {h : Herd} (hh : d.sync.herds.get? id = some h)
    (hin : p ∈ h.mask) (hb : h.broken = false) (hnew : p ∉ h.a) (hopen : insertNat p h.a ≠ h.mask) :
    ∃ e h', arrive id p (some w) d = (.taken, e) ∧ e.sync.herds.get? id = some h' ∧ h'.a = insertNat p h.a ∧
      e.comp = d.comp := by
  have hmask : h.mask.contains p = true := List.contains_iff_mem.mpr hin
  have hfresh : h.a.contains p = false := by simpa using hnew
  simp only [arrive, hh, hmask, hb, hfresh, Bool.not_true, Bool.not_false, Bool.false_eq_true, if_false, if_true]
  have hcounted : (Map.upd id (fun h => { h with
      a := insertNat p h.a, dueAt := if h.a.isEmpty then some (d.now + h.timeout) else h.dueAt })
      d.sync.herds).get? id = some { h with
        a := insertNat p h.a, dueAt := if h.a.isEmpty then some (d.now + h.timeout) else h.dueAt } := by
    rw [Map.get?_upd_self, hh]
    rfl
  rw [completeGen_open 2 hcounted hopen]
  exact ⟨_, _, rfl, hcounted, rfl, rfl⟩

/-- `HARR` of a participant that its herd still waits for is counted, and its slice waits on its core. -/
theorem instrHarr_arrives (h : Stands s 0xA7 n i x) (hl : x.lane 0 = true) (hbusy : s.dev.sliceBusy n i = false)
    (hsable : s.dev.pwr.sable = false) {g : Herd} (hg : s.dev.herdOf x.r.tenant x.imm = some g)
    (hb : g.broken = false) (hin : x.sb.toNat ∈ g.mask) (hnew : x.sb.toNat ∉ g.a)
    (hopen : insertNat x.sb.toNat g.a ≠ g.mask) (hroom : s.dev.sync.waits.length < waitRecords) :
    ∃ e g', onDev (instrHarr n i) s = .next (s.after e) ∧ e.sync.herds.get? x.imm = some g' ∧
      g'.a = insertNat x.sb.toNat g.a ∧ e.comp = (sleepSlice x s.dev).comp := by
  have hherd : (sleepSlice x s.dev).sync.herds.get? x.imm = some g := herd_of_herdOf hg
  obtain ⟨e, g', harr, hcounted, ha, hcomp⟩ := arrive_counts (w := fun gen =>
    { x.waitRec (.herd x.imm 0) x.imm x.sa s.dev with what := .herd x.imm gen, order := s.dev.sync.nextWait })
    hherd hin hb hnew hopen
  refine ⟨e, g', wholeInstr_after h hl ?_, hcounted, ha, hcomp⟩
  simp only [hbusy, hg, onHome_reach hsable, registerWait, if_pos hroom, harr, Bool.false_eq_true, if_false]

/-- The run and the slice once the slice waits on its core, at the word it stands at. -/
theorem sleepSlice_slice (h : Stands s op n i x) : ∃ r sl, (sleepSlice x s.dev).run? n = some r ∧
    r.slices.get? i = some sl ∧ sl.st = .waiting x.s.core ∧ sl.pc = x.s.pc := by
  obtain ⟨hn, hi⟩ := h.names
  have hruns : s.dev.comp.runs.get? n = some x.r := h.run
  simp [sleepSlice, Dev.run?, Dev.updSlice, Dev.updRun, Dev.updComp, hn, hi, hruns, h.slice]

end

/-! ## The statements -/

/-- Settles O16: each instruction finds its object, whose home is within reach; it then updates it and goes on, or waits
with a record. -/
theorem sliceSynchronisation : Obligations.SliceSynchronisation := by
  unfold Obligations.SliceSynchronisation
  intro s n i x hl hsable hbusy t id deadline done record sleeps
  refine ⟨fun p hp => ⟨?fset, ?fclr, fun f hf hq hset => ⟨?fwaitSet, ?ftakeSet⟩,
    fun f hf hq hset hroom => ⟨?fwaitClear, ?ftakeClear⟩⟩, fun c hc ht => ⟨?cadd, ?crd, ?cwaitOver, ?cwaitUnder⟩⟩
  case fset => exact fun h => instrFset_sets hl hsable h hbusy hp
  case fclr => exact fun h => instrFclr_clears hl hsable h hp
  case fwaitSet => exact fun h => instrWaitFlag_goes hl hsable h hp hf hq hset
  case ftakeSet => exact fun h => instrWaitFlag_goes hl hsable h hp hf hq hset
  case fwaitClear => exact fun h => instrWaitFlag_sleeps hl hsable hroom h hp hf hq hset
  case ftakeClear => exact fun h => instrWaitFlag_sleeps hl hsable hroom h hp hf hq hset
  case cadd => exact fun h hlow hhigh hret => instrCadd_adds hl hsable h hbusy hc ht hlow hhigh hret
  case crd => exact fun h => instrCrd_reads hl hsable h hc ht
  case cwaitOver => exact fun h hreached => instrCwait_goes hl hsable h hc ht hreached
  case cwaitUnder => exact fun h hshort hroom => instrCwait_sleeps hl hsable hroom h hc ht hshort

/-- Settles O17: a fence passes or stalls, the two reads draw a free value, and an arrival that completes nothing waits. -/
theorem fenceArriveRead : Obligations.FenceArriveRead := by
  unfold Obligations.FenceArriveRead
  intro s n i x hl
  refine ⟨?passes, ?stalls, ?rdcyc, ?rdent, ?harr⟩
  case passes => exact fun h hb => instrFence_passes h hl hb
  case stalls => exact fun h hb => instrFence_stalls h hl hb
  case rdcyc => exact fun h => instrFree_draws h hl
  case rdent => exact fun h => instrFree_draws h hl
  case harr =>
    intro g h hbusy hsable hg hb hin hnew hopen hroom
    obtain ⟨e, g', hstep, hcounted, ha, hcomp⟩ := instrHarr_arrives h hl hbusy hsable hg hb hin hnew hopen hroom
    obtain ⟨r, sl, hr, hsl, hst, hpc⟩ := sleepSlice_slice h
    have settled := settle_frame s.dev e
    refine ⟨s.after e, g', r, sl, hstep, ?herd, ha, ?run, hsl, hst, hpc⟩
    case herd => exact (congrArg (fun y => y.herds.get? x.imm) settled.sync).trans hcounted
    case run => exact (congrArg (fun y => y.runs.get? n) (settled.comp.trans hcomp)).trans hr

end Sys2Proof.Machine
end

section
/-! SUPPORT. Flags, counters and herds by command, and `WAIT`: what each form of their commands answers (R308, R317 to
R322, log entry 51). -/

namespace Sys2Proof.Machine

/-! ## Homes and names (R296 to R298) -/

/-- An object homed on a die is within a command's reach: no bridge is lost, or it lies on the issuing half (R298). -/
def Ctx.near (x : Ctx) (die : Nat) (d : Dev) : Prop := d.pwr.sable = false ∨ x.half = dieHalf die

section
variable {x : Ctx} {d : Dev} {die : Nat} (hn : x.near die d)
include hn

theorem reach_near : reach x die d = .ok () := checkPath_ok hn

theorem homeDie_near {byte best : Nat} (hdie : die = if byte = 0xFF then best else byte) :
    homeDie x byte best d = .ok die := by
  simp only [homeDie, bind, Except.bind, ← hdie, checkPath_ok hn]

end

theorem ownHerd_near {x : Ctx} {d : Dev} {off id : Nat} {h : Herd} (hn : x.near h.home d)
    (hh : d.herdOf x.t id = some h) : ownHerd x off id d = .ok h := by
  simp only [ownHerd, hh, bind, Except.bind, reach_near hn]

/-- Whether someone waits for what passes a test. -/
def Dev.awaited (d : Dev) (f : WaitFor → Bool) : Bool := d.sync.waits.any fun w => f w.2.what

theorem namedFlag_of {t vid p : Nat} {f : Flag} {d : Dev} (hp : d.physFlag t vid = some p) (hf : d.flag? p = some f) :
    ((d.physFlag t vid).bind fun p => (d.flag? p).map fun f => (p, f)) = some (p, f) := by
  rw [hp, Option.bind_some, hf, Option.map_some]

/-! ## `FLAG_ALLOC`, `FLAG_FREE` (R317, R322) -/

/-- The device with physical flags mapped, clear, to a tenant's virtual IDs from `v` on. -/
def flagsMapped (t v n : Nat) (phys : List Nat) (d : Dev) : Dev :=
  ((List.range n).zip phys).foldl (fun d p => d.updSync fun y => { y with
    flags := Map.set p.2 { tenant := t, vid := v + p.1, set := false, quar := false } y.flags }) d

/-- The device with physical flags unmapped. -/
def flagsUnmapped (ps : List Nat) (d : Dev) : Dev :=
  ps.foldl (fun d p => d.updSync fun y => { y with flags := Map.del p y.flags }) d

section
variable {x : Ctx} {d : Dev} (hq : checkQos x d = .ok ())
include hq

theorem bodyFlagAlloc_maps {die v : Nat}
    (hfree : x.e.w16 0x22 = 0xFFFF ∨ x.e.w16 0x22 + x.e.w16 0x20 ≤ 0xFFFF ∧ ((d.flagIds x.t).any fun i =>
      decide (x.e.w16 0x22 ≤ i ∧ i < x.e.w16 0x22 + x.e.w16 0x20)) = false)
    (hdie : die = if x.e.fld 0x24 0 8 = 0xFF then d.bestFlagDie x.half else x.e.fld 0x24 0 8) (hn : x.near die d)
    (hv : (if x.e.w16 0x22 = 0xFFFF then firstGap (d.flagIds x.t) 0 0xFFFF (x.e.w16 0x20) else some (x.e.w16 0x22)) =
      some v)
    (hlimit : (d.flagIds x.t).length + x.e.w16 0x20 ≤ d.syncLimit 0 32)
    (hphys : (d.freeFlags die (x.e.w16 0x20)).length = x.e.w16 0x20) :
    bodyFlagAlloc x [] none d =
      okRes (leBytes 2 v) (flagsMapped x.t v (x.e.w16 0x20) (d.freeFlags die (x.e.w16 0x20)) d) := by
  have hfits : (x.e.w16 0x22 == 0xFFFF || decide (x.e.w16 0x22 + x.e.w16 0x20 ≤ 0xFFFF)) = true := by
    rcases hfree with h | ⟨h, -⟩ <;> simp [h]
  have hapart : (x.e.w16 0x22 == 0xFFFF || !((d.flagIds x.t).any fun i =>
      decide (x.e.w16 0x22 ≤ i ∧ i < x.e.w16 0x22 + x.e.w16 0x20))) = true := by
    rcases hfree with h | ⟨-, h⟩
    · simp [h]
    · rw [h, Bool.not_false, Bool.or_true]
  simp only [bodyFlagAlloc, plain, bind, Except.bind, hq, need_of hfits, homeDie_near hn hdie, need_of hapart, hv,
    need_of (decide_eq_true (And.intro hlimit hphys))]
  rfl

/-- A range of clear flags that no one waits for is unmapped. -/
theorem bodyFlagFree_unmaps {ps : List Nat} (hps : d.flagRange x.t (x.e.w16 0x22) (x.e.w16 0x20) = some ps)
    (hn : ∀ p ∈ ps, x.near (flagDie p) d) (hidle : d.awaited (fun
      | .flag p _ => ps.contains p
      | _ => false) = false)
    (hclear : ∀ p ∈ ps, ∀ f, d.flag? p = some f → f.set = false ∧ f.quar = false) :
    bodyFlagFree x [] none d = okRes (leBytes 2 0) (flagsUnmapped ps (bumpTenant x.t 29 0 d)) := by
  have hreach : ps.foldlM (fun _ p => reach x (flagDie p) d) () = .ok () :=
    foldlM_checks fun p hp => reach_near (hn p hp)
  simp only [bodyFlagFree, plain, bind, Except.bind, hq, hps, hreach]
  generalize hwaited : d.sync.waits.any _ = waited
  obtain rfl : waited = false := hwaited.symm.trans hidle
  generalize hdirty : ps.filter _ = dirty
  obtain rfl : dirty = [] := by
    refine hdirty.symm.trans (List.filter_eq_nil_iff.mpr fun p hp => ?_)
    cases hf : d.flag? p with
    | none => simp
    | some f => simp [hclear p hp f hf]
  rfl

/-! ## `FLAG_SET`, `FLAG_CLEAR` (R308, R320, R322) -/

section
variable {p : Nat} {f : Flag} (hp : d.physFlag x.t (x.e.w16 0x20) = some p) (hf : d.flag? p = some f)
  (hn : x.near (flagDie p) d)
include hp hf hn

theorem bodyFlagSet_sets (hsel : x.e.fld 0x22 0 8 = 0) (hquar : f.quar = false) :
    bodyFlagSet x [] none d = okRes (leBytes 1 (b2n f.set)) (setFlag p d) := by
  have hset : ¬x.e.fld 0x22 0 8 = 1 := by omega
  simp only [bodyFlagSet, plain, bind, Except.bind, hq, if_neg hset, setByCmd, namedFlag_of hp hf, reach_near hn,
    need_not_of hquar]
  rfl

theorem bodyFlagClear_clears : bodyFlagClear x [] none d = okRes (leBytes 1 (b2n f.set))
    (if f.quar then d.updSync fun y => { y with flags := Map.del p y.flags } else clearFlag p d) := by
  simp only [bodyFlagClear, plain, bind, Except.bind, hq, clearByCmd, namedFlag_of hp hf, reach_near hn]
  rfl

end

section
variable (hp : d.physFlag x.t (x.e.w16 0x20) = none)
include hp

theorem bodyFlagSet_unnamed (hsel : x.e.fld 0x22 0 8 = 0) :
    bodyFlagSet x [] none d = .ok (.done (errF 0x20) (syncRefused x.t d)) := by
  have hset : ¬x.e.fld 0x22 0 8 = 1 := by omega
  simp only [bodyFlagSet, plain, bind, Except.bind, hq, if_neg hset, setByCmd, hp, Option.bind_none]
  rfl

theorem bodyFlagClear_unnamed : bodyFlagClear x [] none d = .ok (.done (errF 0x20) (syncRefused x.t d)) := by
  simp only [bodyFlagClear, plain, bind, Except.bind, hq, clearByCmd, hp, Option.bind_none]
  rfl

end

theorem bodyFlagSet_adds (hsel : x.e.fld 0x22 0 8 = 1) (hown : d.ownsCounter x.t (x.e.fld 0x24 0 17) = true)
    (hn : x.near (counterDie (x.e.fld 0x24 0 17)) d) (hret : d.retireCtr (x.e.fld 0x24 0 17) = false) :
    bodyFlagSet x [] none d =
      let d' := addCounter (x.e.fld 0x24 0 17) (x.e.fld 0x28 0 48) d
      okRes (leBytes 6 (d'.ctrVal (x.e.fld 0x24 0 17))) d' := by
  simp only [bodyFlagSet, plain, bind, Except.bind, hq, if_pos hsel, addByCmd, need_of hown, reach_near hn,
    need_not_of hret]
  rfl

/-! ## `COUNTER_ALLOC`, `COUNTER_FREE` (R318) -/

/-- The device with `n` counters from `first` on given to a tenant, at a starting value. -/
def countersStarted (t first n val : Nat) (d : Dev) : Dev :=
  d.updSync fun y => { y with
    counters := (fromTo first n).foldl (fun m i =>
      Map.set i { tenant := t, val := BitVec.ofNat 48 val : Counter } m) y.counters
    freed := y.freed.filter fun i => !decide (first ≤ i ∧ i < first + n) }

theorem bodyCounterAlloc_starts {die first : Nat}
    (hdie : die = if x.e.fld 0x28 0 8 = 0xFF then
        (if d.freeCounters (2 * x.half) < d.freeCounters (2 * x.half + 1) then 2 * x.half + 1 else 2 * x.half)
      else x.e.fld 0x28 0 8) (hn : x.near die d)
    (hlimit : (d.sync.counters.filter fun p => p.2.tenant == x.t).length + x.e.w16 0x20 ≤ d.syncLimit 4 32)
    (hrun : oldestRun d.sync.counters.keys die (x.e.w16 0x20) d.sync.freed = some first) :
    bodyCounterAlloc x [] none d =
      okRes (leBytes 4 first) (countersStarted x.t first (x.e.w16 0x20) (x.e.fld 0x30 0 48) d) := by
  simp only [bodyCounterAlloc, plain, bind, Except.bind, hq, homeDie_near hn hdie, need_of (decide_eq_true hlimit), hrun]
  rfl

/-- A counter of the range that a `COUNTER_FREE` names. -/
def Ctx.freesCounter (x : Ctx) (i : Nat) : Bool :=
  decide (x.e.fld 0x24 0 17 ≤ i ∧ i < x.e.fld 0x24 0 17 + x.e.w16 0x20)

/-- Counters that are the tenant's, and that no wait, schedule or live reduction names, are freed. -/
theorem bodyCounterFree_frees (hown : (fromTo (x.e.fld 0x24 0 17) (x.e.w16 0x20)).all (d.ownsCounter x.t) = true)
    (hlow : x.near (counterDie (x.e.fld 0x24 0 17)) d)
    (hhigh : x.near (counterDie (x.e.fld 0x24 0 17 + x.e.w16 0x20 - 1)) d)
    (hwaits : d.awaited (fun
      | .counter i _ => x.freesCounter i
      | _ => false) = false)
    (hscheds : (d.tiers.scheds.any fun y => x.freesCounter y.2.counter) = false)
    (hreds : (d.reds.reds.any fun r => r.2.ended.isNone && x.freesCounter r.2.counter) = false) :
    bodyCounterFree x [] none d = okRes (leBytes 8 (d.ctrVal (x.e.fld 0x24 0 17))) (d.updSync fun y => { y with
      counters := Map.keep (fun i _ => !x.freesCounter i) y.counters
      freed := y.freed ++ fromTo (x.e.fld 0x24 0 17) (x.e.w16 0x20) }) := by
  have hidle := Bool.or_eq_false_iff.mpr ⟨Bool.or_eq_false_iff.mpr ⟨hwaits, hscheds⟩, hreds⟩
  simp only [bodyCounterFree, plain, bind, Except.bind, hq, need_of hown, reach_near hlow, reach_near hhigh]
  generalize hnamed : ((d.sync.waits.any _ || d.tiers.scheds.any _) || d.reds.reds.any _) = named
  obtain rfl : named = false := hnamed.symm.trans hidle
  rfl

/-! ## `HERD_DEFINE`, `HERD_FREE` (R319) -/

/-- Data that a `HERD_DEFINE` reads: the participant mask and the notify entries. -/
def Ctx.herdData (x : Ctx) : Nat := 128 + 8 * x.e.fld 0x26 0 8

/-- The herd that a `HERD_DEFINE` makes of its data, at a home, with its notify entries. -/
def newHerd (x : Ctx) (b : Bytes) (die : Nat) (notify : List (Nat × Nat)) : Herd :=
  { tenant := x.t, home := die, mask := setBits 1024 (leNat (b.take 128)), g := 0, a := [], n := [], broken := false
    relFlag := x.e.w16 0x24, notify := notify, timeout := x.e.w32 0x28, dueAt := none }

section
variable (hsel : x.e.b20 = 0)
include hsel

theorem bodyHerdDefine_reads : bodyHerdDefine x [] none d = .ok (.read 0 x.herdData d) := by
  have hdef : ¬x.e.b20 = 1 := by omega
  refine withData_reads ?_ (by unfold Ctx.herdData; omega)
  simp only [bind, Except.bind, hq, if_neg hdef]
  rfl

/-- The herd is made under the lowest free ID (log entry 51). -/
theorem bodyHerdDefine_makes {b : Bytes} {notify : List (Nat × Nat)} {die : Nat}
    (hmask : setBits 1024 (leNat (b.take 128)) ≠ [])
    (hrel : x.e.w16 0x24 = 0xFFFF ∨ ∃ p, d.physFlag x.t (x.e.w16 0x24) = some p ∧ x.near (flagDie p) d)
    (hnotify : notifyList x.t d b (x.e.fld 0x26 0 8) = .ok notify)
    (hdie : die = if x.e.fld 0x27 0 8 = 0xFF then d.bestFlagDie x.half else x.e.fld 0x27 0 8) (hn : x.near die d)
    (hroom : d.sync.herds.length < 4096)
    (hlimit : (d.sync.herds.filter fun p => p.2.tenant == x.t).length < d.syncLimit 8 16) :
    bodyHerdDefine x [b] none d = okRes (leBytes 2 (d.sync.herds.firstFree 0)) (d.updSync fun y => { y with
      herds := Map.set (d.sync.herds.firstFree 0) (newHerd x b die notify) y.herds }) := by
  have hsome : (!(setBits 1024 (leNat (b.take 128))).isEmpty) = true := by simpa using hmask
  have hdef : ¬x.e.b20 = 1 := by omega
  refine (withData_got (n := x.herdData) ?_ b []).trans ?_
  · simp only [bind, Except.bind, hq, if_neg hdef]
    rfl
  · simp only [if_pos hsel, defineHerd, bind, Except.bind, need_of hsome, hnotify, homeDie_near hn hdie,
      need_of (decide_eq_true (And.intro hroom hlimit))]
    cases hp : d.physFlag x.t (x.e.w16 0x24) with
    | none =>
      have hnone : (x.e.w16 0x24 == 0xFFFF) = true := by simpa [hp] using hrel
      simp only [need_of hnone]
      rfl
    | some p =>
      by_cases hnone : x.e.w16 0x24 = 0xFFFF
      · simp only [if_pos hnone]
        rfl
      · have hreach : x.near (flagDie p) d := by simpa [hp, hnone] using hrel
        simp only [if_neg hnone, reach_near hreach]
        rfl

end

theorem bodyHerdFree_frees {h : Herd} (hh : d.herdOf x.t (x.e.w16 0x20) = some h) (hn : x.near h.home d)
    (hidle : d.awaited (fun
      | .herd k _ => k == x.e.w16 0x20
      | _ => false) = false) :
    bodyHerdFree x [] none d =
      okRes [] (d.updSync fun y => { y with herds := Map.del (x.e.w16 0x20) y.herds }) := by
  simp only [bodyHerdFree, plain, bind, Except.bind, hq, ownHerd_near hn hh]
  generalize hwaited : d.sync.waits.any _ = waited
  obtain rfl : waited = false := hwaited.symm.trans hidle
  rfl

/-! ## `WAIT` (R321) -/

theorem bodyWait_flag (hkind : x.e.b20 = 0) : bodyWait x [] none d = waitFlag x d := by
  simp only [bodyWait, plain, bind, Except.bind, hq, if_pos hkind]

theorem bodyWait_counter (hkind : x.e.b20 = 1) : bodyWait x [] none d = waitCounter x d := by
  simp only [bodyWait, plain, bind, Except.bind, hq, hkind]
  rfl

theorem bodyWait_herd (hkind : x.e.b20 = 2) : bodyWait x [] none d = waitHerd x d := by
  simp only [bodyWait, plain, bind, Except.bind, hq, hkind]
  rfl

end

section
variable {x : Ctx} {d : Dev}

theorem waitCmdOn_registers {what : WaitFor} {vid : Nat} (hroom : d.sync.waits.length < waitRecords) :
    waitCmdOn x what vid d = .ok (.wait (addWait (x.waitRec what vid d) d)) := by
  simp only [waitCmdOn, bind, Except.bind, need_of (decide_eq_true hroom)]

/-- A flag that is the tenant's and not quarantined is polled, found set, or waited for. -/
theorem waitFlag_named {p : Nat} {f : Flag} (hp : d.physFlag x.t (x.e.w16 0x22) = some p) (hf : d.flag? p = some f)
    (hn : x.near (flagDie p) d) (hquar : f.quar = false) :
    waitFlag x d =
      let form := x.e.fld 0x21 0 8
      if form = 2 then okRes (waitResults (b2n f.set) d true) d
      else if f.set then
        okRes (waitResults 1 d false) (if form = 1 then d.updFlag p fun f => { f with set := false } else d)
      else waitCmdOn x (.flag p (form == 1)) (x.e.w16 0x22) d := by
  simp only [waitFlag, namedFlag_of hp hf, bind, Except.bind, reach_near hn, need_not_of hquar]

/-- A counter of the tenant is polled, found at its target, or waited for. -/
theorem waitCounter_owned (hown : d.ownsCounter x.t (x.e.fld 0x24 0 17) = true)
    (hn : x.near (counterDie (x.e.fld 0x24 0 17)) d) :
    waitCounter x d =
      let k := x.e.fld 0x24 0 17
      let target := x.e.fld 0x28 0 48
      if x.e.fld 0x21 0 8 = 2 then okRes (waitResults (d.ctrVal k) d true) d
      else if 0 ≤ serialDiff (d.ctrVal k) target then okRes (waitResults (d.ctrVal k) d false) d
      else waitCmdOn x (.counter k target) k d := by
  simp only [waitCounter, bind, Except.bind, need_of hown, reach_near hn, ge_iff_le]

/-- A `POLL` of a herd answers the generation that collects arrivals, whether it is broken, and how many have come. -/
theorem waitHerd_polls {h : Herd} (hform : x.e.fld 0x21 0 8 = 2) (hh : d.herdOf x.t (x.e.fld 0x22 0 12) = some h)
    (hn : x.near h.home d) :
    waitHerd x d = okRes (waitResults (h.g + 2 * b2n h.broken + 2 ^ 16 * h.a.length) d true) d := by
  simp only [waitHerd, bind, Except.bind, ownHerd_near hn hh, if_pos hform]

end

end Sys2Proof.Machine
end

section
/-! SUPPORT. O26, O27: the statements about flags, counters and herds by command. -/

namespace Sys2Proof.Machine

/-- A ready `FLAG_SET` is not refused for its amount, so nothing is counted before its body runs (R306). -/
theorem countAmount_ready {s : State} {n op : Nat} {c : Cmd} (h : Ready s n op c) : countAmount n s.dev = s.dev := by
  simp only [countAmount, h.cmd, h.checks, ite_self]

theorem exec_flagSet {s : State} {n : Nat} {c : Cmd} (h : Ready s n 0x62 c) :
    exec (.flagSet n) s = onDev (startCmd 0x62 bodyFlagSet n) s := by
  refine Eq.trans (b := execFlagSet n s) rfl ?_
  rw [execFlagSet, onDev_eq h.live.1 h.live.2, onDev_eq h.live.1 h.live.2, countAmount_ready h]

/-- Settles O26: each form of each command is its case of the body. -/
theorem syncCommands : Obligations.SyncCommands := by
  unfold Obligations.SyncCommands
  intro s n c
  refine ⟨?flagAlloc, ?flagFree, ?named, ?unnamed, ?add, ?counterAlloc, ?counterFree, ?herdDefine, ?herdFree⟩
  case flagAlloc =>
    exact fun die v hfree hdie hn hv hlimit hphys h =>
      ends_of_okRes rfl h (bodyFlagAlloc_maps h.label hfree hdie hn hv hlimit hphys)
  case flagFree =>
    exact fun ps hps hn hidle hclear h => ends_of_okRes rfl h (bodyFlagFree_unmaps h.label hps hn hidle hclear)
  case named =>
    intro p f hp hf hn
    exact ⟨fun hsel hquar h => ends_of_okRes (exec_flagSet h) h (bodyFlagSet_sets h.label hp hf hn hsel hquar),
      fun h => ends_of_okRes rfl h (bodyFlagClear_clears h.label hp hf hn)⟩
  case unnamed =>
    intro hp
    exact ⟨fun hsel h => ends_of_body (exec_flagSet h) h (bodyFlagSet_unnamed h.label hp hsel) (.inl (Nat.zero_le _)),
      fun h => ends_of_body rfl h (bodyFlagClear_unnamed h.label hp) (.inl (Nat.zero_le _))⟩
  case add =>
    exact fun hsel hown hn hret h => ends_of_okRes (exec_flagSet h) h (bodyFlagSet_adds h.label hsel hown hn hret)
  case counterAlloc =>
    exact fun die first hdie hn hlimit hrun h =>
      ends_of_okRes rfl h (bodyCounterAlloc_starts h.label hdie hn hlimit hrun)
  case counterFree =>
    exact fun hown hlow hhigh hwaits hscheds hreds h =>
      ends_of_okRes rfl h (bodyCounterFree_frees h.label hown hlow hhigh hwaits hscheds hreds)
  case herdDefine =>
    intro notify die len b mask id g hsel h
    have hread := bodyHerdDefine_reads h.label hsel
    refine ⟨reads_of_body rfl h hread, fun hi hlen hmask hrel hnotify hdie hn hroom hlimit => ?_⟩
    exact ends_of_inlineRes rfl h hi hread hlen
      (bodyHerdDefine_makes h.label hsel hmask hrel hnotify hdie hn hroom hlimit)
  case herdFree => exact fun g hg hn hidle h => ends_of_okRes rfl h (bodyHerdFree_frees h.label hg hn hidle)

/-- Settles O27: each form is its branch of the wait on its kind of object. -/
theorem waitCommand : Obligations.WaitCommand := by
  unfold Obligations.WaitCommand
  intro s n c e d t form near record
  refine ⟨?flag, ?counter, ?herd⟩
  case flag =>
    intro p f vid hkind hp hf hn hquar h
    have hbody := (bodyWait_flag h.label hkind).trans (waitFlag_named hp hf hn hquar)
    refine ⟨fun hform => ?poll, fun hform hset => ?wait, fun hform hset => ?take, fun hform hset hroom => ?registers⟩
    case poll => exact ends_of_okRes rfl h (hbody.trans (if_pos hform))
    case wait =>
      have hwaits : form ≠ 2 := by omega
      have hkeeps : form ≠ 1 := by omega
      exact ends_of_okRes rfl h ((hbody.trans (if_neg hwaits)).trans
        ((if_pos hset).trans (congrArg (okRes _) (if_neg hkeeps))))
    case take =>
      have hwaits : form ≠ 2 := by omega
      exact ends_of_okRes rfl h ((hbody.trans (if_neg hwaits)).trans
        ((if_pos hset).trans (congrArg (okRes _) (if_pos hform))))
    case registers =>
      exact waits_of_body rfl h ((hbody.trans (if_neg hform)).trans
        ((if_neg (ne_true_of_eq_false hset)).trans (waitCmdOn_registers hroom)))
  case counter =>
    intro k target hkind hown hn h
    have hbody := (bodyWait_counter h.label hkind).trans (waitCounter_owned hown hn)
    refine ⟨fun hform => ?poll, fun hform hreached => ?reached, fun hform hshort hroom => ?registers⟩
    case poll => exact ends_of_okRes rfl h (hbody.trans (if_pos hform))
    all_goals have hwaits : form ≠ 2 := by omega
    case reached => exact ends_of_okRes rfl h ((hbody.trans (if_neg hwaits)).trans (if_pos hreached))
    case registers =>
      exact waits_of_body rfl h ((hbody.trans (if_neg hwaits)).trans
        ((if_neg (Int.not_le.mpr hshort)).trans (waitCmdOn_registers hroom)))
  case herd =>
    exact fun g hkind hform hg hn h =>
      ends_of_okRes rfl h ((bodyWait_herd h.label hkind).trans (waitHerd_polls hform hg hn))

end Sys2Proof.Machine
end

section
/-! SUPPORT. The commands of regulation: what each form answers (R345 to R348, R359, R360). -/

namespace Sys2Proof.Machine

/-! ## `QOS_RESERVE` (R345 to R348) -/

/-- Bytes of the entries that a `QOS_RESERVE` reads. -/
def Ctx.reserveData (x : Ctx) : Nat := 16 * x.e.fld 0x26 0 8

/-- The regulator that a `QOS_RESERVE` assigns, its budgets full. -/
def newReg (x : Ctx) (es : List QEntry) (d : Dev) : Reg :=
  { tenant := x.e.fld 0x28 0 10, cls := x.e.fld 0x20 0 2, window := x.e.w16 0x24, win := d.now / x.e.w16 0x24
    ents := es.map fun y => { y with budget := y.guar }, cuts := [], next := none, lastMiss := 0, lastRec := none }

/-- The index that a `QOS_RESERVE` assigns: the one asked for, or the lowest free one. -/
def newRegIndex (x : Ctx) (d : Dev) : Option Nat :=
  if x.e.fld 0x22 0 10 = 0 then (fromTo 1 1023).find? d.regFree else some (x.e.fld 0x22 0 10)

/-- A regulator taken into service under an index. -/
def assignReg (r : Nat) (g : Reg) (d : Dev) : Dev :=
  requalify (d.updQos fun q => { q with regs := Map.set r g q.regs, retiring := q.retiring.filter (· != r) })

/-- A regulator of a class other than Slate may be given entries, which lie at `addr`. -/
theorem need_entries {x : Ctx} (hcls : x.e.fld 0x20 0 2 ≠ 0) (c : Cpl) :
    need (x.e.fld 0x20 0 2 != 0 || x.e.addr == 0) c = .ok () := need_of (by simp [hcls])

section
variable {x : Ctx} {d : Dev} {target : Option Nat} (hq : checkQos x d = .ok ())
  (ht : reserveTarget x d = .ok target) (hcls : x.e.fld 0x20 0 2 ≠ 0)
include hq ht hcls

theorem bodyQosReserve_reads (h0 : x.e.fld 0x26 0 8 ≠ 0) :
    bodyQosReserve x [] none d = .ok (.read 0 x.reserveData d) := by
  refine withData_reads ?_ (by unfold Ctx.reserveData; omega)
  simp only [bind, Except.bind, hq, ht, need_entries hcls]
  rfl

/-- The checks passed and the entries read and found right, what is left is the admission. -/
theorem bodyQosReserve_got {b : Bytes} {es : List QEntry}
    (hes : qEntries (x.e.fld 0x28 0 10) d 0 [] (chunks 16 (x.e.fld 0x26 0 8) b) = .ok es) :
    bodyQosReserve x [b] none d = reserve x target es d := by
  refine (withData_got (n := x.reserveData) ?_ b []).trans ?_
  · simp only [bind, Except.bind, hq, ht, need_entries hcls]
    rfl
  · simp only [bind, Except.bind, ht, hes]

end

section
variable {x : Ctx} {es : List QEntry} {r : Nat} {d : Dev}

/-- A reservation admitted under an index has a regulator assigned there (R345, R346). -/
theorem reserve_assigns (hr : newRegIndex x d = some r)
    (hlimit : x.e.fld 0x28 0 10 = 0 ∨ (d.qos.regs.vals.filter (·.tenant == x.e.fld 0x28 0 10)).length < d.regLimit)
    (hadm : d.admission 1024 (x.e.w16 0x24) es = .ok ()) :
    reserve x none es d = okRes (regRes r (x.e.fld 0x20 0 2)) (assignReg r (newReg x es d) d) := by
  have hroom : (x.e.fld 0x28 0 10 == 0 ||
      decide ((d.qos.regs.vals.filter (·.tenant == x.e.fld 0x28 0 10)).length < d.regLimit)) = true := by
    simpa using hlimit
  unfold newRegIndex at hr
  simp only [reserve, bind, Except.bind, hr, need_of hroom, hadm]
  rfl

/-- A change admitted waits for the regulator's next window (R346). -/
theorem reserve_modifies (hadm : d.admission r (x.e.w16 0x24) es = .ok ()) :
    reserve x (some r) es d = okRes (regRes r (x.e.fld 0x20 0 2))
      (d.updReg r fun g => { g with next := some (x.e.w16 0x24, es) }) := by
  simp only [reserve, bind, Except.bind, hadm]

end

/-! ## `QOS_RELEASE`, `QOS_QUERY` (R359, R360) -/

/-- td0 may name every regulator, another tenant its own. -/
theorem need_ownReg {x : Ctx} {g : Reg} (ht : x.t = 0 ∨ g.tenant = x.t) (c : Cpl) :
    need (x.t == 0 || g.tenant == x.t) c = .ok () := need_of (by simpa using ht)

section
variable {x : Ctx} {d : Dev} {g : Reg} (hq : checkQos x d = .ok ())
include hq

theorem bodyQosRelease_releases (hg : d.qos.regs.get? (x.e.w16 0x20) = some g) (ht : x.t = 0 ∨ g.tenant = x.t) :
    bodyQosRelease x [] none d = okRes [] (releaseReg (x.e.w16 0x20) d) := by
  simp only [bodyQosRelease, plain, bind, Except.bind, hq, hg, need_ownReg ht]

theorem bodyQosQuery_regulator (hsel : x.e.b20 = 0) (hg : d.qos.regs.get? (x.e.w16 0x22) = some g)
    (ht : x.t = 0 ∨ g.tenant = x.t) : bodyQosQuery x [] none d = okData x [] (regRecord g d) d := by
  have hreg : ¬x.e.b20 = 1 := by omega
  simp only [bodyQosQuery, plain, bind, Except.bind, hq, if_neg hreg, hg, need_ownReg ht]

theorem bodyQosQuery_resource (hsel : x.e.b20 = 1) (hres : x.e.fld 0x22 0 8 ≤ 2)
    (hinst : resOk (x.e.fld 0x22 0 8) (x.e.fld 0x23 0 8) = true) :
    bodyQosQuery x [] none d = okData x [] (resRecord (x.e.fld 0x22 0 8) (x.e.fld 0x23 0 8) d) d := by
  simp only [bodyQosQuery, plain, bind, Except.bind, hq, if_pos hsel, need_of (decide_eq_true hres), need_of hinst]

end

end Sys2Proof.Machine
end

section
/-! SUPPORT. O28: the statement about regulators reserved, released and queried. -/

namespace Sys2Proof.Machine

/-- Settles O28: each form of the three commands is its case of the body. -/
theorem regulationCommands : Obligations.RegulationCommands := by
  unfold Obligations.RegulationCommands
  intro s n c e d x t cls w
  refine ⟨?assign, ?modify, ?release, ?regulator, ?resource⟩
  case assign =>
    intro r es want b g ht hcls h0 h
    have hread := bodyQosReserve_reads h.label ht hcls h0
    refine ⟨reads_of_body rfl h hread, fun hi hlen hes hr hlimit hadm => ?_⟩
    exact ends_of_inlineRes rfl h hi hread hlen
      ((bodyQosReserve_got h.label ht hcls hes).trans (reserve_assigns hr hlimit hadm))
  case modify =>
    intro r es b ht hcls h0 hi hlen hes hadm h
    exact ends_of_inlineRes rfl h hi (bodyQosReserve_reads h.label ht hcls h0) hlen
      ((bodyQosReserve_got h.label ht hcls hes).trans (reserve_modifies hadm))
  case release =>
    exact fun g hg hmay h => ends_of_okRes rfl h (bodyQosRelease_releases (x := x) h.label hg hmay)
  case regulator =>
    exact fun g hsel hg hmay hf h => ends_of_okData rfl h hf (bodyQosQuery_regulator (x := x) h.label hsel hg hmay)
  case resource =>
    exact fun hsel hres hinst hf h => ends_of_okData rfl h hf (bodyQosQuery_resource (x := x) h.label hsel hres hinst)

end Sys2Proof.Machine
end

section
/-! SUPPORT. A controller's events, case by case: refresh, idle rows, tracking, parity alerts, retraining, panic and the
hold limit of drains (R354, R365, R367 to R371, R373, R374, R399). -/

namespace Sys2Proof.Machine

/-! ## Refresh, idle rows and tracking (R365, R369, R373) -/

section
variable {u : MemUnit} {b : Nat} {d : Dev} (hs : d.serving (unitCtrl u) = true)
include hs

/-- A refresh that nothing waits for, or that has been postponed as often as may be, is issued. -/
theorem refreshDue_issues (hr : (d.ctrl (unitCtrl u)).selfRef = false)
    (h : Config.refreshLimit ≤ (d.ctrl (unitCtrl u)).postponed.getD b 0 ∨
      ((d.ctrl (unitCtrl u)).rq = 0 ∧ d.qos.panic.getD (unitCtrl u) false = false)) :
    refreshDue ⟨u, b⟩ d = d.updCtrl (unitCtrl u) fun c => { c with
      rows := Map.del b c.rows, acts := Map.del b c.acts, track := Map.del b c.track
      postponed := Map.del b c.postponed } := by
  have hdue : ¬(((decide ((d.ctrl (unitCtrl u)).rq > 0) || d.qos.panic.getD (unitCtrl u) false) &&
      decide ((d.ctrl (unitCtrl u)).postponed.getD b 0 < Config.refreshLimit)) = true) := by
    rcases h with h | ⟨hrq, hpanic⟩
    · simp [Nat.not_lt.mpr h]
    · simp [hrq, hpanic]
  exact (if_neg (by simp [hs, hr])).trans (if_neg hdue)

/-- A refresh is postponed while reads wait or the controller is in panic. -/
theorem refreshDue_postpones (hr : (d.ctrl (unitCtrl u)).selfRef = false)
    (hk : (d.ctrl (unitCtrl u)).postponed.getD b 0 < Config.refreshLimit)
    (h : 0 < (d.ctrl (unitCtrl u)).rq ∨ d.qos.panic.getD (unitCtrl u) false = true) :
    refreshDue ⟨u, b⟩ d = d.updCtrl (unitCtrl u) fun c => { c with
      postponed := Map.set b (c.postponed.getD b 0 + 1) c.postponed } :=
  (if_neg (by simp [hs, hr])).trans (if_pos (by simpa [hk] using h))

theorem rowIdleClose_idle (h : (d.ctrl (unitCtrl u)).accAt.getD b 0 + 5 ≤ d.now) :
    rowIdleClose ⟨u, b⟩ d = d.updCtrl (unitCtrl u) fun c => { c with rows := Map.del b c.rows } :=
  if_pos (by simp [hs, h])

end

theorem rowIdleClose_early {u : MemUnit} {b : Nat} {d : Dev} (h : d.now < (d.ctrl (unitCtrl u)).accAt.getD b 0 + 5) :
    rowIdleClose ⟨u, b⟩ d = d := if_neg (by simp [h])

/-- The delays of a channel's ten byte lanes, those never tracked being 0. -/
def Ctrl.laneDelays (c : Ctrl) : List Int := c.delays ++ List.replicate (10 - c.delays.length) 0

/-- Moving delays draws free values and changes nothing else of the device. -/
theorem moveDelays_draws (l : List Int) (d : Dev) : ∃ k, (moveDelays l d).2 = { d with freeN := k } := by
  induction l generalizing d with
  | nil => exact ⟨d.freeN, rfl⟩
  | cons x l ih => exact ih (draw d).2

theorem dqsTracking_due {ch : Nat} {d : Dev} (hs : d.serving ch = true) (hch : ch < 32)
    (hr : (d.ctrl ch).retrain = false) (ht : (d.ctrl ch).dqsAt + 2 ^ 20 ≤ d.now) :
    dqsTracking ch d = (moveDelays (d.ctrl ch).laneDelays d).2.updCtrl ch fun c => { c with
      delays := (moveDelays (d.ctrl ch).laneDelays d).1, dqsAt := d.now } := by
  have hdue : ¬((!(d.serving ch && decide (ch < 32)) || (d.ctrl ch).retrain ||
      decide (d.now < (d.ctrl ch).dqsAt + 2 ^ 20)) = true) := by
    simpa [hs, hch, hr] using ht
  have hnow : (moveDelays (d.ctrl ch).laneDelays d).2.now = d.now := by
    obtain ⟨k, h⟩ := moveDelays_draws (d.ctrl ch).laneDelays d
    rw [h]
    rfl
  unfold Ctrl.laneDelays at hnow ⊢
  simp only [dqsTracking, if_neg hdue, hnow]

theorem dqsTracking_early {ch : Nat} {d : Dev} (h : d.now < (d.ctrl ch).dqsAt + 2 ^ 20) : dqsTracking ch d = d :=
  if_pos (by rw [decide_eq_true h, Bool.or_true])

/-! ## Parity alerts (R371) -/

/-- The subchannel, of a far channel one of 2 and of a stack one of 32, that an alert's drawn value names (log
entry 5). -/
def alertSub (n : Nat) (d : Dev) : Nat := if n < 32 then (draw d).1.toNat % 2 else (draw d).1.toNat % 32

/-- The channel whose commands an alert has replayed. -/
def alertChan (n : Nat) (d : Dev) : Nat := if n < 32 then 0 else alertSub n d

/-- How many buffered commands an alert has replayed, by its drawn value (log entry 5). -/
def alertReplays (n : Nat) (d : Dev) : Nat :=
  (draw d).1.toNat / 2 ^ 8 % (((d.ctrl n).retry.filter fun r => retryChan n r.1 == alertChan n d).length + 1)

/-- The device with an alert counted, traced and recorded. -/
def alertRecorded (n : Nat) (d : Dev) : Dev :=
  raise { ErrRec.mk0 1 0x0A with
      block := if n < 32 then 3 else 4, inst := if n < 32 then n else n - 32, sub := alertSub n d
      detail := leBytes 1 (alertSub n d) ++ zeros 3 ++ leBytes 4 (alertReplays n d) }
    (traceCtl 3 n 0 (bumpCtl n 7 (alertReplays n d) (bumpCtl n 6 1 (draw d).2)))

/-- The ticks of a controller's alerts within the last 2^16, this one's included. -/
def recentAlerts (n : Nat) (d : Dev) : List Nat :=
  (((alertRecorded n d).ctrl n).alerts.filter fun t => decide ((alertRecorded n d).now ≤ t + 2 ^ 16)) ++
    [(alertRecorded n d).now]

/-- An alert as an event of its unit, with the device whose channel has its rows closed for the replay. -/
def alertCounted (n : Nat) (d : Dev) : Nat × Dev :=
  countEvent 2 n ((alertRecorded n d).updCtrl n fun c => { c with
    rows := Map.keep (fun b _ => retryChan n b != alertChan n d) c.rows, alerts := recentAlerts n d })

/-- An alert below its channel's threshold: the fourth within 2^16 ticks asks for a retraining. -/
theorem parityAlert_below {n : Nat} {d : Dev} (hs : d.serving n = true)
    (hb : n < 32 → (alertCounted n d).2.reached 2 64 (alertCounted n d).1 = false) :
    parityAlert n false false d =
      if (recentAlerts n d).length ≥ 4 then wantRetrain n (alertCounted n d).2 else (alertCounted n d).2 := by
  have hkept : ¬((decide (n < 32) && decide ((alertCounted n d).1 > 0) &&
      (alertCounted n d).2.reached 2 64 (alertCounted n d).1) = true) := by
    by_cases hn : n < 32
    · simp [hb hn]
    · simp [hn]
  exact (if_neg (by simp [hs])).trans (if_neg hkept)

/-! ## Retraining (R365, R372, R399) -/

/-- The device with a retraining's end traced, applied to the controller, recorded and in its summary's entry. -/
def retrainEnded (n result : Nat) (f : Ctrl → Ctrl) (d : Dev) : Dev :=
  rewriteSummary n (raise (retrainRec n (if n < 32 then 0x3FF else 0xFFFF) result) ((traceCtl 2 n 0 d).updCtrl n f))

/-- A controller with what a retraining that passed has found. -/
def Ctrl.retrained (n : Nat) (r : TrainResult) (c : Ctrl) : Ctrl :=
  { c with retrain := false, failRow := 0, retrains := c.retrains + 1, eyes := eyesOf n r
           centres := r.sweeps.map sweepCentre, repaired := r.repaired, delays := [] }

/-- A controller with one more retraining in a row that failed. -/
def Ctrl.failedAgain (c : Ctrl) : Ctrl := { c with failRow := c.failRow + 1, retrains := c.retrains + 1 }

section
variable {n : Nat} {r : TrainResult} {d : Dev} (hs : d.serving n = true) (ht : (d.ctrl n).retrain = true)
include hs ht

/-- The next retraining of the group begins after one that passed. -/
theorem retrainingDone_passed (hp : trainPasses n r = true) :
    retrainingDone n r d = nextRetrain n (retrainEnded n 0 (Ctrl.retrained n r) d) :=
  (if_neg (by simp [hs, ht])).trans (if_pos hp)

/-- After a failure a stack is lost, a channel at its threshold retired, and one below it retrains again. -/
theorem retrainingDone_failed (hp : trainPasses n r = false) :
    retrainingDone n r d =
      let e := retrainEnded n 1 Ctrl.failedAgain d
      if n ≥ 32 then stackLost (n - 32) 4 0xFF e
      else if e.reached 1 3 (e.ctrl n).failRow then nextRetrain n (retireChannel n 1 (e.ctrl n).failRow e)
      else beginRetrain n e :=
  (if_neg (by simp [hs, ht])).trans (if_neg (by simp [hp]))

end

/-! ## Panic and drains (R354) -/

section
variable {n : Nat} {d : Dev} (hs : d.serving n = true)
include hs

theorem panic_raised (hp : d.qos.panic.getD n false = false) (hl : (panicRow n).1 ≤ (d.scarlet n).length) :
    panic n d = traceCtl 5 n 0 (bumpCtl n 16 1 (d.updQos fun q => { q with
      panic := Map.set n true q.panic
      drainHeld := if (d.ctrl n).drain then Map.set n d.now q.drainHeld else q.drainHeld })) := by
  have hrises : (!d.qos.panic.getD n false && (decide ((d.scarlet n).length ≥ (panicRow n).1) ||
      (d.scarlet n).any fun t => decide (t ≤ d.now + (panicRow n).2.1))) = true := by
    simp [hp, hl]
  exact (if_neg (by simp [hs])).trans (if_pos hrises)

/-- The level at which panic rises is above 0, so that it clears where no Scarlet read waits. -/
theorem panic_cleared (hp : d.qos.panic.getD n false = true) (hl : d.scarlet n = []) :
    panic n d = traceCtl 6 n 0 (d.updQos fun q => { q with
      panic := Map.del n q.panic, drainHeld := Map.del n q.drainHeld, forced := Map.del n q.forced }) := by
  have hlevel : 0 < (panicRow n).1 := by unfold panicRow; split <;> decide
  have hclears : (d.qos.panic.getD n false && decide (2 * (d.scarlet n).length < (panicRow n).1) &&
      !(d.scarlet n).any fun t => decide (t ≤ d.now + (panicRow n).2.1)) = true := by
    simp [hp, hl, hlevel]
  exact (if_neg (by simp [hs])).trans ((if_neg (by simp [hp])).trans (if_pos hclears))

end

theorem drainHoldLimit_due {n t : Nat} {d : Dev} (h : d.qos.drainHeld.get? n = some t)
    (ht : t + (panicRow n).2.2 ≤ d.now) : drainHoldLimit n d = drainCtrl n (bumpCtl n 18 1 (d.updQos fun q => { q with
      drainHeld := Map.del n q.drainHeld, forced := Map.set n true q.forced })) := by
  simp only [drainHoldLimit, h]
  exact if_neg (by omega)

end Sys2Proof.Machine
end

section
/-! SUPPORT. O49: the statement about a controller's events. -/

namespace Sys2Proof.Machine

/-- Settles O49: each event is its case of the operation it runs. -/
theorem controllerEvents : Obligations.ControllerEvents := by
  unfold Obligations.ControllerEvents
  intro s u b hl d n c hs
  refine ⟨?refresh, ?idle, ?recent, ?track, ?tracked, ?alert, ?retrain, ?panic, ?calm, ?hold⟩
  case refresh =>
    exact fun hr => ⟨fun h => does_of_onDev rfl hl (refreshDue_issues hs hr h),
      fun hk h => does_of_onDev rfl hl (refreshDue_postpones hs hr hk h)⟩
  case idle => exact fun h => does_of_onDev rfl hl (rowIdleClose_idle hs h)
  case recent => exact fun h => does_of_onDev rfl hl (rowIdleClose_early h)
  case track => exact fun hch hr ht => does_of_onDev rfl hl (dqsTracking_due hs hch hr ht)
  case tracked => exact fun h => does_of_onDev rfl hl (dqsTracking_early h)
  case alert =>
    intro p sub chan k d2 recent q hb
    have h := parityAlert_below (d := d) hs hb
    exact ⟨fun hfew => does_of_onDev rfl hl (h.trans (if_neg (Nat.not_le.mpr hfew))),
      fun hmany => does_of_onDev rfl hl (h.trans (if_pos hmany))⟩
  case retrain =>
    intro hr r ended worse
    refine ⟨fun hp => ?passed, fun hp hn => ?lost, fun hp hn hb => ?again⟩
    case passed => exact does_of_onDev rfl hl (retrainingDone_passed hs hr hp)
    case lost => exact does_of_onDev rfl hl ((retrainingDone_failed hs hr hp).trans (if_pos hn))
    case again =>
      exact does_of_onDev rfl hl ((retrainingDone_failed hs hr hp).trans
        ((if_neg (Nat.not_le.mpr hn)).trans (if_neg (ne_true_of_eq_false hb))))
  case panic => exact fun hp hlevel => does_of_onDev rfl hl (panic_raised hs hp hlevel)
  case calm => exact fun hp hnone => does_of_onDev rfl hl (panic_cleared hs hp hnone)
  case hold => exact fun t h ht => does_of_onDev rfl hl (drainHoldLimit_due h ht)

end Sys2Proof.Machine
end

section
/-! SUPPORT. Regulators' windows, queue gates, the rebuild of a group and the bridge's retraining, case by case (R346,
R349, R350, R352, R355, R358, R394 to R396). -/

namespace Sys2Proof.Machine

/-! ## Windows (R346, R349, R350, R358) -/

/-- A guarantee missed changes no power state. -/
theorem missed_pwr (r : Nat) (g : Reg) (e : QEntry) (d : Dev) : (missed r g e d).pwr = d.pwr := by
  simp only [missed, apply_ite Dev.pwr, (raise_finish _ _).pwr, Dev.updReg_frame, trace_frame,
    (setCauses_events _ _ _).pwr, bump_frame, ite_self]

/-- The end of a window judged changes no power state. -/
theorem judge_pwr (r : Nat) (g : Reg) (d : Dev) : (judge r g d).pwr = d.pwr := by
  have hcounted : (bump 6 r 5 (b2n (g.cuts.any fun p => decide (p.2 ≤ 16))) (bump 6 r 0 1 d)).pwr = d.pwr := by simp
  unfold judge
  dsimp only
  split
  · exact hcounted
  · refine foldl_keeps (P := fun e : Dev => e.pwr = d.pwr) (fun e x h => ?_) g.ents hcounted
    split
    · exact (missed_pwr ..).trans h
    · exact h

/-- A regulator at the end of a window: its cuts count down, and a change that waits for the window takes force. -/
def Reg.endWindow (g : Reg) : Reg :=
  let cuts := (g.cuts.filter fun p => decide (1 < p.2)).map fun p => (p.1, p.2 - 1)
  match g.next with
  | some (w, es) => { g with
      window := w, ents := es.map (QEntry.after (g.ents.map QEntry.roll)), cuts := cuts, next := none }
  | none => { g with ents := g.ents.map QEntry.roll, cuts := cuts }

/-- A regulator at the start of the window that a tick lies in. -/
def Reg.beginWindow (now : Nat) (g : Reg) : Reg :=
  { g with win := now / max 1 g.window, ents := g.ents.map QEntry.refill }

/-- The window that ends is judged and its regulator rolled over, the guarantees are recomputed, and the next begins. -/
theorem windowBoundary_due {r : Nat} {g : Reg} {d : Dev} (hg : d.qos.regs.get? r = some g)
    (hw : g.win < d.now / max 1 g.window) : windowBoundary r d =
      (requalify ((judge r g d).updReg r Reg.endWindow)).updReg r (Reg.beginWindow d.now) := by
  have hpwr : (requalify ((judge r g d).updReg r Reg.endWindow)).pwr = d.pwr := by
    obtain ⟨c, q, m, n, t, h⟩ := requalify_touched ((judge r g d).updReg r Reg.endWindow)
    rw [h]
    exact judge_pwr r g d
  have hnow : (requalify ((judge r g d).updReg r Reg.endWindow)).now = d.now := congrArg (fun p => p.tick.toNat) hpwr
  simp only [windowBoundary, hg]
  refine (if_neg (Nat.not_le.mpr hw)).trans ?_
  change (requalify ((judge r g d).updReg r Reg.endWindow)).updReg r
    (Reg.beginWindow (requalify ((judge r g d).updReg r Reg.endWindow)).now) = _
  rw [hnow]

/-! ## Gates of queue levels (R352) -/

/-- The gate of a far channel after a report of its queue level. -/
def Dev.farGate (ch level : Nat) (d : Dev) : Nat :=
  gateLevel (d.qos.gates.getD ch 0) level (d.feat 6 2 8) (d.feat 6 3 8) (d.feat 6 4 8) (d.feat 6 5 8)

/-- The device with a far channel's queue level and gate. -/
def levelSet (ch level : Nat) (d : Dev) : Dev :=
  (d.updCtrl ch fun c => { c with rq := level }).updQos fun q =>
    { q with gates := if d.farGate ch level = 0 then Map.del ch q.gates else Map.set ch (d.farGate ch level) q.gates }

/-- A gate that rises or falls is traced. -/
theorem queueLevel_far {ch level : Nat} {d : Dev} (hch : ch < 32) :
    let told (ev : Nat) := trace 5 ev none (256 * (2 * chanHalf ch)) [] (levelSet ch level d)
    queueLevel ch level d =
      if d.qos.gates.getD ch 0 < d.farGate ch level then told 1
      else if d.farGate ch level < d.qos.gates.getD ch 0 then told 2 else levelSet ch level d := by
  have hlisted : ¬ch ≥ 32 + 384 := by omega
  simp only [queueLevel, if_neg hlisted, if_pos hch]
  rfl

/-! ## The rebuild of a group (R394, R395) -/

/-- The group goes on rebuilding with this tile. -/
structure Rebuilds (g sid : Nat) (st : Stored) (d : Dev) : Prop where
  rebuilding : (d.group g).st = .rebuilding
  awake : (d.group g).selfRef = false
  next : d.nextRebuild g = some (sid, st)
  readable : d.unreadable st = false

/-- The label that the rebuild of a group runs under. -/
def Dev.rebuildLabel (d : Dev) (g : Nat) : Nat := (d.group g).label.getD 0

/-- Whether the rebuild's label lets a tile of the group be moved. -/
def Dev.rebuildFree (d : Dev) (g : Nat) : Bool :=
  d.moverFree (d.rebuildLabel g) g ((d.pickGroup (groupHalf g) []).getD g)

/-- The bytes of a moved tile granted to a label, for the read and for the write. -/
def moveGranted (g label : Nat) (st : Stored) (d : Dev) : Dev :=
  grantBytes (d.label label) 0 (2 * groupHalf g + 1) (256 * st.sectors)
    (grantBytes (d.label label) 0 (2 * groupHalf g) (256 * st.sectors) d)

theorem rebuildTile_done {g : Nat} {d : Dev} (hst : (d.group g).st = .rebuilding)
    (hr : (d.group g).selfRef = false) (hn : d.nextRebuild g = none) : rebuildTile g d = endRebuild g d := by
  have hruns : ¬((d.group g).st ≠ .rebuilding ∨ (d.group g).selfRef) := by simp [hst, hr]
  simp only [rebuildTile, if_neg hruns, hn]

section
variable {g sid : Nat} {st : Stored} {d : Dev} (h : Rebuilds g sid st d)
include h

theorem Rebuilds.runs : ¬((d.group g).st ≠ .rebuilding ∨ (d.group g).selfRef = true) := by
  simp [h.rebuilding, h.awake]

theorem Rebuilds.reads : ¬d.unreadable st = true := ne_true_of_eq_false h.readable

/-- A tile that the label does not let be moved stays. -/
theorem rebuildTile_held (hf : d.rebuildFree g = false) : rebuildTile g d = d := by
  simp only [rebuildTile, if_neg h.runs, h.next, if_neg h.reads]
  exact if_pos (congrArg not hf)

variable (hf : d.rebuildFree g = true)
include hf

theorem rebuildTile_moves {e : Dev} (hm : moveStored sid d = some e) :
    rebuildTile g d =
      if ((moveGranted g (d.rebuildLabel g) st e).nextRebuild g).isNone then
        endRebuild g (moveGranted g (d.rebuildLabel g) st e)
      else moveGranted g (d.rebuildLabel g) st e := by
  simp only [rebuildTile, if_neg h.runs, h.next, if_neg h.reads, hm]
  exact if_neg (ne_true_of_eq_false (congrArg not hf))

/-- With no room for the tile the rebuild pauses (R395). -/
theorem rebuildTile_pauses (hm : moveStored sid d = none) :
    rebuildTile g d = raise { ErrRec.mk0 1 0x15 with
      block := 8, detail := leBytes 1 g ++ zeros 7 ++ leBytes 8 (d.groupSectors g) }
      (d.updGroup g fun x => { x with st := .paused }) := by
  simp only [rebuildTile, if_neg h.runs, h.next, if_neg h.reads, hm]
  exact if_neg (ne_true_of_eq_false (congrArg not hf))

end

/-- A paused rebuild goes on once the group that takes its tiles has a stripe for them. -/
theorem rebuildResume_room {g o : Nat} {d : Dev} (hst : (d.group g).st = .paused)
    (ho : d.pickGroup (groupHalf g) [] = some o) (hroom : 0 < (d.group o).free ∨ (d.candidate o).isSome = true) :
    rebuildResume g d = d.updGroup g fun x => { x with st := .rebuilding } := by
  simp only [rebuildResume, ho]
  exact if_pos (by simpa [hst] using hroom)

/-! ## The bridge's retraining (R396) -/

theorem bridgeRetrained_ok {link : Nat} {d : Dev} (hl : link ≤ 5)
    (hb : link = 0 → d.pwr.sable = false ∧ d.pwr.bridgeUp = true) : bridgeRetrained link true d =
      raise { ErrRec.mk0 1 0x0B with block := if link = 0 then 5 else 6, detail := zeros 2 ++ leBytes 1 0 } d := by
  have hruns : ¬(link > 5 ∨ (link = 0 ∧ (d.pwr.sable = true ∨ (!d.pwr.bridgeUp) = true))) := by
    rintro (hgt | ⟨h0, hdown⟩)
    · omega
    · simp [hb h0] at hdown
  exact (if_neg hruns).trans (if_pos rfl)

end Sys2Proof.Machine
end

section
/-! SUPPORT. O50: the statement about regulators' windows, gates, the rebuild and the bridge. -/

namespace Sys2Proof.Machine

/-- Settles O50: each event is its case of the operation it runs. -/
theorem regulatorEvents : Obligations.RegulatorEvents := by
  unfold Obligations.RegulatorEvents
  intro s hl d
  refine ⟨?window, ?level, ?rebuild, ?resume, ?link, ?bridge⟩
  case window => exact fun r g hg hw => does_of_onDev rfl hl (windowBoundary_due hg hw)
  case level =>
    intro ch level hch old new set told
    have h := queueLevel_far (level := level) (d := d) hch
    refine ⟨fun hsame => does_of_onDev rfl hl ?same, fun hup => does_of_onDev rfl hl ?up,
      fun hdown => does_of_onDev rfl hl ?down⟩
    case same => exact h.trans ((if_neg (Nat.not_lt.mpr hsame.le)).trans (if_neg (Nat.not_lt.mpr hsame.ge)))
    case up => exact h.trans (if_pos hup)
    case down => exact h.trans ((if_neg (Nat.not_lt.mpr (Nat.le_of_lt hdown))).trans (if_pos hdown))
  case rebuild =>
    intro g hst hr
    refine ⟨fun hn => does_of_onDev rfl hl (rebuildTile_done hst hr hn), fun sid st hn hu => ?tile⟩
    case tile =>
      have h : Rebuilds g sid st d := ⟨hst, hr, hn, hu⟩
      refine ⟨fun hf => does_of_onDev rfl hl (rebuildTile_held h hf), fun hf e hm => ?moves, fun hf hm => ?pauses⟩
      case moves => exact does_of_onDev rfl hl (rebuildTile_moves h hf hm)
      case pauses => exact does_of_onDev rfl hl (rebuildTile_pauses h hf hm)
  case resume => exact fun g o hst ho hroom => does_of_onDev rfl hl (rebuildResume_room hst ho hroom)
  case link =>
    intro link hlow hhigh
    have hne : link ≠ 0 := by omega
    refine does_of_onDev rfl hl ((bridgeRetrained_ok hhigh fun h0 => absurd h0 hne).trans ?_)
    rw [if_neg hne]
  case bridge =>
    exact fun hs hb => does_of_onDev rfl hl (bridgeRetrained_ok (Nat.zero_le 5) fun _ => ⟨hs, hb⟩)

end Sys2Proof.Machine
end

section
/-! SUPPORT. O60: where a line lies under the 4 KiB and the channel-linear orders (R380, R381). -/

namespace Sys2Proof.Machine

/-- 4 KiB pieces of eight channels in turn (R380): the offset in a channel, put together bit by bit. -/
theorem pieceOffset_eq (l : Nat) :
    (((256 * l) >>> 12) >>> 3) <<< 12 ||| 256 * l % 4096 = l / 128 * 4096 + l % 16 * 256 := by
  have hlow : 256 * l % 4096 < 2 ^ 12 := Nat.mod_lt _ (by decide)
  rw [← Nat.shiftLeft_add_eq_or_of_lt hlow]
  simp only [Nat.shiftLeft_eq, Nat.shiftRight_eq_div_pow]
  omega

/-- The 4 KiB order (R380), in numbers of lines. -/
theorem lineAddr_pieces {d : Dev} (h : d.mem.order = 1) (g stripe line : Nat) : d.lineAddr g stripe line =
    (8 * g + (128 * stripe + line) / 16 % 8,
      (128 * stripe + line) / 128 * 4096 + (128 * stripe + line) % 16 * 256) := by
  simp [Dev.lineAddr, h]

/-- The channel-linear order (R381): module by module. -/
theorem lineAddr_linear {d : Dev} {g : Nat} (h : d.mem.order = 2) (hm : (d.group g).modGib * gib ≠ 0)
    (stripe line : Nat) : d.lineAddr g stripe line =
      (8 * g + (128 * stripe + line) * 256 / ((d.group g).modGib * gib),
        (128 * stripe + line) * 256 % ((d.group g).modGib * gib)) := by
  have hmax : max 1 ((d.group g).modGib * gib) = (d.group g).modGib * gib :=
    max_eq_right (Nat.one_le_iff_ne_zero.mpr hm)
  simp only [Dev.lineAddr, h, hmax]
  rfl

/-- Settles O60: the offset of a line in its group is 256 bytes for each line before it, and each order cuts that offset
up as its rule says. -/
theorem channelOrders : Obligations.ChannelOrders := by
  unfold Obligations.ChannelOrders
  intro d g stripe line _ G m
  have hG : G = 256 * (128 * stripe + line) := by
    simp only [G]
    omega
  refine ⟨fun h => ?pieces, fun h hm => ?linear⟩
  case pieces =>
    have hch : (G >>> 12) % 8 = (128 * stripe + line) / 16 % 8 := by
      rw [Nat.shiftRight_eq_div_pow]
      omega
    rw [hch, hG, pieceOffset_eq]
    exact lineAddr_pieces h g stripe line
  case linear =>
    rw [hG, Nat.mul_comm 256]
    exact lineAddr_linear h hm stripe line

end Sys2Proof.Machine
end

section
/-! SUPPORT. Sensors, thermal steps, the trip, rails, regulators and clocks, case by case (R373, R495, R532, R533, R544,
R546, R547). -/

namespace Sys2Proof.Machine

/-! ## Sensors (R373, R495) -/

/-- A sample of a far channel's module sets its refresh rate. -/
theorem sensorSample_module {ch : Nat} {v : Int} {d : Dev} (hch : ch < 32) (h : d.sensorStatus (0x30 + ch) = 0) :
    sensorSample (0x30 + ch) v d =
      refreshRate ch v (d.updMgmt fun m => { m with sensors := Map.set (0x30 + ch) ⟨v, d.now⟩ m.sensors }) := by
  have hdie : ¬ 0x30 + ch ≤ 14 := by omega
  have hstack : inRange 9 14 (0x30 + ch) = false := inRange_false_iff.mpr (by omega)
  have hmodule : inRange 0x30 0x4F (0x30 + ch) = true := inRange_iff.mpr (by omega)
  have hsub : 0x30 + ch - 0x30 = ch := by omega
  simp only [sensorSample, h, hdie, hstack, hmodule, hsub]
  rfl

/-- A sample of a link, memory or compute die sets the steps of the halves that it belongs to, and the alert. -/
theorem sensorSample_die {id : Nat} {v : Int} {d : Dev} (hid : id ≤ 7) (h : d.sensorStatus id = 0) :
    sensorSample id v d =
      alertUpdate ([0, 1].foldl (fun d h => if (halfDies h).contains id then thermalUpdate h d else d)
        (d.updMgmt fun m => { m with sensors := Map.set id ⟨v, d.now⟩ m.sensors })) := by
  have hdie : id ≤ 14 := by omega
  have hstack : inRange 9 14 id = false := inRange_false_iff.mpr (by omega)
  have hmodule : inRange 0x30 0x4F id = false := inRange_false_iff.mpr (by omega)
  simp only [sensorSample, h, hdie, hstack, hmodule]
  rfl

/-! ## Thermal steps and regulators (R532, R547) -/

/-- A half that has been cool for its wait returns one step. -/
theorem stepReturn_due {h t n : Nat} {d : Dev} (hc : d.pwr.dieCool.getD h none = some t)
    (hs : d.pwr.thermStep.getD h 0 = n + 1) (ht : t + 2 ^ 18 ≤ d.now) : stepReturn h d =
      coolUpdate h (askHalf h (d.updPwr fun p => { p with
        thermStep := p.thermStep.set h n, dieCool := p.dieCool.set h none })) := by
  have hwaited : ¬(n + 1 = 0 ∨ t + 2 ^ 18 > d.now) := by omega
  simp only [stepReturn, hc, hs, if_neg hwaited, Nat.add_sub_cancel]

section
variable {die n : Nat} {d : Dev} (hdie : die < 4) (hp : d.pwr.vrPending.getD die none = some n)
include hdie hp

/-- A regulator that answers: its rail is at the step asked for. -/
theorem regulatorGood_pending : regulatorGood (2 + die) d = d.updPwr fun p => { p with
    vddStep := p.vddStep.set die n, vrPending := p.vrPending.set die none
    vrForced := p.vrForced.filter (· != die) } := by
  have hrail : inRange 2 5 (2 + die) = true := inRange_iff.mpr (by omega)
  have hsub : 2 + die - 2 = die := by omega
  simp only [regulatorGood, hrail, hsub, hp]
  rfl

/-- A regulator that has not answered within 1 ms: its die is held at step 2. -/
theorem vrTimeout_due (ht : d.pwr.vrTimer.getD die 0 + 25000 ≤ d.now) : vrTimeout (2 + die) d =
    raise (retiredRec 0 0 0 (3 * 2 ^ 28 + die * 2 ^ 26) 0xFF 0) (d.updPwr fun p => { p with
      vrPending := p.vrPending.set die none, vrForced := insertNat die p.vrForced }) := by
  have hrail : inRange 2 5 (2 + die) = true := inRange_iff.mpr (by omega)
  have hsub : 2 + die - 2 = die := by omega
  have hlate : decide (d.pwr.vrTimer.getD die 0 + 25000 > d.now) = false := decide_eq_false (Nat.not_lt.mpr ht)
  simp only [vrTimeout, hrail, hsub, hp, hlate]
  rfl

end

/-! ## Trip, rails and clocks (R533, R544, R546) -/

/-- The first fatal cause is the one whose state is entered. -/
theorem fatalAgain_first {d : Dev} (h : d.pwr.fatal = false) (cause which : Nat) :
    fatalAgain cause which d = fatal cause which d := if_neg (by simp [h])

theorem thermalTrip_first {d : Dev} (ht : d.pwr.thermTrip = false) (hf : d.pwr.fatal = false) : thermalTrip d =
    fatal 1 0 (d.updPwr fun p => { p with thermTrip := true, clusters := p.clusters.mapVals fun _ c =>
      { c with clock := false, pllWait := false } }) := by
  rw [thermalTrip, if_neg (by simp [ht])]
  exact fatalAgain_first (by simpa using hf) 1 0

/-- A rail fault while the device runs is fatal. -/
theorem railFault_running {rail : Nat} {d : Dev} (hr : inRange 2 15 rail = true) (ht : d.pwr.thermTrip = false)
    (hm : d.pwr.mainPwrEn = true) (hret : d.pwr.retention = false) (hf : d.pwr.fatal = false) : railFault rail d =
      fatal 2 rail (d.updPwr fun p => { p with rails := insertNat rail p.rails }) := by
  have h := fatalAgain_first (d := d.updPwr fun p => { p with rails := insertNat rail p.rails }) hf 2 rail
  simp [railFault, hr, Dev.updPwr_frame, ht, hm, hret, h]

/-- In retention an auxiliary rail out of tolerance is marked. -/
theorem railFault_retention {rail : Nat} {d : Dev} (hr : inRange 13 15 rail = true) (hret : d.pwr.retention = true) :
    railFault rail d = d.updPwr fun p => { p with rails := insertNat rail p.rails, auxLost := true } := by
  have hrail : inRange 2 15 rail = true := by
    have := inRange_iff.mp hr
    exact inRange_iff.mpr (by omega)
  simp only [railFault, hr, hrail, Dev.updPwr_frame, hret]
  rfl

theorem aoClockLoss_first {d : Dev} (ha : d.pwr.aoClock = true) (hf : d.pwr.fatal = false) :
    aoClockLoss d = fatal 3 0 (d.updPwr fun p => { p with aoClock := false }) := by
  rw [aoClockLoss, if_neg (by simp [ha])]
  exact fatalAgain_first (by simpa using hf) 3 0

/-- A host port that loses its clock is reset where its link was up. -/
theorem refclkLoss_host {port : Nat} (hp : port < 4) (d : Dev) : refclkLoss port d =
    if (d.hport port).linkUp then portReset port 1 (d.updHport port fun h => { h with refclk := false })
    else d.updHport port fun h => { h with refclk := false } := if_pos hp

theorem refclkLoss_yalhus {k : Nat} (hk : k < 8) (d : Dev) : refclkLoss (4 + k) d = ylClockLost k d := by
  have hhost : ¬ 4 + k < 4 := by omega
  have hbulk : 4 + k < 12 := by omega
  simp [refclkLoss, hhost, hbulk]

/-- The loss of a running host port's clock resets the port and its HDM decoder. -/
theorem exec_refclkLoss_up {s : State} {port : Nat} (hb : s.dev.pwr.bscan = false) (hp : port < 4)
    (hu : (s.dev.hport port).linkUp = true) : exec (.refclkLoss port) s =
      .next ((s.setHdm port Hdm.reset).after
        (portReset port 1 (s.dev.updHport port fun h => { h with refclk := false }))) := by
  have hdecoder : port < 4 ∧ (s.dev.hport port).linkUp ∧ !s.dev.pwr.bscan := ⟨hp, hu, by simp [hb]⟩
  have hreset := (refclkLoss_host hp s.dev).trans (if_pos hu)
  calc exec (.refclkLoss port) s
      = onPort (refclkLoss port) (s.setHdm port Hdm.reset) := congrArg (onPort _) (if_pos hdecoder)
    _ = .next ((s.setHdm port Hdm.reset).after (refclkLoss port s.dev)) :=
      onPort_eq (s := s.setHdm port Hdm.reset) hb _
    _ = _ := by rw [hreset]

/-- The other losses leave the HDM decoders alone. -/
theorem exec_refclkLoss_other {s : State} {clk : Nat} (h : clk < 4 → (s.dev.hport clk).linkUp = false) :
    exec (.refclkLoss clk) s = onPort (refclkLoss clk) s := by
  have hdecoder : ¬(clk < 4 ∧ (s.dev.hport clk).linkUp ∧ !s.dev.pwr.bscan) := by
    rintro ⟨hp, hu, -⟩
    simp [h hp] at hu
  exact congrArg (onPort _) (if_neg hdecoder)

end Sys2Proof.Machine
end

section
/-! SUPPORT. O46: the statement about temperatures, thermal steps, the trip, rails, regulators and clocks. -/

namespace Sys2Proof.Machine

/-- Settles O46: each event is its case of the operation it runs. -/
theorem thermalAndRails : Obligations.ThermalAndRails := by
  unfold Obligations.ThermalAndRails
  intro s
  refine ⟨?module, ?die, ?step, ?regulator, ?trip, ?rail, ?aux, ?clock, ?refclk⟩
  case module => exact fun ch v hch h => does_of_onMgmt rfl (sensorSample_module hch h)
  case die => exact fun id v hid h => does_of_onMgmt rfl (sensorSample_die hid h)
  case step => exact fun h t n hc hs ht => does_of_onMgmt rfl (stepReturn_due hc hs ht)
  case regulator =>
    exact fun die n hdie hp => ⟨does_of_onMgmt rfl (regulatorGood_pending hdie hp),
      fun ht => does_of_onMgmt rfl (vrTimeout_due hdie hp ht)⟩
  case trip => exact fun die ht hf => does_of_onMgmt rfl (thermalTrip_first ht hf)
  case rail =>
    exact fun rail hlow hhigh ht hm hret hf =>
      does_of_onMgmt rfl (railFault_running (inRange_iff.mpr ⟨hlow, hhigh⟩) ht hm hret hf)
  case aux =>
    exact fun rail hlow hhigh hret =>
      does_of_onMgmt rfl (railFault_retention (inRange_iff.mpr ⟨hlow, hhigh⟩) hret)
  case clock => exact fun ha hf => does_of_onMgmt rfl (aoClockLoss_first ha hf)
  case refclk =>
    intro hb
    refine ⟨fun port hp hu => exec_refclkLoss_up hb hp hu, fun port hp hd => ?down, fun k hk => ?yalhus⟩
    case down =>
      have hleft := (refclkLoss_host hp s.dev).trans (if_neg (by simp [hd]))
      exact does_of_onPort (exec_refclkLoss_other fun _ => hd) hb hleft
    case yalhus =>
      exact does_of_onPort (exec_refclkLoss_other fun hlt => by omega) hb (refclkLoss_yalhus hk s.dev)

end Sys2Proof.Machine
end

section
/-! SUPPORT. The HDM decoders of the host ports: what a register write leaves of one, and that every row keeps them sound
(R473, Table 17-1). -/

namespace Sys2Proof.Machine

/-! ## One decoder -/

/-- What soundness says of the control register: bits [31:14] are 0, `committed` only with `commit` and never beside
`error_not_committed`. -/
def HdmCtrlSound (c : BitVec 32) : Prop :=
  c &&& 0xFFFFC000#32 = 0 ∧ (c.getLsbD 10 = true → c.getLsbD 9 = true) ∧ ¬(c.getLsbD 10 = true ∧ c.getLsbD 11 = true)

theorem Hdm.sound_iff {h : Hdm} : h.sound ↔
    h.baseLow &&& 0x0FFFFFFF#32 = 0 ∧ h.sizeLow &&& 0x0FFFFFFF#32 = 0 ∧ HdmCtrlSound h.ctrl := Iff.rfl

theorem Hdm.reset_sound : Hdm.reset.sound := by
  unfold Hdm.sound
  decide

/-- Bits that a mask keeps out of a value are 0 in it. -/
theorem and_and_eq_zero {w : Nat} (x : BitVec w) {m k : BitVec w} (h : m &&& k = 0) : x &&& m &&& k = 0 := by
  rw [BitVec.and_assoc, h]
  exact BitVec.and_zero

/-- Bits that are 0 in a value stay 0 whatever else is masked out. -/
theorem and_and_eq_zero_of_left {w : Nat} {x k : BitVec w} (m : BitVec w) (h : x &&& k = 0) : x &&& m &&& k = 0 := by
  rw [BitVec.and_assoc, BitVec.and_comm m k, ← BitVec.and_assoc, h]
  exact BitVec.zero_and

/-- The control register as a write leaves it: `committed` and `error_not_committed` stay, bits [9:0], 12 and 13 are
written. -/
def ctrlTaken (old v : BitVec 32) : BitVec 32 := (old &&& 0xC00#32) ||| (v &&& 0x33FF#32)

theorem ctrlTaken_reserved (old v : BitVec 32) : ctrlTaken old v &&& 0xFFFFC000#32 = 0 := by
  rw [ctrlTaken, BitVec.and_or_distrib_right, and_and_eq_zero old (by decide), and_and_eq_zero v (by decide)]
  decide

theorem ctrlTaken_commit (old v : BitVec 32) : (ctrlTaken old v).getLsbD 9 = v.getLsbD 9 := by
  simp [ctrlTaken]

theorem ctrlTaken_committed (old v : BitVec 32) : (ctrlTaken old v).getLsbD 10 = old.getLsbD 10 := by
  simp [ctrlTaken]

theorem ctrlTaken_error (old v : BitVec 32) : (ctrlTaken old v).getLsbD 11 = old.getLsbD 11 := by
  simp [ctrlTaken]

/-- `committed` cleared and `error_not_committed` set, as a refused commit leaves them. -/
theorem ctrlRefused_sound {c : BitVec 32} (hc : c &&& 0xFFFFC000#32 = 0) :
    HdmCtrlSound ((c &&& 0xFFFFFBFF#32) ||| 0x800#32) := by
  refine ⟨?_, by simp, by simp⟩
  rw [BitVec.and_or_distrib_right, and_and_eq_zero_of_left _ hc]
  decide

/-- `committed` set and `error_not_committed` cleared beside `commit`, as a commit leaves them. -/
theorem ctrlCommitted_sound {c : BitVec 32} (hc : c &&& 0xFFFFC000#32 = 0) (h9 : c.getLsbD 9 = true) :
    HdmCtrlSound ((c &&& 0xFFFFF7FF#32) ||| 0x400#32) := by
  refine ⟨?_, by simp [h9], by simp⟩
  rw [BitVec.and_or_distrib_right, and_and_eq_zero_of_left _ hc]
  decide

/-- `committed` cleared, as a decommit leaves it. -/
theorem ctrlDecommitted_sound {c : BitVec 32} (hc : c &&& 0xFFFFC000#32 = 0) : HdmCtrlSound (c &&& 0xFFFFFBFF#32) :=
  ⟨and_and_eq_zero_of_left _ hc, by simp, by simp⟩

section
variable {h : Hdm} (v : BitVec 32) (port : Nat) (d : Dev)

theorem hdmCtrl_locked (hl : h.locked = true) : hdmCtrl h port v d = h := if_pos hl

variable (hl : h.locked = false)
include hl

/-- `commit` from 0 to 1: the commit is judged. -/
theorem hdmCtrl_commit (h9 : h.ctrl.getLsbD 9 = false) (v9 : v.getLsbD 9 = true) : hdmCtrl h port v d = { h with
    ctrl := if commitRefused { h with ctrl := ctrlTaken h.ctrl v } port d
      then (ctrlTaken h.ctrl v &&& 0xFFFFFBFF#32) ||| 0x800#32
      else (ctrlTaken h.ctrl v &&& 0xFFFFF7FF#32) ||| 0x400#32 } := by
  simp only [hdmCtrl, hl, bitOf_toNat, h9, v9]
  exact (apply_ite (fun c => ({ h with ctrl := c } : Hdm)) _ _ _).symm

/-- `commit` from 1 to 0: `committed` falls. -/
theorem hdmCtrl_decommit (h9 : h.ctrl.getLsbD 9 = true) (v9 : v.getLsbD 9 = false) :
    hdmCtrl h port v d = { h with ctrl := ctrlTaken h.ctrl v &&& 0xFFFFFBFF#32 } := by
  simp only [hdmCtrl, hl, bitOf_toNat, h9, v9]
  rfl

theorem hdmCtrl_same (h9 : h.ctrl.getLsbD 9 = v.getLsbD 9) :
    hdmCtrl h port v d = { h with ctrl := ctrlTaken h.ctrl v } := by
  simp only [hdmCtrl, hl, bitOf_toNat, h9]
  cases v.getLsbD 9 <;> rfl

end

/-- A write of the control register keeps a decoder sound: a commit sets one of `committed` and `error_not_committed` and
clears the other, a decommit clears `committed`, and any other write leaves `commit` as it was. -/
theorem hdmCtrl_sound {h : Hdm} (hs : h.sound) (port : Nat) (v : BitVec 32) (d : Dev) : (hdmCtrl h port v d).sound := by
  obtain ⟨hbase, hsize, -, honly, hnever⟩ := Hdm.sound_iff.mp hs
  have hres := ctrlTaken_reserved h.ctrl v
  have h9 := ctrlTaken_commit h.ctrl v
  cases hl : h.locked with
  | true => rwa [hdmCtrl_locked v port d hl]
  | false =>
    cases hc : h.ctrl.getLsbD 9 <;> cases hv : v.getLsbD 9
    case false.true =>
      rw [hdmCtrl_commit v port d hl hc hv]
      refine Hdm.sound_iff.mpr ⟨hbase, hsize, ?_⟩
      dsimp only
      split
      · exact ctrlRefused_sound hres
      · exact ctrlCommitted_sound hres (h9.trans hv)
    case true.false =>
      rw [hdmCtrl_decommit v port d hl hc hv]
      exact Hdm.sound_iff.mpr ⟨hbase, hsize, ctrlDecommitted_sound hres⟩
    all_goals
      rw [hdmCtrl_same v port d hl (hc.trans hv.symm)]
      refine Hdm.sound_iff.mpr ⟨hbase, hsize, hres, ?_, ?_⟩
      · simpa only [ctrlTaken_committed, h9, hv, hc] using honly
      · simpa only [ctrlTaken_committed, ctrlTaken_error] using hnever

/-- Any dword written keeps a decoder sound: base and size take multiples of 256 MiB. -/
theorem hdmWrite_sound {h : Hdm} (hs : h.sound) (port off : Nat) (v : BitVec 32) (d : Dev) :
    (hdmWrite h port off v d).sound := by
  have hlow : v &&& 0xF0000000#32 &&& 0x0FFFFFFF#32 = 0 := and_and_eq_zero v (by decide)
  have hctrl := hdmCtrl_sound hs port v d
  obtain ⟨hbase, hsize, hc⟩ := Hdm.sound_iff.mp hs
  unfold hdmWrite
  split_ifs
  · exact hctrl
  · exact hs
  · exact Hdm.sound_iff.mpr ⟨hlow, hsize, hc⟩
  · exact Hdm.sound_iff.mpr ⟨hbase, hsize, hc⟩
  · exact Hdm.sound_iff.mpr ⟨hbase, hlow, hc⟩
  · exact Hdm.sound_iff.mpr ⟨hbase, hsize, hc⟩
  · exact hs

/-! ## The four of the state -/

/-- The decoders are sound at reset. -/
theorem reset_hdmSound : State.reset.hdmSound := by
  refine ⟨rfl, fun h hm => ?_⟩
  obtain rfl : h = Hdm.reset := by simpa [State.reset] using hm
  exact Hdm.reset_sound

theorem hdmSound_of_hdm_eq {s t : State} (hs : s.hdmSound) (h : t.hdm = s.hdm) : t.hdmSound := by
  unfold State.hdmSound
  rwa [h]

theorem hdmSound_withReset (s : State) : State.hdmSound { s with hdm := State.reset.hdm } :=
  hdmSound_of_hdm_eq reset_hdmSound rfl

theorem hdmOf_sound {s : State} (hs : s.hdmSound) (port : Nat) : (s.hdmOf port).sound := by
  unfold State.hdmOf
  rw [List.getD_eq_getElem?_getD]
  cases hp : s.hdm[port]? with
  | none => exact Hdm.reset_sound
  | some h => exact hs.2 h (List.mem_of_getElem? hp)

theorem setHdm_hdmSound {s : State} (hs : s.hdmSound) (port : Nat) {h : Hdm} (hh : h.sound) :
    (s.setHdm port h).hdmSound := by
  refine ⟨by simpa [State.setHdm] using hs.1, fun k hk => ?_⟩
  rcases List.mem_or_eq_of_mem_set hk with hk | rfl
  · exact hs.2 k hk
  · exact hh

theorem hdmSound_ite {s t : State} {p : Prop} [Decidable p] (ht : t.hdmSound) (hs : s.hdmSound) :
    (if p then t else s).hdmSound := by
  split <;> assumption

theorem bar2Write_hdmSound {s : State} (hs : s.hdmSound) (fn off size : Nat) (v : BitVec 64) :
    (bar2Write fn off size v s).hdmSound := by
  have hw := hdmWrite_sound (hdmOf_sound hs (fn / 256)) (fn / 256) off (v.setWidth 32) s.dev
  unfold bar2Write
  dsimp only
  split
  · exact hs
  · split
    · exact setHdm_hdmSound hs _ hw
    · exact hdmSound_ite (setHdm_hdmSound hs _ (hdmWrite_sound hw _ _ _ _)) hs

/-! ## Every row -/

/-- An answer whose state, where there is one, has sound decoders. -/
def SoundAnswer (o : Host.Outcome State Fault Refusal) : Prop := ∀ t, o = .next t → t.hdmSound

theorem soundAnswer_next {s : State} (hs : s.hdmSound) : SoundAnswer (.next s) := by
  rintro _ ⟨⟩
  exact hs

theorem soundAnswer_ite {p : Prop} [Decidable p] {a b : Host.Outcome State Fault Refusal} (ha : SoundAnswer a)
    (hb : SoundAnswer b) : SoundAnswer (if p then a else b) := by
  split <;> assumption

theorem soundAnswer_onMgmt {s : State} (f : Dev → Dev) (hs : s.hdmSound) : SoundAnswer (onMgmt f s) :=
  soundAnswer_next hs

theorem soundAnswer_onPort {s : State} (f : Dev → Dev) (hs : s.hdmSound) : SoundAnswer (onPort f s) :=
  soundAnswer_ite (soundAnswer_next hs) (soundAnswer_onMgmt f hs)

theorem soundAnswer_onDev {s : State} (f : Dev → Dev) (hs : s.hdmSound) : SoundAnswer (onDev f s) :=
  soundAnswer_ite (soundAnswer_next hs) (soundAnswer_onPort f hs)

theorem soundAnswer_onHost {s : State} (fn : Nat) (f : Dev → Dev) (hs : s.hdmSound) : SoundAnswer (onHost fn f s) :=
  soundAnswer_ite (soundAnswer_onDev f hs) (soundAnswer_next hs)

theorem registerWrite_soundAnswer {s : State} (hs : s.hdmSound) (fn : Nat) (bar : Bar) (off size : Nat)
    (v : BitVec 64) : SoundAnswer (execRegisterWrite fn bar off size v s) := by
  cases bar with
  | bar0 => exact soundAnswer_onHost _ _ hs
  | bar2 => exact soundAnswer_next (bar2Write_hdmSound hs ..)
  | config => exact soundAnswer_onHost _ _ hs

/-- Every row keeps the decoders sound: those that write one, those that reset one or all four, and all the others, which
leave them alone. -/
theorem exec_soundAnswer {s : State} (hs : s.hdmSound) (i : Instr) : SoundAnswer (exec i s) := by
  cases i with
  | registerWrite fn bar off size v => exact registerWrite_soundAnswer hs fn bar off size v
  | hdmCommit port v | hdmDecommit port v =>
    have hw := setHdm_hdmSound hs port (hdmCtrl_sound (hdmOf_sound hs port) port v s.dev)
    exact soundAnswer_ite (soundAnswer_next hw) (soundAnswer_next hs)
  | hotReset port | linkDown port =>
    exact soundAnswer_ite (soundAnswer_onPort _ (setHdm_hdmSound hs port Hdm.reset_sound)) (soundAnswer_next hs)
  | perstNAssert port | refclkLoss port =>
    exact soundAnswer_onPort _ (hdmSound_ite (setHdm_hdmSound hs port Hdm.reset_sound) hs)
  | perstNDeassert | hostLinkUp => exact soundAnswer_onPort _ (hdmSound_ite (hdmSound_withReset s) hs)
  | linkLoss => exact soundAnswer_onPort _ hs
  | devRstN => exact soundAnswer_onMgmt _ (hdmSound_ite (hdmSound_withReset s) hs)
  | aoPowerLoss => exact soundAnswer_onMgmt _ (hdmSound_withReset s)
  | managementCommand | pldmRequest | spdmRequest | aoPowerGood | deviceStart | nearTierTrainingDone
  | farChannelTrainingDone | bridgeTrainingDone | managementRestart | pd1IdleOff | fwStagingTimeout | flashProgramDone
  | thermalTrip | sensorSample | thermalStepReturn | aoClockLoss | railFault | vrTimeout | domainPowerGood
  | domainPowerGoodTimeout | domainSwitchOff | boundaryScan | regulatorPowerGood | debugUnlock =>
    exact soundAnswer_onMgmt _ hs
  | doorbellWrite | irqCauseWrite | irqMaskWrite | aqEnable | aqDisable | flr | busMasterEnableClear
  | busMasterEnableSet | d3hotEntry | d0Return | dmaCompletion | atsInvalidation => exact soundAnswer_onHost _ _ hs
  | _ => exact soundAnswer_onDev _ hs

/-- Settles O56: an AO tick leaves the decoders alone, and every row keeps them sound. -/
theorem hdmStaysSound : Obligations.HdmStaysSound := by
  unfold Obligations.HdmStaysSound
  intro s t hs hstep
  cases hq : s.pending with
  | nil =>
    rw [step_idle hq] at hstep
    exact soundAnswer_next (s := s.idle) (hdmSound_of_hdm_eq hs rfl) t hstep
  | cons c rest =>
    rw [step_pending hq] at hstep
    exact exec_soundAnswer (s := { s with pending := rest }) hs c t hstep

/-- Settles O57. -/
theorem hdmSoundAtReset : Obligations.HdmSoundAtReset := reset_hdmSound

end Sys2Proof.Machine
end

section
/-! SUPPORT. O55: the rows that boundary scan and D3cold retention stop (R460, R550). -/

namespace Sys2Proof.Machine

/-- A choice between two answers that are the same. -/
theorem ite_eq_of {α : Sort _} {p : Prop} [Decidable p] {a b c : α} (ha : a = c) (hb : b = c) :
    (if p then a else b) = c := by
  split <;> assumption

theorem onHost_bscan {s : State} (hb : s.dev.pwr.bscan = true) (fn : Nat) (f : Dev → Dev) : onHost fn f s = .next s :=
  ite_eq_of (onDev_bscan hb f) rfl

theorem onHost_retention {s : State} (hr : s.dev.pwr.retention = true) (fn : Nat) (f : Dev → Dev) :
    onHost fn f s = .next s := ite_eq_of (onDev_retention hr f) rfl

/-- A port's row that resets a decoder only where boundary scan does not run. -/
theorem onPort_ite_bscan {s t : State} (hb : s.dev.pwr.bscan = true) {p : Prop} [Decidable p] (hp : ¬p) (f : Dev → Dev) :
    onPort f (if p then t else s) = .next s := by
  rw [if_neg hp]
  exact onPort_bscan hb f

theorem hdmReach_bscan {s : State} (hb : s.dev.pwr.bscan = true) (port : Nat) : s.hdmReach port = false := by
  simp [State.hdmReach, hb]

theorem hdmReach_retention {s : State} (hr : s.dev.pwr.retention = true) (port : Nat) : s.hdmReach port = false := by
  simp [State.hdmReach, hr]

section
variable {s : State} {port : Nat} (h : s.hdmReach port = false)
include h

/-- With its port out of reach no write gets to a decoder. -/
theorem execHdmCommit_unreached (v : BitVec 32) : execHdmCommit port v s = .next s := if_neg (by simp [h])

theorem execHdmDecommit_unreached (v : BitVec 32) : execHdmDecommit port v s = .next s := if_neg (by simp [h])

end

/-- Nor does a write in a BAR or to configuration space, where the rows of hosts are stopped. -/
theorem registerWrite_stopped {s : State} (hh : ∀ fn f, onHost fn f s = .next s) (hr : ∀ port, s.hdmReach port = false)
    (fn : Nat) (bar : Bar) (off size : Nat) (v : BitVec 64) : execRegisterWrite fn bar off size v s = .next s := by
  cases bar with
  | bar0 => exact hh ..
  | bar2 => exact congrArg _ (if_pos (.inr (by simp [hr])))
  | config => exact hh ..

/-- Boundary scan stops every row of the data path, the host ports and the links (R550). -/
theorem exec_bscan {s : State} (hb : s.dev.pwr.bscan = true) {i : Instr} (hi : managedRow i = false) :
    exec i s = .next s := by
  cases i with
  | registerWrite fn bar off size v => exact registerWrite_stopped (onHost_bscan hb) (hdmReach_bscan hb) ..
  | hdmCommit port v => exact execHdmCommit_unreached (hdmReach_bscan hb port) v
  | hdmDecommit port v => exact execHdmDecommit_unreached (hdmReach_bscan hb port) v
  | hotReset | linkDown => exact if_neg (by simp [hb])
  | perstNAssert | perstNDeassert | hostLinkUp | refclkLoss => exact onPort_ite_bscan hb (by simp [hb]) _
  | linkLoss => exact onPort_bscan hb _
  | managementCommand | pldmRequest | spdmRequest | aoPowerGood | aoPowerLoss | devRstN | deviceStart
  | nearTierTrainingDone | farChannelTrainingDone | bridgeTrainingDone | managementRestart | pd1IdleOff
  | fwStagingTimeout | flashProgramDone | thermalTrip | sensorSample | thermalStepReturn | aoClockLoss | railFault
  | vrTimeout | domainPowerGood | domainPowerGoodTimeout | domainSwitchOff | boundaryScan | regulatorPowerGood
  | debugUnlock => cases hi
  | doorbellWrite | irqCauseWrite | irqMaskWrite | aqEnable | aqDisable | flr | busMasterEnableClear
  | busMasterEnableSet | d3hotEntry | d0Return | dmaCompletion | atsInvalidation => exact onHost_bscan hb ..
  | _ => exact onDev_bscan hb _

/-- Rows of the host ports and the links, which go on in retention. -/
def portRow : Instr → Bool
  | .perstNAssert _ | .perstNDeassert _ | .hotReset _ | .linkDown _ | .hostLinkUp _ | .refclkLoss _ | .linkLoss _ => true
  | _ => false

/-- D3cold retention stops every other row of the data path (R460). -/
theorem exec_retention {s : State} (hr : s.dev.pwr.retention = true) {i : Instr} (hi : managedRow i = false)
    (hp : portRow i = false) : exec i s = .next s := by
  cases i with
  | registerWrite fn bar off size v => exact registerWrite_stopped (onHost_retention hr) (hdmReach_retention hr) ..
  | hdmCommit port v => exact execHdmCommit_unreached (hdmReach_retention hr port) v
  | hdmDecommit port v => exact execHdmDecommit_unreached (hdmReach_retention hr port) v
  | hotReset | linkDown | perstNAssert | perstNDeassert | hostLinkUp | refclkLoss | linkLoss => cases hp
  | managementCommand | pldmRequest | spdmRequest | aoPowerGood | aoPowerLoss | devRstN | deviceStart
  | nearTierTrainingDone | farChannelTrainingDone | bridgeTrainingDone | managementRestart | pd1IdleOff
  | fwStagingTimeout | flashProgramDone | thermalTrip | sensorSample | thermalStepReturn | aoClockLoss | railFault
  | vrTimeout | domainPowerGood | domainPowerGoodTimeout | domainSwitchOff | boundaryScan | regulatorPowerGood
  | debugUnlock => cases hi
  | doorbellWrite | irqCauseWrite | irqMaskWrite | aqEnable | aqDisable | flr | busMasterEnableClear
  | busMasterEnableSet | d3hotEntry | d0Return | dmaCompletion | atsInvalidation => exact onHost_retention hr ..
  | _ => exact onDev_retention hr _

/-- Settles O55: boundary scan stops every row that is not managed, retention those that are no port's either. -/
theorem dataPathStops : Obligations.DataPathStops := by
  unfold Obligations.DataPathStops
  intro s i hi
  refine ⟨fun hb => exec_bscan hb hi, fun hr hassert hdeassert hreset hdown hup hclock hloss => ?_⟩
  refine exec_retention hr hi ?_
  cases i with
  | perstNAssert p => exact absurd rfl (hassert p)
  | perstNDeassert p => exact absurd rfl (hdeassert p)
  | hotReset p => exact absurd rfl (hreset p)
  | linkDown p => exact absurd rfl (hdown p)
  | hostLinkUp p => exact absurd rfl (hup p)
  | refclkLoss k => exact absurd rfl (hclock k)
  | linkLoss p => exact absurd rfl (hloss p)
  | _ => rfl

end Sys2Proof.Machine
end

section
/-! SUPPORT. The host ports' resets and links, case by case (R462 to R464, R472, R473). -/

namespace Sys2Proof.Machine

/-- A host port's row that resets its HDM decoder first. -/
theorem onPort_setHdm {s : State} (hb : s.dev.pwr.bscan = false) (port : Nat) (h : Hdm) (f : Dev → Dev) :
    onPort f (s.setHdm port h) = .next ((s.setHdm port h).after (f s.dev)) :=
  onPort_eq (s := s.setHdm port h) hb f

/-! ## `PERST_N` -/

section
variable {port : Nat} {d : Dev} (hport : port < 4)
include hport

/-- `PERST_N` falls on a port whose link is down and that holds no retention: its functions are reset. -/
theorem perstAssert_linkDown (hp : (d.hport port).perst = true) (hl : (d.hport port).linkUp = false)
    (hr : d.retains port = false) : perstAssert port d =
      resetFns (d.portFns port) (d.updHport port fun h => { h with perst := false }) := by
  have hgo : ¬(port ≥ 4 ∨ (!(d.hport port).perst) = true) := by simp [hp, hport]
  have hdown : ((d.updHport port fun h => { h with perst := false }).hport port).linkUp = false := by
    simp [Dev.hport, Dev.updHport, ← hl]
  rw [perstAssert, if_neg hgo]
  simp only [hr, hdown]
  rfl

/-- `PERST_N` rises outside retention: the port's complex is switched on. -/
theorem perstDeassert_running (hp : (d.hport port).perst = false) (hret : d.pwr.retention = false)
    (hs : d.pwr.step ≠ 0) : perstDeassert port d = switchOn [26 + port / 2]
      ((d.updHport port fun h => { h with perst := true, wakeN := true, d3cold := false }).updFn (256 * port) id) := by
  have hgo : ¬(port ≥ 4 ∨ (d.hport port).perst = true) := by simp [hp, hport]
  rw [perstDeassert, if_neg hgo]
  simp only [Dev.updHport_frame, Dev.updFn_frame, hret, if_neg hs]
  rfl

end

theorem hostLinkUp_running {port : Nat} {d : Dev} (hup : d.linkMayRise port = true) (hret : d.pwr.retention = false) :
    hostLinkUp port d =
      (d.updHport port fun h => { h with linkUp := true, narrow := false, refclk := true }).updPwr fun p => { p with
        trained := insertNat port p.trained
        multiHost := p.multiHost || decide ((insertNat port p.trained).length ≥ 2) } := by
  simp only [hostLinkUp, hup, hret]
  rfl

/-- Where the data path runs, `PERST_N` rising and a link coming up leave the HDM decoders alone. -/
theorem onPort_running {s t : State} (hlive : s.live) {p : Prop} [Decidable p] (hp : p → s.dev.pwr.retention = true)
    (f : Dev → Dev) : onPort f (if p then t else s) = .next (s.after (f s.dev)) := by
  rw [if_neg fun h => by simp [hlive.1] at hp; exact hp h]
  exact onPort_eq hlive.2 f

/-! ## The decoder's registers -/

section
variable {s : State} {port : Nat} (hreach : s.hdmReach port = true)
include hreach

theorem execHdmCommit_reached {v : BitVec 32} (v9 : v.getLsbD 9 = true) (h9 : (s.hdmOf port).ctrl.getLsbD 9 = false) :
    execHdmCommit port v s = .next (s.setHdm port (hdmCtrl (s.hdmOf port) port v s.dev)) :=
  if_pos (by rw [hreach, bitOf_toNat, bitOf_toNat, v9, h9]; rfl)

theorem execHdmDecommit_reached {v : BitVec 32} (v9 : v.getLsbD 9 = false)
    (h9 : (s.hdmOf port).ctrl.getLsbD 9 = true) :
    execHdmDecommit port v s = .next (s.setHdm port (hdmCtrl (s.hdmOf port) port v s.dev)) :=
  if_pos (by rw [hreach, bitOf_toNat, bitOf_toNat, v9, h9]; rfl)

/-- A 4-byte write in BAR2 writes a dword of the port's decoder. -/
theorem bar2Write_dword {off : Nat} (hoff : off % 4 = 0) (v : BitVec 32) :
    bar2Write (256 * port) off 4 (v.setWidth 64) s =
      s.setHdm port (hdmWrite (s.hdmOf port) port off v s.dev) := by
  have hfn : 256 * port / 256 = port := by omega
  have hgo : ¬(256 * port % 256 ≠ 0 ∨ (!s.hdmReach port) = true) := by simp [hreach]
  have hv : (v.setWidth 64).setWidth 32 = v := by simp
  unfold bar2Write
  dsimp only
  rw [hfn, if_neg hgo, if_pos ⟨rfl, hoff⟩, hv]

end

theorem hdmWrite_baseHigh {h : Hdm} (hl : h.locked = false) (port : Nat) (v : BitVec 32) (d : Dev) :
    hdmWrite h port 0x14 v d = { h with baseHigh := v } := by simp [hdmWrite, hl]

/-- Settles O35: each row is its case of the operation it runs, on the state with the decoder reset or written. -/
theorem hostPortEvents : Obligations.HostPortEvents := by
  unfold Obligations.HostPortEvents
  intro s port hport hlive
  refine ⟨fun hup => ⟨?hotReset, ?linkDown, ?l1, ?narrow⟩, ?restore, ?assert, ?deassert, ?up, ?decoder⟩
  case hotReset => exact (if_pos (by simp [hup, hlive.2])).trans (onPort_setHdm hlive.2 ..)
  case linkDown => exact (if_pos (by simp [hup, hlive.2])).trans (onPort_setHdm hlive.2 ..)
  case l1 => exact does_of_onDev rfl hlive (if_pos hup)
  case narrow => exact fun hn => does_of_onDev rfl hlive (if_pos (by simp [hup, hn]))
  case restore => exact fun hn => does_of_onDev rfl hlive (if_pos hn)
  case assert =>
    intro hp hl hr
    have hreset : (if (s.dev.hport port).perst && !s.dev.pwr.bscan then s.setHdm port Hdm.reset else s) =
        s.setHdm port Hdm.reset := if_pos (by simp [hp, hlive.2])
    refine (congrArg (onPort (perstAssert port)) hreset).trans ?_
    rw [onPort_setHdm hlive.2, perstAssert_linkDown hport hp hl hr]
  case deassert =>
    intro hp hs
    refine (onPort_running hlive (by simp +contextual) (perstDeassert port)).trans ?_
    rw [perstDeassert_running hport hp hlive.1 hs]
  case up =>
    intro hup
    refine (onPort_running hlive (by simp +contextual) (hostLinkUp port)).trans ?_
    rw [hostLinkUp_running hup hlive.1]
  case decoder =>
    intro v hup hd3 hflr hl
    have hreach : s.hdmReach port = true := by simp [State.hdmReach, hup, hd3, hflr, hlive.1, hlive.2]
    refine ⟨fun v9 h9 => ?_, fun v9 h9 => ?_, ?_⟩
    · exact (execHdmCommit_reached hreach v9 h9).trans (by rw [hdmCtrl_commit v port s.dev hl h9 v9]; rfl)
    · exact (execHdmDecommit_reached hreach v9 h9).trans (by rw [hdmCtrl_decommit v port s.dev hl h9 v9]; rfl)
    · exact congrArg _ ((bar2Write_dword hreach rfl v).trans (by rw [hdmWrite_baseHigh hl]))

end Sys2Proof.Machine
end

section
/-! SUPPORT. A function's resets, power states, Bus Master Enable and reads, case by case (R460, R461, R464 to R470). -/

namespace Sys2Proof.Machine

/-! ## Resets, D-states, Bus Master Enable (R460, R464, R466) -/

section
variable {fn : Nat} {d : Dev}

theorem flrStart_first (h : (d.fn fn).flr = false) : flrStart fn d =
    (resetFns (if fn % 256 = 0 then d.portFns (fn / 256) else [fn]) (bump 5 (fn / 256) 5 1 d)).updFn fn
      fun f => { f with flr := true } := if_neg (by simp [h])

/-- One thing held for a function goes out. -/
def heldOut (fn : Nat) (d : Dev) (h : Held) : Dev :=
  match h with
  | .cpl n c => finishCmd n c d
  | .irq v qps => sendMsix fn v qps d

/-- What was held for a function that may write goes out in order. -/
theorem flushHeld_writes (hw : (d.fn fn).mayWrite = true) : flushHeld fn d =
    (d.fn fn).held.foldl (heldOut fn) (d.updFn fn fun f => { f with held := [] }) := if_neg (by simp [hw])

theorem flushHeld_barred (hw : (d.fn fn).mayWrite = false) : flushHeld fn d = d := if_pos (by simp [hw])

/-- Bus Master Enable set on a function in D0 with no reset in progress: what was held goes out. -/
theorem bmeSet_writes (h3 : (d.fn fn).d3hot = false) (hf : (d.fn fn).flr = false) : bmeSet fn d =
    (d.fn fn).held.foldl (heldOut fn)
      ((d.updFn fn fun f => { f with bme := true }).updFn fn fun f => { f with held := [] }) := by
  have hw : ((d.updFn fn fun f => { f with bme := true }).fn fn).mayWrite = true := by
    rw [Dev.fn_updFn_self]
    simp [Fn.mayWrite, h3, hf]
  rw [bmeSet, flushHeld_writes hw, Dev.fn_updFn_self]

theorem bmeClear_set (hb : (d.fn fn).bme = true) : bmeClear fn d =
    reapInval fn (haltStreams (fun _ s => s.opener == some fn) .busMasterOff
      ((d.fn fn).reads.foldl (fun d r => failRead r.2.cmd .busMasterOff id d)
        (d.updFn fn fun f => { f with bme := false, reads := [], quar := quarAll f }))) := if_neg (by simp [hb])

variable (h3 : (d.fn fn).d3hot = true)
include h3

/-- Back in D0 with nothing held. -/
theorem d0Return_idle (hb : (d.fn fn).bme = true) (hf : (d.fn fn).flr = false) (hh : (d.fn fn).held = []) :
    d0Return fn d = (d.updFn fn fun f => { f with d3hot := false }).updFn fn fun f => { f with held := [] } := by
  have hw : ((d.updFn fn fun f => { f with d3hot := false }).fn fn).mayWrite = true := by
    rw [Dev.fn_updFn_self]
    simp [Fn.mayWrite, hb, hf]
  rw [d0Return, if_pos h3, flushHeld_writes hw, Dev.fn_updFn_self]
  simp only [hh, List.foldl_nil]

/-- Back in D0 without Bus Master Enable: what is held stays held. -/
theorem d0Return_barred (hb : (d.fn fn).bme = false) :
    d0Return fn d = d.updFn fn fun f => { f with d3hot := false } := by
  rw [d0Return, if_pos h3, flushHeld_barred]
  rw [Dev.fn_updFn_self]
  simp [Fn.mayWrite, hb]

end

/-! ## Ends of reads (R467 to R470) -/

section
variable {fn tag : Nat} {r : DmaRead} {d : Dev}

/-- A completion or a timeout of a read leaves the commands alone until its own command goes on. -/
@[simp] theorem endRead_cmd? (n : Nat) : (endRead fn tag d).cmd? n = d.cmd? n := rfl

theorem dmaCompletion_late (h : (d.fn fn).reads.get? tag = none) (c : DmaCpl) :
    dmaCompletion fn tag c d = lateCpl fn tag d := by simp only [dmaCompletion, h]

variable (hr : (d.fn fn).reads.get? tag = some r)
include hr

/-- The data awaited comes: the command's body goes on with it. -/
theorem dmaCompletion_data {b : Bytes} {c : Cmd} {body : Body} (hl : b.length = r.len) (hc : d.cmd? r.cmd = some c)
    (hb : bodyOf c.entry.op = some body) : dmaCompletion fn tag (.data b) d =
      reapInval fn (runBody body r.cmd (c.got ++ [b]) (bump 5 (fn / 256) 0 r.len (endRead fn tag d))) := by
  have hcmd : (bump 5 (fn / 256) 0 r.len (endRead fn tag d)).cmd? r.cmd = some c := by simp [hc]
  simp only [dmaCompletion, hr, if_neg (not_not.mpr hl)]
  rw [contRead_body hcmd hb]

/-- A command's first access that fails translation. -/
theorem dmaCompletion_untranslated {c : Cmd} (hc : d.cmd? r.cmd = some c) (hg : c.got = []) :
    dmaCompletion fn tag .translationFailed d = reapInval fn (finishCmd r.cmd (errF 0x18) (endRead fn tag d)) := by
  have hbad : badTranslation r.cmd (endRead fn tag d) = finishCmd r.cmd (errF 0x18) (endRead fn tag d) := by
    simp only [badTranslation, endRead_cmd?, hc, hg]
    rfl
  simp only [dmaCompletion, hr, hbad]

/-- A completion that cannot be read, by what it says: recorded, and the command fails `POISONED`. -/
theorem dmaCompletion_unreadable {c : DmaCpl} {poison : Bool}
    (hc : c = .poisoned ∧ poison = true ∨ (c = .unsupported ∨ c = .abort) ∧ poison = false) :
    dmaCompletion fn tag c d = reapInval fn (unreadable fn tag r.cmd poison d) := by
  rcases hc with ⟨rfl, rfl⟩ | ⟨rfl | rfl, rfl⟩ <;> simp only [dmaCompletion, hr]

theorem completionTimeout_read : completionTimeout fn (.tag tag) d =
    reapInval fn (let p := aerLog fn 14 (bump 5 (fn / 256) 2 1 (endRead fn tag d))
      failRead r.cmd .timeout (Cpl.because p.1) (p.2.updFn fn fun f => { f with quar := insertNat tag f.quar })) := by
  simp only [completionTimeout, hr]

end

/-- The timeout of the read of an entry that a queue pair may take stops the queue pair. -/
theorem completionTimeout_ring {fn n db : Nat} {q : QP} {d : Dev} (hq : d.qp? n = some q) (hl : q.loc = .host fn db)
    (hm : d.mayTake q = true) : completionTimeout fn (.ring n) d =
      let p := aerLog fn 14 (bump 5 (fn / 256) 2 1 d)
      stopQp n 3 0 p.1 p.2 := by
  simp only [completionTimeout, hq, hl]
  exact if_pos (by simp [hm])

/-- Settles O33: each row is its case of the operation it runs. -/
theorem functionEvents : Obligations.FunctionEvents := by
  unfold Obligations.FunctionEvents
  intro s fn hlive hlink
  refine ⟨?flr, ?complete, ?d3hot, ?d0, ?barred, ?set, ?clear, ?ats, ?quarantine⟩
  case flr => exact fun hf => does_of_onHost rfl hlive hlink (flrStart_first hf)
  case complete => exact does_of_onDev rfl hlive rfl
  case d3hot => exact does_of_onHost rfl hlive hlink rfl
  case d0 => exact fun h3 hb hf hh => does_of_onHost rfl hlive hlink (d0Return_idle h3 hb hf hh)
  case barred => exact fun h3 hb => does_of_onHost rfl hlive hlink (d0Return_barred h3 hb)
  case set => exact fun h3 hf => does_of_onHost rfl hlive hlink (bmeSet_writes h3 hf)
  case clear => exact fun hb => does_of_onHost rfl hlive hlink (bmeClear_set hb)
  case ats => exact fun addr len => does_of_onHost rfl hlive hlink rfl
  case quarantine => exact fun t => does_of_onDev rfl hlive rfl

/-- Settles O34: each end of a read is its case of the row. -/
theorem readEnds : Obligations.ReadEnds := by
  unfold Obligations.ReadEnds
  intro s fn tag r hlive hlink hr
  refine ⟨?data, ?untranslated, ?unsupported, ?poisoned, ?timeout, ?late, ?ring⟩
  case data =>
    exact fun b c body hl hc hb => does_of_onHost rfl hlive hlink (dmaCompletion_data hr hl hc hb)
  case untranslated => exact fun c hc hg => does_of_onHost rfl hlive hlink (dmaCompletion_untranslated hr hc hg)
  case unsupported =>
    intro a ha
    exact does_of_onHost rfl hlive hlink (dmaCompletion_unreadable hr (.inr ⟨by simpa using ha, rfl⟩))
  case poisoned => exact does_of_onHost rfl hlive hlink (dmaCompletion_unreadable hr (.inl ⟨rfl, rfl⟩))
  case timeout => exact does_of_onDev rfl hlive (completionTimeout_read hr)
  case late => exact fun other cpl ho => does_of_onHost rfl hlive hlink (dmaCompletion_late ho cpl)
  case ring => exact fun n q db hq hl hm => does_of_onDev rfl hlive (completionTimeout_ring hq hl hm)

end Sys2Proof.Machine
end

section
/-! SUPPORT. O39: the log's flush, correction windows and the trace port (R400, R410, R413, R517). -/

namespace Sys2Proof.Machine

/-- The one window that runs is over: the unit's count goes into its summary. -/
theorem ceSummaryWindow_due {key tick : Nat} {d : Dev} (h : d.integ.ceStart = [(key, tick)])
    (ht : tick + 2 ^ 20 ≤ d.now) : ceSummaryWindow d =
      raise { ErrRec.mk0 1 0x01 with
        block := key / 256, inst := key % 256
        detail := leBytes 4 (min (d.integ.ce.getD key 0) 0xFFFFFFFF) ++ zeros 4 ++ leBytes 8 tick }
        (d.updInteg fun i => { i with ce := Map.del key i.ce, ceStart := [] }) := by
  have hlast : Map.del key d.integ.ceStart = [] := by simp [h, Map.del]
  have hover : d.updInteg (fun i => { i with ce := Map.del key i.ce, ceStart := Map.del key i.ceStart }) =
      d.updInteg fun i => { i with ce := Map.del key i.ce, ceStart := [] } := by
    simp only [Dev.updInteg, hlast]
  rw [ceSummaryWindow, h, List.foldl_cons, List.foldl_nil, if_neg (by omega), ← hover]

section
variable {d : Dev} (he : d.integ.trace.enabled = true) (hon : d.domain 25 = .on)
include he hon

theorem tracePatternEnd_first (hs : d.integ.trace.sending = false) : tracePatternEnd d =
    d.updInteg fun i => { i with trace := { d.integ.trace with sending := true } } :=
  if_pos (by simp [he, hs, hon])

theorem traceFrame_sending (hs : d.integ.trace.sending = true) : traceFrame d =
    emit (.frame d.integ.trace.frame) (d.updInteg fun i => { i with trace := { d.integ.trace with
      buf := d.integ.trace.buf.drop 7, seqNo := d.integ.trace.seqNo + 1, sent := d.integ.trace.sent + 1
      dropNew := 0 } }) := if_pos (by simp [he, hs, hon])

end

/-- Settles O39: each event is its case of the operation it runs. -/
theorem logAndTrace : Obligations.LogAndTrace := by
  unfold Obligations.LogAndTrace
  intro s hlive
  refine ⟨?flush, ?summary, ?port⟩
  case flush => exact does_of_onDev rfl hlive rfl
  case summary => exact fun key tick h ht => does_of_onDev rfl hlive (ceSummaryWindow_due h ht)
  case port =>
    exact fun he hon => ⟨fun hs => does_of_onDev rfl hlive (tracePatternEnd_first he hon hs),
      fun hs => does_of_onDev rfl hlive (traceFrame_sending he hon hs)⟩

end Sys2Proof.Machine
end

section
/-! SUPPORT. O40: the states of a port's link, case by case (R422 to R424, R432, R443, R444, R446, R447, Table 15-1). -/

namespace Sys2Proof.Machine

@[simp] theorem bump_zero (scope inst idx : Nat) (d : Dev) : bump scope inst idx 0 d = d := if_pos rfl

/-- A lane mask of 8 bits has no higher bits. -/
theorem laneMask_mod (lanes : BitVec 8) : lanes.toNat % 256 = lanes.toNat := Nat.mod_eq_of_lt lanes.isLt

section
variable {port : Nat} {d : Dev}

theorem linkDetectLock_locks {lanes : Nat} (hst : (d.port port).st = .detect) (hp : (d.port port).pairsOf lanes ≠ 0) :
    linkDetectLock port lanes d = (setLink port .equalise d).updPort port fun p => { p with refclk := true } :=
  if_pos ⟨hst, hp⟩

/-! ## Equalisation (R422, R423, R444) -/

/-- The port aligned at the width and on the lanes that its usable pairs give. -/
def widthTaken (port w ls pairs : Nat) (d : Dev) : Dev :=
  (setLink port .align d).updPort port fun p => { p with width := w, lanes := ls, locked := pairs }

/-- The record of a retraining that settled: what came of it and the width. -/
def settledRec (port w ls code : Nat) : ErrRec :=
  { ErrRec.mk0 1 0x0B with block := 1, inst := port, detail := leBytes 2 ls ++ leBytes 1 code ++ leBytes 1 w }

section
variable {lanes theirs : Nat} (hst : (d.port port).st = .equalise ∨ (d.port port).st = .retrain)
include hst

theorem equalised_trains : ¬((d.port port).st ≠ .equalise ∧ (d.port port).st ≠ .retrain) := by
  rintro ⟨hne, hnr⟩
  exact hst.elim hne hnr

theorem equalised_failed (hw : chooseWidth ((d.port port).pairsOf lanes &&& theirs) (d.port port).maxWidth = none) :
    equalised port lanes theirs d =
      trainingFailed port ((d.port port).liveLanes &&& (255 - lanes % 256)) d := by
  rw [equalised, if_neg (equalised_trains hst)]
  simp only [hw]

variable {w ls : Nat}
  (hw : chooseWidth ((d.port port).pairsOf lanes &&& theirs) (d.port port).maxWidth = some (w, ls))
include hw

/-- A first training settles without a record. -/
theorem equalised_first (hf : (d.port port).everActive = false) : equalised port lanes theirs d =
    requalify (widthTaken port w ls ((d.port port).pairsOf lanes &&& theirs) d) := by
  rw [equalised, if_neg (equalised_trains hst)]
  simp only [hw, hf, Bool.false_and]
  rfl

/-- A retraining that settles at no narrower width is recorded. -/
theorem equalised_again (ha : (d.port port).everActive = true) (hle : w ≤ (d.port port).width) :
    equalised port lanes theirs d = requalify (raise (settledRec port w ls 0)
      (widthTaken port w ls ((d.port port).pairsOf lanes &&& theirs) d)) := by
  have hwide : decide (w > (d.port port).width) = false := decide_eq_false (Nat.not_lt.mpr hle)
  rw [equalised, if_neg (equalised_trains hst)]
  simp only [hw, ha, hwide, Bool.and_false]
  rfl

/-- One that settles at a narrower width is recorded and counted. -/
theorem equalised_narrower (ha : (d.port port).everActive = true) (hlt : (d.port port).width < w) :
    equalised port lanes theirs d = requalify (bump 4 port 9 1 (raise (settledRec port w ls 2)
      (widthTaken port w ls ((d.port port).pairsOf lanes &&& theirs) d))) := by
  rw [equalised, if_neg (equalised_trains hst)]
  simp only [hw, ha, decide_eq_true hlt]
  rfl

end

/-! ## Alignment, signal, retraining (R424, R432, R443) -/

theorem codewordLock_aligned (hst : (d.port port).st = .align) :
    codewordLock port d = sendIdent port (setLink port .ident d) := if_pos hst

theorem alignTimeout_due {locked : Nat} (hst : (d.port port).st = .align)
    (ht : (d.port port).since + 4096 ≤ d.now) : alignTimeout port locked d =
      trainingFailed port ((d.port port).lanes &&& (255 - locked % 256)) d := if_pos ⟨hst, ht⟩

theorem lossOfSignal_heard (hdis : (d.port port).st ≠ .disabled) (hdet : (d.port port).st ≠ .detect)
    (hq : (d.port port).st ≠ .quiet) : lossOfSignal port d = toDetect port (d.updPort port fun q => { q with
      keep := q.keep || q.st == .active, quietReq := false, uncorr := [] }) := if_neg (by simp [hdis, hdet, hq])

theorem toRetrain_active (hst : (d.port port).st = .active) : toRetrain port d =
    emit (.pattern port (d.port port).liveLanes) (setLink port .retrain (bump 4 port 8 1 (d.updPort port fun p =>
      { p with keep := true, resends := 0, uncorr := [], quietReq := false }))) := by
  rw [toRetrain, if_neg (not_not.mpr hst)]
  simp [Dev.port_updPort_self, Port.liveLanes]

theorem linkLoss_due {t : Nat} (hd : (d.port port).downSince = some t) (ht : t + 2 ^ d.feat 0x09 0 8 ≤ d.now) :
    linkLoss port d = linkLost port d := by
  simp only [linkLoss, hd, if_pos ht]

/-! ## Quiet and port groups (R446, R447) -/

theorem linkWake_quiet (hst : (d.port port).st = .quiet) :
    linkWake port d = emit (.pattern port (d.port port).lanes) (setLink port .align d) := if_pos hst

/-- An ACTIVE port with nothing to send, to resend or half received asks for quiet once its quiet time is over. -/
theorem quietTimeExpiry_due (hst : (d.port port).st = .active) (hreq : (d.port port).quietReq = false)
    (htx : (d.port port).txq = []) (hre : (d.port port).replay = []) (hrx : (d.port port).rxPart = [])
    (h0 : d.pwr.policy.ylQuiet ≠ 0) (ht : (d.port port).lastMsg + d.pwr.policy.ylQuiet ≤ d.now) :
    quietTimeExpiry port d = sendCtl port 4 [1] (d.updPort port fun p => { p with quietReq := true }) := by
  rw [quietTimeExpiry, if_pos ⟨h0, ht⟩]
  exact if_pos (by simp [hst, hreq, htx, hre, hrx])

end

theorem powerGroupOn_on {g : Nat} {d : Dev} (hg : g < 4) (hon : d.domain (22 + g) ≠ .off) :
    powerGroupOn g d = trainGroup g (d.setDomain (22 + g) .on) := if_neg (by simp [hg, hon])

/-- Settles O40: each row is its case of the operation it runs. -/
theorem linkStates : Obligations.LinkStates := by
  unfold Obligations.LinkStates
  intro s port hlive
  refine ⟨?detect, ?equalise, ?align, ?timeout, ?signal, ?retrain, ?loss, ?wake, ?quiet, ?group⟩
  case detect => exact fun lanes hst hp => does_of_onDev rfl hlive (linkDetectLock_locks hst hp)
  case equalise =>
    intro lanes theirs w ls hst
    refine ⟨fun hw => ⟨fun hf => ?_, fun ha hle => ?_, fun ha hlt => ?_⟩, fun hw => ?_⟩
    · exact does_of_onDev rfl hlive (equalised_first hst hw hf)
    · exact does_of_onDev rfl hlive (equalised_again hst hw ha hle)
    · exact does_of_onDev rfl hlive (equalised_narrower hst hw ha hlt)
    · exact does_of_onDev rfl hlive ((equalised_failed hst hw).trans (by rw [laneMask_mod]))
  case align => exact fun hst => does_of_onDev rfl hlive (codewordLock_aligned hst)
  case timeout =>
    intro locked hst ht
    exact does_of_onDev rfl hlive ((alignTimeout_due hst ht).trans (by rw [laneMask_mod]))
  case signal => exact fun hdis hdet hq => does_of_onDev rfl hlive (lossOfSignal_heard hdis hdet hq)
  case retrain => exact fun hst => does_of_onDev rfl hlive (toRetrain_active hst)
  case loss => exact fun t hd ht => does_of_onPort rfl hlive.2 (linkLoss_due hd ht)
  case wake => exact fun hst => does_of_onDev rfl hlive (linkWake_quiet hst)
  case quiet =>
    exact fun hst hreq htx hre hrx h0 ht => does_of_onDev rfl hlive (quietTimeExpiry_due hst hreq htx hre hrx h0 ht)
  case group => exact fun g hg hon => does_of_onDev rfl hlive (powerGroupOn_on hg hon)

end Sys2Proof.Machine
end

section
/-! SUPPORT. Flits received and resent, case by case (R426, R429 to R431, R433). -/

namespace Sys2Proof.Machine

/-! ## Updates of a port -/

section
variable {port : Nat} {f g : Port → Port} {d : Dev}

theorem Dev.updPort_congr (h : f (d.port port) = g (d.port port)) : d.updPort port f = d.updPort port g := by
  simp only [Dev.updPort, h]

theorem Dev.updPort_updPort : (d.updPort port f).updPort port g = d.updPort port fun p => g (f p) := by
  simp only [Dev.updPort, Dev.port, Map.getD_set_self, Map.set_set]

end

/-! ## What a flit of any type does -/

/-- A flit's symbols, a CRC that failed and uncorrectable codewords counted. -/
def flitCounted (port : Nat) (rx : RxFlit) (crc : Bool) (d : Dev) : Dev :=
  (bump 4 port 2 rx.corrected (bump 4 port 3 rx.lost (bump 4 port 4 (b2n crc) d))).updPort port fun p => { p with
    uncorr := (p.uncorr.filter fun t => decide (d.now ≤ t + 2 ^ 16)) ++ List.replicate (min rx.lost 16) d.now }

/-- A good flit counted, and what it acknowledges freed. -/
def flitTaken (port : Nat) (rx : RxFlit) (d : Dev) : Dev :=
  takeAck port (fld rx.data 2 0 16) (flitCounted port rx false d)

/-- An ACTIVE port with 16 uncorrectable codewords in the window retrains (R426). -/
def codewordsJudged (port : Nat) (d : Dev) : Dev :=
  if (d.port port).uncorr.length ≥ 16 then toRetrain port d else d

/-- Without an uncorrectable codeword now or in the window nothing is marked. -/
theorem uncorr_unchanged {p : Port} (h : p.uncorr = []) (now : Nat) : { p with
    uncorr := (p.uncorr.filter fun t => decide (now ≤ t + 2 ^ 16)) ++ List.replicate (min 0 16) now } = p := by
  cases p
  cases h
  rfl

theorem takeAck_now (port ack : Nat) (d : Dev) : (takeAck port ack d).now = d.now := by
  unfold takeAck
  dsimp only
  split <;> rfl

/-- An `ack` changes a port's replay buffer and resends alone. -/
theorem takeAck_port (port ack : Nat) (d : Dev) : ∃ l n,
    (takeAck port ack d).port port = { d.port port with replay := l, resends := n } := by
  unfold takeAck
  dsimp only
  split
  · exact ⟨_, _, rfl⟩
  · exact ⟨_, _, Dev.port_updPort_self ..⟩

theorem flitTaken_now (port : Nat) (rx : RxFlit) (d : Dev) : (flitTaken port rx d).now = d.now := by
  rw [flitTaken, takeAck_now]
  simp [flitCounted]

/-- Neither counting nor an `ack` changes a port's state, its place in the sequence or whether it keeps its link. -/
theorem flitTaken_port (port : Nat) (rx : RxFlit) (d : Dev) :
    ((flitTaken port rx d).port port).st = (d.port port).st ∧
    ((flitTaken port rx d).port port).expected = (d.port port).expected ∧
    ((flitTaken port rx d).port port).keep = (d.port port).keep := by
  obtain ⟨l, n, h⟩ := takeAck_port port (fld rx.data 2 0 16) (flitCounted port rx false d)
  rw [flitTaken, h, flitCounted, Dev.port_updPort_self]
  simp

section
variable {port : Nat} {d : Dev} (hinj : (d.inject? fun j => j.target == 3 && j.inst == port) = none)
include hinj

/-- A flit of the row's type, or a bad one, without an injected fault. -/
theorem rxFlit_row {rx : RxFlit} {typ : Nat} {st : LinkState} (hst : (d.port port).st = st)
    (ht : crcFails rx.data = false → fld rx.data 4 0 3 = typ) (good bad : Dev → Dev) :
    rxFlit typ st port rx good bad d = codewordsJudged port
      (if !rx.badCodeword && !crcFails rx.data then
        good (takeAck port (fld rx.data 2 0 16) (flitCounted port rx (crcFails rx.data) d))
      else bad (flitCounted port rx (crcFails rx.data) d)) := by
  have hgo : ¬((d.port port).st ≠ st ∨ (!rx.badCodeword && !crcFails rx.data) = true ∧ fld rx.data 4 0 3 ≠ typ) := by
    rintro (h | ⟨hok, h⟩)
    · exact h hst
    · exact h (ht (by simpa using (Bool.and_eq_true_iff.mp hok).2))
  simp only [rxFlit, hinj, Option.isSome_none, Bool.or_false, bump_reads]
  rw [if_neg hgo]
  rfl

/-- A good flit of the row's type. -/
theorem rxFlit_good {rx : RxFlit} {typ : Nat} {st : LinkState} (hbad : rx.badCodeword = false)
    (hcrc : crcFails rx.data = false) (hst : (d.port port).st = st) (ht : fld rx.data 4 0 3 = typ)
    (good bad : Dev → Dev) :
    rxFlit typ st port rx good bad d = codewordsJudged port (good (flitTaken port rx d)) := by
  rw [rxFlit_row hinj hst (fun _ => ht), hbad, hcrc]
  rfl

/-- A flit whose CRC fails, without an uncorrectable codeword now or in the window, on an ACTIVE port that has asked for
no resend yet: it asks for one. -/
theorem rxFlit_bad {rx : RxFlit} (hcrc : crcFails rx.data = true) (hlost : rx.lost = 0)
    (hunc : (d.port port).uncorr = []) (hnak : (d.port port).nakOut = false) (hst : (d.port port).st = .active)
    (typ : Nat) (good : Dev → Dev) : rxFlit typ .active port rx good (sendNak port) d =
      sendCtl port 2 [] (bump 4 port 5 1 ((bump 4 port 2 rx.corrected (bump 4 port 4 1 d)).updPort port fun p =>
        { p with nakOut := true })) := by
  have hseen : flitCounted port rx true d = (bump 4 port 2 rx.corrected (bump 4 port 4 1 d)).updPort port id := by
    unfold flitCounted
    rw [hlost, bump_zero]
    refine Dev.updPort_congr ?_
    simp only [bump_reads]
    exact uncorr_unchanged hunc d.now
  have hport : ((flitCounted port rx true d).port port) = d.port port := by
    rw [hseen, Dev.port_updPort_self]
    simp
  have hsent : sendNak port (flitCounted port rx true d) = sendCtl port 2 [] (bump 4 port 5 1
      ((bump 4 port 2 rx.corrected (bump 4 port 4 1 d)).updPort port fun p => { p with nakOut := true })) := by
    rw [sendNak, hport, if_neg (by simp [hnak]), hseen, Dev.updPort_updPort]
    rfl
  rw [rxFlit_row hinj hst (by simp [hcrc]), hcrc]
  simp only [Bool.not_true, Bool.and_false, Bool.false_eq_true, if_false]
  rw [hsent, codewordsJudged, if_neg]
  simp [sendCtl, Dev.port_updPort_self, hunc]

end

/-! ## Good flits by type -/

section
variable {port : Nat} {rx : RxFlit} {d : Dev}

/-- Any payload flit refuses a quiet request (R446). -/
def quietRefused (port : Nat) (d : Dev) : Dev := d.updPort port fun p => { p with quietReq := false }

theorem quietRefused_expected : ((quietRefused port d).port port).expected = (d.port port).expected := by
  rw [quietRefused, Dev.port_updPort_self]

/-- A payload flit in order is accepted. -/
theorem payloadFlit_inOrder (h : fld rx.data 0 0 16 = (d.port port).expected) : payloadFlit port rx d =
    rxPayload port rx (addCredits port ((List.range 4).map fun k => fld rx.data (12 + k) 0 8) (bump 4 port 1 1
      ((quietRefused port d).updPort port fun p => { p with
        expected := (p.expected + 1) % 65536, nakOut := false }))) := by
  have hseq : fld rx.data 0 0 16 = ((quietRefused port d).port port).expected := h.trans quietRefused_expected.symm
  refine (if_pos hseq).trans ?_
  congr 3

/-- One ahead of it asks for a resend. -/
theorem payloadFlit_ahead (hne : fld rx.data 0 0 16 ≠ (d.port port).expected)
    (h : (fld rx.data 0 0 16 + 65536 - (d.port port).expected) % 65536 < 32768) :
    payloadFlit port rx d = sendNak port (quietRefused port d) := by
  rw [← quietRefused_expected (port := port)] at hne h
  exact (if_neg hne).trans (if_pos h)

/-- One behind it is dropped. -/
theorem payloadFlit_behind (h : 32768 ≤ (fld rx.data 0 0 16 + 65536 - (d.port port).expected) % 65536) :
    payloadFlit port rx d = quietRefused port d := by
  have hne : fld rx.data 0 0 16 ≠ (d.port port).expected := by omega
  rw [← quietRefused_expected (port := port)] at hne h
  exact (if_neg hne).trans (if_neg (Nat.not_lt.mpr h))

theorem quietFlit_agrees (h : fld rx.data 16 0 8 = 2) : quietFlit port rx d = quietAgreed port d := if_pos h

/-- A port that has identified its partner at tick `now`. -/
def Port.identified (id now : Nat) (p : Port) : Port :=
  { p with recvId := id, upSince := now, everActive := true, downSince := none, keep := false, nakOut := false
           resends := 0, uncorr := [], lastMsg := now }

/-- A port whose link starts anew: sequence numbers, credits and half-received messages as at first. -/
def Port.linkFresh (p : Port) : Port :=
  { p with expected := 0, nextSeq := 0, replay := [], rxPart := [], rxSkip := false, credits := [0, 0, 0, 0]
           adv := [0, 0, 0, 0], initRx := false, owed := [0, 0, 0, 0] }

/-- A first identification: the link starts. -/
theorem identExchange_starts {b : Bytes} (hst : (d.port port).st = .ident) (hv : fld b 8 0 8 = 1)
    (hk : (d.port port).keep = false) : identExchange port b d =
      requalify (sendInit port ((judgeId port ((setLink port .active d).updPort port
        (Port.identified (fld b 0 0 64) d.now))).updPort port Port.linkFresh)) := by
  rw [identExchange, if_neg (not_not.mpr hst), if_neg (not_not.mpr hv)]
  simp only [hk, Bool.false_and, Bool.false_eq_true, if_false]
  rfl

/-! ## Resends (R430, R431) -/

/-- A fold that only sends flits. -/
theorem foldl_flits (l : List (Nat × Bytes)) : l.foldl (fun d f => emit (.flit port f.2) d) d =
    { d with out := d.out ++ l.map fun f => Out.flit port f.2 } := by
  induction l generalizing d with
  | nil => simp
  | cons f l ih => rw [List.foldl_cons, ih]; simp [emit]

/-- Fewer than eight resends of the same oldest flit: every flit not acknowledged goes out again, in order. -/
theorem resend_again (hst : (d.port port).st = .active) (hre : (d.port port).replay ≠ [])
    (hn : (d.port port).resends < 7) : resend port d =
      let n := (d.port port).replay.length
      (trace 7 2 none port (leBytes 1 5 ++ leBytes 1 (d.port port).width ++ zeros 2 ++ leBytes 4 n)
        (bump 4 port 0 n (bump 4 port 6 1 (bump 4 port 7 n
          { d with out := d.out ++ (d.port port).replay.map fun f => Out.flit port f.2 })))).updPort port
            fun p => { p with resends := p.resends + 1 } := by
  have hsome : ¬(d.port port).replay.isEmpty = true := by simpa using hre
  rw [resend, if_neg hsome]
  simp only [foldl_flits, hst]
  exact if_neg (by omega)

end

/-- Settles O41: each row is its case of a flit of its type. -/
theorem flits : Obligations.Flits := by
  unfold Obligations.Flits
  intro s port hlive hinj
  refine ⟨?good, ?bad, ?resend, ?expiry, ?ack⟩
  case good =>
    intro rx hbad hcrc
    obtain ⟨hst', hexp', hkeep'⟩ := flitTaken_port port rx s.dev
    refine ⟨fun hst => ⟨fun ht hseq => ?_, fun ht hne hlt => ?_, fun ht hle => ?_, fun ht => ?_, fun ht => ?_,
      fun ht hq => ?_⟩, fun hst ht hv hk => ?_⟩
    all_goals refine does_of_onDev rfl hlive ((rxFlit_good hinj hbad hcrc hst ht _ _).trans ?_)
    · rw [payloadFlit_inOrder (hseq.trans hexp'.symm)]
      rfl
    · rw [← hexp'] at hne hlt
      rw [payloadFlit_ahead hne hlt]
      rfl
    · rw [← hexp'] at hle
      rw [payloadFlit_behind hle]
      rfl
    · rfl
    · rfl
    · rw [quietFlit_agrees hq]
      rfl
    · rw [identExchange_starts (hst'.trans hst) hv (hkeep'.trans hk), flitTaken_now]
      rfl
  case bad =>
    intro rx hcrc hlost hunc hnak hst
    have hrow (typ : Nat) (good : Dev → Dev) := rxFlit_bad hinj hcrc hlost hunc hnak hst typ good
    exact ⟨does_of_onDev rfl hlive (hrow 0 _), does_of_onDev rfl hlive (hrow 1 _), does_of_onDev rfl hlive (hrow 2 _),
      does_of_onDev rfl hlive (hrow 4 _)⟩
  case resend =>
    exact fun hst hre hn => does_of_onDev rfl hlive ((if_pos hst).trans (resend_again hst hre hn))
  case expiry => exact does_of_onDev rfl hlive rfl
  case ack => exact fun hst => does_of_onDev rfl hlive (if_pos hst)

end Sys2Proof.Machine
end

section
/-! SUPPORT. Share groups, extents, mappings, losses and cleared poison: what each form of their commands answers (R407,
R475 to R477, R479, R481, R487, R488). -/

namespace Sys2Proof.Machine

/-! ## Checks -/

theorem checkExtent_own {x : Ctx} {d : Dev} {h : Nat} {w : Extent} (ht : hTenant h = x.t) (hw : d.ext? h = some w)
    (off : Nat) : checkExtent x off h d = .ok w := by
  simp only [checkExtent, if_neg (not_not.mpr ht), hw]

theorem checkKey_ok {o : Obj} {d : Dev} (h : d.keyless o.tenant = false) : checkKey o d = .ok () := need_not_of h

/-- A version of the command's own object that is not released is read by its number. -/
theorem resolveRead_own {o : Obj} {t v : Nat} {w : Version} (hv : v ≠ 0) (hw : o.vers.get? v = some w)
    (hst : w.st ≠ .released) (ht : o.tenant = t) (off : Nat) : resolveRead o t v off = .ok v := by
  simp only [resolveRead, if_neg hv, hw]
  simp [hst, ht]

/-! ## `SHARE_GROUP_SET` (R475) -/

section
variable {x : Ctx} {d : Dev} (hq : checkQos x d = .ok ())
include hq

theorem bodyShareGroupSet_made (hsel : x.e.b20 = 0) (hg : d.cxl.groups.has (x.e.fld 0x21 0 8) = false) :
    bodyShareGroupSet x [] none d =
      okRes [] (d.updCxl fun k => { k with groups := Map.set (x.e.fld 0x21 0 8) (x.e.w16 0x22) k.groups }) := by
  simp only [bodyShareGroupSet, plain, bind, Except.bind, hq, if_pos hsel, need_not_of hg]

theorem bodyShareGroupSet_deleted (hsel : x.e.b20 = 1) (hg : d.cxl.groups.has (x.e.fld 0x21 0 8) = true)
    (hfree : (d.cxl.exts.any fun p => p.2.target == 0x10 + x.e.fld 0x21 0 8) = false) :
    bodyShareGroupSet x [] none d =
      okRes [] (d.updCxl fun k => { k with groups := Map.del (x.e.fld 0x21 0 8) k.groups }) := by
  have hdel : x.e.b20 ≠ 0 := by simp [hsel]
  simp only [bodyShareGroupSet, plain, bind, Except.bind, hq, if_neg hdel, need_of hg, need_not_of hfree]

/-! ## `EXTENT_ASSIGN` (R476, R477) -/

/-- The extent that an `EXTENT_ASSIGN` makes on a half. -/
def newExtent (e : Entry) (half : Nat) (d : Dev) : Extent :=
  { writable := e.b20 == 0, target := e.fld 0x21 0 8, tenant := e.fld 0x22 0 10, qos := e.fld 0x24 0 12, half := half
    offset := e.w64 0x28, length := e.w64 0x30, serial := if e.b20 = 0 then d.integ.serial.getD half 0 else 0
    lines := [], poison := [], revoker := none, lostIn := 0, hostLost := false }

/-- The next number of the tenant it names (R49). -/
def newExtentNum (e : Entry) (d : Dev) : Nat := d.objs.nextNum.getD (e.fld 0x22 0 10) 1

/-- The handle of that extent. -/
def newExtentHandle (e : Entry) (d : Dev) : Nat := mkHandle (e.fld 0x22 0 10) 6 (newExtentNum e d)

/-- The device with that extent, its number taken. -/
def extentAdded (e : Entry) (half : Nat) (d : Dev) : Dev :=
  (d.updObjs fun p => { p with
    nextNum := Map.set (e.fld 0x22 0 10) (newExtentNum e d + 1) p.nextNum }).updCxl fun k => { k with
      exts := Map.set (newExtentHandle e d) (newExtent e half d) k.exts }

/-- What an `EXTENT_ASSIGN` checks of either kind of extent. -/
structure Assigns (e : Entry) (d : Dev) : Prop where
  tenant : d.defined (e.fld 0x22 0 10) = true
  target : e.fld 0x21 0 8 < 4 ∨ d.cxl.groups.has (e.fld 0x21 0 8 - 0x10) = true
  offset : e.w64 0x28 % 2 ^ 21 = 0
  length : e.w64 0x30 % 2 ^ 21 = 0
  some : e.w64 0x30 ≠ 0
  limit : e.w64 0x28 + e.w64 0x30 ≤ windowLimit
  label : d.labelOf (e.fld 0x22 0 10) (e.fld 0x24 0 12) = true
  free : (d.cxl.exts.find? fun p =>
    d.extOverlaps (d.targetHosts (e.fld 0x21 0 8)) (e.w64 0x28) (e.w64 0x30) p.2) = none
  room : d.cxl.exts.length < 4096
  objects : d.objectCount < 16777216

omit hq in
theorem Assigns.target_names {e : Entry} (a : Assigns e d) :
    (decide (e.fld 0x21 0 8 < 4) || d.cxl.groups.has (e.fld 0x21 0 8 - 0x10)) = true := by
  simpa using a.target

omit hq in
theorem Assigns.length_regions {e : Entry} (a : Assigns e d) :
    (e.w64 0x30 % 2 ^ 21 == 0 && e.w64 0x30 != 0) = true := by
  rw [beq_iff_eq.mpr a.length, Bool.true_and, bne_iff_ne]
  exact a.some

section
variable (a : Assigns x.e d)
include a

/-- A read-only extent lies on its host's half and reserves nothing. -/
theorem bodyExtentAssign_readOnly (hsel : x.e.b20 = 1) : bodyExtentAssign x [] none d =
    okRes (leBytes 8 (newExtentHandle x.e d)) (extentAdded x.e (hostHalf (x.e.fld 0x21 0 8)) d) := by
  have hro : (x.e.b20 == 0) = false := by simp [hsel]
  have hne : x.e.b20 ≠ 0 := by simp [hsel]
  simp only [bodyExtentAssign, plain, bind, Except.bind, hq, need_of a.tenant, need_of a.target_names,
    need_of (beq_iff_eq.mpr a.offset), need_of a.length_regions, need_of (decide_eq_true a.limit), need_of a.label,
    a.free, need_of (decide_eq_true a.room), needObject, need_of (decide_eq_true a.objects), hro, Bool.false_eq_true,
    if_false, extentAdded, newExtent, if_neg hne]
  rfl

/-- A writable extent takes its length of the near tier, on the first half with room, and the half's serial number. -/
theorem bodyExtentAssign_writable {halves : List Nat} {half : Nat} (hsel : x.e.b20 = 0)
    (hh : halvesFor x.half (x.e.fld 0x26 0 8) d = .ok halves)
    (hquota : checkQuota (x.e.fld 0x22 0 10) 0 (x.e.w64 0x30) 0 d = .ok ())
    (hm : chooseHalf (x.e.w64 0x30) 0 d halves = .ok half) : bodyExtentAssign x [] none d =
      okRes (leBytes 8 (newExtentHandle x.e d)) (addNear (x.e.fld 0x22 0 10) half (x.e.w64 0x30)
        ((extentAdded x.e half d).updInteg fun i => { i with serial := i.serial.modify half (· + 1) })) := by
  have hwr : (x.e.b20 == 0) = true := by simp [hsel]
  simp only [bodyExtentAssign, plain, bind, Except.bind, hq, need_of a.tenant, need_of a.target_names,
    need_of (beq_iff_eq.mpr a.offset), need_of a.length_regions, need_of (decide_eq_true a.limit), need_of a.label,
    a.free, need_of (decide_eq_true a.room), needObject, need_of (decide_eq_true a.objects), hwr, if_true, hh, hquota,
    hm, extentAdded, newExtent, if_pos hsel]
  rfl

end

/-! ## `EXTENT_REVOKE` (R488) -/

theorem bodyExtentRevoke_fences {w : Extent} (ht : hTenant x.e.ha = x.t) (hw : d.ext? x.e.ha = some w)
    (hr : w.revoker = none) : bodyExtentRevoke x [] none d =
      .ok (.wait (askDir x.e.ha 0 (if w.writable then w.length / 64 else 0) (.revoke x.num)
        (d.updExt x.e.ha fun w => { w with revoker := some x.num }))) := by
  have hnone : w.revoker.isNone = true := by simp [hr]
  simp only [bodyExtentRevoke, plain, bind, Except.bind, checkExtent_own ht hw, hq, need_of hnone]

/-! ## `OBJ_MAP_HOST`, `OBJ_UNMAP_HOST` (R479, R481) -/

/-- Bytes that a mapping of an object takes of its window. -/
def Obj.mapLength (o : Obj) : Nat := roundUp (o.count * o.canon) 4096

/-- The mapping that an `OBJ_MAP_HOST` of version `v` makes. -/
def newMapping (x : Ctx) (o : Obj) (v : Nat) : Mapping :=
  { ext := x.e.hb, obj := x.e.ha, ver := v, offset := x.e.w64 0x28, length := o.mapLength, tenant := x.t
    closer := none }

omit hq in
theorem windowOf_open {w : Extent} (hw : d.ext? x.e.hb = some w) (hro : w.writable = false) (hten : w.tenant = x.t)
    (hr : w.revoker = none) (hfn : (x.fn? d).map (· / 256) = some w.target) : windowOf x d = .ok w := by
  have hopen : (!w.writable && w.tenant == x.t && w.revoker.isNone && (x.fn? d).map (· / 256) == some w.target) =
      true := by simp [hro, hten, hr, hfn]
  simp only [windowOf, hw, hopen, if_true]

/-- A mapping that passes every check is made under the lowest free ID (log entry 51). -/
theorem bodyObjMapHost_maps {o : Obj} {w : Extent} {v : Nat} (ho : checkHandle x 8 x.e.ha (x.e.w32 0x20) d = .ok o)
    (ht : hTenant x.e.hb = x.t) (hw : d.ext? x.e.hb = some w) (hpath : d.pwr.sable = false ∨ x.half = o.half)
    (hwin : windowOf x d = .ok w) (hv : resolveSealed o x.t (x.e.w32 0x20) 0x20 = .ok v)
    (hk : d.keyless o.tenant = false) (halign : x.e.w64 0x28 % 4096 = 0)
    (hfits : x.e.w64 0x28 + o.mapLength ≤ w.length)
    (hfree : (d.cxl.maps.find? fun p => p.2.ext == x.e.hb &&
      overlaps p.2.offset p.2.length (x.e.w64 0x28) o.mapLength) = none) (hroom : d.cxl.maps.length < 65536) :
    bodyObjMapHost x [] none d =
      let id := d.cxl.maps.firstFree 0
      okRes (leBytes 4 id ++ leBytes 4 v ++ leBytes 8 o.mapLength)
        ((d.updCxl fun k => { k with maps := Map.set id (newMapping x o v) k.maps }).updVer x.e.ha v
          fun v => { v with mapped := v.mapped + 1 }) := by
  have hin : (x.e.w64 0x28 % 4096 == 0 && decide (x.e.w64 0x28 + o.mapLength ≤ w.length)) = true := by
    simp [halign, hfits]
  unfold Obj.mapLength at hin hfree
  simp only [bodyObjMapHost, plain, bind, Except.bind, ho, checkExtent_own ht hw, hq, checkPath_ok hpath, hwin, hv,
    checkKey_ok hk, need_of hin, hfree, need_of (decide_eq_true hroom)]
  rfl

theorem bodyObjUnmapHost_closes {m : Mapping} (hm : d.cxl.maps.get? (x.e.w32 0x20) = some m) (ht : m.tenant = x.t)
    (hc : m.closer = none) : bodyObjUnmapHost x [] none d =
      .ok (.wait (reapMaps (d.updCxl fun k => { k with
        maps := Map.upd (x.e.w32 0x20) (fun m => { m with closer := some x.num }) k.maps }))) := by
  have hmine : (m.tenant == x.t) = true := by simp [ht]
  have hopen : m.closer.isNone = true := by simp [hc]
  simp only [bodyObjUnmapHost, plain, bind, Except.bind, hq, hm, need_of hmine, need_of hopen]

/-! ## `HOST_LOSS_ACK` (R487) -/

section
variable {ev : LossEvent} (hev : d.cxl.events.get? (x.e.w32 0x24) = some ev)
include hev

theorem bodyHostLossAck_takes (hsel : x.e.b20 = 1) : bodyHostLossAck x [] none d =
    okRes [] (d.updCxl fun k => { k with events := Map.del (x.e.w32 0x24) k.events }) := by
  simp only [bodyHostLossAck, plain, bind, Except.bind, hq, hev, if_pos hsel]

theorem bodyHostLossAck_lists (hsel : x.e.b20 = 0) :
    let l := (ev.ranges.1.drop (x.e.w32 0x28)).take (x.e.w32 0x2C)
    bodyHostLossAck x [] none d = okData x (leBytes 4 ev.ranges.1.length ++ leBytes 4 l.length ++
      leBytes 1 (b2n ev.ranges.2)) (l.flatMap (rangeEntry ev.ranges.2)) d := by
  have hlist : x.e.b20 ≠ 1 := by simp [hsel]
  simp only [bodyHostLossAck, plain, bind, Except.bind, hq, hev, if_neg hlist]

end

/-! ## `POISON_CLEAR` (R407) -/

/-- Poison of a range of a writable extent is the directory's to clear. -/
theorem bodyPoisonClear_extent {w : Extent} (hx : isExtent x.e.ha = true) (ht : hTenant x.e.ha = x.t)
    (hw : d.ext? x.e.ha = some w) (hwr : w.writable = true) (hr : w.revoker = none)
    (hpath : d.pwr.sable = false ∨ x.half = w.half) (hoff : x.e.w64 0x28 % 64 = 0) (hlen : x.e.w64 0x30 % 64 = 0)
    (hin : x.e.w64 0x28 + x.e.w64 0x30 ≤ w.length) (hk : d.keyless w.tenant = false) : bodyPoisonClear x [] none d =
      .ok (.wait (askDir x.e.ha (x.e.w64 0x28 / 64) (x.e.w64 0x30 / 64) (.clear x.num) d)) := by
  have hnone : w.revoker.isNone = true := by simp [hr]
  refine (if_pos hx).trans ?_
  simp only [clearExtent, bind, Except.bind, checkExtent_own ht hw, hq, need_of hwr, need_of hnone,
    checkPath_ok hpath, need_of (beq_iff_eq.mpr hoff), need_of (beq_iff_eq.mpr hlen), need_of (decide_eq_true hin),
    need_not_of hk]

end

/-- The damaged tiles of a range of an open version replaced with zeros. -/
def tilesCleared (e : Entry) (o : Obj) (prod : Nat) (w' : Version) (d : Dev) : Dev :=
  (d.damagedIn e.ha (e.w32 0x20) (e.w32 0x24) (e.w32 0x28)).foldl (fun d i =>
    putTile e.ha (e.w32 0x20) i { data := o.zeroTile, sid := 0, dmg := false, prod := prod } d)
    (d.updVer e.ha (e.w32 0x20) fun _ => w')

/-- Damaged tiles of a range of an open version are written with zeros by its external producer. -/
theorem bodyPoisonClear_tiles {s : State} {n op prod : Nat} {c : Cmd} {o : Obj} {w w' : Version} (h : Ready s n op c)
    (hx : isExtent c.entry.ha = false) (own : Owns s c o) (hv : c.entry.w32 0x20 ≠ 0)
    (hw : o.vers.get? (c.entry.w32 0x20) = some w) (hst : w.st = .opened) (hdmg : w.damaged = false)
    (hr : c.entry.w32 0x24 + c.entry.w32 0x28 ≤ o.count) (hk : s.dev.keyless o.tenant = false)
    (hl : s.dev.damagedIn c.entry.ha (c.entry.w32 0x20) (c.entry.w32 0x24) (c.entry.w32 0x28) ≠ [])
    (hext : w.external = some (prod, w')) : bodyPoisonClear ⟨n, c⟩ [] none s.dev =
      okRes (leBytes 8 (s.dev.damagedIn c.entry.ha (c.entry.w32 0x20) (c.entry.w32 0x24) (c.entry.w32 0x28)).length)
        (tilesCleared c.entry o prod w' s.dev) := by
  have hread := resolveRead_own hv hw (by simp [hst]) own.mine 0x20
  have hopen : (w.st == .opened) = true := by simp [hst]
  refine (if_neg (ne_true_of_eq_false hx)).trans ?_
  simp only [clearTiles, Ctx.e, Ctx.t, bind, Except.bind, ownObj_owns h own, hread, checkRange_ok 0x24 hr,
    checkKey_ok hk, hw, need_of hopen, need_not_of hdmg, List.isEmpty_iff, if_neg hl, hext]
  rfl

/-- Settles O22: each form of each command is its case of the body. -/
theorem windowCommands : Obligations.WindowCommands := by
  unfold Obligations.WindowCommands
  intro s n c
  refine ⟨?group, ?assign, ?revoke, ?map, ?unmap, ?loss, ?extent, ?tiles⟩
  case group =>
    exact ⟨fun hsel hg h => ends_of_okRes rfl h (bodyShareGroupSet_made h.label hsel hg),
      fun hsel hg hf h => ends_of_okRes rfl h (bodyShareGroupSet_deleted h.label hsel hg hf)⟩
  case assign =>
    intro target t off len num hdl taken ext hten hto hoff hlen hsome hlimit hlabel hfree hroom hobj
    have ha : Assigns c.entry s.dev := ⟨hten, hto, hoff, hlen, hsome, hlimit, hlabel, hfree, hroom, hobj⟩
    exact ⟨fun hsel h => ends_of_okRes rfl h (bodyExtentAssign_readOnly h.label ha hsel),
      fun halves half hsel hh hquota hm h =>
        ends_of_okRes rfl h (bodyExtentAssign_writable h.label ha hsel hh hquota hm)⟩
  case revoke => exact fun w ht hw hr h => waits_of_body rfl h (bodyExtentRevoke_fences h.label ht hw hr)
  case map =>
    intro o w v off len id m see ht hw hro hten hr hfn hv hk halign hfits hfree hroom h
    exact ends_of_okRes rfl h (bodyObjMapHost_maps h.label (checkHandle_sees see 8) ht hw see.path
      (windowOf_open hw hro hten hr hfn) hv hk halign hfits hfree hroom)
  case unmap => exact fun m hm ht hc h => waits_of_body rfl h (bodyObjUnmapHost_closes h.label hm ht hc)
  case loss =>
    exact fun ev hev => ⟨fun hsel h => ends_of_okRes rfl h (bodyHostLossAck_takes h.label hev hsel),
      fun hsel hf h => ends_of_okData rfl h hf (bodyHostLossAck_lists h.label hev hsel)⟩
  case extent =>
    intro w off len hx ht hw hwr hr hpath hoff hlen hin hk h
    exact waits_of_body rfl h (bodyPoisonClear_extent h.label hx ht hw hwr hr hpath hoff hlen hin hk)
  case tiles =>
    intro o w prod w' v l hx own hv hw hst hdmg hr hk hl hext h
    exact ends_of_okRes rfl h (bodyPoisonClear_tiles h hx own hv hw hst hdmg hr hk hl hext)

end Sys2Proof.Machine
end

section
/-! SUPPORT. What a command of the management path leaves behind: one response with its results (R98, R494). -/

namespace Sys2Proof

/-! ## Bytes and numbers (R8) -/

theorem leNat_leBytes (n x : Nat) : leNat (leBytes n x) = x % 256 ^ n := by
  induction n generalizing x with
  | zero => simp [leBytes, leNat, Nat.mod_one]
  | succ n ih =>
    rw [leBytes, leNat, ih, pow_succ', Nat.mod_mul]
    simp

theorem leNat_append (a b : Bytes) : leNat (a ++ b) = leNat a + 256 ^ a.length * leNat b := by
  induction a with
  | nil => simp [leNat]
  | cons x a ih =>
    rw [List.cons_append, leNat, leNat, ih, List.length_cons, pow_succ']
    ring

end Sys2Proof

namespace Sys2Proof.Machine

/-! ## Responses among what leaves the block -/

/-- Whether a message is a response of the management path. -/
def Out.isResponse : Out → Bool
  | .mgmt _ _ => true
  | _ => false

/-- The responses of the management path that have left the block, oldest first. -/
def Dev.responses (d : Dev) : List Out := d.out.filter Out.isResponse

theorem emit_responses (o : Out) (d : Dev) :
    (emit o d).responses = d.responses ++ if o.isResponse then [o] else [] := by
  simp only [Dev.responses, emit, List.filter_append, List.filter_cons, List.filter_nil]

theorem sendMsix_responses (fn vec : Nat) (d : Dev) : (sendMsix fn vec [] d).responses = d.responses := by
  unfold sendMsix Dev.updQps
  simp only [List.foldl_nil]
  split
  · rfl
  · split
    · exact (emit_responses ..).trans (List.append_nil _)
    · rfl

theorem wake_responses (d : Dev) : (wake d).responses = d.responses := by
  unfold wake
  split <;> rfl

theorem setCause_responses (fn bit : Nat) (d : Dev) : (setCause fn bit d).responses = d.responses := by
  unfold setCause
  dsimp only
  split
  · rfl
  · split
    · split
      · exact wake_responses _
      · exact (sendMsix_responses ..).trans (wake_responses _)
    · split
      · rfl
      · exact sendMsix_responses ..

theorem setCauses_responses (bit : Nat) (p : Fn → Bool) (d : Dev) : (setCauses bit p d).responses = d.responses :=
  foldl_keeps (P := fun e : Dev => e.responses = d.responses) (fun e fn h => by
    split
    · exact (setCause_responses ..).trans h
    · exact h) _ rfl

/-- Settling sends no response. -/
theorem settle_responses (d0 d : Dev) : (settle d0 d).responses = d.responses := by
  have htrace : (traceDiff d0 d).responses = d.responses := by
    rw [Dev.responses, (traceDiff_frame d0 d).out]
    rfl
  unfold settle
  dsimp only
  split <;> split <;> simp only [setCauses_responses, htrace]

/-! ## The end of a command of the management path -/

section
variable {n b : Nat} {c : Cmd} {d : Dev} (hc : d.cmd? n = some c) (ho : c.origin = .mgmt b) (hq : d.q.qps = [])
  (ha : d.comp.aborts = [])
include hc ho hq ha

/-- With no queue pair and no abort that waits, its response is all that leaves. -/
theorem finishCmd_mgmt (cpl : Cpl) : finishCmd n cpl d = emit (.mgmt b (mgmtResponse c cpl d)) (d.dropCmd n) := by
  have hfirst : finish1 n cpl d = emit (.mgmt b (mgmtResponse c cpl d)) (d.dropCmd n) := by
    simp only [finish1, hc, ho]
  have haborts : (emit (.mgmt b (mgmtResponse c cpl d)) (d.dropCmd n)).comp.aborts = [] := ha
  have hqps : (emit (.mgmt b (mgmtResponse c cpl d)) (d.dropCmd n)).q.qps = [] := hq
  have hreap : reapAborts (emit (.mgmt b (mgmtResponse c cpl d)) (d.dropCmd n)) =
      emit (.mgmt b (mgmtResponse c cpl d)) (d.dropCmd n) := by
    rw [reapAborts, haborts]
    rfl
  have hdel : reapQps (emit (.mgmt b (mgmtResponse c cpl d)) (d.dropCmd n)) =
      emit (.mgmt b (mgmtResponse c cpl d)) (d.dropCmd n) := by
    rw [reapQps, hqps]
    rfl
  rw [finishCmd, hfirst, hreap, hdel, hdel]

theorem after_responses (s : State) (cpl : Cpl) : (s.after (finishCmd n cpl d)).dev.responses =
    d.responses ++ [.mgmt b (mgmtResponse c cpl d)] := by
  rw [State.after, settle_responses, finishCmd_mgmt hc ho hq ha, emit_responses]
  rfl

end

/-- A response holds its completion's results in bytes 8 to 23 (Table 3-3). -/
theorem mgmtResponse_results (c : Cmd) (cpl : Cpl) (d : Dev) :
    leNat (((mgmtResponse c cpl d).drop 8).take 16) = cpl.results.toNat := by
  have hbytes : ((mgmtResponse c cpl d).drop 8).take 16 = leBytes 16 cpl.results.toNat := by
    simp [mgmtResponse, cqeHead, cqeTail, leBytes]
  rw [hbytes, leNat_leBytes]
  exact Nat.mod_eq_of_lt cpl.results.isLt

/-- A command of the management path that ends in a step ends with one result, whatever the device is when it does. -/
theorem ends_results_eq {i : Instr} {n b : Nat} {s : State} {c : Cmd} {cpl cpl' : Cpl} {d d' : Dev}
    (hc : d.cmd? n = some c) (ho : c.origin = .mgmt b) (hq : d.q.qps = []) (ha : d.comp.aborts = [])
    (hcmds : d'.q.cmds = d.q.cmds) (hqps : d'.q.qps = d.q.qps) (hcomp : d'.comp = d.comp)
    (h : Ends i n s cpl d) (h' : Ends i n s cpl' d') : cpl.results = cpl'.results := by
  have same : s.after (finishCmd n cpl d) = s.after (finishCmd n cpl' d') := Host.Outcome.next.inj (h.symm.trans h')
  have hc' : d'.cmd? n = some c := by rwa [Dev.cmd?, hcmds]
  have hout := after_responses hc ho hq ha s cpl
  rw [same, after_responses hc' ho (hqps.trans hq) (by rw [hcomp, ha])] at hout
  have hresp : mgmtResponse c cpl' d' = mgmtResponse c cpl d := by
    have := (List.append_inj' hout rfl).2
    simpa using this
  refine BitVec.eq_of_toNat_eq ?_
  rw [← mgmtResponse_results c cpl d, ← mgmtResponse_results c cpl' d', hresp]

end Sys2Proof.Machine
end

section
/-! SUPPORT. The trace port enabled on a link that is up: its transmitters go off, guarantees are recomputed, and what
ceases to be oversubscribed is recorded by the trace that has just begun (R355, R409, Table 14-19). -/

namespace Sys2Proof.Machine

/-! ## Records of one source -/

/-- A trace that takes every record of a source and has taken `k` since its start, sent none and dropped those
past the 4,096 its buffer holds. -/
structure Trace.Recording (source k : Nat) (t : Trace) : Prop where
  enabled : t.enabled = true
  source : bitOf t.sources source = true
  unfiltered : t.filter = false
  fits : t.buf.length ≤ 4096
  all : t.buf.length + t.dropped = k

/-- One more record. -/
theorem trace_recording {source k : Nat} {d : Dev} (h : d.integ.trace.Recording source k) (event : Nat)
    (t : Option Nat) (ident : Nat) (b : Bytes) :
    (trace source event t ident b d).integ.trace.Recording source (k + 1) := by
  obtain ⟨hon, hsource, hfilter, hfits, hall⟩ := h
  have hpass : (!(d.integ.trace.enabled && bitOf d.integ.trace.sources source &&
      (!d.integ.trace.filter || t == none || t == some d.integ.trace.tenant))) = false := by
    simp [hon, hsource, hfilter]
  unfold trace
  simp only [hpass, Bool.false_eq_true, if_false]
  split
  next hroom =>
    refine ⟨hon, hsource, hfilter, ?_, ?_⟩
    · simp only [Dev.updInteg, List.length_append, List.length_singleton]
      omega
    · simp only [Dev.updInteg, List.length_append, List.length_singleton]
      omega
  next hfull => exact ⟨hon, hsource, hfilter, hfits, by rw [← hall]; rfl⟩

/-- One record for each member of a list. -/
theorem foldl_recording {α : Type} {source k : Nat} (event : Nat) (ident : α → Nat) (l : List α) {d : Dev}
    (h : d.integ.trace.Recording source k) :
    (l.foldl (fun d a => trace source event none (ident a) [] d) d).integ.trace.Recording source (k + l.length) := by
  induction l generalizing d k with
  | nil => exact h
  | cons a l ih =>
    have := ih (trace_recording h event none (ident a) [])
    rwa [Nat.add_assoc, Nat.add_comm 1] at this

/-- Without regulators every resource that was oversubscribed ceases to be, and is recorded so. -/
theorem requalify_unreserved {d : Dev} (hr : d.qos.regs = []) : ∃ q, requalify d =
    d.qos.oversub.foldl (fun d k => trace 5 5 none (k.1 + 256 * anyInst k.1 k.2) [] d) (d.updQos q) := by
  have hnone : d.reserved = [] := by rw [Dev.reserved, hr]; rfl
  unfold requalify
  simp only [hnone, List.filter_nil, List.contains_nil, Bool.not_false, List.filter_true, List.foldl_nil]
  exact ⟨_, rfl⟩

theorem requalify_recording {k : Nat} {d : Dev} (hr : d.qos.regs = []) (h : d.integ.trace.Recording 5 k) :
    (requalify d).integ.trace.Recording 5 (k + d.qos.oversub.length) := by
  obtain ⟨q, hq⟩ := requalify_unreserved hr
  have hfirst : (d.updQos q).integ.trace.Recording 5 k := h
  rw [hq]
  exact foldl_recording 5 (fun k : Nat × Nat => k.1 + 256 * anyInst k.1 k.2) d.qos.oversub hfirst

/-! ## ENABLE -/

/-- The trace started as an entry says. -/
def exportBegun (e : Entry) (preset : Bool) (d : Dev) : Dev :=
  d.updInteg fun i => { i with trace := { i.trace with
    enabled := true, sending := false, preset := preset, clock := e.fld 0x21 0 1 == 1
    narrow := e.fld 0x21 1 1 == 1, filter := e.fld 0x21 2 1 == 1, tenant := e.fld 0x22 0 10
    sources := e.fld 0x24 0 8, buf := [], sent := 0, dropped := 0, dropNew := 0 } }

/-- yl55's lanes handed to the trace. -/
def exportLanes (d : Dev) : Dev :=
  if (d.port 55).st = .disabled then d else requalify (emit (.txOff 55) (setLink 55 .disabled d))

/-- Their domain switched on. -/
def exportPowered (d : Dev) : Dev := if d.domain 25 == .off then d.setDomain 25 .switchingOn else d

/-- ENABLE of tenant 0's choice of sources, with no clock output and no filter. -/
theorem bodyTraceCtl_enables {x : Ctx} {b : Nat} {d : Dev} (hq : checkQos x d = .ok ()) (hsel : x.e.b20 = 0)
    (ho : x.cmd.origin = .mgmt b) (hoff : d.integ.trace.enabled = false) (hfree : (d.port 55).bound = false)
    (hholds : presetHolds x 1 d = false) (hclock : x.e.fld 0x21 0 1 = 0) (hsrc : x.e.fld 0x24 0 8 ≠ 0)
    (hfilter : x.e.fld 0x21 2 1 = 0) :
    let d' := emit .tracePattern (exportPowered (exportLanes (exportBegun x.e false d)))
    bodyTraceCtl x [] none d = okRes (leBytes 8 d'.integ.trace.sent ++ leBytes 8 d'.integ.trace.dropped) d' := by
  have hstart : (!d.integ.trace.enabled && !(d.port 55).bound && !presetHolds x 1 d) = true := by
    simp [hoff, hfree, hholds]
  have hnoclock : (!(x.e.fld 0x21 0 1 == 1 && (d.feat 0x03 0 8 == 1 || presetHolds x 3 d))) = true := by simp [hclock]
  have hsome : (x.e.fld 0x24 0 8 != 0) = true := by simpa using hsrc
  have hall : (x.e.fld 0x21 2 1 == 0 || d.defined (x.e.fld 0x22 0 10)) = true := by simp [hfilter]
  have h2 : x.e.b20 ≠ 2 := by omega
  have h1 : x.e.b20 ≠ 1 := by omega
  simp only [bodyTraceCtl, plain, bind, Except.bind, hq, if_neg h2, if_neg h1, ho, traceEnable, need_of hstart,
    need_of hnoclock, need_of hsome, need_of hall]
  rfl

/-- What ENABLE has recorded when it ends, the link having been up. -/
theorem exportLanes_recording {e : Entry} {d : Dev} (hup : (d.port 55).st ≠ .disabled) (hr : d.qos.regs = [])
    (hsrc : bitOf (e.fld 0x24 0 8) 5 = true) (hfilter : e.fld 0x21 2 1 = 0) :
    (emit .tracePattern (exportPowered (exportLanes (exportBegun e false d)))).integ.trace.Recording 5
      d.qos.oversub.length := by
  have hbegun : (exportBegun e false d).integ.trace.Recording 5 0 :=
    ⟨rfl, hsrc, by simp [exportBegun, Dev.updInteg, hfilter], Nat.zero_le _, rfl⟩
  have hlanes : (exportLanes (exportBegun e false d)).integ.trace.Recording 5 d.qos.oversub.length := by
    have hup' : ((exportBegun e false d).port 55).st ≠ .disabled := hup
    rw [exportLanes, if_neg hup', ← Nat.zero_add d.qos.oversub.length]
    exact requalify_recording (d := emit (.txOff 55) (setLink 55 .disabled (exportBegun e false d))) hr hbegun
  have hpower (d : Dev) : (exportPowered d).integ = d.integ := by
    unfold exportPowered
    split <;> rfl
  exact (hpower _).symm ▸ hlanes

/-- ENABLE leaves the queues and the kernels alone. -/
theorem exporting_keeps (e : Entry) (d : Dev) :
    let d' := emit .tracePattern (exportPowered (exportLanes (exportBegun e false d)))
    d'.q = d.q ∧ d'.comp = d.comp := by
  have hlanes (d : Dev) : (exportLanes d).q = d.q ∧ (exportLanes d).comp = d.comp := by
    unfold exportLanes
    split
    · exact ⟨rfl, rfl⟩
    · obtain ⟨-, -, -, -, hq, hcomp, -⟩ := (requalify_touched (emit (.txOff 55) (setLink 55 .disabled d))).keeps
      exact ⟨hq, hcomp⟩
  have hpower (d : Dev) : (exportPowered d).q = d.q ∧ (exportPowered d).comp = d.comp := by
    unfold exportPowered
    split <;> exact ⟨rfl, rfl⟩
  exact ⟨(hpower _).1.trans (hlanes _).1, (hpower _).2.trans (hlanes _).2⟩

/-- Every command may carry the shared background label. -/
theorem checkQos_background {x : Ctx} {d : Dev} (h : x.e.qos = 0) : checkQos x d = .ok () := if_pos h

/-- The checks before a command's own see the management state, the power state and the queues alone. -/
theorem precheck_congr {x : Ctx} {d d' : Dev} (hm : d'.mgmt = d.mgmt) (hp : d'.pwr = d.pwr) (hq : d'.q = d.q) :
    precheck x d' = precheck x d := by
  cases d
  cases d'
  cases hm
  cases hp
  cases hq
  rfl

end Sys2Proof.Machine
end

section
/-! SUPPORT. O29 fails where more resources cease to be oversubscribed at an ENABLE than the trace's buffer holds
records: its results then report what has been dropped. -/

namespace Sys2Proof.Machine

/-- An ENABLE of source 5, sent over the management path. -/
def enableQosTrace : Cmd :=
  { origin := .mgmt 4, entry := BitVec.ofNat 512 (leNat ([0xF1] ++ zeros 35 ++ [0x20])), tenant := 0, half := 0
    started := true, dup := false, phase := .taken, tick := 0, input := [], ends := none, jobs := [], tiles := [] }

/-- The device in service mode with yl55 up, no regulator and a list of resources marked as oversubscribed, and that
command as number 0. -/
def markedState (l : List (Nat × Nat)) : State :=
  let d := ((Dev.reset.updPwr fun p => { p with mode := .service, step := 8 }).updPort 55 fun p => { p with
    st := .active }).updQos fun q => { q with oversub := l }
  { State.reset with dev := { d with q := { d.q with cmds := [(0, enableQosTrace)], nextCmd := 1 } } }

/-- What the device has recorded when that command ends. -/
def enabledQosTrace (l : List (Nat × Nat)) : Dev :=
  emit .tracePattern (exportPowered (exportLanes (exportBegun enableQosTrace.entry false (markedState l).dev)))

theorem enabledQosTrace_recording (l : List (Nat × Nat)) :
    (enabledQosTrace l).integ.trace.Recording 5 l.length := by
  have hup : ((markedState l).dev.port 55).st = .active := rfl
  exact exportLanes_recording (e := enableQosTrace.entry) (d := (markedState l).dev) (by simp [hup]) rfl
    (by decide +kernel) (by decide +kernel)

theorem enableQosTrace_checks : precheck ⟨0, enableQosTrace⟩ (markedState []).dev = .ok () := by decide +kernel

theorem enableQosTrace_ready (l : List (Nat × Nat)) : Ready (markedState l) 0 0xF1 enableQosTrace where
  live := ⟨rfl, rfl⟩
  cmd := rfl
  code := by decide +kernel
  phase := rfl
  start := rfl
  checks := (precheck_congr (d := (markedState []).dev) (d' := (markedState l).dev) rfl rfl rfl).trans
    enableQosTrace_checks
  label := checkQos_background (by decide +kernel)

theorem enableQosTrace_ends (l : List (Nat × Nat)) : Ends (.traceCtl 0) 0 (markedState l) (Cpl.ok
    (leBytes 8 (enabledQosTrace l).integ.trace.sent ++ leBytes 8 (enabledQosTrace l).integ.trace.dropped))
      (enabledQosTrace l) :=
  ends_of_okRes rfl (enableQosTrace_ready l) (bodyTraceCtl_enables (enableQosTrace_ready l).label
    (by decide +kernel) rfl rfl rfl rfl (by decide +kernel) (by decide +kernel) (by decide +kernel))

/-- Results of 16 bytes that hold two numbers give the second. -/
theorem ok_results_second (a b : Nat) : (Cpl.ok (leBytes 8 a ++ leBytes 8 b)).results.toNat / 2 ^ 64 = b % 2 ^ 64 := by
  have hnum : leNat (leBytes 8 a ++ leBytes 8 b) = a % 2 ^ 64 + 2 ^ 64 * (b % 2 ^ 64) := by
    rw [leNat_append, leNat_leBytes, leNat_leBytes, Tests.leBytes_length]
    norm_num
  simp only [Cpl.ok, BitVec.toNat_ofNat, hnum]
  omega

/-- Refutes O29: its ENABLE clause has the results report no record dropped, but ENABLE recomputes the guarantees after
the trace has begun, and here that drops a record. -/
theorem not_careCommands : ¬ Obligations.CareCommands := by
  unfold Obligations.CareCommands
  intro h
  obtain ⟨l, hlen⟩ : ∃ l : List (Nat × Nat), l.length = 4097 := ⟨List.replicate 4097 (0, 0), List.length_replicate⟩
  have hready := enableQosTrace_ready l
  obtain ⟨-, -, -, -, ⟨-, -, henable⟩, -⟩ := h (markedState l) 0 enableQosTrace
  obtain ⟨d', hends, -, -, -, -, -, -, -, -, -, hkeeps⟩ := henable (by decide +kernel) rfl rfl rfl
    (.inl (by decide +kernel)) (by decide +kernel) (.inl (by decide +kernel)) hready
  have hcmds : d'.q.cmds = (markedState l).dev.q.cmds := (hkeeps .cmds (by decide)).1
  have hqps : d'.q.qps = (markedState l).dev.q.qps := hkeeps .qps (by decide)
  have hcomp : d'.comp = (markedState l).dev.comp := hkeeps .comp (by decide)
  obtain ⟨hq, hc⟩ : (enabledQosTrace l).q = (markedState l).dev.q ∧
      (enabledQosTrace l).comp = (markedState l).dev.comp :=
    exporting_keeps ..
  have hres := ends_results_eq (c := enableQosTrace) (by rw [Dev.cmd?, hq]; rfl) rfl (by rw [hq]; rfl) (by rw [hc]; rfl)
    (by rw [hq, hcmds]) (by rw [hq, hqps]) (by rw [hc, hcomp]) (enableQosTrace_ends l) hends
  have hdropped := congrArg (fun r : BitVec 128 => r.toNat / 2 ^ 64) hres
  simp only [ok_results_second] at hdropped
  obtain ⟨-, -, -, hfits, hall⟩ := enabledQosTrace_recording l
  omega

end Sys2Proof.Machine
end

section
/-! SUPPORT. Firmware, preset images, the owner and tenants' keys: what each form of their commands answers (R417
to R420, R503 to R508, R511 to R515). -/

namespace Sys2Proof.Machine

@[simp] theorem useSecurity_mgmt (d : Dev) : d.useSecurity.mgmt = d.mgmt := by
  unfold Dev.useSecurity
  split <;> rfl

theorem stageOf_owner {g : Staging} {who : Stager} {d : Dev} (hg : d.mgmt.staging = some g) (ho : g.owner = who) :
    stageOf who d = .ok g := by
  simp only [stageOf, hg, if_pos ho]

section
variable {x : Ctx} {d : Dev} (hq : checkQos x d = .ok ())
include hq

/-! ## `FW_STAGE` (R506) -/

theorem bodyFwStage_begins (hsel : x.e.b20 = 0) (hnone : d.mgmt.staging = none) (hmax : x.e.w64 0x28 ≤ 16777216)
    (hblocks : x.e.w64 0x28 % 4096 = 0) : bodyFwStage x [] none d = okRes []
      ((setStaging (some { owner := x.stager, len := x.e.w64 0x28, blocks := [], last := d.now }) d).updMgmt fun m =>
        { m with romErased := m.romErased || m.romRec }) := by
  have hfree : d.mgmt.staging.isNone = true := by simp [hnone]
  have hlen : (decide (x.e.w64 0x28 ≤ 16777216) && x.e.w64 0x28 % 4096 == 0) = true := by simp [hmax, hblocks]
  have hone : x.e.b20 ≠ 1 := by omega
  refine (withData_none ?_).trans ?_
  · simp only [bind, Except.bind, hq, if_neg hone]
  · simp only [if_pos hsel, stageBegin, bind, Except.bind, need_of hfree, need_of hlen]

section
variable {g : Staging} (hg : d.mgmt.staging = some g) (ho : g.owner = x.stager)
include hg ho

section
variable (hsel : x.e.b20 = 1) (hok : chunkBad g (x.e.w64 0x28) (x.e.w32 0x30) = none)
include hsel hok

omit hq hg ho hsel in
/-- A chunk that may be staged is not empty. -/
theorem chunk_some : x.e.w32 0x30 ≠ 0 := by
  intro h0
  unfold chunkBad at hok
  split at hok
  · cases hok
  · simp [h0] at hok

theorem bodyFwStage_reads : bodyFwStage x [] none d = .ok (.read 0 (x.e.w32 0x30) d) := by
  refine withData_reads ?_ (chunk_some hok)
  simp only [bind, Except.bind, hq, if_pos hsel, stageOf_owner hg ho, hok]

theorem bodyFwStage_stages (b : Bytes) :
    bodyFwStage x [b] none d = okRes [] (stageData g (x.e.w64 0x28) b d) := by
  have hdata : x.e.b20 ≠ 0 := by omega
  refine (withData_got (n := x.e.w32 0x30) ?_ b []).trans ?_
  · simp only [bind, Except.bind, hq, if_pos hsel, stageOf_owner hg ho, hok]
  · simp only [if_neg hdata, bind, Except.bind, stageOf_owner hg ho, if_pos hsel]

end

theorem bodyFwStage_ends (hsel : x.e.b20 = 2) : bodyFwStage x [] none d = okRes [] (setStaging none d) := by
  have hbegin : x.e.b20 ≠ 0 := by omega
  have hone : x.e.b20 ≠ 1 := by omega
  refine (withData_none ?_).trans ?_
  · simp only [bind, Except.bind, hq, if_neg hone]
  · simp only [if_neg hbegin, bind, Except.bind, stageOf_owner hg ho, if_neg hone]

/-! ## `FW_COMMIT` (R504, R505, R507, R508) -/

section
variable (hfull : g.full = true) (hok : imageOk g.image = true) (hsvn : d.mgmt.flash.minSvn.2 ≤ imageSvn g.image)
  (hop : d.mgmt.flashOp = none)
include hfull hok hsvn hop

omit hq in
theorem commitChecks_pass : commitChecks x.stager d.useSecurity = .ok g.image := by
  have hmine : stageOf x.stager d.useSecurity = .ok g := stageOf_owner (by rw [useSecurity_mgmt, hg]) ho
  have hnew : ¬imageSvn g.image < d.mgmt.flash.minSvn.2 := Nat.not_lt.mpr hsvn
  simp only [commitChecks, hmine, bind, Except.bind, hfull, hok, useSecurity_mgmt, if_neg hnew, hop]
  rfl

/-- Outside ROM recovery the slot is erased and its programming begins. -/
theorem bodyFwCommit_programs (hrom : d.mgmt.romRec = false) : bodyFwCommit x [] none d =
    .ok (.wait (d.useSecurity.updMgmt fun m => { m with
      flashOp := some (.image (.cmd x.num) g.image), flash := { m.flash with image := [] } })) := by
  simp only [bodyFwCommit, plain, bind, Except.bind, hq, commitChecks_pass hg ho hfull hok hsvn hop, useSecurity_mgmt,
    hrom]
  rfl

/-- In ROM recovery the slot already holds what was staged. -/
theorem bodyFwCommit_recovers (hrom : d.mgmt.romRec = true) : bodyFwCommit x [] none d =
    okRes (commitRes g.image) ((setStaging none d.useSecurity).updMgmt fun m =>
      { m with flash := m.flash.committed g.image }) := by
  simp only [bodyFwCommit, plain, bind, Except.bind, hq, commitChecks_pass hg ho hfull hok hsvn hop, useSecurity_mgmt,
    hrom, if_true]

end

end

/-! ## `PRESET_READ`, `PRESET_WRITE` (R511 to R514) -/

/-- The image that a `PRESET_READ` reads: the one in force, or the newest valid copy. -/
def presetNamed (e : Entry) (d : Dev) : Bytes :=
  if e.b20 = 0 then d.mgmt.preset else d.mgmt.flash.newestPreset.getD []

theorem bodyPresetRead_lists : bodyPresetRead x [] none d =
    let img := presetNamed x.e d
    okData x (leBytes 4 img.length ++ zeros 4 ++ leBytes 8 (if img.isEmpty then 0 else presetSeq img)) img d := by
  simp only [bodyPresetRead, plain, bind, Except.bind, hq]
  rfl

section
variable {key : Bytes} (hkey : d.mgmt.flash.owner.key = some key) (hmin : 1 ≤ x.e.w32 0x28)
  (hmax : x.e.w32 0x28 ≤ 262144)
include hkey hmin hmax

theorem bodyPresetWrite_reads : bodyPresetWrite x [] none d = .ok (.read 0 (x.e.w32 0x28) d) := by
  have hown : d.mgmt.flash.owner.key.isSome = true := by simp [hkey]
  have hlen : inRange 1 262144 (x.e.w32 0x28) = true := decide_eq_true ⟨hmin, hmax⟩
  refine withData_reads ?_ (by omega)
  simp only [bind, Except.bind, hq, need_of hown, need_of hlen]

/-- A sound image, newer than the copies and signed by the owner, is written. -/
theorem bodyPresetWrite_programs {b : Bytes} (hform : (presetEntries b).isSome = true)
    (hnew : d.mgmt.flash.newestPreset = none ∨ (d.mgmt.flash.newestPreset.map presetSeq).getD 0 < presetSeq b)
    (hsig : presetSigned key b = true) (hop : d.mgmt.flashOp = none) : bodyPresetWrite x [b] none d =
      .ok (.wait (d.useSecurity.updMgmt fun m => { m with flashOp := some (.preset x.num b) })) := by
  have hown : d.mgmt.flash.owner.key.isSome = true := by simp [hkey]
  have hlen : inRange 1 262144 (x.e.w32 0x28) = true := decide_eq_true ⟨hmin, hmax⟩
  have hseq : (d.mgmt.flash.newestPreset.isNone ||
      decide (presetSeq b > (d.mgmt.flash.newestPreset.map presetSeq).getD 0)) = true := by simpa using hnew
  have hsigned : presetSigned (d.mgmt.flash.owner.key.getD []) b = true := by simpa [hkey] using hsig
  have hidle : d.mgmt.flashOp.isNone = true := by simp [hop]
  refine (withData_got (n := x.e.w32 0x28) ?_ b []).trans ?_
  · simp only [bind, Except.bind, hq, need_of hown, need_of hlen]
  · simp only [bind, Except.bind, need_of hform, need_of hseq, need_of hsigned, need_of hidle]

end

/-! ## `OWNER_ENROL` (R515) -/

section
variable (hsel : x.e.b20 = 0) (hfree : d.mgmt.flash.owner.key = none)
include hsel hfree

/-- A first enrolment reads a key. -/
theorem bodyOwnerEnrol_readsKey : bodyOwnerEnrol x [] none d = .ok (.read 0 57 d) := by
  refine withData_reads ?_ (by decide)
  simp only [bind, Except.bind, hq, hsel, hfree]
  rfl

theorem bodyOwnerEnrol_enrols (b : Bytes) (hop : d.mgmt.flashOp = none) : bodyOwnerEnrol x [b] none d =
    .ok (.wait (d.useSecurity.updMgmt fun m => { m with
      flashOp := some (.owner x.num (some (b.take 57)) false) })) := by
  have hidle : d.mgmt.flashOp.isNone = true := by simp [hop]
  refine (withData_got (n := 57) ?_ b []).trans ?_
  · simp only [bind, Except.bind, hq, hsel, hfree]
    rfl
  · simp only [hsel, bind, Except.bind, need_of hidle]
    rfl

end

section
variable {key : Bytes} (hsel : x.e.b20 = 2) (hkey : d.mgmt.flash.owner.key = some key)
include hsel hkey

/-- A removal reads the old key's signature. -/
theorem bodyOwnerEnrol_readsSignature : bodyOwnerEnrol x [] none d = .ok (.read 0 114 d) := by
  refine withData_reads ?_ (by decide)
  simp only [bind, Except.bind, hq, hsel, hkey]
  rfl

theorem bodyOwnerEnrol_removes {b : Bytes}
    (hsig : Config.ed448Verify key (ownerMessage d.mgmt.flash.owner.seq (zeros 57)) b = true)
    (hop : d.mgmt.flashOp = none) : bodyOwnerEnrol x [b] none d =
    .ok (.wait (d.useSecurity.updMgmt fun m => { m with flashOp := some (.owner x.num none true) })) := by
  have hidle : d.mgmt.flashOp.isNone = true := by simp [hop]
  have hsigned : (x.e.b20 == 0 || Config.ed448Verify (d.mgmt.flash.owner.key.getD [])
      (ownerMessage d.mgmt.flash.owner.seq (zeros 57)) b) = true := by simp [hkey, hsig]
  have hne : x.e.b20 ≠ 1 := by omega
  have hpad : (x.e.b20 != 1 || ((b.drop 57).take 7).all (· == 0)) = true := by simp [hne]
  have herase : (x.e.b20 == 2) = true := by simp [hsel]
  refine (withData_got (n := 114) ?_ b []).trans ?_
  · simp only [bind, Except.bind, hq, hsel, hkey]
    rfl
  · simp only [bind, Except.bind, if_pos hsel, if_neg hne, need_of hpad, need_of hsigned, need_of hidle, herase]

end

/-! ## `KEY_SET` (R418 to R420) -/

/-- A key is read where the tenant's slot is free, or waits for its key. -/
theorem bodyKeySet_reads (hsel : x.e.b20 = 0)
    (hslot : d.integ.keys.get? x.t = none ∧ d.charge x.t 1 = 0 ∧ d.charge x.t 2 = 0 ∨
      ∃ k, d.integ.keys.get? x.t = some k ∧ k.key = none) : bodyKeySet x [] none d = .ok (.read 0 64 d) := by
  refine withData_reads ?_ (by decide)
  rcases hslot with ⟨hnone, hnear, hfar⟩ | ⟨k, hk, hempty⟩
  · have hbare : (d.charge x.t 1 == 0 && d.charge x.t 2 == 0) = true := by simp [hnear, hfar]
    simp only [bind, Except.bind, hq, if_pos hsel, hnone, need_of hbare]
  · have hwaits : k.key.isNone = true := by simp [hempty]
    simp only [bind, Except.bind, hq, if_pos hsel, hk, need_of hwaits]

theorem bodyKeySet_unloads {k : KeySlot} (hsel : x.e.b20 = 1) (hk : d.integ.keys.get? x.t = some k) :
    bodyKeySet x [] none d =
      okRes [] (d.updInteg fun i => { i with keys := Map.set x.t { k with key := none } i.keys }) := by
  have hne : x.e.b20 ≠ 0 := by omega
  refine (withData_none ?_).trans ?_
  · simp only [bind, Except.bind, hq, if_neg hne]
  · simp only [if_neg hne, if_pos hsel, hk]

theorem bodyKeySet_frees (hsel : x.e.b20 = 2) (hfree : d.holdsObject x.t = false) :
    bodyKeySet x [] none d = okRes [] (d.updInteg fun i => { i with keys := Map.del x.t i.keys }) := by
  have hne : x.e.b20 ≠ 0 := by omega
  have hne1 : x.e.b20 ≠ 1 := by omega
  refine (withData_none ?_).trans ?_
  · simp only [bind, Except.bind, hq, if_neg hne]
  · simp only [if_neg hne, if_neg hne1, bind, Except.bind, need_not_of hfree]

end

/-- A ready inline command whose body reads one piece from its start and then waits. -/
theorem waits_of_piece {i : Instr} {s : State} {n op len : Nat} {c : Cmd} {body : Body} {d : Dev}
    (hx : exec i s = onDev (startCmd op body n) s) (h : Ready s n op c) (hi : c.inl)
    (hread : body ⟨n, c⟩ [] none s.dev = .ok (.read 0 len s.dev)) (hlen : len ≤ c.input.length)
    (hb : body ⟨n, c⟩ [c.input.take len] none s.dev = .ok (.wait d)) : Waits i n s d :=
  waits_of_inline hx h hi hread ((Nat.zero_add _).trans_le hlen) hb

/-- Settles O30: each form of each command is its case of the body. -/
theorem trustCommands : Obligations.TrustCommands := by
  unfold Obligations.TrustCommands
  intro s n c
  refine ⟨?start, ?staging, ?presetRead, ?presetWrite, ?enrol, ?remove, ?keyRead, ?keyUnload, ?keyFree⟩
  case start =>
    intro begun hsel hnone hmax hblocks h
    exact ends_of_okRes rfl h (bodyFwStage_begins h.label hsel hnone hmax hblocks)
  case staging =>
    intro g hg ho
    refine ⟨fun hsel hok h => ?_, fun hsel h => ends_of_okRes rfl h (bodyFwStage_ends h.label hg ho hsel), ?_⟩
    · have hread := bodyFwStage_reads h.label hg ho hsel hok
      exact ⟨reads_of_body rfl h hread, fun hi hlen => ends_of_inlineRes rfl h hi hread hlen
        (bodyFwStage_stages h.label hg ho hsel hok _)⟩
    · intro b d1 hfull hok hsvn hop h
      exact ⟨fun hrom => waits_of_body rfl h (bodyFwCommit_programs h.label hg ho hfull hok hsvn hop hrom),
        fun hrom => ends_of_okRes rfl h (bodyFwCommit_recovers h.label hg ho hfull hok hsvn hop hrom)⟩
  case presetRead => exact fun hf h => ends_of_okData rfl h hf (bodyPresetRead_lists h.label)
  case presetWrite =>
    intro key len b hkey hmin hmax h
    have hread := bodyPresetWrite_reads h.label hkey hmin hmax
    exact ⟨reads_of_body rfl h hread, fun hi hlen hform hnew hsig hop => waits_of_piece rfl h hi hread hlen
      (bodyPresetWrite_programs h.label hkey hmin hmax hform hnew hsig hop)⟩
  case enrol =>
    intro b hsel hfree h
    have hread := bodyOwnerEnrol_readsKey h.label hsel hfree
    refine ⟨reads_of_body rfl h hread, fun hi hlen hop => waits_of_piece rfl h hi hread hlen ?_⟩
    rw [bodyOwnerEnrol_enrols h.label hsel hfree _ hop, List.take_take, Nat.min_self]
  case remove =>
    intro key o b hkey hsel h
    have hread := bodyOwnerEnrol_readsSignature h.label hsel hkey
    exact ⟨reads_of_body rfl h hread, fun hi hlen hsig hop => waits_of_piece rfl h hi hread hlen
      (bodyOwnerEnrol_removes h.label hsel hkey hsig hop)⟩
  case keyRead => exact fun hsel hslot h => reads_of_body rfl h (bodyKeySet_reads h.label hsel hslot)
  case keyUnload => exact fun k hsel hk h => ends_of_okRes rfl h (bodyKeySet_unloads h.label hsel hk)
  case keyFree => exact fun hsel hfree h => ends_of_okRes rfl h (bodyKeySet_frees h.label hsel hfree)

end Sys2Proof.Machine
end

section
/-! SUPPORT. Coherent accesses of hosts and the answers to snoops where the directory waits for nothing, case by case
(R474, R478, R482, R483, R486). -/

namespace Sys2Proof.Machine

/-! ## A directory that waits for nothing -/

theorem pumpN_idle {d : Dev} (h : d.cxl.reqs = []) (n : Nat) : pumpN n d = d := by
  cases n with
  | zero => rfl
  | succ n =>
    rw [pumpN, h]
    rfl

theorem pumpCxl_idle {d : Dev} (h : d.cxl.reqs = []) : pumpCxl d = d := pumpN_idle h _

/-- A request for one line. -/
def lineReq (h n : Nat) (w : CxlWork) : CxlReq := { ext := h, first := n, count := 1, work := w, recalls := none }

section
variable {h n : Nat} {w : CxlWork} {d : Dev}

/-- In a canonical directory the entries of one line are what its key reads. -/
theorem entriesIn_line (hwf : d.cxl.dir.wf = true) {p : Nat × DirEnt} (hp : p ∈ d.entriesIn h n 1) :
    d.cxl.dir.get? (lineKey h n) = some p.2 := by
  obtain ⟨hmem, hrange⟩ := List.mem_filter.mp hp
  obtain ⟨hlo, hhi⟩ := of_decide_eq_true hrange
  have hkey : p.1 = lineKey h n := by
    unfold lineKey at hlo hhi ⊢
    omega
  exact Map.get?_of_mem hwf (hkey ▸ hmem)

/-- A request for a line that no snoop holds back and that needs none acts. -/
theorem stepReq_acts {r : CxlReq} {i : Nat} (hfree : ∀ p ∈ d.entriesIn r.ext r.first r.count,
      p.2.snoops = [] ∧ (r.work.needs p.2.line).1 = [])
    (hrecall : r.recalls = none) (hrev : r.work.revokes = false) (hroom : d.needsRoom r = false) :
    stepReq i r d = some (actReq r (d.updCxl fun c => { c with reqs := c.reqs.eraseIdx i })) := by
  have hsnoops : ((d.entriesIn r.ext r.first r.count).any fun p => !p.2.snoops.isEmpty) = false := by
    rw [List.any_eq_false]
    intro p hp
    simp [(hfree p hp).1]
  have hwant : ((d.entriesIn r.ext r.first r.count).filter fun p => !(r.work.needs p.2.line).1.isEmpty) = [] := by
    rw [List.filter_eq_nil_iff]
    intro p hp
    simp [(hfree p hp).2]
  simp only [stepReq, hrecall, Option.bind_none, hsnoops, hrev, hwant, hroom, Bool.false_and, Bool.or_false,
    Bool.false_eq_true, if_false, List.isEmpty_nil, Bool.not_true]

/-- A request for one line, nothing holding it back, acts at once. -/
theorem askDir_acts (hidle : d.cxl.reqs = []) (hwf : d.cxl.dir.wf = true)
    (hfree : ∀ x, d.cxl.dir.get? (lineKey h n) = some x → x.snoops = [] ∧ (w.needs x.line).1 = [])
    (hrev : w.revokes = false) (hroom : d.needsRoom (lineReq h n w) = false)
    (hdone : (actReq (lineReq h n w) d).cxl.reqs = []) : askDir h n 1 w d = actReq (lineReq h n w) d := by
  let asked : Dev := d.updCxl fun c => { c with reqs := [lineReq h n w] }
  have hasked : askDir h n 1 w d = pumpN 6 asked := by
    simp only [askDir, pumpCxl, Dev.updCxl, hidle, List.nil_append, List.length_singleton]
    rfl
  have hhere (p : Nat × DirEnt) (hp : p ∈ asked.entriesIn h n 1) : p.2.snoops = [] ∧ (w.needs p.2.line).1 = [] :=
    hfree p.2 (entriesIn_line (d := asked) hwf hp)
  have hback : (asked.updCxl fun c => { c with reqs := c.reqs.eraseIdx 0 }) = d := by
    simp only [asked, Dev.updCxl, List.eraseIdx_cons_zero, ← hidle]
  have hstep : stepReq 0 (lineReq h n w) asked = some (actReq (lineReq h n w) d) := by
    exact (stepReq_acts (r := lineReq h n w) hhere rfl hrev hroom).trans (congrArg (fun d => some (actReq _ d)) hback)
  have hfirst : firstStep asked 0 [] asked.cxl.reqs = some (actReq (lineReq h n w) d) := by
    simp only [asked, Dev.updCxl] at hstep
    simp only [asked, Dev.updCxl, firstStep, List.any_nil, Bool.false_eq_true, if_false, hstep]
  rw [hasked, pumpN, hfirst]
  exact pumpN_idle hdone 5

end

/-! ## What an access uses of the near tier -/

/-- An access of a host to a line of an extent, accounted to the extent's label; `write` is 1 for a write. -/
def hostUse (h : Nat) (e : Extent) (n write : Nat) (d : Dev) : Dev :=
  grantBytes (d.label e.qos) 1 (2 * e.half + write) 64 (extentAccess h e n (write == 1) d)

theorem hostUse_touched (h : Nat) (e : Extent) (n write : Nat) (d : Dev) : Touched d (hostUse h e n write d) := by
  obtain ⟨c, q, hc⟩ := grantBytes_frame (d.label e.qos) 1 (2 * e.half + write) 64 (extentAccess h e n (write == 1) d)
  exact (nearAccess_touched ..).trans ⟨c, q, _, _, _, hc⟩

theorem hostUse_cxl (h : Nat) (e : Extent) (n write : Nat) (d : Dev) : (hostUse h e n write d).cxl = d.cxl := by
  obtain ⟨-, -, -, -, -, -, -, hcxl, -⟩ := (hostUse_touched h e n write d).keeps
  exact hcxl

theorem hostUse_keyless (h : Nat) (e : Extent) (n write : Nat) (d : Dev) (t : Nat) :
    (hostUse h e n write d).keyless t = d.keyless t := by
  obtain ⟨c, q, m, l, t', hd⟩ := hostUse_touched h e n write d
  rw [hd]
  rfl

/-! ## Reads, writes and write-backs -/

/-- A line written leaves the directory and what waits for it alone. -/
theorem writeLine_directory (h n : Nat) (b : Bytes) (mask : Nat) (poison : Bool) (d : Dev) :
    (writeLine h n b mask poison d).cxl.dir = d.cxl.dir ∧ (writeLine h n b mask poison d).cxl.reqs = d.cxl.reqs := by
  have hfree (d : Dev) : (freeLine d).2.cxl = d.cxl :=
    foldl_keeps (P := fun p : Bytes × Dev => p.2.cxl = d.cxl) (fun _ _ hp => hp) (List.range 8) (b := ([], d)) rfl
  have hrec (e : Extent) : (ueExtent h e 0xFF d).cxl = d.cxl := (raise_finish ..).cxl
  unfold writeLine
  split
  · exact ⟨rfl, rfl⟩
  · dsimp only
    split <;> split <;> simp only [Dev.updExt, Dev.updCxl, hfree, hrec, and_self]

section
variable {port off h n : Nat} {e : Extent} {d : Dev}

theorem updDir_free {k : Nat} (hk : d.cxl.dir.get? k = none) (f : DirEnt → DirEnt) : updDir k f d = d := by
  simp only [updDir, hk]

/-- An entry left without a holder or a snoop is freed. -/
theorem updDir_frees {k : Nat} {x : DirEnt} {f : DirEnt → DirEnt} (hk : d.cxl.dir.get? k = some x)
    (hh : (f x).line.holders = []) (hs : (f x).snoops = []) :
    updDir k f d = d.updCxl fun c => { c with dir := Map.del k c.dir } := by
  simp only [updDir, hk, hh, hs, List.isEmpty_nil, Bool.and_self, if_true]

/-- Only what an entry becomes matters. -/
theorem updDir_congr {k : Nat} {x : DirEnt} {f g : DirEnt → DirEnt} (hk : d.cxl.dir.get? k = some x)
    (hfg : f x = g x) : updDir k f d = updDir k g d := by
  simp only [updDir, hk, hfg]

theorem updDir_reqs (k : Nat) (f : DirEnt → DirEnt) : (updDir k f d).cxl.reqs = d.cxl.reqs := by
  unfold updDir
  split <;> rfl

/-- A read of a line that nobody holds makes the host its holder. -/
theorem actRead_unheld (he : d.ext? h = some e) (hk : d.cxl.dir.get? (lineKey h n) = none)
    (hp : e.poison.contains n = false) (hkey : d.keyless e.tenant = false) {kind : CxlRead} {line : Line}
    (hkind : kind ≠ .current) (hline : lineRead port kind none = line) :
    actRead h n port off kind d = emit (.cxlData port off (e.line n) false line.isOwned) (d.updCxl fun c => { c with
      stamp := c.stamp + 1
      dir := Map.set (lineKey h n)
        { line := line, stamp := c.stamp, snoops := [], inv := false, since := 0 } c.dir }) := by
  simp only [actRead, he, hk, Option.map_none, Option.getD_none, Option.isNone_none, if_true, hline, hp,
    Bool.false_eq_true, if_false, if_neg hkind]
  exact if_neg (ne_true_of_eq_false hkey)

/-- A write to a line that nobody holds goes to memory. -/
theorem actWrite_unheld (hk : d.cxl.dir.get? (lineKey h n) = none) (b : Bytes) (mask : Nat) (poison keep : Bool) :
    actWrite h n port off b mask poison keep d = emit (.cxlDone port off) (writeLine h n b mask poison d) := by
  obtain ⟨hdir, -⟩ := writeLine_directory h n b mask poison d
  have hk' : (writeLine h n b mask poison d).cxl.dir.get? (lineKey h n) = none := by rw [hdir, hk]
  simp only [actWrite, updDir_free hk']

section
variable {x : DirEnt} (hk : d.cxl.dir.get? (lineKey h n) = some x) (hl : x.line = .owned port)
include hk hl

/-- An owner's write-back keeps its line shared if it keeps a copy. -/
theorem actWrite_kept (b : Bytes) (mask : Nat) (poison : Bool) : actWrite h n port off b mask poison true d =
    emit (.cxlDone port off) (updDir (lineKey h n) (fun e => { e with line := .shared [port] })
      (writeLine h n b mask poison d)) := by
  simp only [actWrite, hk, hl, beq_self_eq_true, Bool.and_self, if_true]

/-- Else its entry is freed. -/
theorem actWrite_given (hs : x.snoops = []) (b : Bytes) (mask : Nat) (poison : Bool) :
    actWrite h n port off b mask poison false d = emit (.cxlDone port off) ((writeLine h n b mask poison d).updCxl
      fun c => { c with dir := Map.del (lineKey h n) c.dir }) := by
  obtain ⟨hdir, -⟩ := writeLine_directory h n b mask poison d
  have hk' : (writeLine h n b mask poison d).cxl.dir.get? (lineKey h n) = some x := by rw [hdir, hk]
  simp only [actWrite, hk, hl, beq_self_eq_true, Bool.and_false, Bool.false_eq_true, if_false]
  rw [updDir_frees hk' (by simp [hl, Line.without, Line.holders]) hs]

end

end

/-! ## What the port's logic asks of the directory -/

theorem keyHalf_line {h n : Nat} {e : Extent} {d : Dev} (he : d.ext? h = some e) (hn : n < 2 ^ 32) :
    d.keyHalf (lineKey h n) = e.half := by
  have hkey : lineKey h n / 2 ^ 32 = h := by
    unfold lineKey
    omega
  simp only [Dev.keyHalf, hkey, he, Option.map_some, Option.getD_some]

theorem needsRoom_congr {d d' : Dev} (hc : d'.cxl = d.cxl) (r : CxlReq) : d'.needsRoom r = d.needsRoom r := by
  simp only [Dev.needsRoom, Dev.sliceUsed, Dev.keyHalf, Dev.ext?, hc]
  rfl

/-- A line that is not in a slice with room finds an entry there. -/
theorem needsRoom_read {port off h n : Nat} {kind : CxlRead} {e : Extent} {d : Dev} (he : d.ext? h = some e)
    (hn : n < 2 ^ 32) (hroom : d.sliceUsed e.half < sliceEntries) :
    d.needsRoom (lineReq h n (.read port off kind)) = false := by
  have hfits : decide (d.sliceUsed e.half ≥ sliceEntries) = false := decide_eq_false (Nat.not_le.mpr hroom)
  simp only [Dev.needsRoom, lineReq, keyHalf_line he hn, hfits, Bool.and_false]

section
variable {port off0 h : Nat} {e : Extent} {d : Dev} (hidle : d.cxl.reqs = []) (hwf : d.cxl.dir.wf = true)
  (hext : d.hostExtent port (off0 / 64 * 64) = .ok (h, e)) (hwr : e.writable = true)
include hidle hwf hext hwr

/-- Line of the extent that a host's access names. -/
def hostLine (e : Extent) (off0 : Nat) : Nat := (off0 / 64 * 64 - e.offset) / 64

/-- A read of a line that nobody holds is answered and makes the host its holder. -/
theorem cxlRead_unheld (he : d.ext? h = some e) (hk : d.cxl.dir.get? (lineKey h (hostLine e off0)) = none)
    (hn : hostLine e off0 < 2 ^ 32) (hroom : d.sliceUsed e.half < sliceEntries)
    (hp : e.poison.contains (hostLine e off0) = false) (hkey : d.keyless e.tenant = false) {kind : CxlRead}
    {line : Line} (hkind : kind ≠ .current) (hline : lineRead port kind none = line) :
    cxlRead port off0 kind d = emit (.cxlData port (off0 / 64 * 64) (e.line (hostLine e off0)) false line.isOwned)
      ((hostUse h e (hostLine e off0) 0 d).updCxl fun c => { c with
        stamp := c.stamp + 1
        dir := Map.set (lineKey h (hostLine e off0))
          { line := line, stamp := c.stamp, snoops := [], inv := false, since := 0 } c.dir }) := by
  have hasks : cxlRead port off0 kind d =
      askDir h (hostLine e off0) 1 (.read port (off0 / 64 * 64) kind) (hostUse h e (hostLine e off0) 0 d) := by
    simp only [cxlRead, hext, hwr, Bool.not_true, Bool.false_eq_true, if_false]
    rfl
  have hcxl := hostUse_cxl h e (hostLine e off0) 0 d
  have hact := actRead_unheld (d := hostUse h e (hostLine e off0) 0 d) (port := port) (off := off0 / 64 * 64)
    (by rw [Dev.ext?, hcxl]; exact he) (by rw [hcxl]; exact hk) hp (by rw [hostUse_keyless]; exact hkey) hkind hline
  rw [hasks]
  refine (askDir_acts (by rw [hcxl]; exact hidle) (by rw [hcxl]; exact hwf) (fun x hx => ?_) rfl ?_ ?_).trans hact
  · rw [hcxl, hk] at hx
    cases hx
  · rw [needsRoom_congr hcxl]
    exact needsRoom_read he hn hroom
  · refine (congrArg (fun d : Dev => d.cxl.reqs) hact).trans ?_
    simp only [emit, Dev.updCxl, hcxl, hidle]

/-- A write to a line that no snoop holds back, and that nobody but the host holds, is applied at once. -/
theorem cxlWrite_acts {b : Bytes} {mask : BitVec 64} {poison keep : Bool}
    (hfree : ∀ x, d.cxl.dir.get? (lineKey h (hostLine e off0)) = some x → x.snoops = [] ∧ x.line = .owned port) :
    cxlWrite port off0 b mask poison keep d = actWrite h (hostLine e off0) port (off0 / 64 * 64) b mask.toNat poison
      keep (hostUse h e (hostLine e off0) 1 d) := by
  have hcxl := hostUse_cxl h e (hostLine e off0) 1 d
  have hquiet : (match (hostUse h e (hostLine e off0) 1 d).cxl.dir.get? (lineKey h (hostLine e off0)) with
      | some x => x.snoops.contains port && x.line == .owned port
      | none => false) = false := by
    rw [hcxl]
    split
    next x hx => simp [(hfree x hx).1]
    · rfl
  have hasks : cxlWrite port off0 b mask poison keep d =
      askDir h (hostLine e off0) 1 (.write port (off0 / 64 * 64) b mask poison keep)
        (hostUse h e (hostLine e off0) 1 d) := by
    unfold cxlWrite
    simp only [hext, hwr, Bool.not_true, Bool.false_eq_true, if_false]
    exact if_neg (ne_true_of_eq_false hquiet)
  rw [hasks]
  refine askDir_acts (by rw [hcxl]; exact hidle) (by rw [hcxl]; exact hwf) (fun x hx => ?_) rfl rfl ?_
  · obtain ⟨hs, hl⟩ := hfree x (by rw [← hx, hcxl])
    exact ⟨hs, by simp [CxlWork.needs, hl, Line.holders]⟩
  · refine (updDir_reqs ..).trans ?_
    rw [(writeLine_directory ..).2, hcxl, hidle]

end

/-! ## Entries that an offset of a window space names -/

section
variable {port off k : Nat} {x : DirEnt} {d : Dev} (hx : d.lineOf port off = some (k, x))
include hx

theorem lineOf_entry : d.cxl.dir.get? k = some x := by
  obtain ⟨p, -, hp⟩ := Option.bind_eq_some_iff.mp hx
  obtain ⟨y, hy, hpair⟩ := Option.map_eq_some_iff.mp hp
  obtain ⟨rfl, rfl⟩ := Prod.mk.inj hpair
  exact hy

/-- An unanswered snoop makes its host lost once the recall timeout is over. -/
theorem recallTimeout_due (hs : x.snoops.contains port = true) (hdue : x.since + d.feat 0x0A 0 32 ≤ d.now) :
    recallTimeout port off d = loseHost port 4 true (fun _ => true) d := by
  simp only [recallTimeout, hx, hs, decide_eq_true hdue, Bool.and_self, if_true]

section
variable (hidle : d.cxl.reqs = [])
include hidle

/-- An owner that evicts its line frees the entry. -/
theorem cxlEvict_owner (hl : x.line = .owned port) (hs : x.snoops = []) :
    cxlEvict port off d = d.updCxl fun c => { c with dir := Map.del k c.dir } := by
  simp only [cxlEvict, hx]
  rw [updDir_frees (lineOf_entry hx) (by simp [hl, Line.without, Line.holders]) hs]
  exact pumpCxl_idle hidle

section
variable (hs : x.snoops.contains port = true)
include hs

/-- An answer takes the host out of those awaited; its line becomes what the answer says. -/
theorem snoopAnswer_takes {resp : SnoopResp} {f : DirEnt → DirEnt} (hf : f x = { x with
      line := if !x.inv && resp == .shared && x.line.holders.contains port then .shared [port] else x.line.without port
      snoops := x.snoops.filter (· != port) }) :
    snoopAnswer port off resp d = updDir k f d := by
  simp only [snoopAnswer, hx, hs, Bool.not_true, Bool.false_eq_true, if_false]
  rw [pumpCxl_idle (by rw [updDir_reqs, hidle])]
  exact updDir_congr (lineOf_entry hx) hf.symm

theorem snoopAnswer_invalid : snoopAnswer port off .invalid d = updDir k (fun e => { e with
    line := e.line.without port, snoops := e.snoops.filter (· != port) }) d :=
  snoopAnswer_takes hx hidle hs (by simp)

theorem snoopAnswer_shared (hinv : x.inv = false) (hh : x.line.holders.contains port = true) :
    snoopAnswer port off .shared d = updDir k (fun e => { e with
      line := .shared [port], snoops := e.snoops.filter (· != port) }) d :=
  snoopAnswer_takes hx hidle hs (by simp only [hinv, hh, Bool.not_false, beq_self_eq_true, Bool.and_self, if_true])

end

end

end

theorem cxlRead_refused {port off0 c : Nat} {d : Dev} (h : d.hostExtent port (off0 / 64 * 64) = .error c)
    (kind : CxlRead) : cxlRead port off0 kind d = refuseHost port (off0 / 64 * 64) c true d := by
  simp only [cxlRead, h]

/-- Settles O36: each access and each answer is its case. -/
theorem hostAccesses : Obligations.HostAccesses := by
  unfold Obligations.HostAccesses
  intro s port hpa off0 h e hlive hidle hwf hoff d off n k used
  refine ⟨fun hdec hext he hwr => ⟨?read, ?write, ?back⟩, ?refused, fun x hx => ⟨?evict, fun hs => ⟨?invalid, ?shared,
    ?lost⟩⟩⟩
  case read =>
    intro hk hn hroom hp hkey p hp2 held
    obtain ⟨hkind, hline⟩ : p.1 ≠ .current ∧ lineRead port p.1 none = p.2 := by
      simp only [List.mem_cons, List.not_mem_nil, or_false] at hp2
      rcases hp2 with rfl | rfl
      · exact ⟨nofun, rfl⟩
      · exact ⟨nofun, rfl⟩
    refine does_of_onDev rfl hlive ?_
    simp only [hdec]
    exact cxlRead_unheld hidle hwf hext hwr he hk hn hroom hp hkey hkind hline
  case write =>
    intro hk data mask poison
    refine does_of_onDev rfl hlive ?_
    simp only [hdec]
    refine (cxlWrite_acts hidle hwf hext hwr fun x hx => ?_).trans (actWrite_unheld ?_ ..)
    · cases hk.symm.trans hx
    · rw [hostUse_cxl]
      exact hk
  case back =>
    intro x data poison hk hl hs
    have hact (keep : Bool) := cxlWrite_acts (b := data) (mask := BitVec.allOnes 64) (poison := poison) (keep := keep)
      hidle hwf hext hwr fun y hy => by
        obtain rfl : x = y := Option.some.inj (hk.symm.trans hy)
        exact ⟨hs, hl⟩
    have hk' : (hostUse h e n 1 d).cxl.dir.get? k = some x := by
      rw [hostUse_cxl]
      exact hk
    constructor
    · refine does_of_onDev rfl hlive ?_
      simp only [hdec]
      exact (hact true).trans (actWrite_kept hk' hl ..)
    · refine does_of_onDev rfl hlive ?_
      simp only [hdec]
      exact (hact false).trans (actWrite_given hk' hl hs ..)
  case refused =>
    intro hdec c hext kind
    refine does_of_onDev rfl hlive ?_
    simp only [hdec]
    exact cxlRead_refused hext kind
  case evict =>
    intro hdec hl hs
    refine does_of_onDev rfl hlive ?_
    simp only [hdec]
    exact cxlEvict_owner hx hidle hl hs
  case invalid =>
    refine does_of_onDev rfl hlive ?_
    simp only [hoff]
    exact snoopAnswer_invalid hx hidle hs
  case shared =>
    intro hinv hh
    refine does_of_onDev rfl hlive ?_
    simp only [hoff]
    exact snoopAnswer_shared hx hidle hs hinv hh
  case lost =>
    intro hdue
    refine does_of_onDev rfl hlive ?_
    simp only [hoff]
    exact recallTimeout_due hx hs hdue

end Sys2Proof.Machine
end

section
/-! SUPPORT. Commands of the management path, firmware updates over PLDM, SPDM sessions, the end of a flash operation,
restarts and the entry to service mode, case by case (R490 to R494, R503 to R507, R521). -/

namespace Sys2Proof.Map

variable {α : Type}

/-- An entry put into a map is the first that passes a test where no other passes it. -/
theorem find?_set {f : Nat × α → Bool} {i : Nat} {v : α} (hnew : f (i, v) = true) {m : Map α}
    (hold : m.find? f = none) : (set i v m).find? f = some (i, v) := by
  induction m with
  | nil => exact List.find?_cons_of_pos hnew
  | cons p m ih =>
    have hnone := List.find?_eq_none.mp hold
    have hm : m.find? f = none := List.find?_eq_none.mpr fun q hq => hnone q (List.mem_cons_of_mem _ hq)
    rw [set]
    split
    · exact List.find?_cons_of_pos hnew
    · split
      · exact List.find?_cons_of_pos hnew
      · exact (List.find?_cons_of_neg (hnone p (List.mem_cons_self ..))).trans (ih hm)

theorem length_set_pos (i : Nat) (v : α) (m : Map α) : 0 < (set i v m).length := by
  cases m with
  | nil => exact Nat.one_pos
  | cons p m =>
    rw [set]
    split
    · exact Nat.succ_pos _
    · split <;> exact Nat.succ_pos _

end Sys2Proof.Map

namespace Sys2Proof.Machine

/-! ## The path (R493, R494) -/

section
variable {b : Nat} {d : Dev}

/-- The device with the time of the last management message. -/
def mgmtHeard (d : Dev) : Dev := d.updMgmt fun m => { m with mgmtTick := d.now }

/-- Outside retention nothing needs waking. -/
theorem mgmtTake_awake (hret : d.pwr.retention = false) : mgmtTake d = mgmtHeard d := by
  have hwake : mgmtWake d = d := if_neg (by simp [hret])
  rw [mgmtTake, hwake]
  rfl

/-- A message for a binding of a command that is heard. -/
theorem heard_binding (hb : b ≤ 4) (hh : d.mgmtHears b = true) :
    (decide (b > i3cBinding) || !d.mgmtHears b) = false := by
  have hle : ¬b > i3cBinding := Nat.not_lt.mpr hb
  simp [hh, hle]

/-- Nothing more of a binding runs where none of it is left to start. -/
theorem pumpMgmt_rests (h : ∀ p, d.mgmtFront b = some p → p.2.phase ≠ .taken) (k : Nat) : pumpMgmt b k d = d := by
  cases k with
  | zero => rfl
  | succ k =>
    rw [pumpMgmt]
    split
    next n c hfront => exact if_neg (h (n, c) hfront)
    · rfl

/-- A command that finds no earlier one of its binding is in front. -/
theorem mgmtFront_addInline {c : Cmd} (ho : c.origin = .mgmt b) (hnone : d.mgmtFront b = none) :
    (addInline c d).mgmtFront b = some (d.q.nextCmd, c) :=
  Map.find?_set (by simp [ho]) hnone

/-- It starts at once, and nothing of its binding follows where nothing of it is left to start. -/
theorem pumpMgmt_alone {c : Cmd} (ho : c.origin = .mgmt b) (hp : c.phase = .taken) (hnone : d.mgmtFront b = none)
    (hrest : ∀ p, (startMgmt d.q.nextCmd c (addInline c d)).mgmtFront b = some p → p.2.phase ≠ .taken) :
    pumpMgmt b (addInline c d).q.cmds.length (addInline c d) = startMgmt d.q.nextCmd c (addInline c d) := by
  obtain ⟨k, hk⟩ : ∃ k, (addInline c d).q.cmds.length = k + 1 :=
    ⟨_, (Nat.succ_pred_eq_of_pos (Map.length_set_pos ..)).symm⟩
  rw [hk, pumpMgmt]
  simp only [mgmtFront_addInline ho hnone, if_pos hp]
  exact pumpMgmt_rests hrest k

/-! ## Starting a management command (R494) -/

theorem startMgmt_carried {n : Nat} {c : Cmd} {body : Body} (hop : mgmtOps.contains c.entry.op = true)
    (ha : c.entry.addr = 0) (hbody : bodyOf c.entry.op = some body) :
    startMgmt n c d = startCmd c.entry.op body n d := by
  simp only [startMgmt, hop, Bool.not_true, Bool.false_eq_true, if_false, if_neg (not_not.mpr ha), hbody]

theorem startMgmt_notCarried {n : Nat} {c : Cmd} (hop : mgmtOps.contains c.entry.op = false) :
    startMgmt n c d = finishCmd n (errS .notPermitted) d := if_pos (by rw [hop]; rfl)

section
variable (hb : b ≤ 4) (hh : d.mgmtHears b = true)
include hb hh

/-- A command from a PF that is not tenant 0's is dropped and counted. -/
theorem mgmtCommand_stranger (hlt : b < 4) (hbound : (d.fn (256 * b)).bound ≠ some 0) (e : Entry) (data : Bytes) :
    mgmtCommand b e data d = bump 5 b 6 1 d := by
  have hother : (b != i3cBinding && (d.fn (256 * b)).bound != some 0) = true := by
    have hne : b ≠ i3cBinding := Nat.ne_of_lt hlt
    simp [hne, hbound]
  rw [mgmtCommand, if_neg (ne_true_of_eq_false (heard_binding hb hh)), if_pos hother]

variable (hret : d.pwr.retention = false)
include hret

/-- One of tenant 0 is taken with its data inline, and runs at once where no earlier one of its binding is left. -/
theorem mgmtCommand_alone (hown : b = 4 ∨ (d.fn (256 * b)).bound = some 0) (hnone : d.mgmtFront b = none) (e : Entry)
    (data : Bytes) :
    let c := inlineCmd (.mgmt b) e (data.take 4032) d
    let ran := startMgmt d.q.nextCmd c (addInline c (mgmtHeard d))
    (∀ p, ran.mgmtFront b = some p → p.2.phase ≠ .taken) → mgmtCommand b e data d = ran := by
  intro c ran hrest
  have hmine : (b != i3cBinding && (d.fn (256 * b)).bound != some 0) = false := by
    rcases hown with rfl | hbound
    · rfl
    · simp [hbound]
  rw [mgmtCommand, if_neg (ne_true_of_eq_false (heard_binding hb hh)), if_neg (ne_true_of_eq_false hmine)]
  simp only [mgmtTake_awake hret]
  exact pumpMgmt_alone (d := mgmtHeard d) rfl rfl hnone hrest

end

end

/-- Settles O37: a command runs by its opcode's body where the path carries it. -/
theorem managementCommands : Obligations.ManagementCommands := by
  unfold Obligations.ManagementCommands
  intro s b e data hh hb hret d n c d1 rests
  refine ⟨fun hown hnone => ⟨fun body hop ha hbody hrest => ?_, fun hop hrest => ?_⟩, fun hlt hbound =>
    does_of_onMgmt rfl (mgmtCommand_stranger hb hh hlt hbound e data)⟩
  · have hrun : startMgmt n c d1 = startCmd e.op body n d1 := startMgmt_carried hop ha hbody
    exact does_of_onMgmt rfl ((mgmtCommand_alone hb hh hret hown hnone e data (hrun.symm ▸ hrest)).trans hrun)
  · have hrun : startMgmt n c d1 = finishCmd n (errS .notPermitted) d1 := startMgmt_notCarried hop
    exact does_of_onMgmt rfl ((mgmtCommand_alone hb hh hret hown hnone e data (hrun.symm ▸ hrest)).trans hrun)

end Sys2Proof.Machine
end

section
/-! SUPPORT. Firmware updates over PLDM, SPDM sessions, the end of a flash operation, restarts of the management
processor and the entry to service mode, case by case (R397, R493, R503 to R507, R512, R521). -/

namespace Sys2Proof.Machine

/-! ## PLDM (R503, R507) -/

section
variable {b : Nat} {d : Dev}

/-- The checks of a commit see the staging session and the flash alone. -/
theorem commitChecks_congr {e : Dev} (hs : e.mgmt.staging = d.mgmt.staging) (hf : e.mgmt.flash = d.mgmt.flash)
    (ho : e.mgmt.flashOp = d.mgmt.flashOp) (who : Stager) : commitChecks who e = commitChecks who d := by
  simp only [commitChecks, stageOf, hs, hf, ho]

/-- Outside ROM recovery a session begins with nothing staged. -/
theorem stageBegin_ok {who : Stager} {len : Nat} (hnone : d.mgmt.staging = none) (hrom : d.mgmt.romRec = false)
    (hmax : len ≤ 16777216) (hblocks : len % 4096 = 0) : stageBegin who len d = .ok (d.updMgmt fun m => { m with
      staging := some { owner := who, len := len, blocks := [], last := d.now } }) := by
  have hfree : d.mgmt.staging.isNone = true := by simp [hnone]
  have hlen : (decide (len ≤ 16777216) && len % 4096 == 0) = true := by simp [hmax, hblocks]
  simp only [stageBegin, bind, Except.bind, need_of hfree, need_of hlen, setStaging, Dev.updMgmt, hrom,
    Bool.false_eq_true, if_false, Bool.or_false]

section
variable (hb : b ≤ 4) (hh : d.mgmtHears b = true) (hret : d.pwr.retention = false) (msg : Bytes)
include hb hh hret

theorem pldmRequest_other : pldmRequest b msg .other d = pldmSay b msg .success (mgmtHeard d) := by
  rw [pldmRequest, if_neg (ne_true_of_eq_false (heard_binding hb hh))]
  simp only [mgmtTake_awake hret]

theorem pldmRequest_begins {len : Nat} (hnone : d.mgmt.staging = none) (hrom : d.mgmt.romRec = false)
    (hmax : len ≤ 16777216) (hblocks : len % 4096 = 0) : pldmRequest b msg (.requestUpdate len) d =
      pldmSay b msg .success ((mgmtHeard d).updMgmt fun m => { m with
        staging := some { owner := .pldm b, len := len, blocks := [], last := d.now } }) := by
  rw [pldmRequest, if_neg (ne_true_of_eq_false (heard_binding hb hh))]
  simp only [mgmtTake_awake hret, stageBegin_ok (d := mgmtHeard d) hnone hrom hmax hblocks, pldmStep]
  rfl

section
variable {st : Staging} (hst : d.mgmt.staging = some st) (ho : st.owner = .pldm b)
include hst ho

theorem pldmRequest_stages {off : Nat} {x : Bytes} (hok : chunkBad st off x.length = none) :
    pldmRequest b msg (.firmwareData off x) d = pldmSay b msg .success (stageData st off x (mgmtHeard d)) := by
  rw [pldmRequest, if_neg (ne_true_of_eq_false (heard_binding hb hh))]
  simp only [mgmtTake_awake hret, stageOf_owner (d := mgmtHeard d) hst ho, bind, Except.bind, hok, pldmStep]

theorem pldmRequest_cancels :
    pldmRequest b msg .cancel d = pldmSay b msg .success (setStaging none (mgmtHeard d)) := by
  rw [pldmRequest, if_neg (ne_true_of_eq_false (heard_binding hb hh))]
  simp only [mgmtTake_awake hret, stageOf_owner (d := mgmtHeard d) hst ho, Except.map, pldmStep]

end

/-- An image that passes the checks of a commit is programmed; its end is answered later. -/
theorem pldmRequest_programs {image : Bytes} (hrom : d.mgmt.romRec = false)
    (hok : commitChecks (.pldm b) d = .ok image) :
    pldmRequest b msg .verifyApply d = beginProgram (.pldm b) image (mgmtHeard d).useSecurity := by
  have hsame : commitChecks (.pldm b) (mgmtHeard d).useSecurity = .ok image :=
    (commitChecks_congr (by rw [useSecurity_mgmt]; rfl) (by rw [useSecurity_mgmt]; rfl) (by rw [useSecurity_mgmt]; rfl)
      _).trans hok
  have hstay : (mgmtHeard d).useSecurity.mgmt.romRec = false := by rw [useSecurity_mgmt]; exact hrom
  rw [pldmRequest, if_neg (ne_true_of_eq_false (heard_binding hb hh))]
  simp only [mgmtTake_awake hret, pldmApply, hsame, hstay, Bool.false_eq_true, if_false]

/-! ## SPDM (R493) -/

/-- What an SPDM message does to the number of live sessions, and its status. -/
def spdmOutcome (act : SpdmAct) (n : Nat) : Status × Nat :=
  match act with
  | .keyExchange => if n < 4 then (.success, n + 1) else (.noResource, n)
  | .endSession => (.success, n - 1)
  | .other => (.success, n)

/-- An SPDM message is answered, the security block on. -/
theorem spdmRequest_heard {act : SpdmAct} {st : Status} {n : Nat}
    (hout : spdmOutcome act d.mgmt.sessions = (st, n)) : spdmRequest b msg act d =
      emit (.mgmt b (Config.spdmAnswer msg st.code (d.mgmt.slots.flatten ++ d.mgmt.flash.cert ++ d.mgmt.aliasKey)))
        ((mgmtHeard d).useSecurity.updMgmt fun m => { m with sessions := n }) := by
  have hheard : ¬(!d.mgmtHears b) = true := by simp [hh]
  have hcmd : b ≤ i3cBinding := hb
  obtain ⟨rfl, rfl⟩ := Prod.mk.inj hout
  rw [spdmRequest, if_neg hheard]
  simp only [if_pos hcmd, mgmtTake_awake hret, useSecurity_mgmt]
  rfl

end

end

/-! ## Flash operations that end (R513) -/

theorem flashDone_preset {n : Nat} {x : Bytes} {d : Dev} (h : d.mgmt.flashOp = some (.preset n x)) :
    flashDone true d = pumpAllMgmt (finishCmd n (Cpl.ok []) (d.updMgmt fun m => { m with
      flashOp := none, flash := m.flash.putPreset x })) := by
  simp only [flashDone, h]
  rfl

theorem flashDone_presetFailed {n : Nat} {x : Bytes} {d : Dev} (h : d.mgmt.flashOp = some (.preset n x)) :
    flashDone false d = pumpAllMgmt (finishCmd n (errS .deviceError) (d.updMgmt fun m => { m with
      flashOp := none, flash := m.flash.broken (.preset n x) })) := by
  simp only [flashDone, flashFail, h]
  rfl

/-! ## A restart of the management processor (R397, R491) -/

/-- What an end of management work leaves alone: the power state, whether the ROM runs, and where the firmware's copies
lie. -/
structure KeepsFirmware (d e : Dev) : Prop where
  pwr : e.pwr = d.pwr
  romRec : e.mgmt.romRec = d.mgmt.romRec
  copies : e.mgmt.copies = d.mgmt.copies

theorem KeepsFirmware.trans {a b c : Dev} (h : KeepsFirmware a b) (k : KeepsFirmware b c) : KeepsFirmware a c :=
  ⟨k.pwr.trans h.pwr, k.romRec.trans h.romRec, k.copies.trans h.copies⟩

/-- An end after a change that leaves them alone. -/
theorem KeepsFirmware.after {a b c : Dev} (k : KeepsFirmware b c) (hp : b.pwr = a.pwr)
    (hr : b.mgmt.romRec = a.mgmt.romRec) (hc : b.mgmt.copies = a.mgmt.copies) : KeepsFirmware a c :=
  KeepsFirmware.trans ⟨hp, hr, hc⟩ k

theorem FinishFrame.keepsFirmware {d e : Dev} (h : FinishFrame d e) : KeepsFirmware d e :=
  ⟨h.pwr, by rw [h.mgmt], by rw [h.mgmt]⟩

theorem flashFail_keepsFirmware (d : Dev) : KeepsFirmware d (flashFail d) := by
  unfold flashFail
  split
  · exact ⟨rfl, rfl, rfl⟩
  · unfold flashSay
    split
    · exact (finishCmd_finish ..).keepsFirmware.after rfl rfl rfl
    · exact ⟨rfl, rfl, rfl⟩

theorem restartEnds_keepsFirmware (d : Dev) : KeepsFirmware d (restartEnds d) := by
  refine foldl_keeps (P := KeepsFirmware d) (fun e p h => ?_) _
    ((flashFail_keepsFirmware _).after rfl rfl rfl)
  split
  · exact h.trans (finishCmd_finish ..).keepsFirmware
  · exact h

/-- A restart in operation, from a copy in the near tier, that is not one too many. -/
theorem managementRestart_copy {d : Dev} (hrun : d.mgmt.mpRunning = true) (hrom : d.mgmt.romRec = false)
    (hstep : 5 ≤ d.pwr.step) (hcopies : d.mgmt.copies ≠ []) :
    let p := countEvent 12 0 (restartEnds d)
    let d' := raise (restartRec 1 0) p.2
    d'.reached 12 4 p.1 = false → managementRestart d = d' := by
  intro p d' hfew
  obtain ⟨hpwr, hromRec, hcop⟩ := restartEnds_keepsFirmware d
  have hrom' : p.2.mgmt.romRec = false := hromRec.trans hrom
  have hstep' : ¬p.2.pwr.step < 5 := by
    have : p.2.pwr = d.pwr := hpwr
    rw [this]
    omega
  have hcopies' : (!p.2.mgmt.copies.isEmpty) = true := by
    have : p.2.mgmt.copies = d.mgmt.copies := hcop
    simpa [this] using hcopies
  rw [managementRestart, if_neg (by simp [hrun])]
  simp only [p, d'] at hrom' hstep' hcopies' hfew ⊢
  simp only [hrom', hstep', hcopies', hfew, Bool.false_eq_true, if_false, if_true]

/-! ## The entry to service mode (R148, R512, R521) -/

theorem serviceEntry_enters {d : Dev} (hstep : 8 ≤ d.pwr.step) (hmode : d.pwr.mode = .bringUp)
    (htrained : d.pwr.trained ≠ []) (horder : d.mem.order ≠ 2) (hfatal : d.pwr.fatal = false)
    (hrom : d.mgmt.romRec = false) : serviceEntry d = (runPreset 0 ((presetEntries d.mgmt.preset).getD [])
      (clearRaw (d.updPwr fun p => { p with mode := .service }))).updMgmt fun m => { m with claims := [] } := by
  have hgo : (decide (d.pwr.step < 8) || d.pwr.mode != .bringUp || d.pwr.trained.isEmpty || d.mem.order == 2 ||
      d.pwr.fatal || d.mgmt.romRec) = false := by
    simp [Nat.not_lt.mpr hstep, hmode, htrained, horder, hfatal, hrom]
  exact if_neg (ne_true_of_eq_false hgo)

theorem stagingTimeout_due {d : Dev} {st : Staging} (hst : d.mgmt.staging = some st) (hdue : st.last + 2 ^ 30 ≤ d.now) :
    stagingTimeout d = setStaging none d := by
  simp only [stagingTimeout, hst, if_pos hdue]

theorem debugUnlock_signed {d : Dev} {key data : Bytes} (hk : d.mgmt.flash.owner.key = some key)
    (hok : Config.unlockOk key data = true) :
    debugUnlock data d = d.updPwr fun p => { p with jtagOpen := true } := by
  simp only [debugUnlock, hk, if_pos hok]

/-- Settles O38: each event is its case. -/
theorem managementEvents : Obligations.ManagementEvents := by
  unfold Obligations.ManagementEvents
  intro s d sessions known took
  refine ⟨?message, ?flash, ?timeout, ?restart, ?service, ?unlock, fun data => does_of_onMgmt rfl rfl⟩
  case message =>
    intro b msg hh hb hret
    refine ⟨does_of_onMgmt rfl (pldmRequest_other hb hh hret msg), ?begins, ?session, ?spdm⟩
    case begins =>
      exact fun len hnone hrom hmax hblocks =>
        does_of_onMgmt rfl (pldmRequest_begins hb hh hret msg hnone hrom hmax hblocks)
    case session =>
      exact fun st hst ho => ⟨fun off x hok => does_of_onMgmt rfl (pldmRequest_stages hb hh hret msg hst ho hok),
        does_of_onMgmt rfl (pldmRequest_cancels hb hh hret msg hst ho),
        fun image hrom hok => does_of_onMgmt rfl (pldmRequest_programs hb hh hret msg hrom hok)⟩
    case spdm =>
      have hsay {act : SpdmAct} {st : Status} {n : Nat} (hout : spdmOutcome act d.mgmt.sessions = (st, n)) :=
        spdmRequest_heard hb hh hret msg hout
      exact ⟨fun hlt => does_of_onMgmt rfl (hsay (if_pos hlt)),
        fun hle => does_of_onMgmt rfl (hsay (if_neg (Nat.not_lt.mpr hle))), does_of_onMgmt rfl (hsay rfl),
        does_of_onMgmt rfl (hsay rfl)⟩
  case flash =>
    exact fun n x h => ⟨does_of_onMgmt rfl (flashDone_preset h), does_of_onMgmt rfl (flashDone_presetFailed h)⟩
  case timeout => exact fun st hst hdue => does_of_onMgmt rfl (stagingTimeout_due hst hdue)
  case restart =>
    exact fun hrun hrom hstep hcopies hfew =>
      does_of_onMgmt rfl (managementRestart_copy hrun hrom hstep hcopies hfew)
  case service =>
    exact fun hlive hstep hmode htrained horder hfatal hrom =>
      does_of_onDev rfl hlive (serviceEntry_enters hstep hmode htrained horder hfatal hrom)
  case unlock => exact fun key data hk hok => does_of_onMgmt rfl (debugUnlock_signed hk hok)

end Sys2Proof.Machine
end
